-- ==== Sys2Proof/Word.lean ====
section
/-! DEFINITION. The word types of the YK1 and their plainest arithmetic: bytes, set-up words, timestamps, codewords
and the identifiers of R5 as bounded numbers. -/

namespace Sys2Proof

/-- One byte. -/
abbrev Byte := BitVec 8
/-- A set-up register word (R512: every set-up access is 4 bytes). -/
abbrev W32 := BitVec 32
/-- A 64-bit word: timestamps (R7), counters (R10), host addresses, memory words. -/
abbrev W64 := BitVec 64
/-- A core instruction word (R116). -/
abbrev IWord := BitVec 128
/-- A logical core id (R26). -/
abbrev CoreId := Fin 1024
/-- A physical core index, half × 576 + row × 36 + column (R275). -/
abbrev PhysId := Fin 1152
/-- A cluster id (R26). -/
abbrev ClusterId := Fin 32
/-- A partition number (R30). -/
abbrev PartId := Fin 8
/-- A Nalson port (R285). -/
abbrev NPort := Fin 2
/-- A Myarn port (R340). -/
abbrev MPort := Fin 8
/-- A stack site (R202). -/
abbrev SiteId := Fin 8
/-- An NBU id, site × 256 + bank-group index (R202). -/
abbrev NbuId := Fin 1024
/-- An engine number (R87). -/
abbrev EngId := Fin 7
/-- A ring number of one port (R310). -/
abbrev RingId := Fin 64
/-- A barrier number (R363). -/
abbrev BarId := Fin 256

/-- Bits [hi:lo] of a word as a natural number (R3). -/
def bits {w : Nat} (x : BitVec w) (hi lo : Nat) : Nat := (x.toNat >>> lo) % 2 ^ (hi + 1 - lo)

/-- Bit i of a word. -/
def bitAt {w : Nat} (x : BitVec w) (i : Nat) : Bool := x.getLsbD i

/-- A word of two halves, low half first (R298). -/
def join32 (lo hi : W32) : W64 := hi ++ lo

/-- The low half of a 64-bit word. -/
def lo32 (x : W64) : W32 := x.extractLsb' 0 32

/-- The high half of a 64-bit word. -/
def hi32 (x : W64) : W32 := x.extractLsb' 32 32

/-- ⌈a ÷ b⌉ on naturals. -/
def ceilDiv (a b : Nat) : Nat := (a + b - 1) / b

end Sys2Proof
end

