-- ==== Sys2Proof/Events.lean ====
section
/-! DEFINITION. What the surroundings and the physics of the device bring with a command: link
flits and packets, sensor readings, results of start-up tests, injected array faults. Plain data; the commands of
Syntax.lean carry them. -/

namespace Sys2Proof

/-- The three variants of R2. -/
inductive Variant where
  | a640 | b640 | c480
deriving DecidableEq, Repr

/-- A link: a Nalson port or a Myarn port (R285, R340). -/
inductive Link where
  | nalson (p : NPort)
  | myarn (p : MPort)
deriving DecidableEq, Repr

/-- A flit as the receiver sees it (R286, R288, R341, R344): of the codeword that begins in it, if one does, the marker and the symbols that
arrive wrong; header, payload bytes 8–247, stored CRC. -/
structure Flit where
  marker : BitVec 20 := 0
  errors : List (Fin 544) := []
  header : W64
  payload : List Byte
  crc : W64
deriving DecidableEq, Repr

/-- Why a port begins to retrain from outside (R306): a RETRAIN flit of the peer, or a loss of FEC lock. -/
inductive RetrainCause where
  | flit (f : Flit)
  | lockLost
deriving DecidableEq, Repr

/-- A set-up access arriving through a Nalson port with its request tag (R297); `other` holds the bits of the header slot's first 8 bytes
that an SRD or SWR does not use (R296). -/
structure Access where
  port : NPort
  tag : BitVec 10
  other : W64 := 0
deriving DecidableEq, Repr

/-- A Myarn packet as it begins at a slot boundary (R350), with its data and its poison map. -/
structure Packet where
  segment : W64
  relay : BitVec 16
  dst : BitVec 8
  kind : Byte
  dstId : W32
  ident : BitVec 16
  len : BitVec 16
  srcId : W32
  arg : W64
  data : List Byte
  poison : List Nat
deriving DecidableEq, Repr

/-- A value that an array forms wrongly in one matmul (R103): the product of a row (counted from the instruction's first), a column and a
group of 32 along K; column 64 is the check-stitch column's sum of the row. -/
structure Upset where
  row : Nat
  col : Nat
  grp : Nat
  value : W32
deriving DecidableEq, Repr

/-- What strikes an array in one matmul (R105, R106): in its first execution, in the re-execution from the first row that mismatches, and
in the execution after live sparing. None of it need be noticed: the check-stitch column decides. -/
structure ArrayFault where
  first : List Upset
  second : List Upset
  third : List Upset
deriving DecidableEq, Repr

/-- A residue-check fault of a Needle pass or Rinse instruction (R471). -/
inductive ResidueFault where
  | clean
  | once
  | twice
  | unresolved
deriving DecidableEq, Repr

/-- What one row operation of the Rinse unit works on: the instruction at the head of the engine's queue (R134); one
(row, head) merge of a combine station (R256), with the basket addresses of the first carrier tile of each input stream and of the
first output tile; or one row of a fused-backward station (R155), with the basket addresses of the first tiles of dy, of the
saved tensor and of the output. -/
inductive RinseJob where
  | instr (fault : ResidueFault)
  | combine (station row head : Nat) (src : List Nat) (dst : Nat)
  | backward (station row dy saved dst : Nat)
deriving DecidableEq, Repr

/-- A crossing group of R18. -/
inductive Crossing where
  | channel (core : PhysId) (up : Bool)
  | drop (cluster : ClusterId) (d : Fin 8) (up : Bool)
  | tackPath (cluster : ClusterId) (up : Bool)
  | seam (half : Fin 2) (row : Fin 16) (ring : Fin 9)
deriving DecidableEq, Repr

/-- What the current sensors of one domain measured over a frame (R382). -/
structure DomainSample where
  ma : Nat
  peakMa : Nat
  mv : Nat
  mw : Nat
  uj : Nat
deriving DecidableEq, Repr

/-- The corrections of one bit of one codeword of a carrier over a frame (R171): class in the order of R275, carrier of the class (physical
core, link, drop, ring), direction, codeword of the cycle, bit of the codeword. -/
structure WireCount where
  cls : Fin 6
  unit : Nat
  dir : Nat
  codeword : Nat
  bit : Nat
  count : Nat
deriving DecidableEq, Repr

/-- A codeword that an uncorrectable error strikes as a mesh word travels (R172): the logical core, its output 0 to 4 in the order N, E, S, W, D,
or 5 for a word that its drop brings, the codeword of the word. -/
structure LinkWord where
  core : CoreId
  out : Fin 6
  word : Fin 8
deriving DecidableEq, Repr

/-- What is measured at a frame boundary: the 48 domains, the temperature readout of each stack (none: unreadable,
R209), the ageing monitors' normalised periods in 0.1 ps (R414), corrections by wire (R171), corrected symbols by link
and lane (R287, R342). -/
structure FrameInputs where
  domains : List DomainSample
  stackTemp : List (Option Byte)
  monitors : List W32
  wires : List WireCount
  symbols : List (Link × Nat × Nat)
deriving DecidableEq, Repr

/-- A stack access that is not by an NBU (R223): who asks, which stack address, how long, and the data of a write. -/
structure StackAccess where
  station : Option (PartId × Nat)
  write : Bool
  addr : BitVec 40
  len : Nat
  data : List Byte
deriving DecidableEq, Repr

/-- The memory classes of the patrol scrub (R276). -/
inductive ScrubClass where
  | slice | basket | hamper | stack
deriving DecidableEq, Repr

/-- A decoder whose syndrome tree classified wrongly in a checker test (R281, R473). -/
inductive Decoder where
  | slice (core : PhysId)
  | basket (core : PhysId)
  | channel (core : PhysId)
  | seamRing (ring : Fin 9)
  | hamperBank (bank : Fin 64)
  | stackPort (site : SiteId)
  | stitchLink (core : CoreId) (dir : Fin 5)
  | hemDrop (cluster : ClusterId) (d : Fin 8)
  | tackLink (cluster : ClusterId) (dir : Fin 4)
  | tackSeam
  | accumulator (core : PhysId)
  | vectorBuffer (core : PhysId)
  | mangle (engine : Fin 64)
  | myarnReceive (port : MPort)
  | nbu (id : NbuId)
deriving DecidableEq, Repr

/-- The clocks of R481, in the order of their unit ids. -/
inductive ClockId where
  | halfW | halfE | nbu | serdes | osc
deriving DecidableEq, Repr

/-- What the boot finds as VDD_AON comes up: a flash slot programmed from outside since (none: as State holds it, R445),
the units the fuses mark bad (R452), the straps (R531, R391). -/
structure BootInputs where
  flash : Option (List Byte)
  fuseBad : List (Nat × Nat)
  brdId : BitVec 16
  chainPos : BitVec 16
  budgetSel : BitVec 2
deriving DecidableEq, Repr

/-- What steps 4 to 7 of start-up find (R20, R21, R375, R452–R458): the read-backs of rails in their order, by rail, each a voltage or no response,
with an alert; the sweeps of crossing groups that have
errors at some code, as the errors counted at each, the sites that train, the units that fail their test (unit kind and id of R450), and microcode targets that never load. -/
structure StartResults where
  rails : List (Fin 6 × Option Nat × Bool)
  sweeps : List (Crossing × List Nat)
  sitesTrained : List Nat
  failed : List (Nat × Nat)
  microcodeCore : List Nat
  microcodeNbu : List Nat
deriving DecidableEq, Repr

/-- Readings of one thermal sample: 352 sensors in 1/16 °C, none for a sensor that does not answer (R395). -/
abbrev SensorReads := List (Option (BitVec 16))

/-- What a poll of the pack finds (R422): whether the pack answered, its serial, and HUP_VSENSE in µV. -/
structure PackPoll where
  answered : Bool
  serial : List Byte
  uv : Nat
deriving DecidableEq, Repr

/-- What ends a JTAG instruction: the code shifted in, by its class of R503. -/
inductive JtagInstr where
  | idcode | bypass | boundary | internal
deriving DecidableEq, Repr

end Sys2Proof
end

