-- ==== Sys2Proof/Syntax.lean ====
section
/-! DEFINITION. The commands of the block: one constructor per row of spec/opcode_table.json, in the table's order, each
with the operands its rule gives it. -/

namespace Sys2Proof

/-- The commands the device takes: transactions and pin events from outside, the events of its own engines and timers,
and the instructions of its core engines (each whole and indivisible, 95_what_each_step_holds.md). An instruction row
names the core and engine whose queue head issues; a descriptor row names the port and ring whose first read
descriptor is taken up. -/
inductive Instr where
  | frameBoundary (f : FrameInputs)
  | retuneMeasurement (g : Crossing) (errors : List Nat)
  | partLoad (port : NPort) (ring : RingId)
  | imageLoadComplete (part : PartId)
  | queueRefill (core : CoreId)
  | instructionRetire (core : CoreId) (eng : EngId)
  | clockGating (core : CoreId)
  | coreWatchdog (core : CoreId)
  | nop (core : CoreId) (eng : EngId)
  | loop (core : CoreId) (eng : EngId)
  | bar (core : CoreId) (eng : EngId)
  | endProg (core : CoreId) (eng : EngId)
  | seqLi (core : CoreId)
  | seqLui (core : CoreId)
  | seqAlu (core : CoreId)
  | seqSetb (core : CoreId)
  | seqLd (core : CoreId)
  | seqSt (core : CoreId)
  | seqBr (core : CoreId)
  | seqRdts (core : CoreId)
  | movSend (core : CoreId)
  | movRecv (core : CoreId)
  | fetLoad (core : CoreId) (cmdError : Bool) (bad : List Nat)
  | fetStore (core : CoreId) (cmdError : Bool) (bad : List Nat)
  | fetFill (core : CoreId)
  | mm (core : CoreId) (g : Bool) (fault : ArrayFault)
  | drn (core : CoreId) (g : Bool)
  | lay (core : CoreId) (g : Bool)
  | clr (core : CoreId) (g : Bool)
  | gdrv (core : CoreId)
  | ndlLv (core : CoreId)
  | ndlMv (core : CoreId) (fault : ResidueFault)
  | ndlDrn (core : CoreId)
  | rnsLd (core : CoreId)
  | rnsSt (core : CoreId)
  | rnsVectorOp (core : CoreId) (fault : ResidueFault)
  | rnsRowOp (core : CoreId) (job : RinseJob)
  | rnsLay (core : CoreId)
  | shadowAudit (core : CoreId) (station : Nat) (finished : Bool)
  | slipLimit (part : PartId)
  | seamRingReplaced (ring : Fin 8)
  | uncorrectableRingWord (ring : Fin 9) (east : Bool) (slot : Fin 64)
  | liveCoreSparing (core : PhysId)
  | coreSparingComplete (core : PhysId)
  | tackMessageLost (src dst : BitVec 16) (chan : Fin 2)
  | tackRequestTimeout (src dst : BitVec 16) (chan : Fin 2) (read : Option Access)
  | tackSeamChannelFailed (sideband : Bool)
  | refreshDue (site : SiteId) (bg : Fin 256) (bank : Fin 16) (nextBanks : List Nat)
  | forcedRefresh (nbu : NbuId)
  | eventSummaryPoll (site : SiteId) (pseudo : Fin 64)
  | nbuOpAccept (nbu : NbuId)
  | nbuOpCompletion (nbu : NbuId)
  | nbuOpTimeout (nbu : NbuId)
  | nbuFence (nbu : NbuId)
  | nbuInvocationStart (part : PartId) (station : Nat) (tiles : List (W64 × Bool))
  | nbuInvocationEnd (part : PartId) (station : Nat)
  | ordinaryAccess (a : StackAccess)
  | interleaveService (nbu : NbuId) (nextBanks : List Nat)
  | kvAppend (part : PartId) (station : Nat)
  | kvAppendLogRoom (part : PartId) (station : Nat)
  | decodeInvocation (part : PartId) (station : Nat) (tiles : List (W64 × Bool))
  | kvCommit (port : NPort) (ring : RingId)
  | kvRelease (port : NPort) (ring : RingId)
  | patrolScrubRead (cls : ScrubClass)
  | scrubBehind (cls : ScrubClass)
  | scrubRange (port : NPort) (ring : RingId)
  | ppr (port : NPort) (ring : RingId)
  | pprApply (site : SiteId) (bg : Fin 256) (spareLeft : Bool)
  | checkerTest (wrong : List Decoder)
  | flipArm (a : Access) (v : W32)
  | flipDoneClear (a : Access) (v : W32)
  | splitRawWrite (a : Access) (v : W32)
  | splitRawRead (a : Access) (v : W32)
  | transactionFlit (link : Link) (f : Flit)
  | nullFlit (link : Link) (f : Flit)
  | nakRepeat (link : Link)
  | replayTimeout (link : Link)
  | laneFailed (port : NPort) (lane : Fin 8)
  | cap (link : Link) (f : Flit)
  | capAck (link : Link) (f : Flit)
  | retrain (link : Link) (cause : RetrainCause)
  | down (link : Link) (f : Flit)
  | trainingComplete (link : Link) (width : BitVec 2) (failedLanes : BitVec 9)
  | portDown (link : Link)
  | trainingRetry (link : Link)
  | cpld (port : NPort) (tag : BitVec 10) (status : Byte) (last : Bool) (offset : W32) (data : List Byte)
  | mrdTimeout (port : NPort) (tag : BitVec 10)
  | tagRetireExpiry (port : NPort) (tag : BitVec 10)
  | dbl (port : NPort) (body : W64)
  | srd (a : Access) (body : W64)
  | swr (a : Access) (body : W64)
  | mgtRead (word : W32)
  | mgtWrite (word : W32) (v : W32)
  | nalsonRetrainRequest (a : Access) (n : NPort) (v : W32)
  | nalsonDisable (a : Access) (n : NPort) (v : W32)
  | ringEnable (a : Access) (p : NPort) (ring : RingId) (v : W32)
  | ringDisable (a : Access) (p : NPort) (ring : RingId) (v : W32)
  | errorRingEnable (a : Access) (p : NPort) (v : W32)
  | errorRingDisable (a : Access) (p : NPort) (v : W32)
  | nopDescriptor (port : NPort) (ring : RingId)
  | partRun (port : NPort) (ring : RingId)
  | runStart (part : PartId)
  | runEnd (part : PartId)
  | partStop (port : NPort) (ring : RingId)
  | partReset (port : NPort) (ring : RingId)
  | partitionResetComplete (part : PartId)
  | copyIn (port : NPort) (ring : RingId)
  | copyOut (port : NPort) (ring : RingId)
  | paramDefine (port : NPort) (ring : RingId)
  | paramFreeze (port : NPort) (ring : RingId)
  | paramFlip (port : NPort) (ring : RingId)
  | gradFetch (port : NPort) (ring : RingId)
  | nbuOp (port : NPort) (ring : RingId)
  | nbuAbort (port : NPort) (ring : RingId)
  | semaphoreClaim (a : Access)
  | semaphoreRelease (a : Access) (v : W32)
  | semaphoreBreak (a : Access) (v : W32)
  | leaseExpiry
  | foldWrite (a : Access) (offset : BitVec 28) (v : W32)
  | foldCheck (a : Access) (v : W32)
  | foldPress (a : Access) (v : W32)
  | foldPressAtBoundary
  | foldFreeze (a : Access) (v : W32)
  | foldDiscard (a : Access) (v : W32)
  | sdata (port : MPort) (p : Packet)
  | swrite (port : MPort) (p : Packet)
  | announce (port : MPort) (p : Packet)
  | announceHoldExpiry (part : PartId) (stream : BitVec 16)
  | creditStall (port : MPort)
  | myaWrite (port : NPort) (ring : RingId)
  | myaAnnounce (port : NPort) (ring : RingId)
  | myaStreamClear (port : NPort) (ring : RingId)
  | myarnLaneFail (port : MPort) (lane : Fin 9)
  | spare (port : MPort) (f : Flit) (codeword : Byte)
  | spareAck (port : MPort) (f : Flit)
  | laneSubstitution (port : MPort) (codeword : Byte)
  | barrierArrival (core : CoreId) (eng : EngId)
  | arrive (port : MPort) (p : Packet)
  | release (port : MPort) (p : Packet)
  | barrierTimeout (bar : BarId)
  | lendingCompute (gatedMw : List Nat)
  | avsReadback (rail : Fin 6) (mv : Option Nat) (alert : Bool)
  | trimRegulatorFail (reg : Fin 256)
  | headerStage (cluster : ClusterId) (droop : Bool) (neighbourPct : List Nat)
  | headerStageForced (cluster : ClusterId)
  | currentTelemetryCheck (sumMa readMa : List Nat)
  | budgetSelectAccept (v : BitVec 2)
  | droop (cluster : ClusterId)
  | droopHoldExpiry (part : PartId)
  | overCurrent (half : Fin 2)
  | overCurrentClear (half : Fin 2)
  | thermalSample (reads : SensorReads) (lines : List Nat)
  | sensorFlag (sensor : Fin 352)
  | sensorFlagClear (sensor : Fin 352)
  | thermalHaltRelease (part : PartId)
  | thermtrip (sensor : Fin 352)
  | tachCheck (idleMs rpm : List Nat)
  | fanFailed (f : Fin 6)
  | inletRead (t : Option (BitVec 16))
  | fanDutyUpdate
  | airflowSecond (t2m16 : Int) (powerMw : Nat)
  | airflowCapUpdate
  | airflowLostExit
  | marginReview
  | reviewNow (a : Access) (v : W32)
  | packAuthentication (record : List Byte)
  | packChallengeResponse (signature : List Byte)
  | packPoll (p : PackPoll)
  | packTest (uv : Nat)
  | packTestEnd (v10uv v100uv integral : Nat)
  | testNow (a : Access) (v : W32)
  | windowRecompute (uv : Nat)
  | packCounterUpdate
  | powerLossAccept
  | mainsReturn
  | rideThroughEnd
  | pwrSafeReset
  | railOutOfWindow (rail : Fin 11)
  | vddAonUp (b : BootInputs)
  | powerGood (r : StartResults)
  | perstNFall
  | perstNReset
  | lifelineNotice
  | lifeGo (a : Access) (v : W32)
  | lifelineLoadComplete
  | fwUpdate (port : NPort) (ring : RingId)
  | defectClear (port : NPort) (ring : RingId)
  | hemReset (request : Option (NPort × RingId))
  | hemResetResume
  | deviceReset (port : NPort) (ring : RingId)
  | lwFetch (port : NPort) (ring : RingId)
  | gafferWatchdog
  | clockLost (c : ClockId)
  | pllRelock (c : ClockId) (inTime : Bool)
  | alertPendingClear (a : Access) (v : W32)
  | attest (port : NPort) (ring : RingId)
  | attestReportSigned
  | certRead (port : NPort) (ring : RingId)
  | svnCommit (port : NPort) (ring : RingId)
  | debugUnlock (port : NPort) (ring : RingId)
  | partitionCycle (part : PartId) (bad : List LinkWord)
  | mangleTransfer (xfer : Nat) (bad : List Nat)
  | flitTransmit (link : Link)
  | vddAonLoss
  | perstNRise
  | oscillatorBackInRange
  | deviceResetDelayEnd
  | fwUpdateComplete (firstMismatch : Option Nat)
  | jtagInstruction (ir : JtagInstr)
deriving DecidableEq, Repr

end Sys2Proof
end

