-- ==== Sys2Proof/Decode.lean ====
section
/-! DEFINITION. The decoder of the opcode table's words. The table gives its rows no bits: the device's commands are
transactions, pin events and events of its own engines, so no word spells one of them. (The words of the core engines,
R116, stand in engine queues; Machine/Operands.lean takes their fields apart.) -/

namespace Sys2Proof

/-- The command that a table word spells: none, since no row of the table has bits. DESIGN CHOICE (log 2). -/
def decodeTableWord (_nbits _w : Nat) : Option Instr := none

end Sys2Proof
end

