-- ==== Sys2Proof/Machine/Kinds.lean ====
section
/-! DEFINITION. The record kinds of R480 (group × 256 + number in the group) and the unit kinds of R450 and R481. -/

namespace Sys2Proof.Machine

/-! Group 0x01: compute -/
abbrev kTrailer : Nat := 0x101
abbrev kAudit : Nat := 0x102
abbrev kPegOverflow : Nat := 0x103
abbrev kCheckMismatch : Nat := 0x104
abbrev kArithmetic : Nat := 0x105
abbrev kUnresolved : Nat := 0x106
abbrev kEngineHang : Nat := 0x107
abbrev kIllegal : Nat := 0x108
abbrev kResidue : Nat := 0x109
abbrev kCoreSpared : Nat := 0x10A
abbrev kMarginLow : Nat := 0x10B
abbrev kClusterFenced : Nat := 0x10C
/-! Group 0x02: mesh -/
abbrev kSliceCommand : Nat := 0x201
abbrev kWireSteered : Nat := 0x202
abbrev kSpareExhausted : Nat := 0x203
abbrev kSlipBudget : Nat := 0x204
abbrev kSlipLimit : Nat := 0x205
abbrev kSeamReplaced : Nat := 0x206
abbrev kSeamFailed : Nat := 0x207
abbrev kTackLost : Nat := 0x208
abbrev kTackSeam : Nat := 0x209
/-! Group 0x03: memory -/
abbrev kUncorrectable : Nat := 0x301
abbrev kPoisonConsumed : Nat := 0x302
abbrev kScrubBehind : Nat := 0x303
abbrev kRepairCandidate : Nat := 0x304
abbrev kCheckerFault : Nat := 0x305
abbrev kTempUnreadable : Nat := 0x306
abbrev kStackPort : Nat := 0x307
abbrev kPoisonSent : Nat := 0x308
/-! Group 0x04: Pyrrel -/
abbrev kBusyRange : Nat := 0x401
abbrev kNbuFenced : Nat := 0x402
abbrev kAppendFailed : Nat := 0x403
abbrev kCommitFailed : Nat := 0x404
abbrev kKvSpread : Nat := 0x405
abbrev kPageLost : Nat := 0x406
abbrev kPageUnreachable : Nat := 0x407
abbrev kLogFull : Nat := 0x408
/-! Group 0x05: Nalson -/
abbrev kNalLane : Nat := 0x501
abbrev kNalProtocol : Nat := 0x502
abbrev kNalLevel : Nat := 0x503
abbrev kNalRetrained : Nat := 0x504
abbrev kNalDown : Nat := 0x505
abbrev kDoorbell : Nat := 0x506
abbrev kSemBroken : Nat := 0x507
/-! Group 0x06: Myarn -/
abbrev kMyaLane : Nat := 0x601
abbrev kMyaLevel : Nat := 0x602
abbrev kMyaRetrained : Nat := 0x603
abbrev kMyaDown : Nat := 0x604
abbrev kRouteInvalid : Nat := 0x605
abbrev kNextHopDown : Nat := 0x606
abbrev kMisdelivered : Nat := 0x607
abbrev kRelayMiss : Nat := 0x608
abbrev kCreditStall : Nat := 0x609
abbrev kTableFull : Nat := 0x60A
abbrev kPartAbsent : Nat := 0x60B
abbrev kSourceConflict : Nat := 0x60C
abbrev kNotBound : Nat := 0x60D
abbrev kAnnounceDiscarded : Nat := 0x60E
abbrev kWriteRefused : Nat := 0x60F
abbrev kBarGeneration : Nat := 0x610
abbrev kBarRejected : Nat := 0x611
abbrev kBarTimeout : Nat := 0x612
/-! Group 0x07: power -/
abbrev kAvsFault : Nat := 0x701
abbrev kTrimFailed : Nat := 0x702
abbrev kHeaderForced : Nat := 0x703
abbrev kCurrentMismatch : Nat := 0x704
abbrev kCapUnachievable : Nat := 0x705
abbrev kDroop : Nat := 0x706
abbrev kOverCurrent : Nat := 0x707
abbrev kClockLost : Nat := 0x708
/-! Group 0x08: thermal -/
abbrev kSensorFaulty : Nat := 0x801
abbrev kSensorImplausible : Nat := 0x802
abbrev kThermalHalt : Nat := 0x803
abbrev kInletUnreadable : Nat := 0x804
abbrev kInletOver : Nat := 0x805
abbrev kFanFailed : Nat := 0x806
abbrev kAirDegraded : Nat := 0x807
abbrev kAirLost : Nat := 0x808
abbrev kBinReduced : Nat := 0x809
abbrev kMarginExhausted : Nat := 0x80A
abbrev kMarginReview : Nat := 0x80B
/-! Group 0x09: hold-up -/
abbrev kPackUnauth : Nat := 0x901
abbrev kPackOpen : Nat := 0x902
abbrev kTestDeferred : Nat := 0x903
abbrev kPackEol : Nat := 0x904
abbrev kPackVoltage : Nat := 0x905
abbrev kGuaranteeHeld : Nat := 0x906
abbrev kGuaranteeGone : Nat := 0x907
abbrev kPowerLoss : Nat := 0x908
abbrev kPowerRestored : Nat := 0x909
/-! Group 0x0A: start-up -/
abbrev kFlashFailed : Nat := 0xA01
abbrev kListFull : Nat := 0xA02
abbrev kFuseAnomaly : Nat := 0xA03
abbrev kMicrocode : Nat := 0xA04
abbrev kLifeline : Nat := 0xA05
abbrev kGaffer : Nat := 0xA06
/-! Group 0x0B: reporting -/
abbrev kStorm : Nat := 0xB02

/-! Unit kinds -/
abbrev uDevice : Nat := 0
abbrev uPhys : Nat := 1
abbrev uCluster : Nat := 2
abbrev uNbu : Nat := 3
abbrev uRing : Nat := 4
abbrev uTrim : Nat := 5
abbrev uSensor : Nat := 6
abbrev uRow : Nat := 7
abbrev uHamper : Nat := 8
abbrev uDecoder : Nat := 9
abbrev uCore : Nat := 10
abbrev uNalson : Nat := 11
abbrev uMyarn : Nat := 12
abbrev uSite : Nat := 13
abbrev uPart : Nat := 14
abbrev uBarrier : Nat := 15
abbrev uDescRing : Nat := 16
abbrev uRail : Nat := 17
abbrev uFan : Nat := 18
abbrev uPack : Nat := 19
abbrev uCarrier : Nat := 20
abbrev uClock : Nat := 21

end Sys2Proof.Machine
end

