-- ==== Sys2Proof/Config.lean ====
section
/-! DEFINITION. What the manual leaves open, as constants without a body (free values): nothing in Lean can prove a value of
one, so a statement about one holds for every value. Each is named in the assumption log. -/

namespace Sys2Proof.Config

/-- Which of the FP32 values within 2 units in the last place of the exact value a function gives (R101, R109, R147, R254), by the
function's number and the operand: free. DESIGN CHOICE (log 71). -/
opaque ulps : Nat → W32 → Nat
/-- ln x for finite x that is zero or negative: the manual states no result (R135): free. DESIGN CHOICE (log 71). -/
opaque logNonPositive : W32 → W32
/-- 1 ÷ 0: the manual states no result (R135): free, by the sign of the zero. DESIGN CHOICE (log 71). -/
opaque rcpZero : W32 → W32
/-- 1 ÷ √x for x zero or negative: the manual states no result (R135): free. DESIGN CHOICE (log 71). -/
opaque rsqNonPositive : W32 → W32
/-- The result of a Rinse MIN or MAX on a NaN, or on zeros of both signs, by operation and
operands (R135 states none): free. DESIGN CHOICE (log 71). -/
opaque minMaxOpen : Nat → W32 → W32 → W32
/-- The order in which an NBU adds partials (R74 leaves it unspecified), by the partials and the addition: which two values it adds
next: free. DESIGN CHOICE (log 78). -/
opaque nbuOrder : List W32 → Nat → Nat
/-- The values of an output carrier tile of an NBU beyond its last (R217 names none), by position: free. DESIGN CHOICE (log 78). -/
opaque nbuPad : Nat → W32
/-- The element code that stands in the vector buffer for an element of an escaped block (R221 gives no place for escapes), by its
E4M3 code: free. DESIGN CHOICE (log 78). -/
opaque escVector : Nat → Nat
/-- SHA-384 (R488 names the standard): uninterpreted. Byte i of the digest is bits 8i + 7 to 8i. DESIGN CHOICE (log 73). -/
opaque sha384 : List Byte → BitVec 384
/-- RSA-PSS verification (R488), by modulus, signed bytes and signature: uninterpreted. DESIGN CHOICE (log 73). -/
opaque rsaVerify : List Byte → List Byte → List Byte → Bool
/-- SLH-DSA verification (R488), by public key, signed bytes and signature: uninterpreted. DESIGN CHOICE (log 73). -/
opaque slhVerify : List Byte → List Byte → List Byte → Bool
/-- The unique device secret (R489), fused; byte i is bits 8i + 7 to 8i. DESIGN CHOICE (log 72). -/
opaque uds : BitVec 256
/-- The modulus of the RSA-3072 key that HMAC_DRBG and FIPS 186-5 generate from a layer seed (R489): uninterpreted. DESIGN CHOICE
(log 73). DESIGN CHOICE (log 73). -/
opaque rsaModulus : BitVec 384 → List Byte
/-- The RSA-PSS signature of that key over a message (R488): uninterpreted. DESIGN CHOICE (log 73). -/
opaque rsaSign : BitVec 384 → List Byte → List Byte
/-- The SLH-DSA public key of SK.seed, SK.prf and PK.seed, one after another (R489): uninterpreted. DESIGN CHOICE (log 73). -/
opaque slhPublic : List Byte → List Byte
/-- The SLH-DSA signature of that key over a message (R488): uninterpreted. DESIGN CHOICE (log 73). -/
opaque slhSign : List Byte → List Byte → List Byte
/-- The key digest of the maker's key that certifies DeviceID (R489), fused. DESIGN CHOICE (log 72). -/
opaque makerDigest : BitVec 384
/-- The maker's RSA and SLH-DSA signatures of the DeviceID certificate (R489), written at manufacture. DESIGN CHOICE (log 72). -/
opaque makerSignature : List Byte × List Byte
/-- The fused key digests: class and slot (R490). DESIGN CHOICE (log 72). -/
opaque keyDigest : Nat → Nat → BitVec 384
/-- Random values of the root of trust: nonces and challenges, by draw (R502, R505): free. DESIGN CHOICE (log 73). -/
opaque random : Nat → BitVec 256
/-- The bytes of a section of the last-will record whose content R435 lists without a layout, by section id and content: free.
DESIGN CHOICE (log 114). -/
opaque lastWill : Nat → List Nat → List Byte
/-- M0, the digest of the boot ROM (R496). DESIGN CHOICE (log 72). -/
opaque bootRomDigest : BitVec 384
/-- The grade of each cluster (R412), fused. DESIGN CHOICE (log 72). -/
opaque grade : Nat → BitVec 4
/-- The voltage table LEHR_VF_g (R412): word g, fused. DESIGN CHOICE (log 72). -/
opaque vf : Nat → W32
/-- θ_js of the module, in 0.1 mK/W (R406), fused. DESIGN CHOICE (log 72). -/
opaque thetaJs : BitVec 16
/-- e_acc of R398, in units of 10^−9 mW per access per second, fused. DESIGN CHOICE (log 72). -/
opaque eAcc : Nat
/-- P_s0 of R398, in mW, fused. DESIGN CHOICE (log 72). -/
opaque ps0 : Nat
/-- θ21 of R398, in mK/W, fused. DESIGN CHOICE (log 72). -/
opaque theta21 : Nat
/-- θ10 of R398, in mK/W, fused. DESIGN CHOICE (log 72). -/
opaque theta10 : Nat
/-- What stands for the reading of a cluster beside when no cluster beside has a sensor that is not faulty (R397 states none), by
layer × 32 + cluster, in 1/16 °C: free. DEDUCED (log 108). -/
opaque noNeighbour : Nat → BitVec 16
/-- k_v of R415, in mV per %, fused. DESIGN CHOICE (log 72). -/
opaque kv : Nat
/-- The fused baseline period of monitor m, in 0.1 ps (R415). DESIGN CHOICE (log 72). -/
opaque baseline : Nat → Nat
/-- The gated power of a core as measured, in mW, when no reading is given (R370): free. DESIGN CHOICE (log 106). -/
opaque gatedMw : Nat → Nat
/-- Fixed AVSBus targets that the per-chip table sets, none for the rail's stated value (R376), by rail. DESIGN CHOICE (log 72). -/
opaque railTarget : Nat → Option Nat
/-- Whether the Tack path between L0 and a cluster crosses the stitch boundary (R197, R201; the manual routes no message). DEDUCED
(log 96). DEDUCED (log 96). -/
opaque tackCrosses : Nat → Bool
/-- A register value left unconstrained by a rule, by the free-value counter of State: free. DESIGN CHOICE (log 5). -/
opaque freeWord : Nat → W64

end Sys2Proof.Config
end

