-- ==== Sys2Proof/Machine/Num.lean ====
section
/-! DEFINITION. Numbers: exact values, FP32 arithmetic rounded once (R72, R109), the element and scale codes of R62–R68, and
the conversion to a stored format of R75–R80. -/

namespace Sys2Proof.Machine

/-- A decoded value: NaN, an infinity, or ±m × 2^e exactly (R60). -/
inductive Num where
  | nan
  | inf (neg : Bool)
  | fin (neg : Bool) (m : Nat) (e : Int)
deriving DecidableEq, Repr

/-- A decoded block of 32 elements along K: its scale, its elements, whether it is poisoned, whether it is escaped. -/
structure Blk where
  scale : Num
  elems : List Num
  poison : Bool
  escaped : Bool
deriving DecidableEq, Repr

/-- Zero. -/
def Num.zero : Num := .fin false 0 0
/-- One. -/
def Num.one : Num := .fin false 1 0

/-- Whether a value is a NaN. -/
def Num.isNan : Num → Bool
  | .nan => true
  | _ => false

/-- Whether a value is finite. -/
def Num.finite : Num → Bool
  | .fin _ _ _ => true
  | _ => false

/-- Whether a value is ±0. -/
def Num.isZero : Num → Bool
  | .fin _ m _ => m == 0
  | _ => false

/-- The sign of a value. -/
def Num.neg : Num → Bool
  | .nan => false
  | .inf s => s
  | .fin s _ _ => s

/-- The value with its sign inverted. -/
def Num.negate : Num → Num
  | .nan => .nan
  | .inf s => .inf (!s)
  | .fin s m e => .fin (!s) m e

/-- The magnitude of a value. -/
def Num.abs : Num → Num
  | .nan => .nan
  | .inf _ => .inf false
  | .fin _ m e => .fin false m e

/-- The exact product (IEEE 754: NaN, and infinity × 0, give NaN). -/
def Num.mul (a b : Num) : Num :=
  match a, b with
  | .nan, _ => .nan
  | _, .nan => .nan
  | .inf s, .inf t => .inf (s != t)
  | .inf s, .fin t m _ => if m = 0 then .nan else .inf (s != t)
  | .fin s m _, .inf t => if m = 0 then .nan else .inf (s != t)
  | .fin s m e, .fin t n f => .fin (s != t) (m * n) (e + f)

/-- A signed significand. -/
def signed (neg : Bool) (m : Nat) : Int := if neg then -(Int.ofNat m) else Int.ofNat m

/-- The exact sum; a sum of exact zero is +0 unless both are −0 (round to nearest). -/
def Num.add (a b : Num) : Num :=
  match a, b with
  | .nan, _ => .nan
  | _, .nan => .nan
  | .inf s, .inf t => if s = t then .inf s else .nan
  | .inf s, .fin _ _ _ => .inf s
  | .fin _ _ _, .inf t => .inf t
  | .fin s m e, .fin t n f =>
    let g := min e f
    let x := signed s (m * 2 ^ (e - g).toNat) + signed t (n * 2 ^ (f - g).toNat)
    if x = 0 then .fin (s && t) 0 0 else .fin (decide (x < 0)) x.natAbs g

/-- The exact sum of a list, in order. -/
def Num.sum (l : List Num) : Num := l.foldl Num.add (.fin false 0 0)

/-- ⌊log2 (n ÷ d)⌋ for n, d > 0. -/
def log2Quot (n d : Nat) : Int :=
  let k : Int := Int.ofNat n.log2 - Int.ofNat d.log2
  if n * 2 ^ (-k).toNat < d * 2 ^ k.toNat then k - 1 else k

/-- n ÷ d in units of 2^q: whole units, and remainder and divisor of the rest. -/
def inUnits (n d : Nat) (q : Int) : Nat × Nat × Nat :=
  let num := n * 2 ^ (-q).toNat
  let den := d * 2 ^ q.toNat
  (num / den, num % den, den)

/-- Round to nearest even of a quotient in units. -/
def nearestEven (u : Nat × Nat × Nat) : Nat :=
  if 2 * u.2.1 > u.2.2 ∨ (2 * u.2.1 = u.2.2 ∧ u.1 % 2 = 1) then u.1 + 1 else u.1

/-- The sign bit of FP32. -/
def f32sign (neg : Bool) : W32 := if neg then 0x80000000 else 0
/-- The NaN that accumulators hold (R66). -/
def f32nan : W32 := 0x7FC00000
/-- An FP32 infinity. -/
def f32inf (neg : Bool) : W32 := f32sign neg ||| 0x7F800000

/-- ±n ÷ d rounded once to FP32, round to nearest even; overflow gives infinity, subnormals are kept (R72). -/
def f32round (neg : Bool) (n d : Nat) : W32 :=
  if n = 0 then f32sign neg
  else
    let q : Int := max (log2Quot n d) (-126) - 23
    let b := (q + 149).toNat * 2 ^ 23 + nearestEven (inUnits n d q)
    if b < 0x7F800000 then f32sign neg ||| BitVec.ofNat 32 b else f32inf neg

/-- An exact value rounded to FP32. -/
def f32of : Num → W32
  | .nan => f32nan
  | .inf s => f32inf s
  | .fin s m e => f32round s (m * 2 ^ e.toNat) (2 ^ (-e).toNat)

/-- The value of an FP32 word (R66). -/
def f32val (x : W32) : Num :=
  let s := bitAt x 31
  let ex := bits x 30 23
  let m := bits x 22 0
  if ex = 255 then (if m = 0 then .inf s else .nan)
  else if ex = 0 then .fin s m (-149)
  else .fin s (2 ^ 23 + m) (Int.ofNat ex - 150)

/-- FP32 sum, product, fused multiply-add and difference, rounded once (R109). -/
def f32add (a b : W32) : W32 := f32of ((f32val a).add (f32val b))
/-- FP32 product. -/
def f32mul (a b : W32) : W32 := f32of ((f32val a).mul (f32val b))
/-- a × b + c, rounded once. -/
def f32fma (a b c : W32) : W32 := f32of (((f32val a).mul (f32val b)).add (f32val c))
/-- FP32 difference. -/
def f32sub (a b : W32) : W32 := f32of ((f32val a).add (f32val b).negate)

/-- FP32 quotient of finite values with a nonzero divisor, and the IEEE cases. -/
def f32div (a b : W32) : W32 :=
  match f32val a, f32val b with
  | .nan, _ => f32nan
  | _, .nan => f32nan
  | .inf _, .inf _ => f32nan
  | .inf s, .fin t _ _ => f32inf (s != t)
  | .fin s _ _, .inf t => f32sign (s != t)
  | .fin s m e, .fin t n f =>
    if n = 0 then (if m = 0 then f32nan else f32inf (s != t))
    else f32round (s != t) (m * 2 ^ (e - f).toNat) (n * 2 ^ (f - e).toNat)

/-- Whether a < b of two values that are not NaN. -/
def Num.lt (a b : Num) : Bool :=
  match a, b with
  | .nan, _ => false
  | _, .nan => false
  | .inf s, .inf t => s && !t
  | .inf s, .fin _ _ _ => s
  | .fin _ _ _, .inf t => !t
  | .fin s m e, .fin t n f =>
    let g := min e f
    decide (signed s (m * 2 ^ (e - g).toNat) < signed t (n * 2 ^ (f - g).toNat))

/-- The larger of two values that are not NaN. -/
def Num.max (a b : Num) : Num := if a.lt b then b else a

/-- The value of an E4M3 code (R62). -/
def e4m3 (c : Nat) : Num :=
  let s := decide (128 ≤ c % 256)
  let x := c / 8 % 16
  let m := c % 8
  if x = 15 ∧ m = 7 then .nan
  else if x = 0 then .fin s m (-9) else .fin s (8 + m) (Int.ofNat x - 10)

/-- The value of an E5M2 code (R62). -/
def e5m2 (c : Nat) : Num :=
  let s := decide (128 ≤ c % 256)
  let x := c / 4 % 32
  let m := c % 4
  if x = 31 then (if m = 0 then .inf s else .nan)
  else if x = 0 then .fin s m (-16) else .fin s (4 + m) (Int.ofNat x - 17)

/-- The value of an E2M1 code (R63), in halves. -/
def e2m1 (c : Nat) : Num :=
  let h := match c % 8 with
    | 0 => 0 | 1 => 1 | 2 => 2 | 3 => 3 | 4 => 4 | 5 => 6 | 6 => 8 | _ => 12
  .fin (decide (8 ≤ c % 16)) h (-1)

/-- The value of an HT2 code (R64). -/
def ht2 (c : Nat) : Num :=
  match c % 4 with
  | 1 => .fin false 1 0
  | 3 => .fin true 1 0
  | _ => .fin false 0 0

/-- The value of an MXINT8 code (R65). -/
def mxint8 (c : Nat) : Num :=
  if c % 256 < 128 then .fin false (c % 256) (-6) else .fin true (256 - c % 256) (-6)

/-- The value of a BF16 code (R66). -/
def bf16 (c : Nat) : Num := f32val (BitVec.ofNat 32 (c % 65536 * 65536))

/-- The value of an element code under its format tag (R62–R66). -/
def elemVal (tag c : Nat) : Num :=
  match tag with
  | 0 => e4m3 c
  | 1 => e5m2 c
  | 2 => e2m1 c
  | 3 => e2m1 c
  | 4 => ht2 c
  | 5 => mxint8 c
  | _ => bf16 c

/-- The value of a UE5M3 scale (R67). -/
def ue5m3 (c : Nat) : Num :=
  let x := c / 8 % 32
  let m := c % 8
  if c % 256 = 255 then .nan
  else if x = 0 then .fin false m (-17) else .fin false (8 + m) (Int.ofNat x - 18)

/-- The value of an E8M0 scale (R68). -/
def e8m0 (c : Nat) : Num := if c % 256 = 255 then .nan else .fin false 1 (Int.ofNat (c % 256) - 127)

/-- The value of a block scale under its scale kind (R39). -/
def scaleVal (kind c : Nat) : Num :=
  match kind with
  | 1 => ue5m3 c
  | 2 => e8m0 c
  | _ => .one

/-! Conversion -/

/-- A grid of magnitudes: p mantissa bits, the exponents of its finest and of its last spacing, the largest finite magnitude
as m × 2^e (R75). -/
structure Grid where
  p : Nat
  fine : Int
  last : Int
  maxM : Nat
  maxE : Int
deriving DecidableEq, Repr

/-- The grid of a format tag (R75). -/
def grid (tag : Nat) : Grid :=
  match tag with
  | 0 => ⟨3, -9, 5, 14, 5⟩
  | 1 => ⟨2, -16, 13, 7, 13⟩
  | 2 => ⟨1, -1, 1, 3, 1⟩
  | 3 => ⟨1, -1, 1, 3, 1⟩
  | 4 => ⟨0, 0, 0, 1, 0⟩
  | 5 => ⟨6, -6, -6, 127, -6⟩
  | _ => ⟨7, -133, 120, 255, 120⟩

/-- The spacing exponent of the grid at n ÷ d. -/
def spacing (g : Grid) (n d : Nat) : Int := max (min (log2Quot n d - Int.ofNat g.p) g.last) g.fine

/-- One step of a core's generator (R80). -/
def genStep (x : W64) : W64 :=
  let a := x ^^^ (x <<< 13)
  let b := a ^^^ (a >>> 7)
  b ^^^ (b <<< 17)

/-- The 16-bit draw of a generator state (R80). -/
def genDraw (x : W64) : Nat := bits x 63 48

/-- The rounded number of units of a magnitude (R79): to nearest even (HT2 ties down), or stochastically with draw r. -/
def roundUnits (tag : Nat) (draw : Option Nat) (u : Nat × Nat × Nat) : Nat :=
  match draw with
  | some r => if 65536 * u.2.1 / u.2.2 > r then u.1 + 1 else u.1
  | none => if tag = 4 then (if 2 * u.2.1 > u.2.2 then u.1 + 1 else u.1) else nearestEven u

/-- A converted element: its code, and whether it saturated, was flushed, was not finite (R75). -/
structure Conv where
  code : Nat
  sat : Bool
  flush : Bool
  nonfinite : Bool
deriving DecidableEq, Repr

/-- The code of a signed magnitude of u units of 2^q. -/
def elemCode (tag : Nat) (neg : Bool) (u : Nat) (q : Int) : Nat :=
  let g := grid tag
  let mag := (q - g.fine).toNat * 2 ^ g.p + u
  match tag with
  | 4 => if u = 0 then 0 else if neg then 3 else 1
  | 5 => if neg ∧ u ≠ 0 then 256 - u else u
  | 2 => mag + (if neg then 8 else 0)
  | 3 => mag + (if neg then 8 else 0)
  | 6 => mag + (if neg then 32768 else 0)
  | _ => mag + (if neg then 128 else 0)

/-- The code of the largest finite magnitude with its sign. -/
def maxCode (tag : Nat) (neg : Bool) : Nat :=
  let g := grid tag
  elemCode tag neg g.maxM g.maxE

/-- The NaN code of a format that has one (R75). -/
def nanCode (tag : Nat) : Nat := if tag = 6 then 0x7FC0 else 0x7F

/-- y ÷ s as sign, numerator and denominator, for finite y and s > 0 finite. -/
def quot (y s : Num) : Nat × Nat :=
  match y, s with
  | .fin _ m e, .fin _ n f => (m * 2 ^ (e - f).toNat, n * 2 ^ (f - e).toNat)
  | _, _ => (0, 1)

/-- Converts y ÷ s into the element format `tag` (R75, R79). -/
def convElem (tag : Nat) (draw : Option Nat) (s y : Num) : Conv :=
  match y with
  | .nan => ⟨nanCode tag, false, false, true⟩
  | .inf neg => ⟨maxCode tag neg, true, false, true⟩
  | .fin neg m _ =>
    if m = 0 then ⟨0, false, false, false⟩
    else
      let v := quot y s
      if v.2 = 0 then ⟨maxCode tag neg, true, false, false⟩
      else
      let g := grid tag
      let q := spacing g v.1 v.2
      let u := roundUnits tag draw (inUnits v.1 v.2 q)
      if u = 0 then ⟨elemCode tag neg 0 g.fine, false, true, false⟩
      else if (Num.fin false g.maxM g.maxE).lt (.fin false u q) then ⟨maxCode tag neg, true, false, false⟩
      else ⟨elemCode tag neg u q, false, false, false⟩

/-- The smallest UE5M3 code whose value is at least n ÷ d, within 0x01 to 0xFE (R76). -/
def ue5m3AtLeast (n d : Nat) : Nat :=
  if n = 0 then 0
  else
    let q := max (log2Quot n d - 3) (-17)
    let u := inUnits n d q
    let m := if u.2.1 = 0 then u.1 else u.1 + 1
    min 254 (max 1 ((q + 17).toNat * 8 + m))

/-- The largest magnitude of the values that are not NaN (R76). -/
def amax (l : List Num) : Num := (l.filter (fun x => !x.isNan)).foldl (fun a x => a.max x.abs) .zero

/-- The smallest nonzero magnitude of the values that are not NaN (R77). -/
def amin (l : List Num) : Option Num :=
  (l.filter (fun x => !x.isNan && !x.isZero)).foldl
    (fun a x => match a with
      | none => some x.abs
      | some y => some (if x.abs.lt y then x.abs else y)) none

/-- The code of the smallest UE5M3 value at least `x ÷ k` (an infinite x takes the largest scale). -/
def ue5m3For (x : Num) (k : Nat) : Nat :=
  match x with
  | .fin _ m e => ue5m3AtLeast (m * 2 ^ e.toNat) (k * 2 ^ (-e).toNat)
  | _ => 254

/-- The E8M0 code of 2^(⌊log2 x⌋ − k), limited to −127 to 127 (R76). -/
def e8m0For (x : Num) (k : Int) : Nat :=
  match x with
  | .fin _ m e => if m = 0 then 0 else (min (max (Int.ofNat m.log2 + e - k) (-127)) 127 + 127).toNat
  | _ => 254

/-- The block scale code a drain selects (R76): by output tag, scale kind and whether the block is escaped. -/
def selectScale (tag kind : Nat) (escaped : Bool) (l : List Num) : Nat :=
  let a := amax l
  let hasNan := l.any Num.isNan
  if (tag = 2 ∨ tag = 3 ∨ tag = 4 ∨ tag = 5) ∧ hasNan then 255
  else if a.isZero then 0
  else if kind = 1 then
    (if escaped then ue5m3For a 448
     else if tag = 4 then
      (if l.all (fun x => x.isNan || x.finite) then ue5m3For (Num.sum ((l.filter (fun x => !x.isNan)).map Num.abs)) 32 else 254)
     else ue5m3For a 6)
  else if kind = 2 then
    (match tag with
     | 0 => e8m0For a 8
     | 1 => e8m0For a 15
     | 3 => e8m0For a 2
     | _ => e8m0For a 0)
  else 0

/-- Whether a block escapes (R77): amax ÷ amin in FP32 exceeds 2^log; a block with a NaN is not escaped. -/
def wantsEscape (log : Nat) (l : List Num) : Bool :=
  if l.any Num.isNan then false
  else match amin l with
    | none => false
    | some lo => (f32val (f32of (.fin false 1 (Int.ofNat log)))).lt (f32val (f32div (f32of (amax l)) (f32of lo)))

/-- A converted block: scale code, element codes, counts (saturated, flushed, not finite), the generator after it. -/
structure ConvBlock where
  scale : Nat
  codes : List Nat
  sat : Nat
  flush : Nat
  nonfinite : Nat
  gen : W64
deriving DecidableEq, Repr

/-- Converts the elements of a block under scale s, stepping the generator once per element when rounding is stochastic. -/
def convElems (tag : Nat) (stoch : Bool) (s : Num) (zero : Bool) : List Num → W64 → List Conv × W64
  | [], x => ([], x)
  | y :: ys, x =>
    let x' := if stoch then genStep x else x
    let c := if zero then ⟨0, false, false, !y.finite⟩
             else convElem tag (if stoch then some (genDraw x') else none) s y
    let r := convElems tag stoch s zero ys x'
    (c :: r.1, r.2)

/-- Converts a block of 32 FP32 values (R75–R79). An escaped block takes E4M3 elements. DEDUCED (log 134). -/
def convBlock (tag kind : Nat) (escaped stoch : Bool) (l : List Num) (x : W64) : ConvBlock :=
  let sc := selectScale tag kind escaped l
  let zero := decide (sc = 255)
  let r := convElems (if escaped then 0 else tag) stoch (scaleVal kind sc) zero l x
  ⟨sc, r.1.map Conv.code, (r.1.filter Conv.sat).length, (r.1.filter Conv.flush).length,
   (r.1.filter Conv.nonfinite).length, r.2⟩

/-- A group of 32 products (R72 steps 1 and 2): the exact sum of the products times the product of the block scales, rounded
once to FP32. A NaN in any decoded operand makes it NaN. -/
def dotGroup (a w : Blk) : W32 :=
  let p := Num.sum ((a.elems.zip w.elems).map (fun x => x.1.mul x.2))
  if a.elems.any Num.isNan || w.elems.any Num.isNan || a.scale.isNan || w.scale.isNan then f32nan
  else f32of (p.mul (a.scale.mul w.scale))

/-- A dot product added into an accumulator value, group by group in ascending K order (R72 step 3). -/
def dotInto (acc : W32) (a w : List Blk) : W32 := (a.zip w).foldl (fun x p => f32add x (dotGroup p.1 p.2)) acc

end Sys2Proof.Machine
end

