-- ==== Sys2Proof/Machine/Table.lean ====
section
/-! DEFINITION. Sparse tables: lists of (key, value) in rising key order that list no entry equal to the table's default, so
that equal tables are equal data. Memories are such tables of bytes (Host.Cell) with the default 0. -/

namespace Sys2Proof

/-- A sparse table: keys strictly rising, no listed value equal to the default. -/
abbrev Tab (α : Type) := List (Nat × α)

/-- The value at key k: the listed one, or the default. -/
def tget {α : Type} (d : α) : Tab α → Nat → α
  | [], _ => d
  | (k', v) :: t, k => if k = k' then v else tget d t k

/-- Removes key k. -/
def terase {α : Type} : Tab α → Nat → Tab α
  | [], _ => []
  | (k', v) :: t, k => if k = k' then terase t k else (k', v) :: terase t k

/-- Lists v at key k, at its place. -/
def tput {α : Type} : Tab α → Nat → α → Tab α
  | [], k, v => [(k, v)]
  | (k', v') :: t, k, v =>
    if k = k' then (k, v) :: t else if k < k' then (k, v) :: (k', v') :: t else (k', v') :: tput t k v

/-- Writes v at key k, keeping the canonical form: writing the default removes the entry. -/
def tset {α : Type} [DecidableEq α] (d : α) (t : Tab α) (k : Nat) (v : α) : Tab α :=
  if v = d then terase t k else tput t k v

/-- Changes the value at key k by f. -/
def tmod {α : Type} [DecidableEq α] (d : α) (t : Tab α) (k : Nat) (f : α → α) : Tab α :=
  tset d t k (f (tget d t k))

/-- Every key of the table is above k. -/
def tabove {α : Type} (k : Nat) : Tab α → Bool
  | [] => true
  | (k', _) :: t => decide (k < k') && tabove k t

/-- The canonical form of a table. -/
def twf {α : Type} [DecidableEq α] (d : α) : Tab α → Bool
  | [] => true
  | (k, v) :: t => decide (v ≠ d) && tabove k t && twf d t

/-- The first n numbers from a. -/
def upFrom (a : Nat) : Nat → List Nat
  | 0 => []
  | n + 1 => a :: upFrom (a + 1) n

end Sys2Proof
end

