-- ==== Sys2Proof/Machine/State.lean ====
section
/-! DEFINITION. Everything the manual gives the device, as plain data, and the device after reset. Structures' field defaults
are the reset values; where the manual gives none, the assumption log names them. -/

namespace Sys2Proof.Machine

/-! ### Error reporting (18_safety_and_error_reporting.md) -/

/-- A Darner record (R479). DESIGN CHOICE (log 6). -/
structure Rec where
  kind : BitVec 16 := 0
  flags : Byte := 0
  status : Byte := 0
  seq : W32 := 0
  time : W64 := 0
  unit : Byte := 0
  part : BitVec 4 := 0
  station : BitVec 16 := 0
  id : W32 := 0
  count : BitVec 16 := 0
  detail : W32 := 0
deriving DecidableEq, Repr

/-- One source of this frame, with the record its first report gave and its further reports (R483). -/
structure Coal where
  first : Rec
  more : Nat
  moreTime : W64
deriving DecidableEq, Repr

/-- One kind counted in the storm state (R484). -/
structure KindCount where
  kind : BitVec 16
  count : Nat
  time : W64
deriving DecidableEq, Repr

/-- The Darner: local log, registers of R487 and the frame's bookkeeping (R483, R484), and the pin ALERT_N (R486). -/
structure Darn where
  log : Tab Rec := []
  head : BitVec 10 := 0
  seq : W32 := 0
  records : W64 := 0
  coalesced : W64 := 0
  stormFrames : W64 := 0
  overflow : W64 := 0
  storm : Bool := false
  pending : Bool := false
  sources : List Coal := []
  kinds : List KindCount := []
  frameRecs : Nat := 0
  frameReports : Nat := 0
  stormAlerts : Nat := 0
deriving DecidableEq, Repr

/-! ### Links (11_nalson_link.md, 13_myarn_and_barriers.md) -/

/-- The state of a link: down, in full training, retraining, in the full training that follows a retraining, or up (R303, R306, R307, R343,
R348, R349). -/
inductive LinkPhase where
  | down | training | retraining | full | up
deriving DecidableEq, Repr

/-- A transaction of a Nalson port, device to host (R297). -/
inductive Txn where
  | mrd (tag : Nat) (len : Nat) (addr : W64)
  | mwr (addr : W64) (data : List Byte)
  | scpl (tag : BitVec 10) (status : Byte) (data : W32)
  | msg (code : Byte) (body : W64)
deriving DecidableEq, Repr

/-- A transaction flit kept for retry until it is acknowledged (R292, R345): its sequence, its payload, when it was first
sent, and the numbered transfers or writes that end in it. -/
structure Sent where
  seq : BitVec 12
  payload : List Byte
  time : W64
  ends : List Nat
deriving DecidableEq, Repr

/-- The link layer of one port: training, flit retry and credits, alike for Nalson (R285–R307) and Myarn (R340–R349).
Credits are listed by class: posted, non-posted; or V0, V1, V2. A flit's place among the five that two codewords carry, each way; whether
the codeword under way is uncorrectable; the counter of the next codeword sent; the frame's corrected symbols by lane. `outEnds` says after how many of the outgoing slots which
numbered transfer or write ends. -/
structure Lk where
  phase : LinkPhase := .down
  since : W64 := 0
  capOk : Bool := false
  ackOk : Bool := false
  level : BitVec 4 := 0
  peerLevels : BitVec 16 := 0
  width : BitVec 2 := 0
  failed : BitVec 9 := 0
  txSeq : BitVec 12 := 0
  retry : List Sent := []
  replay : Option Nat := none
  replays : Nat := 0
  rxSeq : BitVec 12 := 0
  rxAny : Bool := false
  nak : Bool := false
  gap : Bool := false
  nakTime : W64 := 0
  unacked : Nat := 0
  credits : List Nat := []
  returns : List Nat := []
  outSlots : List (List Byte) := []
  outEnds : List (Nat × Nat) := []
  inSlots : List (List Byte) := []
  sinceNull : Nat := 0
  control : List (List Byte) := []
  wire : Option Flit := none
  reference : Bool := true
  fullSince : W64 := 0
  peerWide : Bool := false
  rxPos : Nat := 0
  rxBad : Bool := false
  txPos : Nat := 0
  txCodeword : Byte := 0
  syms : List Nat := []
  turn : Nat := 0
deriving DecidableEq, Repr

/-- Whose read of host memory an MRD is (R299): descriptor k of a ring; a flush, with what may leave on the other port once
it is done (R302); chunk `offset` of a transfer; chunk `offset` of a fetch. -/
inductive MrdOwner where
  | desc (ring : RingId) (k : Nat)
  | flush (after : List Txn)
  | xfer (id offset : Nat)
  | fetch (no offset : Nat)
deriving DecidableEq, Repr

/-- A read of host memory: asked for, or outstanding under a tag (R295, R299). -/
structure Mrd where
  addr : W64
  len : Nat
  owner : MrdOwner
  got : List (W64 × Bool) := []
  unsupported : Bool := false
  issued : W64 := 0
deriving DecidableEq, Repr

/-- The latches of one set-up port: a held low word (R514), a latched high word (R298) and PART_STAT_SEL (R516).
DEDUCED (log 15). -/
structure Latch where
  write : Option (Nat × W32) := none
  read : Option (Nat × W32) := none
  statSel : BitVec 4 := 0
deriving DecidableEq, Repr

/-- A Nalson port (R309): registers, counters keyed by register offset, egress in order, the numbered writes of either-port
transfers that are not acknowledged (R307), reads outstanding. -/
structure Nal where
  lk : Lk := {}
  ctl : W32 := 0x10000000
  peerCredit : W32 := 0
  rtt : W32 := 0
  cnt : Tab W64 := []
  serOver : Tab Nat := []
  egress : List Txn := []
  either : List (Nat × Txn) := []
  eitherSeq : Nat := 0
  tags : List (Nat × Mrd) := []
  retired : List (Nat × W64) := []
  waiting : List Mrd := []
  latch : Latch := {}
  devResetTime : Option W64 := none
  closing : Bool := false
  dbls : List W64 := []
deriving DecidableEq, Repr

/-- A packet on its way out of a Myarn port: where it came in, and the transfer it belongs to (R353, R359). -/
structure OutPkt where
  pkt : Packet
  input : Option MPort
  xfer : Option Nat
  last : Bool
deriving DecidableEq, Repr

/-- A Myarn port (R372): state, lane map, counters keyed by register offset, packets waiting by channel. -/
structure Mya where
  lk : Lk := {}
  peer : W32 := 0
  rtt : W32 := 0
  spared : BitVec 4 := 0xF
  subst : Option (BitVec 4 × Byte) := none
  asked : Option (BitVec 4) := none
  cnt : Tab W64 := []
  serOver : Tab Nat := []
  v0 : List OutPkt := []
  v1 : List OutPkt := []
  v2 : List OutPkt := []
  stallSince : Option W64 := none
  stallSeen : Bool := false
deriving DecidableEq, Repr

/-- A Myarn stream at one end (R356): sent or received bytes, the recorded source, the broken flag with the status carried. -/
structure Strm where
  count : W32 := 0
  source : Option W32 := none
  broken : Option Byte := none
deriving DecidableEq, Repr

/-- A held announce (R360): destination partition, stream, count, action, target, value, and when it came. -/
structure Held where
  part : PartId
  stream : BitVec 16
  count : W32
  host : Bool
  target : W64
  value : W64
  time : W64
  port : MPort
deriving DecidableEq, Repr

/-- A barrier's live state (R363, R364): generation, arrivals of G and of G + 1, children, flags. -/
structure Bar where
  gen : W32 := 0
  loc : Nat := 0
  children : BitVec 4 := 0
  nextLoc : Nat := 0
  nextChildren : BitVec 4 := 0
  awaiting : Bool := false
  broken : Bool := false
  since : Option W64 := none
  nextSince : Option W64 := none
  releases : W64 := 0
deriving DecidableEq, Repr

/-! ### Rings and set-up (12_rings_doorbells_and_press.md, 20_register_map.md) -/

/-- How far a descriptor of a ring has come: its read is out; read (its words, or the status its read failed with);
accepted (R315–R317). -/
inductive DescStage where
  | reading
  | read
  | failed (status : Byte)
  | accepted
deriving DecidableEq, Repr

/-- Descriptor k of a ring, by R315. -/
structure Desc where
  k : Nat
  stage : DescStage
  opcode : Byte := 0
  lvlPart : Byte := 0
  flags : Byte := 0
  rsv : Byte := 0
  seq : W32 := 0
  args : List W64 := []
deriving DecidableEq, Repr

/-- A descriptor ring (R311): registers, producer index, number of the next descriptor to read, descriptors owed a
completion, in index order, and the cumulative counters. -/
structure Ring where
  dbase : W64 := 0
  cbase : W64 := 0
  cfg : W32 := 0
  seq0 : W32 := 0
  stopped : Bool := false
  lastDbl : W32 := 0
  prod : BitVec 16 := 0
  nextK : Nat := 0
  avail : Nat := 0
  descs : List Desc := []
  done : W64 := 0
  dblRej : W64 := 0
  lost : W64 := 0
deriving DecidableEq, Repr

/-- An error ring (R335). -/
structure ErrRing where
  base : W64 := 0
  cfg : W32 := 0
  prod : BitVec 16 := 0
  cons : BitVec 16 := 0
  drop : W64 := 0
deriving DecidableEq, Repr

/-- The set-up semaphore (R332, R333). -/
structure Sem where
  held : Bool := false
  expired : Bool := false
  owner : NPort := 0
  renewed : W64 := 0
  breaks : W64 := 0
deriving DecidableEq, Repr

/-- The fold and its registers (R336–R339): staged words by offset, frozen, the waiting press with the access it answers and when it
came, FOLD_DETAIL. -/
structure Fold where
  words : List (Nat × W32) := []
  frozen : Bool := false
  waiting : Option Access := none
  asked : W64 := 0
  detail : W64 := 0
deriving DecidableEq, Repr

/-- A descriptor of a ring, named by port, ring and number. -/
structure DescRef where
  port : NPort
  ring : RingId
  k : Nat
deriving DecidableEq, Repr

/-- How a fetch from host memory ends (R299): its bytes, with the indices of its 8-byte words that are poisoned (CPLD status 0x02); an
unsupported address (0x01) or a missing last CPLD, at an offset; the port went down (R307). -/
inductive HostRead where
  | data (bytes : List Byte) (poison : List Nat)
  | unsupported (offset : Nat)
  | timeout (offset : Nat)
  | portDown
deriving DecidableEq, Repr

/-- What fetches from host memory: a descriptor, for its list, table, record, token or image; a load's second read; the lifeline load.
DESIGN CHOICE (log 142). -/
inductive Reader where
  | desc (ref : DescRef)
  | load (part : Nat)
  | lifeline
deriving DecidableEq, Repr

/-- A fetch of `len` bytes from host address `addr` by a port (R295, R299): the words in so far, and how it ended.
DESIGN CHOICE (log 142). -/
structure Fetch where
  no : Nat
  port : NPort
  addr : W64
  len : Nat
  got : List (W64 × Bool) := []
  res : Option HostRead := none
deriving DecidableEq, Repr

/-! ### A core (04_core_engines.md, 05_core_instructions.md, 07_slices_and_stitch_mesh.md) -/

/-- A state of an engine, with the codes of CORE_ENG_STATE (R115) in this order from 0. -/
inductive EngState where
  | idle | running | waitPeg | waitBarrier | gated | ended | halted
deriving DecidableEq, Repr

/-- An active loop level (R121): first body instruction, body length, iterations, the current iteration, strides. -/
structure LoopLevel where
  start : Nat
  len : Nat
  count : Nat
  i : Nat
  s14 : Int
  s15 : Int
deriving DecidableEq, Repr

/-- What an issued instruction still waits for before it may retire (R89): nothing; the arm of that number to move its
whole length (R126); the release of a generation of a barrier (R122). -/
inductive Retire where
  | ready
  | arm (n : Nat)
  | barrier (bar : BarId) (gen : Option W32)
deriving DecidableEq, Repr

/-- An issued instruction that has not retired: its post, a base it writes at retirement (R87), what it waits for, and
whether it ends the program. -/
structure InFlight where
  ppeg : Nat := 0
  pcnt : Nat := 0
  base : Option (Nat × W32) := none
  until_ : Retire := .ready
  ends : Bool := false
deriving DecidableEq, Repr

/-- One engine (R87, R88): program counter, queue and the next instruction to refill, loop levels innermost first, issued
instructions oldest first. DESIGN CHOICE (log 6). -/
structure Eng where
  st : EngState := .idle
  pc : Nat := 0
  queue : List IWord := []
  fetch : Nat := 0
  loops : List LoopLevel := []
  flight : List InFlight := []
  waiting : Bool := false
deriving DecidableEq, Repr

/-- An FP32 value with its poison bit (R100). -/
structure Acc where
  v : W32 := 0
  p : Bool := false
deriving DecidableEq, Repr

/-- The weight tile in an array's computing buffer (R97, R130): its tag and KC, its 64 columns decoded along K, and its
tensor scale (none: tiles that differed). -/
structure Kept where
  tag : Nat
  kc : Nat
  cols : List (List Blk)
  scale : Option Num
deriving DecidableEq, Repr

/-- An array (R96–R104, R129–R131): layout strides, computing buffer, accumulator (row × 64 + column), recorded scale
product of each row. -/
structure Arr where
  mStride : Nat := 0
  kStride : Nat := 0
  wStride : Nat := 0
  kept : Option Kept := none
  acc : Tab Acc := []
  scale : Tab (Option W32) := []
deriving DecidableEq, Repr

/-- The Needle path (R107, R133): the loaded vectors decoded, their tag, KC and tensor scale, accumulator (vector × 2,048 +
column), recorded scale of each vector. DESIGN CHOICE (log 6). -/
structure Needle where
  vecs : List (List Blk) := []
  tag : Nat := 0
  scale : Option Num := none
  loaded : Bool := false
  acc : Tab Acc := []
  tscale : Tab (Option W32) := []
deriving DecidableEq, Repr

/-- The Rinse unit (R109, R134): registers (register × 64 + lane), row-pass strides. DESIGN CHOICE (log 6). -/
structure Rinse where
  reg : Tab Acc := []
  src : Nat := 0
  dst : Nat := 0
deriving DecidableEq, Repr

/-- An arm of a Stitch plan entry (R126, R175). -/
structure Arm where
  id : Nat
  slice : Bool
  addr : Nat
  left : Nat
deriving DecidableEq, Repr

/-- A router's place in its plan (R177): step, cycles left of it, loops (first body step, iterations left), ended. -/
structure Router where
  step : Nat := 0
  left : Nat := 0
  loops : List (Nat × Nat) := []
  ended : Bool := false
deriving DecidableEq, Repr

/-- The sampled tile that awaits its shadow audit (R84, R85): its station, its basket address, tol_log2, Σ (y − z)² and Σ z² so far,
and whether a y is nonzero. -/
structure Audit where
  station : Nat
  addr : Nat
  tol : Nat
  dz : W32 := 0
  zz : W32 := 0
  some_ : Bool := false
deriving DecidableEq, Repr

/-- An instruction with an arithmetic fault, which is executed anew once its core is spared (R106, R471): engine, word, first unmatched row,
what strikes that execution. -/
structure Redo where
  eng : Nat
  word : IWord
  row : Nat := 0
  upsets : List Upset := []
  bad : Bool := false
deriving DecidableEq, Repr

/-- A logical core. Counters are keyed by their offset in the CORE page (R115); `audit` is the sampled tile awaiting its shadow
audit (R84); `esc` the escape threshold of the output tile last begun at each basket address (R86); `redo` the instruction that is executed
anew after sparing (R106); `grad` the partial sums dγ and dβ of R156, keyed by station × 2^18 +
(0 or 2^17) + column. DESIGN CHOICE (log 6). -/
structure Core where
  eng : Tab Eng := []
  sreg : Tab W32 := []
  base : Tab W32 := []
  peg : Tab (BitVec 16) := []
  progs : List (Nat × Nat) := []
  f : Arr := {}
  g : Arr := {}
  needle : Needle := {}
  rinse : Rinse := {}
  gen : W64 := 0
  cnt : Tab W64 := []
  haltState : W32 := 0
  haltPc : List (BitVec 14) := []
  arms : Tab (List Arm) := []
  nextArm : Nat := 0
  router : Router := {}
  gated : Bool := false
  waitSince : Option W64 := none
  progress : W64 := 0
  excluded : Nat := 0
  audit : Option Audit := none
  esc : Tab Nat := []
  redo : Option Redo := none
  grad : Tab Acc := []
  inReset : Bool := false
deriving DecidableEq, Repr

/-! ### Partitions, images and runs (02, 06, 07, 12, 14) -/

/-- A station entry of R51. -/
structure Station where
  name : List Byte
  kind : Nat
  fmtIn : Nat
  fmtOut : Nat
  stoch : Bool
  esc : Bool
  b0 : Nat
  b1 : Nat
  b2 : Nat
  b3 : Nat
  fallback : Nat
  p : List W32
deriving DecidableEq, Repr

/-- A stream entry of R52. -/
structure Stream where
  src : Nat
  dst : Nat
  fmt : Nat
  scale : Nat
  cap : Nat
  route : Nat
  weight : Bool
  tiles : Nat
deriving DecidableEq, Repr

/-- A core's section (R53): its subsections' section offset, length and load address, and its bytes' offset in the image. -/
structure CoreSec where
  offset : Nat
  length : Nat
  subs : List (Nat × Nat × Nat)
deriving DecidableEq, Repr

/-- An NBU directory entry of R55 with its program's bytes. -/
structure NbuDir where
  first : Nat
  count : Nat
  station : Nat
  program : List Byte
deriving DecidableEq, Repr

/-- A validated image (R48–R55). -/
structure Image where
  level : Nat
  h : Nat
  ww : Nat
  we : Nat
  length : Nat
  stations : List Station
  streams : List Stream
  cores : List CoreSec
  nbus : List NbuDir
  seed : W64
  tag : W64
deriving DecidableEq, Repr

/-- The states of R57. -/
inductive PartState where
  | empty | loading | ready | running
deriving DecidableEq, Repr

/-- A slot of R325. -/
structure Slot where
  kind : Nat
  a : W64
  b : W64
  c : W64
deriving DecidableEq, Repr

/-- What ends a run (R329): status, cause, carried status, item. -/
structure Ending where
  status : Byte
  cause : Nat := 0
  carried : Nat := 0
  item : Nat := 0
deriving DecidableEq, Repr

/-- A word of the mesh: 8 codewords of data with their poison. -/
abbrev Beat := List (W64 × Bool)

/-- A word in flight (R173, R178, R188): the partition cycle it is due, and where: an input of a core (partition-relative
index, port), or the hamper buffer of a stream. -/
structure Flight where
  due : Nat
  core : Nat
  port : Nat
  stream : Option Nat
  beat : Beat
deriving DecidableEq, Repr

/-- A decision of the slip tree for a coming cycle (R182): its cause, 0 when ready; what the cause names; the uses it reserves, each a
cause with its key. -/
structure Ahead where
  cause : Nat := 0
  who : Nat := 0
  uses : List (Nat × Nat) := []
deriving DecidableEq, Repr

/-- The hamper buffer of a stream (R179): its 4 KiB units, its size, bytes put in and taken out. -/
structure HBuf where
  units : List Nat
  size : Nat
  put : Nat
  got : Nat
deriving DecidableEq, Repr

/-- A run (R328): its descriptor and seq, slots, whether its cores have started, the partition cycle, why it stops, the
first poisoned station, resolved blocks (slot, current copy, R163), block tables held (slot, header, batch map, R242), the nbu
stations on their fallback (R222), the operating voltage (R413), ports its host writes used, buffers by stream, words in flight; wall cycles, the slip tree's decisions for the next 8
cycles (R182) and the bubble ratios of the last 4, each with its cause (R384, R386). -/
structure Run where
  desc : DescRef
  seq : W32
  slots : List Slot
  started : Bool := false
  cycle : Nat := 0
  stop : Option Ending := none
  poisoned : Option Nat := none
  resolved : List (Nat × Nat) := []
  tables : List (Nat × List Byte × List Byte) := []
  fallen : List Nat := []
  mv : Nat := 0
  ports : List NPort := []
  bufs : List (Nat × HBuf) := []
  flights : List Flight := []
  begun : W64 := 0
  wall : Nat := 0
  ahead : List Ahead := []
  lag : List (Nat × Nat) := []
  gains : List (Nat × List Acc) := []
deriving DecidableEq, Repr

/-- A load in progress (R58): its descriptor, where the image lies, the validated image, the first read's CRC, whether a Hem
reset cost it a read. -/
structure Load where
  desc : DescRef
  stack : Bool
  addr : W64
  image : Image
  crc : W32 := 0
  lost : Bool := false
deriving DecidableEq, Repr

/-- The eight counts of a numeric statistics record (R83), as running frame counters, latched copies and cumulative
counters, the frame, the number of the next output tile (R84), and the once-a-frame reports made. -/
structure Stat where
  run : List Nat := [0, 0, 0, 0, 0, 0, 0, 0]
  latched : List W32 := [0, 0, 0, 0, 0, 0, 0, 0]
  total : List W64 := [0, 0, 0, 0, 0, 0, 0, 0]
  frame : W64 := 0
  tiles : Nat := 0
  sampled : List Nat := []
deriving DecidableEq, Repr

/-- The slip record of R185 with its running counts. Lists hold causes 1–5. -/
structure Slips where
  slip : Nat := 0
  hold : Nat := 0
  causes : List Nat := [0, 0, 0, 0, 0]
  maxRun : Nat := 0
  unbroken : Nat := 0
  lastCause : Nat := 0
  lastWho : Nat := 0
  fSlip : W32 := 0
  fHold : W32 := 0
  fCauses : List W32 := [0, 0, 0, 0, 0]
  fMaxRun : W32 := 0
  cSlip : W64 := 0
  cHold : W64 := 0
  cOver : W64 := 0
  frame : W64 := 0
deriving DecidableEq, Repr

/-- The bubble record of R386 with its running counts, by cause 1–8. -/
structure Bubbles where
  run : Nat := 0
  causes : List Nat := [0, 0, 0, 0, 0, 0, 0, 0]
  latched : List W32 := []
  total : W64 := 0
  frame : W64 := 0
deriving DecidableEq, Repr

/-! ### Memories (10_memory_integrity.md, 08_memory_stacks_and_pyrrel.md) -/

/-- A coded memory: data bytes by byte address and check bytes by word index (address ÷ 8), each in canonical form with the
all-zero codeword unlisted (R260, R262, R271). DEDUCED (log 8). -/
structure CodeMem where
  data : List Host.Cell := []
  check : List Host.Cell := []
deriving DecidableEq, Repr

/-- A coded memory of the device: the slice or basket of a logical core, the hamper, the stacks (addressed by
(site × 256 + bank group) × 2^29 + bank-group linear address, R206). -/
inductive MemId where
  | slice (core : Nat)
  | basket (core : Nat)
  | hamper
  | stack
deriving DecidableEq, Repr

/-- A log entry of R273. -/
structure EccLog where
  addr : W64
  syndrome : Byte
  candidate : Bool
  count : W32
  first : W64
  last : W64
deriving DecidableEq, Repr

/-- The counters and log of one memory or carrier class (R273). -/
structure EccInst where
  corrected : W64 := 0
  uncorrectable : W64 := 0
  poisonRead : W64 := 0
  evicted : W64 := 0
  log : List EccLog := []
deriving DecidableEq, Repr

/-- A patrol scrub of one class (R276): the index of its next word, when the pass began, whether "scrub behind" was raised. -/
structure Scrub where
  pos : Nat := 0
  begun : W64 := 0
  behind : Bool := false
deriving DecidableEq, Repr

/-- The injection registers of R283 and R284; `op` is the operation bit of ECCT_SPLIT_GO. -/
structure Ecct where
  target : W32 := 0
  addr : W32 := 0
  maskLo : W32 := 0
  maskHi : W32 := 0
  maskChk : W32 := 0
  armed : Bool := false
  done : Bool := false
  splitLo : W32 := 0
  splitHi : W32 := 0
  dataLo : W32 := 0
  dataHi : W32 := 0
  check : W32 := 0
  op : Bool := false
deriving DecidableEq, Repr

/-- A stack site (R209, R211). DESIGN CHOICE (log 6). -/
structure Stk where
  trained : Bool := false
  temp : Byte := 0
  double : Bool := false
  readable : Bool := false
  postponed : W64 := 0
  forced : W64 := 0
  secondDecoder : Bool := false
  dead : Bool := false
deriving DecidableEq, Repr

/-- Whose operation an NBU runs (R215): an invocation of an nbu or decode station, the gather log, a descriptor. -/
inductive OpSource where
  | station (part : PartId) (station : Nat) (invocation : Nat)
  | log (part : PartId) (station : Nat)
  | desc (ref : DescRef) (part : PartId) (seq : W32)
deriving DecidableEq, Repr

/-- An accepted operation (R215, R216): its words 0–15, source, slot, ranges of its local part that are busy beside its own two (byte
offset, length), whether it has started, when; the status its last write left, once the event summary shows it finished (R213, R227);
re-executed by a buddy, after a start of its own NBU; the tensor scale of its vectors; a PAGE_COMMIT's page entry and the KV_COMMIT it is issued for; the batch row and
KV head of a decode operation. -/
structure Op where
  words : List W32
  source : OpSource
  slot : Nat := 0
  ranges : List (Nat × Nat) := []
  started : Bool := false
  start : W64 := 0
  finished : Option Byte := none
  buddy : Bool := false
  again : Bool := false
  vscale : W32 := 0x3F800000
  commit : Option W64 := none
  owner : Option DescRef := none
  piece : Option (Nat × Nat) := none
  begun : Option W64 := none
deriving DecidableEq, Repr

/-- An entry of an operation log (R227). DESIGN CHOICE (log 6). -/
structure OpLog where
  source : Byte := 0
  status : Byte := 0
  flags : Byte := 0
  op : Byte := 0
  seq : W32 := 0
  start : W64 := 0
  done : W64 := 0
  tornOff : W32 := 0
  tornLen : W32 := 0
deriving DecidableEq, Repr

/-- A row of the gather log (R245) as the KV machinery keeps it: its units and what it belongs to; a pad row has no table. The
block table's address, and the run's partition and station that wrote it. DESIGN CHOICE (log 86). -/
structure LogRow where
  off : Nat
  units : Nat
  table : Option W64
  part : PartId
  station : Nat
deriving DecidableEq, Repr

/-- A near-bank unit (R212): accepted operations oldest first, last 4 log entries newest last, fence, program store, vector
buffer with its poisoned 8-byte words, interleave queue (R224), reads held for a completion point (R223), rows of its gather log from
the tail. -/
structure Nbu where
  ops : List Op := []
  log : List OpLog := []
  fenced : Bool := false
  program : List Byte := []
  vbuf : Tab Byte := []
  vbad : List Nat := []
  queue : List StackAccess := []
  held : List StackAccess := []
  rows : List LogRow := []
deriving DecidableEq, Repr

/-- A bank's refresh (R210): owed, and its postponement count. -/
structure Bank where
  owed : Bool := false
  count : Nat := 0
deriving DecidableEq, Repr

/-! ### Transfers (11, 12, 13) -/

/-- What a transfer of the Mangle, a port or Myarn does: COPY_IN, COPY_OUT, GRAD_FETCH, MYA_WRITE, or the tiles of a
route-class-2 stream of a partition into its hamper buffer or (`sink`) out of it (R35, R323, R359). -/
inductive XferKind where
  | copyIn | copyOut
  | gradFetch
  | myaWrite (stream : BitVec 16) (route : List W64)
  | stream (part : PartId) (stream : Nat) (sink : Bool)
deriving DecidableEq, Repr

/-- A transfer in progress: its descriptor (none for a stream), source and destination addresses, total and moved bytes,
bytes asked of the host, data waiting to be written, first poisoned item, whether a read is outstanding, the port used. -/
structure Xfer where
  kind : XferKind
  desc : Option DescRef
  part : PartId
  src : W64
  dst : W64
  len : Nat
  moved : Nat := 0
  asked : Nat := 0
  buf : List (W64 × Bool) := []
  poison : Option Nat := none
  port : NPort := 0
  bytes : List (W64 × Bool) := []
deriving DecidableEq, Repr

/-! ### Power (14_power_delivery_and_budget.md) -/

/-- A domain record of R382. -/
structure Domain where
  ma : W32 := 0
  peakMa : W32 := 0
  mv : BitVec 16 := 0
  mw : W32 := 0
  uj : W64 := 0
  frame : W64 := 0
deriving DecidableEq, Repr

/-- An AVSBus rail (R375, LEHR_AVS_a): last target, last read-back, last good setpoint, fault, retries, a write awaiting its
read-back, and the value still to be reached. DESIGN CHOICE (log 6). -/
structure Avs where
  target : BitVec 12 := 0
  readback : BitVec 12 := 0
  good : BitVec 12 := 0
  fault : Bool := false
  retries : Nat := 0
  written : Option W64 := none
  want : BitVec 12 := 0
deriving DecidableEq, Repr

/-- The headers of a cluster (R380, R381): stages on, of 8; turning on since; waits so far, in µs; forced. -/
structure Hdr where
  stage : Nat := 0
  turning : Bool := false
  last : W64 := 0
  waited : Nat := 0
  forced : Bool := false
  lit : Bool := false
deriving DecidableEq, Repr

/-- The Lehr's power control (R375–R394): domain records, rails, headers, failed trim regulators; the frame-power history in mW, newest
first, with a value and how many frames before those count as it; the ramp bucket in mW ÷ lcm(1…64) (so that no division of R389 is
inexact); the last p and A; the selected cap and the pins; the frame through which 56 is held; the budget ratio of each partition; what
each gated core lends and who borrows, with sums for f_lent_mw, and the allowance of a core, in mW ÷ (1,000 lcm(1…64)); when a
partition last drooped and which do, firings by cluster this frame; halves over current, and since when; staging contributions by
cluster × 8 + partition; thermal contributions; seconds of mismatch by rail; the cap in force as last formed, in W. -/
structure Power where
  domains : Tab Domain := []
  avs : Tab Avs := []
  hdr : Tab Hdr := []
  trimFail : List Nat := []
  hist : List Nat := []
  histFill : Nat × Nat := (0, 0)
  bucket : Nat := 0
  pFrame : W32 := 0
  pWindow : W32 := 0
  selected : BitVec 2 := 0
  pins : BitVec 2 := 0
  holding : Option W64 := none
  budget : Tab Nat := []
  lending : Tab Int := []
  borrow : List Nat := []
  lentSum : Tab Nat := []
  lentCount : Nat := 0
  allow : Nat := 0
  droopUntil : Tab Nat := []
  droopOn : Tab Bool := []
  droopSeen : Tab Nat := []
  ocOn : Tab Bool := []
  ocSince : Tab (Option W64) := []
  stagePart : Tab Bool := []
  thermal : Tab Nat := []
  mismatch : Tab Nat := []
  capHeld : Nat := 0
deriving DecidableEq, Repr

/-! ### KV machinery (09_kv_cache_and_decode.md) -/

/-- A gather-append station at work (R243, R244): row group, tile row and head of the next append; the tiles of the row group
collected so far; an append that waits for log room. -/
structure Append where
  part : PartId
  station : Nat
  group : Nat := 0
  row : Nat := 0
  head : Nat := 0
  words : List (W64 × Bool) := []
  waiting : Bool := false
deriving DecidableEq, Repr

/-- A page that is to be committed (R248, R249): block table, sequence, layer and KV head; the run's partition and station that
triggered it; the KV_COMMIT it belongs to. -/
structure Commit where
  table : W64
  seq : Nat
  layer : Nat
  head : Nat
  part : PartId
  station : Nat
  owner : Option DescRef
  begun : Option W64 := none
deriving DecidableEq, Repr

/-- One decode operation of an invocation (R253): batch row index among the valid rows, KV head (from the partner's first), NBU,
whether it is issued and done, and what it left. -/
structure Piece where
  row : Nat
  head : Nat
  nbu : Nat
  issued : Bool := false
  done : Bool := false
  vals : List Acc := []
deriving DecidableEq, Repr

/-- A decode invocation (R253, R255): its number, valid rows, query tiles, pieces, rows and heads delivered as poison. -/
structure Decode where
  part : PartId
  station : Nat
  number : Nat
  rows : Nat
  tiles : List (W64 × Bool)
  pieces : List Piece
  bad : List (Nat × Nat) := []
deriving DecidableEq, Repr

/-- An invocation of an nbu station (R221): its number, the input tiles collected so far, whether it runs, the tensor scale of its
vectors, NBUs that have not reached END with the next record of their programs. -/
structure Invoke where
  part : PartId
  station : Nat
  number : Nat := 0
  words : List (W64 × Bool) := []
  running : Bool := false
  scale : W32 := 0x3F800000
  left : List (Nat × Nat) := []
  due : Option Nat := none
deriving DecidableEq, Repr

/-- A KV_COMMIT in progress, with the first status that is not OK of its operations. -/
structure KvJob where
  desc : DescRef
  bad : Option Byte := none
deriving DecidableEq, Repr

/-- A post-package repair that waits for its bank group (R280). -/
structure Repair where
  desc : DescRef
  nbu : Nat
  bank : Nat
  row : Nat
  hard : Bool
deriving DecidableEq, Repr

/-- The counters of one Pyrrel site (R257), and its running highest occupancy. -/
structure KvSite where
  append : W64 := 0
  direct : W64 := 0
  full : W64 := 0
  short : W64 := 0
  decode : W64 := 0
  wait : W64 := 0
  occ : W32 := 0
  runOcc : Nat := 0
  frame : W64 := 0
deriving DecidableEq, Repr

/-! ### Start-up and reset (17_startup_defects_and_reset.md, 01_stack_architecture.md) -/

/-- A defect list entry (R449). -/
structure DefEntry where
  kind : BitVec 16
  unit : Byte
  src : BitVec 2
  id : W32
  firstTs : W64
  firstStart : W32
  lastStart : W32
  count : W32
deriving DecidableEq, Repr

/-- A trip entry (R402): sensor, reading, time. -/
structure Trip where
  sensor : BitVec 16
  reading : BitVec 16
  time : W64
deriving DecidableEq, Repr

/-- Boot and defect state (R442–R468), with the contents of the Cullet store and the flash slot. DESIGN CHOICE (log 7). -/
structure Boot where
  phase : BitVec 4 := 0
  cause : BitVec 4 := 0
  flashBad : Bool := false
  restored : Bool := false
  lifeStatus : Byte := 0
  startCount : W32 := 0
  list : List DefEntry := []
  clearPending : Bool := false
  anomaly : W64 := 0
  softCores : Nat := 0
  softNbus : Nat := 0
  lifeAddr : W64 := 0
  lifeLen : W32 := 0
  lifeLoad : Option NPort := none
  lifeImage : Bool := false
  noticed : Option W64 := none
  strikes : Tab Byte := []
  trips : List Trip := []
  fuseBad : List (Nat × Nat) := []
  flash : List Byte := []
  image : List Byte := []
deriving DecidableEq, Repr

/-- Which units serve (R25, R28, R33, R190–R194, R281): the skipped position of each cluster row (key cluster × 4 + row), rows
whose spare is gone, fenced clusters, hamper banks withdrawn now and at the next run start, the seam ring that ring 8
carries, ring 8 unavailable, rings that failed with no spare. -/
structure Units where
  skip : Tab Nat := []
  spareGone : List Nat := []
  fenced : List Nat := []
  hamperOut : List Nat := []
  hamperNext : List Nat := []
  ring8 : Option Nat := none
  ring8Gone : Bool := false
  ringsFailed : List Nat := []
deriving DecidableEq, Repr

/-- A crossing group's delay code: operating code and the centre it moves to (R18–R22); its monitor's period at its last re-tune, and
the margin review that it was last re-tuned in. DESIGN CHOICE (log 6). -/
structure Cross where
  code : BitVec 6 := 31
  centre : BitVec 6 := 31
  cal : Option W32 := none
  seen : Nat := 0
deriving DecidableEq, Repr

/-- A live sparing in progress (R194–R196). -/
structure Sparing where
  cluster : Nat
  row : Nat
  pos : Nat
  part : Option PartId
  begun : W64
deriving DecidableEq, Repr

/-- A partition reset in progress (R461): the descriptors that asked for it, when it began. -/
structure PReset where
  descs : List DescRef
  begun : W64
deriving DecidableEq, Repr

/-- The mesh and Tack control state (R171, R172, R199, R201, R281, R473): correction counts of the frame are inputs; spares in
use, carriers that deliver poison (0 links, 1 drops, 2 rings) or are fenced (3 Tack links), Tack sequences, failed trees, the checker's position, cycles of replay left by ring. -/
structure Mesh where
  spares : List (Nat × Nat × Nat × Nat) := []
  poisoned : List (Nat × Nat) := []
  seqs : List ((Nat × Nat × Nat) × BitVec 16) := []
  channelFailed : Bool := false
  sidebandFailed : Bool := false
  trees : List Decoder := []
  replay : Tab Nat := []
  role : Bool := false
  bitPos : Nat := 0
  lastTest : W64 := 0
deriving DecidableEq, Repr

/-- A partition (R30, R57, R520): state, image, load, run, run number, records, resets and holds; `ran` and `operated` name the
accepted PART_RUN and NBU_OP descriptors (port × 64 + ring, seq) that R324 and R228 refer to. -/
structure Part where
  st : PartState := .empty
  image : Option Image := none
  load : Option Load := none
  run : Option Run := none
  runNo : W64 := 0
  mode : Option Bool := none
  stats : Tab Stat := []
  slips : Slips := {}
  bubbles : Bubbles := {}
  absorb : W64 := 0
  poisoned : W64 := 0
  reset : Option PReset := none
  resetQueued : Option (List DescRef) := none
  measurement : BitVec 384 := 0
  thermalHalt : Bool := false
  noStart : Bool := false
  hemLost : Bool := false
  ran : List (Nat × W32) := []
  operated : List (Nat × W32) := []
deriving DecidableEq, Repr

/-! ### Temperature, airflow and ageing (15_thermal_and_airflow.md) -/

/-- A die sensor (R395–R399): reading, since when it deviates or is back within, missing since, flags, review count.
DESIGN CHOICE (log 6). -/
structure Sensor where
  reading : BitVec 16 := 0
  flagged : Bool := false
  faulty : Bool := false
  reviews : BitVec 2 := 0
  missing : Option W64 := none
  off : Option W64 := none
  back : Option W64 := none
deriving DecidableEq, Repr

/-- A fan channel (R403, R405): duty common; speed, zero, slow and recovered since, failed. -/
structure Fan where
  rpm : BitVec 16 := 0
  zero : Bool := false
  slow : Option W64 := none
  fine : Option W64 := none
  failed : Bool := false
deriving DecidableEq, Repr

/-- Why airflow was declared lost (R408): the tachs, or θ with its value before the jump, in 0.1 mK/W. -/
inductive Loss where
  | tach
  | theta (before : Int)
deriving DecidableEq, Repr

/-- The Lehr's thermal state. Temperatures are in 1/16 °C. θ lists are newest first, one place per second (none: no value), θ_1s with
that second's duty. `powered` counts frames since the last margin review, `reviewNo` the reviews, `reviewing` is set by review_now until
its review is done; `monCal` holds each monitor's latest sample at this start's calibration, or its first one after it. -/
structure Therm where
  sensor : Tab Sensor := []
  l1est : Tab (BitVec 16) := []
  hot : W32 := 0
  t2hist : List Int := []
  duty : BitVec 8 := 0
  fan : Tab Fan := []
  inlet : BitVec 16 := 0
  inletOk : Bool := false
  inletMiss : Option W64 := none
  inletOverAt : Option W64 := none
  inletSubst : Bool := false
  theta1 : List (Option Int × Nat) := []
  thetaN : List (Option Int) := []
  capAir : Option Nat := none
  degraded : Bool := false
  lost : Option Loss := none
  lostFine : Option W64 := none
  rampExc : W64 := 0
  cool : Tab (Option W64) := []
  tripped : Bool := false
  guard : Tab (BitVec 4) := []
  sliceGuard : BitVec 4 := 0
  hemGuard : BitVec 4 := 0
  bin : Bool := false
  dropPending : Bool := false
  exhausted : Bool := false
  reviews : BitVec 16 := 0
  reviewing : Option W64 := none
  powered : Nat := 0
  reviewNo : Nat := 0
  mon : Tab W32 := []
  monHist : Tab (List (W64 × W32)) := []
  monCal : Tab W32 := []
  monS : Tab (BitVec 16) := []
deriving DecidableEq, Repr

/-! ### Hold-up (16_holdup_and_power_loss.md) -/

/-- The states of a pack, with the codes of HUP_STATUS in this order (R438). -/
inductive PackState where
  | open_ | authenticating | unauthenticated | charging | ready | testing
deriving DecidableEq, Repr

/-- The stages of a power loss (R429–R432): none, ride-through, last will, PWR_SAFE. -/
inductive LossStage where
  | none | ride | safe
deriving DecidableEq, Repr

/-- Counters of a pack, by serial (R425). -/
structure PackCnt where
  cycles : W64 := 0
  thru : W64 := 0
  events : W64 := 0
  rides : W64 := 0
deriving DecidableEq, Repr

/-- A committed last-will record (R434): its seq and its bytes. -/
structure LastWill where
  seq : W32
  bytes : List Byte
deriving DecidableEq, Repr

/-- Hold-up state (R418–R438). Voltages in mV, energies in mJ. The pack: its state, identity record, serial, the challenge sent and when,
when authentication is tried again, polls missed, below v_min since. The latest sample, the resting voltage and since when it stands. The
test: due since, last tried, its start and the resting voltage it began with. What the latest test gave, E_now, the window in µs. The
counters of the present pack and of all (Cullet store). HUP_EN and HUP_TEST. The power loss: stage, acceptance, frozen window, no
guarantee then, during start-up, the registers in use, since when mains is back; the last-will slots; a deferred PERST_N reset; PWR_SAFE.
DESIGN CHOICE (log 6). -/
structure Hup where
  st : PackState := .open_
  record : List Byte := []
  serial : List Byte := []
  challenge : Option (BitVec 256) := none
  authSince : W64 := 0
  retryAt : Option W64 := none
  missed : Nat := 0
  low : Option W64 := none
  mv : Nat := 0
  restMv : Nat := 0
  restSince : W64 := 0
  testDue : Option W64 := none
  testTry : Option W64 := none
  testSince : Option W64 := none
  testMv : Nat := 0
  cap : W32 := 0
  esr : BitVec 16 := 0
  vchg : BitVec 16 := 0
  efull : W32 := 0
  enow : W32 := 0
  window : BitVec 17 := 0
  guarantee : Bool := false
  endOfLife : Bool := false
  measTime : W64 := 0
  cnt : PackCnt := {}
  store : List (List Byte × PackCnt) := []
  cycleLow : Bool := false
  en : Bool := false
  test : Bool := false
  loss : LossStage := .none
  tFail : W64 := 0
  frozen : Nat := 0
  noWindow : Bool := false
  starting : Bool := false
  regsHeld : Option (W32 × W32 × W32) := none
  returned : Option W64 := none
  slot0 : Option LastWill := none
  slot1 : Option LastWill := none
  perstDeferred : Bool := false
  pwrSafe : Bool := false
deriving DecidableEq, Repr

/-! ### Root of trust (19_identity_and_attestation.md) and package (21_package_and_electrical.md) -/

/-- An ATTEST awaiting its signature (R499): its descriptor, buffer and the report's signed bytes. -/
structure Attest where
  desc : DescRef
  addr : W64
  report : List Byte
  time : W64
deriving DecidableEq, Repr

/-- The root of trust (R488–R510): alias keys ready, fuse counter, running svn, revoked slots, the slot that verified the firmware, the counter
the alias keys were derived with, nonce, failed unlocks, scopes unlocked, M1–M3 by number, reports that wait, JTAG instruction, random draws.
DESIGN CHOICE (log 6). -/
structure Rot where
  ready : Bool := false
  counter : Nat := 0
  svn : BitVec 7 := 0
  revoked : BitVec 8 := 0
  slot : Nat := 0
  aliasCounter : Nat := 0
  nonce : BitVec 256 := 0
  failed : BitVec 2 := 0
  jtag : Bool := false
  scan : Bool := false
  meas : Tab (BitVec 384) := []
  queue : List Attest := []
  jtagIr : JtagInstr := .idcode
  draws : Nat := 0
deriving DecidableEq, Repr

/-- Input pins and straps (R530, R531): PERST_N high, low since, PWRFAIL_N high, BRD_ID, CHAIN_POS. -/
structure Pins where
  perst : Bool := false
  perstLow : Option W64 := none
  pwrfail : Bool := true
  brd : BitVec 16 := 0
  chain : BitVec 16 := 0
deriving DecidableEq, Repr

/-! ### Resets and flash updates in progress (R447, R462, R464) -/

/-- A write of the flash in progress: a FW_UPDATE's, or the writing back of a lifeline image (no descriptor). -/
structure FwUpdate where
  desc : Option DescRef
  image : List Byte
deriving DecidableEq, Repr

/-- A Hem reset in progress (R462). -/
structure HemReset where
  desc : Option DescRef
  begun : W64
deriving DecidableEq, Repr

/-! ### The machine -/

/-- Why the machine stops with a fault. -/
inductive Fault where
  /-- Raised by no command of this model: every command the manual gives an effect answers a next state. Kept so that the
  type is not empty; safe. -/
  | none_
deriving DecidableEq, Repr

/-- Why a command is refused. -/
inductive Refusal where
  /-- Raised by Dispatch.lean alone, for a command whose meaning is not written; safe. -/
  | notModelled (mnemonic : String)
deriving DecidableEq, Repr

/-- The whole device, and the queue of the commands that wait, first in first out. Tables keyed by a unit's number list no
unit that is as at reset; `frames` is the number of the frame that goes on (R8); `mgmtOut` is what the next private read of the management port returns (R533); `free` counts the free values taken (the model's own field, not the manual's).
DESIGN CHOICE (log 133). -/
structure State where
  variant : Variant := .a640
  aon : Bool := true
  time : W64 := 0
  frames : W64 := 0
  pins : Pins := {}
  boot : Boot := {}
  units : Units := {}
  fwVersion : W64 := 0
  moduleId : W32 := 0
  staged : Tab W32 := []
  sem : Sem := {}
  fold : Fold := {}
  mgmt : Latch := {}
  mgmtOut : List Byte := []
  nal : Tab Nal := []
  rings : Tab Ring := []
  errRings : Tab ErrRing := []
  mya : Tab Mya := []
  sent : Tab Strm := []
  received : Tab Strm := []
  held : List Held := []
  bars : Tab Bar := []
  parts : Tab Part := []
  cores : Tab Core := []
  slices : Tab CodeMem := []
  baskets : Tab CodeMem := []
  hamper : CodeMem := {}
  stack : CodeMem := {}
  deferred : List Nat := []
  ecc : Tab EccInst := []
  scrub : Tab Scrub := []
  ecct : Ecct := {}
  stk : Tab Stk := []
  banks : Tab Bank := []
  nbus : Tab Nbu := []
  kv : Tab KvSite := []
  kvFull : Bool := false
  appends : List Append := []
  decodes : List Decode := []
  invokes : List Invoke := []
  commits : List Commit := []
  kvJobs : List KvJob := []
  repairs : List Repair := []
  hemOut : List (Nat × List (W64 × Bool)) := []
  xfers : Tab (Option Xfer) := []
  nextXfer : Nat := 0
  fetches : List (Reader × Fetch) := []
  mesh : Mesh := {}
  crossings : List (Crossing × Cross) := []
  sparings : List Sparing := []
  power : Power := {}
  therm : Therm := {}
  hup : Hup := {}
  rot : Rot := {}
  darn : Darn := {}
  hemReset : Option HemReset := none
  devReset : Option (W64 × BitVec 4) := none
  fwUpdate : Option FwUpdate := none
  oscLost : Bool := false
  pllLost : List ClockId := []
  free : Nat := 0
  pending : List Instr := []
deriving DecidableEq, Repr

/-- The device as VDD_AON comes up: the timestamp zero, boot ROM phase, every register at its reset value, every memory zero
with valid check bits, no command waiting. DESIGN CHOICE (log 2, 3, 4, 6, 7); DEDUCED (log 8). -/
def State.reset : State := {}

end Sys2Proof.Machine
end

