-- ==== Sys2Proof/Machine/Regs.lean ====
section
/-! DEFINITION. What the variant enables (R2), and the staged registers of the set-up map with their reset values, reserved
bits and legal ranges (R336, R524), read and written by offset. -/

namespace Sys2Proof.Machine

/-! Status codes (R6) -/

/-- OK. -/
abbrev ok : Byte := 0x00
/-- E_RANGE. -/
abbrev eRange : Byte := 0x01
/-- E_RESERVED. -/
abbrev eReserved : Byte := 0x02
/-- E_ALIGN. -/
abbrev eAlign : Byte := 0x03
/-- E_LEVEL. -/
abbrev eLevel : Byte := 0x04
/-- E_OWNER. -/
abbrev eOwner : Byte := 0x05
/-- E_FROZEN. -/
abbrev eFrozen : Byte := 0x06
/-- E_INCONSISTENT. -/
abbrev eInconsistent : Byte := 0x07
/-- E_BUSY_RANGE. -/
abbrev eBusyRange : Byte := 0x08
/-- E_NO_RESOURCE. -/
abbrev eNoResource : Byte := 0x09
/-- E_PARTITION. -/
abbrev ePartition : Byte := 0x0A
/-- E_AUTH. -/
abbrev eAuth : Byte := 0x0B
/-- E_SEQ. -/
abbrev eSeq : Byte := 0x0C
/-- E_STATE. -/
abbrev eState : Byte := 0x0D
/-- S_ABORTED. -/
abbrev sAborted : Byte := 0x10
/-- S_ABORT_LATE. -/
abbrev sAbortLate : Byte := 0x11
/-- S_RESET_ABORT. -/
abbrev sResetAbort : Byte := 0x12
/-- S_POISON. -/
abbrev sPoison : Byte := 0x13
/-- S_TIMEOUT. -/
abbrev sTimeout : Byte := 0x14
/-- S_SLIP_LIMIT. -/
abbrev sSlipLimit : Byte := 0x15
/-- S_LINK_DOWN. -/
abbrev sLinkDown : Byte := 0x16

/-- One of the twenty codes of R6 that are no OK, by a free value. DESIGN CHOICE (log 48). -/
def failure (k : Nat) : Byte := BitVec.ofNat 8 (if k % 20 < 13 then k % 20 + 1 else k % 20 + 3)

/-! The variant (R2) -/

/-- The enabled stack sites, ascending. DESIGN CHOICE (log 4). -/
def sitesOf : Variant → List Nat
  | .c480 => [0, 1, 2, 4, 5, 6]
  | _ => [0, 1, 2, 3, 4, 5, 6, 7]

/-- The enabled Pyrrel sites. -/
def pyrrelOf : Variant → List Nat
  | .c480 => [0, 1, 2]
  | _ => [0, 1, 2, 3]

/-- Whether a cluster is enabled. DESIGN CHOICE (log 4). -/
def clusterOn (v : Variant) (c : Nat) : Bool :=
  match v with
  | .b640 => decide (c < 32) && decide (c % 16 < 12)
  | _ => decide (c < 32)

/-- How many Myarn ports are enabled. DESIGN CHOICE (log 4). -/
def myarnPorts : Variant → Nat
  | .b640 => 4
  | _ => 8

/-- The cap ceiling, in W. -/
def capCeiling : Variant → Nat
  | .a640 => 1200
  | .b640 => 950
  | .c480 => 1150

/-- The variant's code in IDENT_PART (R518). -/
def variantCode : Variant → Nat
  | .a640 => 1
  | .b640 => 2
  | .c480 => 3

/-- Whether an NBU is enabled. -/
def nbuOn (v : Variant) (id : Nat) : Bool := decide (id < 1024) && (pyrrelOf v).contains (id / 256)

/-- The cluster of a logical core (R26). -/
def clusterOf (core : Nat) : Nat := core / 512 * 16 + core / 32 % 16 / 4 * 4 + core % 32 / 8

/-- Whether a logical core is enabled. -/
def coreOn (v : Variant) (core : Nat) : Bool := decide (core < 1024) && clusterOn v (clusterOf core)

/-! The staged registers (R336, R524) -/

/-- A staged register: whether it is FRZ, its reset value, its reserved bits, and the status of a value outside its range. -/
structure Staged where
  frz : Bool
  reset : W32
  rsv : W32
  bad : W32 → Option Byte

/-- A range check. -/
def inRange (x lo hi : Nat) : Option Byte := if lo ≤ x ∧ x ≤ hi then none else some eRange

/-- The first failing check of a list. -/
def firstBad (l : List (Option Byte)) : Option Byte := l.findSome? id

/-- An RWS register with no range beyond its width. -/
def rws (reset rsv : W32) : Option Staged := some ⟨false, reset, rsv, fun _ => none⟩
/-- An RWS register with a range check. -/
def rwsIn (reset rsv : W32) (bad : W32 → Option Byte) : Option Staged := some ⟨false, reset, rsv, bad⟩
/-- An FRZ register with a range check. -/
def frzIn (reset rsv : W32) (bad : W32 → Option Byte) : Option Staged := some ⟨true, reset, rsv, bad⟩

/-- An owner nibble is a partition or none (R214). -/
def ownersBad (v : W32) : Option Byte :=
  if (upFrom 0 8).all (fun j => (bits v (4 * j + 3) (4 * j) < 8) || (bits v (4 * j + 3) (4 * j) == 15)) then none
  else some eRange

/-- The LEHR registers of R394 and R417. -/
def lehrStaged (v : Variant) (o : Nat) : Option Staged :=
  if o < 0x10 ∧ o % 4 = 0 then
    rwsIn (match o / 4 with | 0 => BitVec.ofNat 32 (capCeiling v) | 1 => 600 | 2 => 450 | _ => 300) 0xFFFFF800
      (fun x => inRange (bits x 10 0) 300 (capCeiling v))
  else match o with
  | 0x14 => rwsIn 4 0xFFFFFFF0 (fun x => inRange (bits x 3 0) 1 10)
  | 0x18 => rwsIn 3000 0xFFFFF000 (fun x => inRange (bits x 11 0) 100 3000)
  | 0x1C => rwsIn 0x01002028 0x0000C080 (fun x => firstBad [inRange (bits x 6 0) 10 100, inRange (bits x 13 8) 8 56,
      inRange (bits x 31 16) 64 65535])
  | 0x20 => rwsIn 600 0xFFFFFC00 (fun x => inRange (bits x 9 0) 100 600)
  | 0x24 => rwsIn 0x105A 0xFFFFC080 (fun x => firstBad [inRange (bits x 6 0) 50 100, inRange (bits x 13 8) 8 56])
  | 0x28 => rwsIn 8 0xFFFFFFC0 (fun x => inRange (bits x 5 0) 0 56)
  | 0x104 => rwsIn 0x002D1E55 0xFF000000 (fun x => firstBad [inRange (bits x 7 0) 60 95, inRange (bits x 15 8) 20 100,
      inRange (bits x 23 16) 25 55])
  | 0x108 => rwsIn 0 0xFFFF0000 (fun x => if bits x 15 0 = 0 then none else inRange (bits x 15 0) 50 2000)
  | _ => none

/-- The PART registers of R520. -/
def partStaged (o : Nat) : Option Staged :=
  if o < 0x100 then (if o % 0x20 = 0 then rws 0 0 else none)
  else if 0x4000 ≤ o ∧ o < 0x4200 then
    match o % 0x40 with
    | 0x00 => rwsIn 4 0xFFFFFFE0 (fun x => inRange (bits x 4 0) 1 24)
    | 0x04 => rwsIn 0x00030000 0xFFE00000 (fun x => inRange (bits x 20 16) 1 20)
    | 0x08 => rwsIn 2 0xFFFFF800 (fun x => inRange (bits x 10 0) 0 1000)
    | 0x0C => frzIn 10 0xFFFFFC00 (fun x => inRange (bits x 9 0) 1 1000)
    | 0x10 => rwsIn 0x3E803A98 0 (fun x => firstBad [inRange (bits x 31 20) 1 4000, inRange (bits x 19 0) 1 1048575])
    | 0x14 => rws 0 0xFFFFFFFE
    | _ => none
  else match o with
  | 0x5000 => frzIn 0 0xF0000000 (fun _ => none)
  | 0x5004 => frzIn 0 0xFFFE0000 (fun x => inRange (bits x 16 0) 0 65536)
  | _ => none

/-- A word of a route (R351): word i of its six; words 4 and 5 are reserved. DEDUCED (log 24). -/
def routeStaged (i : Nat) : Option Staged :=
  match i with
  | 0 => rws 0 0
  | 1 => rws 0 0
  | 2 => rws 0 0xFFF00000
  | 3 => rws 0 0
  | _ => rws 0 0xFFFFFFFF

/-- The registers of one barrier (R363). DEDUCED (log 24). -/
def barStaged (o : Nat) : Option Staged :=
  match o with
  | 0x00 => rwsIn 0xF 0xFF000000 (fun x => firstBad [if bits x 3 0 < 8 ∨ bits x 3 0 = 15 then none else some eRange,
      inRange (bits x 7 5) 0 4,
      if bits x 3 0 < 8 ∧ bits x 23 8 + bits x 7 5 = 0 then some eRange else none])
  | 0x04 => rwsIn 10000 0xFFF00000 (fun x => inRange (bits x 19 0) 0 1000000)
  | 0x08 => rws 0 0xFFFFFF00
  | 0x0C => rws 0 0
  | _ => if 0x20 ≤ o ∧ o < 0x38 ∧ o % 4 = 0 then routeStaged ((o - 0x20) / 4)
         else if 0x38 ≤ o ∧ o < 0x98 ∧ o % 4 = 0 then routeStaged ((o - 0x38) % 0x18 / 4)
         else none

/-- The staged register at a set-up offset on a variant: none where the offset holds none, or holds one of a fused-off
unit. -/
def stagedAt (v : Variant) (off : Nat) : Option Staged :=
  if off % 4 ≠ 0 then none
  else match off / 0x10000 with
  | 0x01 => if off = 0x10018 then rws 0 0xFFFFFF00 else none
  | 0x30 => match off % 0x10000 with
    | 0x100 => frzIn 0 0xFFFFFFFE (fun _ => none)
    | 0x104 => rwsIn 0x10 0xFFFFFF00 (fun x => inRange (bits x 7 0) 1 255)
    | 0x108 => frzIn 0x28 0xFFFFFF80 (fun x => inRange (bits x 6 0) 16 64)
    | _ => none
  | 0x50 =>
    let o := off % 0x10000
    if o < 0x200 then (if (pyrrelOf v).contains (o / 4 / 32) then rwsIn 0xFFFFFFFF 0 ownersBad else none)
    else if o = 0x300 then rwsIn 0x32 0xFFFFFC00 (fun x => inRange (bits x 9 0) 1 1000)
    else if o = 0x304 then frzIn 0x668 0xFFFF0000 (fun x => inRange (bits x 15 0) 64 32768)
    else none
  | 0x70 => lehrStaged v (off % 0x10000)
  | 0x78 => match off % 0x10000 with
    | 0x4 => rwsIn 0x005A0A32 0xFF000080 (fun x => firstBad [inRange (bits x 6 0) 0 100, inRange (bits x 15 8) 5 50,
        inRange (bits x 23 16) 70 99])
    | 0x8 => rwsIn 60 0xFFFFFC00 (fun x => inRange (bits x 9 0) 0 500)
    | 0xC => rwsIn 0x0F043990 0xE0000000 (fun x => firstBad [inRange (bits x 9 0) 100 600, inRange (bits x 21 10) 50 2550,
        inRange (bits x 28 22) 10 100])
    | _ => none
  | 0x80 => match off % 0x10000 with
    | 0x0 => rwsIn 0x100 0xFFFFFC00 (fun x => inRange (bits x 9 0) 16 1023)
    | 0xF00 => rwsIn 0x0018003C 0xFF00F800 (fun x => firstBad [inRange (bits x 23 16) 0 168,
        if bits x 10 0 = 0 then none else inRange (bits x 10 0) 10 1440])
    | 0xF04 => rwsIn 0x10 0xFFFFFF00 (fun x => inRange (bits x 7 0) 2 255)
    | _ => none
  | 0xA0 => partStaged (off % 0x10000)
  | 0xB0 => barStaged (off % 0x100)
  | 0xD0 =>
    let o := off % 0x10000
    if 0x1000 ≤ o ∧ o < 0x1800 ∧ o % 0x100 < 0x80 then
      match o % 0x10 with
      | 0 => rwsIn 0 0 (fun x => if bits x 11 0 = 0 then none else some eAlign)
      | 4 => rws 0 0xFFFFFF00
      | 8 => rws 0 0xF0000000
      | _ => rws 0 0xFFFFFFFF
    else none
  | b =>
    if 0x60 ≤ b ∧ b < 0x60 + myarnPorts v then
      let o := off % 0x10000
      if o = 4 then rwsIn 0x10006401 0x000000FE (fun x => firstBad [inRange (bits x 31 16) 1 65535,
        inRange (bits x 15 8) 1 255])
      else if 0xC000 ≤ o then
        match o % 16 with
        | 0 => rwsIn 0 0 (fun x => if bits x 3 0 = 0 then none else some eRange)
        | 4 => rws 0 0
        | 8 => rwsIn 0x0000FFFF 0xFFFE0000 (fun x => if bits x 15 0 < 1024 ∨ bits x 15 0 = 0xFFFF then none else some eRange)
        | _ => rws 0 0xFFFFFFFF
      else none
    else none

/-- The applied value of a staged register; zero where the variant has none. -/
def reg (s : State) (off : Nat) : W32 :=
  match stagedAt s.variant off with
  | some r => tget r.reset s.staged off
  | none => 0

/-- Applies a staged value. -/
def setReg (s : State) (off : Nat) (v : W32) : State :=
  match stagedAt s.variant off with
  | some r => { s with staged := tset r.reset s.staged off v }
  | none => s

/-- The value a staged register takes with the fold laid over (R338). -/
def overlaid (s : State) (off : Nat) : W32 :=
  match s.fold.words.lookup off with
  | some v => v
  | none => reg s off

/-! Fields that rules name -/

/-- The Nalson port that GAF_PORTMAP maps a partition to (R332). -/
def portOf (s : State) (n : Nat) : NPort := if bitAt (reg s 0x10018) n then 1 else 0
/-- The clusters of partition n. -/
def clustersOf (s : State) (n : Nat) : W32 := reg s (0xA00000 + 0x20 * n)
/-- Whether partition n is set up. -/
def isSetUp (s : State) (n : Nat) : Bool := clustersOf s n != 0
/-- stripe_gib. -/
def stripeGib (s : State) : Nat := bits (reg s 0x300108) 6 0
/-- steer_count. -/
def steerCount (s : State) : Nat := bits (reg s 0x300104) 7 0
/-- HEM_TACK_MODE. -/
def tackMode (s : State) : Bool := bitAt (reg s 0x300100) 0
/-- The Tack node of L0; a core's node is its logical id. DESIGN CHOICE (log 96). -/
def tackL0 : Nat := 0x8000
/-- A Tack message from src to dst on a channel takes the next number of its sequence (R199). DEDUCED (log 96). -/
def tackMessage (s : State) (src dst chan : Nat) : State :=
  let k := (src, dst, chan)
  let seqs := if s.mesh.seqs.any (fun x => x.1 == k) then s.mesh.seqs.map (fun x => if x.1 = k then (x.1, x.2 + 1) else x)
    else s.mesh.seqs ++ [(k, 1)]
  { s with mesh := { s.mesh with seqs } }
/-- The core whose page an offset lies in (R115): its registers are read over Tack (R198). -/
def tackCore (off : Nat) : Option Nat :=
  if 0x1000000 ≤ off ∧ off < 0x1400000 then some ((off - 0x1000000) / 0x1000) else none
/-- Whether a request to a register finds the Tack seam channel failed on its path (R201). DEDUCED (log 96). -/
def tackLost (s : State) (off : Nat) : Bool :=
  match tackCore off with
  | some c => s.mesh.channelFailed && Config.tackCrosses (c / 32)
  | none => false
/-- The request for a register of a core's page and its response (R198, R199); a request that is lost has no response. -/
def tackRead (s : State) (off : Nat) : State :=
  match tackCore off with
  | some c =>
    let s := tackMessage s tackL0 c 0
    if tackLost s off then s else tackMessage s c tackL0 0
  | none => s
/-- log_kib. -/
def logKib (s : State) : Nat := bits (reg s 0x500304) 15 0
/-- The owner field of an NBU (R214). -/
def nbuOwner (s : State) (id : Nat) : Nat := bits (reg s (0x500000 + id / 8 * 4)) (4 * (id % 8) + 3) (4 * (id % 8))
/-- PYR_OPLIMIT, in ms. -/
def opLimit (s : State) : Nat := bits (reg s 0x500300) 9 0
/-- rate_max of DARN_CTL. -/
def rateMax (s : State) : Nat := bits (reg s 0x800000) 9 0
/-- ppr_count. -/
def pprCount (s : State) : Nat := bits (reg s 0x800F04) 7 0
/-- PART_PBT_COUNT. -/
def pbtCount (s : State) : Nat := bits (reg s 0xA05004) 16 0
/-- The base address of the parameter block table. -/
def pbtBase (s : State) : Nat := bits (reg s 0xA05000) 27 0 * 4096
/-- Whether partition n is in test mode (R282). -/
def testMode (s : State) (n : Nat) : Bool := bitAt (reg s (0xA04014 + 0x40 * n)) 0
/-- Ticks in a number of milliseconds (R7). DESIGN CHOICE (log 10). -/
def msTicks (n : Nat) : Nat := 25000 * n
/-- Ticks since an instant. DESIGN CHOICE (log 10). -/
def since (s : State) (t : W64) : Nat := (s.time - t).toNat
/-- The frame number (R8). -/
def frameNo (s : State) : W64 := s.time / 25000

end Sys2Proof.Machine
end

