-- ==== Sys2Proof/Machine/Ops.lean ====
section
/-! DEFINITION. The operations all commands share: units of State read and changed by number, what leaves by a Nalson port,
reads of host memory, Darner records (R479–R486), completions and the common checks of descriptors (R315–R320). -/

namespace Sys2Proof.Machine

/-! Bytes, little-endian (R3) -/

/-- The n low bytes of a number, lowest first. -/
def leBytes : Nat → Nat → List Byte
  | _, 0 => []
  | x, n + 1 => BitVec.ofNat 8 (x % 256) :: leBytes (x / 256) n

/-- The number of a little-endian byte string. -/
def leNat : List Byte → Nat
  | [] => 0
  | b :: t => b.toNat + 256 * leNat t

/-- Bytes a to a + n − 1 of a string, as a number; bytes beyond its end are zero. -/
def field (l : List Byte) (a n : Nat) : Nat := leNat ((l.drop a).take n)

/-- Zero bytes. -/
def zeros (n : Nat) : List Byte := List.replicate n 0

/-! Units by number -/

/-- Partition n. -/
def partAt (s : State) (n : Nat) : Part := tget {} s.parts n
/-- Changes partition n. -/
def modPart (s : State) (n : Nat) (f : Part → Part) : State := { s with parts := tmod {} s.parts n f }
/-- Logical core n. -/
def coreAt (s : State) (n : Nat) : Core := tget {} s.cores n
/-- Changes logical core n. -/
def modCore (s : State) (n : Nat) (f : Core → Core) : State := { s with cores := tmod {} s.cores n f }
/-- Engine e of a core. -/
def engAt (c : Core) (e : Nat) : Eng := tget {} c.eng e
/-- Changes engine e of a core. -/
def modEng (c : Core) (e : Nat) (f : Eng → Eng) : Core := { c with eng := tmod {} c.eng e f }
/-- Nalson port p. -/
def nalAt (s : State) (p : NPort) : Nal := tget {} s.nal p.val
/-- Changes Nalson port p. -/
def modNal (s : State) (p : NPort) (f : Nal → Nal) : State := { s with nal := tmod {} s.nal p.val f }
/-- Myarn port n. -/
def myaAt (s : State) (n : Nat) : Mya := tget {} s.mya n
/-- Changes Myarn port n. -/
def modMya (s : State) (n : Nat) (f : Mya → Mya) : State := { s with mya := tmod {} s.mya n f }
/-- Ring r of port p. -/
def ringAt (s : State) (p : NPort) (r : RingId) : Ring := tget {} s.rings (p.val * 64 + r.val)
/-- Changes ring r of port p. -/
def modRing (s : State) (p : NPort) (r : RingId) (f : Ring → Ring) : State :=
  { s with rings := tmod {} s.rings (p.val * 64 + r.val) f }
/-- The error ring of port p. -/
def errAt (s : State) (p : NPort) : ErrRing := tget {} s.errRings p.val
/-- Changes the error ring of port p. -/
def modErr (s : State) (p : NPort) (f : ErrRing → ErrRing) : State := { s with errRings := tmod {} s.errRings p.val f }
/-- NBU id. -/
def nbuAt (s : State) (id : Nat) : Nbu := tget {} s.nbus id
/-- Changes NBU id. -/
def modNbu (s : State) (id : Nat) (f : Nbu → Nbu) : State := { s with nbus := tmod {} s.nbus id f }
/-- Barrier k. -/
def barAt (s : State) (k : Nat) : Bar := tget {} s.bars k
/-- Changes barrier k. -/
def modBar (s : State) (k : Nat) (f : Bar → Bar) : State := { s with bars := tmod {} s.bars k f }
/-- Stack site n. -/
def stkAt (s : State) (n : Nat) : Stk := tget {} s.stk n
/-- Changes stack site n. -/
def modStk (s : State) (n : Nat) (f : Stk → Stk) : State := { s with stk := tmod {} s.stk n f }

/-- The numbers of the partitions. -/
def allParts : List Nat := [0, 1, 2, 3, 4, 5, 6, 7]
/-- Both Nalson ports. -/
def bothPorts : List NPort := [0, 1]
/-- The other Nalson port. -/
def otherPort (p : NPort) : NPort := if p = 0 then 1 else 0
/-- The partition that holds a cluster, if any (R30). -/
def partOfCluster (s : State) (c : Nat) : Option Nat := allParts.find? (fun n => bitAt (clustersOf s n) c)
/-- The clusters of partition n, ascending. -/
def clusterList (s : State) (n : Nat) : List Nat := (upFrom 0 32).filter (fun c => bitAt (clustersOf s n) c)
/-- A partition number as an operand of a record. -/
def partNo (n : Nat) : BitVec 4 := BitVec.ofNat 4 n
/-- A partition as bounded number. -/
def partFin (n : Nat) : PartId := ⟨n % 8, Nat.mod_lt _ (by decide)⟩

/-! Shape of a partition (R44, R45) -/

/-- The place of a cluster in the 4 × 8 grid of R44: row, column. -/
def clusterCell (c : Nat) : Nat × Nat := (c % 16 / 4, c / 16 * 4 + c % 4)
/-- The cluster at row j, column k of that grid. -/
def cellCluster (j k : Nat) : Nat := k / 4 * 16 + j * 4 + k % 4

/-- The rectangle of a set of clusters: first row, first column, rows, columns in W, columns in E; none when the set is
empty or no rectangle of R44. -/
def shapeOf (m : W32) : Option (Nat × Nat × Nat × Nat × Nat) :=
  match ((upFrom 0 32).filter (fun c => bitAt m c)).map clusterCell with
  | [] => none
  | x :: t =>
    let cells := x :: t
    let j0 := cells.foldl (fun a p => min a p.1) 3
    let j1 := cells.foldl (fun a p => max a p.1) 0
    let k0 := cells.foldl (fun a p => min a p.2) 7
    let k1 := cells.foldl (fun a p => max a p.2) 0
    if cells.length = (j1 + 1 - j0) * (k1 + 1 - k0) then
      some (j0, k0, j1 + 1 - j0, min (k1 + 1) 4 - min k0 4, max (k1 + 1) 4 - max k0 4)
    else none

/-- The logical core of a partition-relative row and column (R45). -/
def relCore (j0 k0 r c : Nat) : Nat :=
  let d := 8 * k0 + c
  d / 32 * 512 + (4 * j0 + r) * 32 + d % 32

/-- The logical cores of partition n in partition-relative index order (R45). -/
def coresOf (s : State) (n : Nat) : List Nat :=
  match shapeOf (clustersOf s n) with
  | none => []
  | some (j0, k0, h, ww, we) =>
    (upFrom 0 (4 * h)).flatMap (fun r => (upFrom 0 (8 * (ww + we))).map (fun c => relCore j0 k0 r c))

/-- Changes every core of partition n. -/
def modCores (s : State) (n : Nat) (f : Core → Core) : State := (coresOf s n).foldl (fun s c => modCore s c f) s

/-! Nalson egress and host reads -/

/-- A port that transactions may leave by: up, or retraining with its buffers kept (R306). -/
def nalUp (s : State) (p : NPort) : Bool :=
  match (nalAt s p).lk.phase with
  | .up => true
  | .retraining => true
  | .full => true
  | _ => false

/-- Queues a transaction at a port that is up; at a down port nothing leaves. -/
def pushTxn (s : State) (p : NPort) (t : Txn) : State :=
  if nalUp s p then modNal s p (fun n => { n with egress := n.egress ++ [t] }) else s

/-- Queues transactions in order. -/
def pushTxns (s : State) (p : NPort) (l : List Txn) : State := l.foldl (fun s t => pushTxn s p t) s

/-- The lowest request tag that is neither outstanding nor retired (R299). -/
def freeTag (n : Nal) : Option Nat :=
  (upFrom 0 1024).find? (fun t => !(n.tags.any (fun x => x.1 == t)) && !(n.retired.any (fun x => x.1 == t)))

/-- Bytes of the reads outstanding at a port (R295). -/
def readBytes (n : Nal) : Nat := n.tags.foldl (fun a x => a + x.2.len) 0

/-- Issues waiting reads while tags and the 4 MiB of R295 allow. -/
def pumpReads (s : State) (p : NPort) : Nat → State
  | 0 => s
  | fuel + 1 =>
    let n := nalAt s p
    match n.waiting, freeTag n with
    | r :: rest, some t =>
      if readBytes n + r.len ≤ 4194304 ∧ n.tags.length < 1024 then
        pumpReads (pushTxn (modNal s p (fun n => { n with waiting := rest, tags := n.tags ++ [(t, { r with issued := s.time })] }))
          p (.mrd t r.len r.addr)) p fuel
      else s
    | _, _ => s

/-- Asks for a read of host memory through a port. -/
def askRead (s : State) (p : NPort) (r : Mrd) : State :=
  let s := modNal s p (fun n => { n with waiting := n.waiting ++ [r] })
  pumpReads s p (nalAt s p).waiting.length

/-- Bytes of the next host access: none crosses a 4 KiB boundary (R297). -/
def hostChunk (addr left : Nat) : Nat := min left (4096 - addr % 4096)

/-- The bytes that reads ask for to bring n bytes: a multiple of 8 (R297). -/
def wholeWords (n : Nat) : Nat := 8 * ceilDiv n 8

/-- The fetch of a reader. DESIGN CHOICE (log 142). -/
def fetchOf (s : State) (id : Reader) : Option Fetch := s.fetches.lookup id

/-- Sets the fetch of a reader. -/
def setFetch (s : State) (id : Reader) (f : Fetch) : State :=
  { s with fetches := s.fetches.map (fun x => if x.1 = id then (id, f) else x) }

/-- Removes the fetch of a reader; what still comes in for it is not wanted. DESIGN CHOICE (log 142). -/
def dropFetch (s : State) (id : Reader) : State := { s with fetches := s.fetches.filter (fun x => x.1 != id) }

/-- Asks for the next bytes of a fetch, from byte `off` on. DESIGN CHOICE (log 142). -/
def askFetch (s : State) (f : Fetch) (off : Nat) : State :=
  let a := f.addr + BitVec.ofNat 64 off
  askRead s f.port { addr := a, len := hostChunk a.toNat (wholeWords f.len - off), owner := .fetch f.no off }

/-- A fetch begins. DESIGN CHOICE (log 142). -/
def beginFetch (s : State) (id : Reader) (p : NPort) (addr : W64) (len : Nat) : State :=
  let f : Fetch := { no := s.nextXfer, port := p, addr, len, res := if nalUp s p then none else some .portDown }
  let s := { s with fetches := s.fetches ++ [(id, f)], nextXfer := s.nextXfer + 1 }
  if f.res.isSome then s else askFetch s f 0

/-- What a reader does with len bytes of host memory: it fetches them first. DESIGN CHOICE (log 142). -/
def fetched (s : State) (id : Reader) (p : NPort) (addr : W64) (len : Nat) (k : State → HostRead → State) : State :=
  match fetchOf s id with
  | none => beginFetch s id p addr len
  | some f => match f.res with
    | none => s
    | some r => k (dropFetch s id) r

/-- Sends transactions on port p once every write that already left by port q is visible (R302). -/
def afterFlush (s : State) (q : NPort) (l : List Txn) : State :=
  if nalUp s q then askRead s q { addr := 0, len := 0, owner := .flush l } else pushTxns s (otherPort q) l

/-! Darner records (R479–R486) -/

/-- What a raising rule names of a record, and how many events it covers. -/
structure Report where
  kind : Nat
  unit : Nat := 0
  id : Nat := 0
  part : Option Nat := none
  station : Option Nat := none
  status : Byte := 0
  detail : Nat := 0
  count : Nat := 1
deriving DecidableEq, Repr

/-- The alerting kinds of R480. -/
def alertingKinds : List Nat :=
  [0x105, 0x106, 0x10A, 0x10C, 0x203, 0x206, 0x207, 0x209, 0x305, 0x307, 0x402, 0x505, 0x507, 0x604, 0x701, 0x702, 0x708,
   0x803, 0x806, 0x807, 0x808, 0x809, 0x80A, 0x901, 0x902, 0x904, 0x907, 0x908, 0xA01, 0xA02, 0xA05, 0xA06, 0xB02]

/-- Whether a kind alerts. -/
def alerting (k : Nat) : Bool := alertingKinds.contains k

/-- The 32 bytes of a record (R479). -/
def recBytes (r : Rec) : List Byte :=
  leBytes r.kind.toNat 2 ++ [r.flags, r.status] ++ leBytes r.seq.toNat 4 ++ leBytes r.time.toNat 8 ++
  [r.unit, BitVec.ofNat 8 r.part.toNat] ++ leBytes r.station.toNat 2 ++ leBytes r.id.toNat 4 ++
  leBytes r.count.toNat 2 ++ [0, 0] ++ leBytes r.detail.toNat 4

/-- Entries of a ring configuration (R311). -/
def cfgEntries (cfg : W32) : Nat := 2 ^ bits cfg 4 0
/-- The enable bit of a ring configuration. -/
def cfgEnabled (cfg : W32) : Bool := bitAt cfg 13
/-- The vector of a ring configuration. -/
def cfgVector (cfg : W32) : W64 := BitVec.ofNat 64 (bits cfg 12 5)

/-- Writes a record to the error ring of a port (R335): whether it was written. A full, disabled or down ring counts it in
ERR_DROP. -/
def ringWrite (s : State) (p : NPort) (r : Rec) : State × Bool :=
  let e := errAt s p
  let next := (e.prod.toNat + 1) % cfgEntries e.cfg
  if cfgEnabled e.cfg && nalUp s p && next != e.cons.toNat then
    (pushTxns (modErr s p (fun e => { e with prod := BitVec.ofNat 16 next })) p
      [.mwr (e.base + BitVec.ofNat 64 (32 * e.prod.toNat)) (recBytes r), .msg 1 (cfgVector e.cfg)], true)
  else (modErr s p (fun e => { e with drop := e.drop + 1 }), false)

/-- The ports a record goes to (R482): the port of its partition, or every port whose error ring is enabled. -/
def recPorts (s : State) (part : Option Nat) : List NPort :=
  match part with
  | some n => [portOf s n]
  | none => bothPorts.filter (fun p => cfgEnabled (errAt s p).cfg)

/-- Writes a record: local log, error rings, notices of an alerting kind, ALERT_N (R482, R486). DEDUCED (log 131). -/
def writeRec (s : State) (rep : Report) (flags : Nat) (count : Nat) (time : W64) (detail : Nat) : State :=
  let d := s.darn
  let al := alerting rep.kind
  let r : Rec := { kind := BitVec.ofNat 16 rep.kind, flags := BitVec.ofNat 8 (flags + if al then 4 else 0),
                   status := rep.status, seq := d.seq + 1, time := time, unit := BitVec.ofNat 8 rep.unit,
                   part := match rep.part with | some n => partNo n | none => 0xF,
                   station := match rep.station with | some n => BitVec.ofNat 16 n | none => 0xFFFF,
                   id := BitVec.ofNat 32 rep.id, count := BitVec.ofNat 16 (min count 65535),
                   detail := BitVec.ofNat 32 detail }
  let s := { s with darn := { d with log := tset {} d.log d.head.toNat r, head := d.head + 1, seq := r.seq,
                                     records := d.records + 1, pending := d.pending || al } }
  let w := (recPorts s rep.part).foldl (fun (a : State × List NPort) p =>
    let x := ringWrite a.1 p r
    (x.1, if x.2 then a.2 ++ [p] else a.2)) (s, [])
  if al then
    let note : Txn := .msg 2 (BitVec.ofNat 64 (rep.kind + min count 65535 * 65536 + d.head.toNat * 2 ^ 32))
    bothPorts.foldl (fun s p =>
      if !nalUp s p then s
      else if w.2.isEmpty || w.2.contains p then pushTxn s p note else afterFlush s (otherPort p) [note]) w.1
  else w.1

/-- Counts a report of the storm state in the kind table (R484). -/
def stormCount (s : State) (kind : Nat) : State :=
  let d := s.darn
  let k := BitVec.ofNat 16 kind
  if d.kinds.any (fun x => x.kind == k) then
    { s with darn := { d with kinds := d.kinds.map (fun x => if x.kind = k then { x with count := x.count + 1 } else x) } }
  else if d.kinds.length < 32 then { s with darn := { d with kinds := d.kinds ++ [⟨k, 1, s.time⟩] } }
  else { s with darn := { d with overflow := d.overflow + 1 } }

/-- A report in the storm state: up to 16 alerting reports of a frame are written, all others counted (R484). DEDUCED (log 131). -/
def stormReport (s : State) (rep : Report) : State :=
  if alerting rep.kind ∧ s.darn.stormAlerts < 16 then
    writeRec { s with darn := { s.darn with stormAlerts := s.darn.stormAlerts + 1 } } rep 0 rep.count s.time rep.detail
  else stormCount s rep.kind

/-- Whether a coalescing entry has the report's kind and source (R483). -/
def sameSource (c : Coal) (rep : Report) : Bool :=
  c.first.kind == BitVec.ofNat 16 rep.kind && c.first.unit == BitVec.ofNat 8 rep.unit &&
  c.first.id == BitVec.ofNat 32 rep.id &&
  c.first.part == (match rep.part with | some n => partNo n | none => 0xF) &&
  c.first.station == (match rep.station with | some n => BitVec.ofNat 16 n | none => 0xFFFF)

/-- Raises a Darner record: coalescing (R483), the storm state (R484), delivery (R482). DEDUCED (log 131). -/
def raise (s : State) (rep : Report) : State :=
  let d := { s.darn with frameReports := s.darn.frameReports + 1 }
  let s := { s with darn := d }
  if d.storm then stormReport s rep
  else if d.sources.any (fun c => sameSource c rep) then
    { s with darn := { d with coalesced := d.coalesced + 1,
                              sources := d.sources.map (fun c => if sameSource c rep then
                                { c with more := c.more + 1, moreTime := if c.more = 0 then s.time else c.moreTime } else c) } }
  else if rateMax s ≤ d.frameRecs then
    let s := { s with darn := { d with storm := true, stormFrames := d.stormFrames + 1 } }
    stormReport (writeRec s { kind := 0xB02 } 0 1 s.time 0) rep
  else
    let s := writeRec { s with darn := { d with frameRecs := d.frameRecs + 1 } } rep 0 rep.count s.time rep.detail
    let first := tget {} s.darn.log (s.darn.head - 1).toNat
    { s with darn := { s.darn with sources := s.darn.sources ++ [⟨first, 0, 0⟩] } }

/-- The report that a written record came from. -/
def reportOf (r : Rec) : Report :=
  { kind := r.kind.toNat, unit := r.unit.toNat, id := r.id.toNat,
    part := if r.part = 0xF then none else some r.part.toNat,
    station := if r.station = 0xFFFF then none else some r.station.toNat, status := r.status, detail := r.detail.toNat }

/-- The end of a frame at the Darner: follow-ups (R483), storm summaries, the end of the storm (R484). DEDUCED (log 99, 131). -/
def darnFrame (s : State) : State :=
  let d := s.darn
  let s := (d.sources.filter (fun c => c.more != 0)).foldl
    (fun s c => writeRec s (reportOf c.first) 1 c.more c.moreTime c.first.detail.toNat) s
  let s := d.kinds.foldl (fun s k => writeRec s { kind := k.kind.toNat } 2 k.count k.time k.count) s
  let stays := d.storm && decide (rateMax s / 2 ≤ d.frameReports)
  { s with darn := { s.darn with sources := [], kinds := [], frameRecs := 0, frameReports := 0, stormAlerts := 0, storm := stays,
                                 stormFrames := if stays then s.darn.stormFrames + 1 else s.darn.stormFrames } }

/-! The semaphore (R332, R333) -/

/-- Whether a port holds GAF_SEM with an unexpired lease. -/
def holdsSem (s : State) (p : NPort) : Bool := s.sem.held && !s.sem.expired && s.sem.owner == p

/-! Descriptors and completions (R315–R320) -/

/-- The argument bits a descriptor opcode uses, a0 to a6 (R321, R359, R466, R498); none for an unassigned opcode. -/
def opcodeArgs (op : Nat) : Option (List W64) :=
  let all : W64 := 0xFFFFFFFFFFFFFFFF
  let low : W64 := 0xFFFFFFFF
  match op with
  | 0x00 => some []
  | 0x01 => some [all, 0x1FFFFFFFF]
  | 0x02 => some [all, 0x1000001FF]
  | 0x03 => some [0x3FFFFFFFFF]
  | 0x04 => some []
  | 0x08 => some [all, all, low]
  | 0x09 => some [all, all, low]
  | 0x10 => some [0x1FFFF, all, all, all, all, all, 0x06FFFF]
  | 0x11 => some [all, 0x100001FFF]
  | 0x12 => some [all, 0x100001FFF]
  | 0x13 => some [0x1FFFF, all, low, 1]
  | 0x18 => some [0xFFFF, all]
  | 0x19 => some [0x3FFFFFFFFF]
  | 0x20 => some [all, all, 0x1FFFF]
  | 0x21 => some [all, all, 0x1FFFF]
  | 0x28 => some [all, low]
  | 0x29 => some [0x17FFFFFFF]
  | 0x50 => some [all, 0xFFFFFFFFFFFF, all, all, all, all]
  | 0x51 => some [0x1FFFF, all, all, all, all, all]
  | 0x52 => some [0xFFFF]
  | 0x60 => some [all, 0xFFFFFFFFFF, all, all, all, all]
  | 0x61 => some [all, low]
  | 0x62 => some []
  | 0x63 => some [all, 0xFFFF]
  | 0x70 => some [all, low]
  | 0x71 => some [all, 0xFFFF]
  | 0x72 => some []
  | 0x73 => some []
  | 0x74 => some [all, 0x1FFFFFFFF]
  | _ => none

/-- The opcodes that name a partition (R321, R359). -/
def namesPart (op : Nat) : Bool :=
  [0x01, 0x02, 0x03, 0x04, 0x08, 0x09, 0x10, 0x11, 0x12, 0x13, 0x18, 0x19, 0x20, 0x21, 0x50, 0x51, 0x52].contains op

/-- Argument i of a descriptor. -/
def arg (d : Desc) (i : Nat) : W64 := d.args.getD i 0
/-- Whether a1–a0 style arguments keep every unused bit zero. -/
def argsClean (d : Desc) (l : List W64) : Bool :=
  (upFrom 0 7).all (fun i => (arg d i &&& ~~~(l.getD i 0)) == 0)
/-- The partition a descriptor names. -/
def descPart (d : Desc) : Nat := bits d.lvlPart 7 4
/-- Whether a descriptor's flags ask for a fence. -/
def fenced (d : Desc) : Bool := bitAt d.flags 1

/-- The common checks 1 to 6 of R316: the first that fails, with its order. -/
def commonCheck (s : State) (p : NPort) (r : RingId) (d : Desc) : Option (Byte × Nat) :=
  if d.seq ≠ (ringAt s p r).seq0 + BitVec.ofNat 32 d.k then some (eSeq, 1)
  else if bits d.lvlPart 3 0 ≠ (nalAt s p).lk.level.toNat then some (eLevel, 2)
  else match opcodeArgs d.opcode.toNat with
  | none => some (eRange, 3)
  | some l =>
    if !(argsClean d l) || d.rsv != 0 || bits d.flags 7 2 != 0 then some (eReserved, 4)
    else if namesPart d.opcode.toNat then
      (if 8 ≤ descPart d then some (eRange, 5)
       else if !(isSetUp s (descPart d)) || portOf s (descPart d) != p then some (ePartition, 5) else none)
    else if descPart d ≠ 0 then some (eReserved, 5)
    else if (d.opcode = 0x28 ∨ d.opcode = 0x29) ∧ !(holdsSem s p) then some (eOwner, 6)
    else none

/-- The detail of a rejection (R319): the failing check's order, the R316 check it arose under, the item. DEDUCED (log 30). -/
def rejDetail (order outer item : Nat) : W64 := BitVec.ofNat 64 (order + 256 * outer + 2 ^ 32 * item)
/-- The detail of a final status 0x10–0x16 (R319): cause, carried status, item. -/
def endDetail (e : Ending) : W64 := BitVec.ofNat 64 (e.cause + 256 * e.carried + 2 ^ 32 * e.item)

/-- The 32 bytes of a completion (R318). -/
def complBytes (s : State) (ring : Ring) (d : Desc) (status : Byte) (detail result : W64) : List Byte :=
  leBytes d.seq.toNat 4 ++ [status, if d.k / cfgEntries ring.cfg % 2 = 0 then 1 else 0, d.opcode, 0] ++
  leBytes detail.toNat 8 ++ leBytes s.time.toNat 8 ++ leBytes result.toNat 8

/-- The final completion of descriptor k of a ring (R320): written at its index after the data that went by the other port is
flushed (R302), then the interrupt; or counted in RING_LOST while the port is down (R334). DEDUCED (log 139). -/
def finish (s : State) (ref : DescRef) (status : Byte) (detail result : W64) (dataPorts : List NPort) : State :=
  let ring := ringAt s ref.port ref.ring
  match ring.descs.find? (fun d => d.k == ref.k) with
  | none => s
  | some d =>
    let up := nalUp s ref.port
    let s' := modRing (dropFetch s (.desc ref)) ref.port ref.ring (fun r => { r with
      descs := r.descs.filter (fun d => d.k != ref.k),
      done := if up then r.done + 1 else r.done, lost := if up then r.lost else r.lost + 1 })
    if up then
      let t := (.mwr (ring.cbase + BitVec.ofNat 64 (32 * (ref.k % cfgEntries ring.cfg))) (complBytes s ring d status detail result))
        :: (if bitAt d.flags 0 then [.msg 1 (cfgVector ring.cfg)] else [])
      if dataPorts.contains (otherPort ref.port) then afterFlush s' (otherPort ref.port) t else pushTxns s' ref.port t
    else s'

/-- The first descriptor of a list that is not accepted, with whether an earlier one is still owed its completion.
DESIGN CHOICE (log 28). -/
def firstOpen : Bool → List Desc → Option (Desc × Bool)
  | _, [] => none
  | earlier, d :: t => if d.stage = .accepted then firstOpen true t else some (d, earlier)

/-- Takes up read descriptors in index order: one whose read or common checks fail is completed (R316, R317).
DESIGN CHOICE (log 28). -/
def advanceRing (s : State) (p : NPort) (r : RingId) : Nat → State
  | 0 => s
  | fuel + 1 =>
    match firstOpen false (ringAt s p r).descs with
    | none => s
    | some (d, earlier) =>
      match d.stage with
      | .failed st => advanceRing (finish s ⟨p, r, d.k⟩ st 0 0 []) p r fuel
      | .read =>
        if fenced d ∧ earlier then s
        else match commonCheck s p r d with
          | some (st, order) => advanceRing (finish s ⟨p, r, d.k⟩ st (rejDetail order order 0) 0 []) p r fuel
          | none => s
      | _ => s

/-- advanceRing over all the descriptors a ring holds. DESIGN CHOICE (log 28). -/
def settleRing (s : State) (p : NPort) (r : RingId) : State := advanceRing s p r ((ringAt s p r).descs.length + 1)

/-- A final completion, and what it lets the ring take up next. -/
def complete (s : State) (ref : DescRef) (status : Byte) (detail result : W64) (dataPorts : List NPort) : State :=
  settleRing (finish s ref status detail result dataPorts) ref.port ref.ring

/-- Rejects a descriptor under check 7 of R316, with its own check's order and item (R319). -/
def reject (s : State) (ref : DescRef) (status : Byte) (order item : Nat) : State :=
  complete s ref status (rejDetail order 7 item) 0 []

/-- Marks a descriptor accepted (R317), and takes up the next. -/
def acceptDesc (s : State) (ref : DescRef) : State :=
  settleRing (modRing s ref.port ref.ring (fun r => { r with
    descs := r.descs.map (fun d => if d.k = ref.k then { d with stage := .accepted } else d) })) ref.port ref.ring

/-- A descriptor accepted and completed at once with OK. -/
def completeOk (s : State) (ref : DescRef) (result : W64) : State := complete s ref ok 0 result []

/-- Takes up the ring's first open descriptor when it is read, unfenced, passes the common checks and has the opcode; else
nothing changes but what settling the ring completes. DESIGN CHOICE (log 28). -/
def withDescriptor (s : State) (p : NPort) (r : RingId) (op : Byte) (k : State → DescRef → Desc → State) : State :=
  let s := settleRing s p r
  match firstOpen false (ringAt s p r).descs with
  | some (d, earlier) =>
    if d.stage = .read ∧ d.opcode = op ∧ !(fenced d && earlier) ∧ commonCheck s p r d = none then k s ⟨p, r, d.k⟩ d else s
  | none => s

/-- The status with which a list or image read that has not yet acted fails (R299, R322). -/
def readFailure : HostRead → Option Byte
  | .data _ poison => if poison.isEmpty then none else some sPoison
  | .unsupported _ => some eRange
  | .timeout _ => some sTimeout
  | .portDown => some sLinkDown

/-- A list or image whose first read failed leaves its descriptor without effect (R299, R322). -/
def refuseRead (s : State) (ref : DescRef) (st : Byte) : State :=
  complete s ref st (if st = eRange then rejDetail 7 7 0 else 0) 0 []

/-- The bytes a host read brought. -/
def readData : HostRead → List Byte
  | .data b _ => b
  | _ => []

/-- What a descriptor does with len bytes of host memory that it reads before it acts (R299, R322). -/
def withRead (s : State) (ref : DescRef) (addr : W64) (len : Nat) (k : State → List Byte → State) : State :=
  fetched s (.desc ref) ref.port addr len fun s r =>
    match readFailure r with
    | some st => refuseRead s ref st
    | none => k s (readData r)

/-- The 32-bit entries of a list in host memory (R321). -/
def listWords (b : List Byte) (n : Nat) : List Nat := (upFrom 0 n).map (fun i => field b (4 * i) 4)

/-! Crossing the command interface -/

/-- What every command goes through: while VDD_AON is out of range nothing acts (R537, R439).
DESIGN CHOICE (log 10); DEDUCED (log 11). -/
def whenAon (s : State) (f : State → State) : Host.Outcome State Fault Refusal := .next (if s.aon then f s else s)

/-- Whether the Mangle engine of a transfer runs: it has not lost both trees of its checker (R473). DEDUCED (log 127). -/
def engineRuns (s : State) (id : Nat) : Bool := !(s.mesh.poisoned.contains (4, id % 64))

/-- Whether L0's engines and descriptor reading may begin an access: no Hem reset (R462), no power loss past its acceptance (R430).
DEDUCED (log 46). -/
def hemWorks (s : State) : Bool := s.hemReset.isNone && s.hup.loss == .none
/-- Whether the stack ports serve: no Hem reset, no last will (R430, R432). -/
def portsServe (s : State) : Bool := s.hemReset.isNone && s.hup.loss != .safe
/-- Whether the time that passes counts for limits: not in ride-through (R430). -/
def timeCounts (s : State) : Bool := s.hup.loss == .none

/-- One idle tick of the 25 MHz timestamp (R7): nothing else happens at it. DESIGN CHOICE (log 1). -/
def idleTick (s : State) : State := if s.aon then { s with time := s.time + 1 } else s

/-- Takes the next free value (a value the manual leaves open), and advances the counter. DESIGN CHOICE (log 5, 77, 119). -/
def takeFree (s : State) : W64 × State := (Config.freeWord s.free, { s with free := s.free + 1 })

/-- Whether an NBU is fenced. -/
def nbuFenced (s : State) (u : Nat) : Bool := (nbuAt s u).fenced

/-- The buddy of an NBU (R231). -/
def buddyOf (u : Nat) : Nat := u / 256 * 256 + (u % 256 ^^^ 0x40)

/-- A slot of a table; beyond its end, an unused one. -/
def slotIn (l : List Slot) (i : Nat) : Slot := l.getD i ⟨0, 0, 0, 0⟩

end Sys2Proof.Machine
end

