-- ==== Sys2Proof/Machine/Memory.lean ====
section
/-! DEFINITION. The coded memories: the (72,64) code (R260–R262), words read with correction and logging (R264–R274), words
written (R265, R270, R283), stack addresses (R205–R207), busy ranges (R223) and reach (R506). -/

namespace Sys2Proof.Machine

/-! The code -/

/-- The columns of the data bits (R261). -/
def dataColumns : List Byte :=
  [0x07, 0x0B, 0x0D, 0x0E, 0x13, 0x15, 0x16, 0x19, 0x1A, 0x1C, 0x23, 0x25, 0x26, 0x29, 0x2A, 0x2C] ++
  [0x31, 0x32, 0x34, 0x38, 0x43, 0x45, 0x46, 0x49, 0x4A, 0x4C, 0x51, 0x52, 0x54, 0x58, 0x61, 0x62] ++
  [0x64, 0x68, 0x70, 0x83, 0x85, 0x86, 0x89, 0x8A, 0x8C, 0x91, 0x92, 0x94, 0x98, 0xA1, 0xA2, 0xA4] ++
  [0xA8, 0xB0, 0xC1, 0xC2, 0xC4, 0xC8, 0xD0, 0xE0, 0x1F, 0x3E, 0x7C, 0xF8, 0xF1, 0xE3, 0xC7, 0x8F]

/-- The columns of all 72 codeword bits, check bit j with column 2^j. -/
def columns : List Byte := dataColumns ++ [0x01, 0x02, 0x04, 0x08, 0x10, 0x20, 0x40, 0x80]

/-- The exclusive or of the columns at the set bits of a number, from its lowest bit; no bit is left when the number is 0. -/
def xorColumns : List Byte → Nat → Byte
  | [], _ => 0
  | h :: t, d => if d = 0 then 0 else (if d % 2 = 1 then h else 0) ^^^ xorColumns t (d / 2)

/-- The check byte of a data word (R262). -/
def checkOf (d : W64) : Byte := xorColumns dataColumns d.toNat

/-- The syndrome of a received word (R262). -/
def syndrome (d : W64) (c : Byte) : Byte := checkOf d ^^^ c

/-- The class of a received word. -/
inductive WordClass where
  | clean | corrected (bit : Nat) | poison | uncorrectable
deriving DecidableEq, Repr

/-- The class a syndrome names (R262). -/
def classify (y : Byte) : WordClass :=
  if y = 0 then .clean
  else if y = 0x5A then .poison
  else match columns.findIdx? (fun h => h == y) with
    | some k => .corrected k
    | none => .uncorrectable

/-- The check byte of a poisoned word (R265). -/
def poisonCheck (d : W64) : Byte := checkOf d ^^^ 0x5A

/-- The data a corrected word delivers: bit k inverted where it is a data bit. -/
def corrected (d : W64) (k : Nat) : W64 := if k < 64 then d ^^^ (1#64 <<< k) else d

/-! Raw words of a coded memory -/

/-- The word w of a memory as stored: data and check byte. DEDUCED (log 8). -/
def rawWord (m : CodeMem) (w : Nat) : W64 × Byte :=
  (BitVec.ofNat 64 (leNat ((upFrom (8 * w) 8).map (tget 0 m.data))), tget 0 m.check w)

/-- Stores bytes from address a. -/
def putBytes (t : Tab Byte) (a : Nat) : List Byte → Tab Byte
  | [] => t
  | b :: l => putBytes (tset 0 t a b) (a + 1) l

/-- Stores a word as given (R284). DEDUCED (log 8). -/
def putWord (m : CodeMem) (w : Nat) (d : W64) (c : Byte) : CodeMem :=
  { data := putBytes m.data (8 * w) (leBytes d.toNat 8), check := tset 0 m.check w c }

/-- Every entry of a memory is in canonical form. -/
def CodeMem.wf (m : CodeMem) : Bool := twf 0 m.data && twf 0 m.check

/-! Memories of the device -/

/-- A memory by its name. -/
def memAt (s : State) : MemId → CodeMem
  | .slice c => tget {} s.slices c
  | .basket c => tget {} s.baskets c
  | .hamper => s.hamper
  | .stack => s.stack

/-- Replaces a memory. -/
def setMem (s : State) (id : MemId) (m : CodeMem) : State :=
  match id with
  | .slice c => { s with slices := tset {} s.slices c m }
  | .basket c => { s with baskets := tset {} s.baskets c m }
  | .hamper => { s with hamper := m }
  | .stack => { s with stack := m }

/-- The skipped position of a cluster row (R25): the spare, unless a defect moved it. -/
def skipOf (s : State) (cluster row : Nat) : Nat := tget 8 s.units.skip (cluster * 4 + row % 4)

/-- The physical core that carries a logical core (R28, R275). -/
def physOf (s : State) (core : Nat) : Nat :=
  let row := core / 32 % 16
  let p := core % 8
  let d := skipOf s (clusterOf core) row
  core / 512 * 576 + row * 36 + 9 * (core % 32 / 8) + (if p < d then p else p + 1)

/-- The place of a physical core: half, row, column group, position in the group. -/
def physPlace (p : Nat) : Nat × Nat × Nat × Nat := (p / 576, p / 36 % 16, p % 36 / 9, p % 9)

/-- The cluster of a physical core (R25). -/
def physCluster (p : Nat) : Nat :=
  let l := physPlace p
  l.1 * 16 + l.2.1 / 4 * 4 + l.2.2.1

/-- The logical core a physical core carries, if any (R25). -/
def logicalOf (s : State) (p : Nat) : Option Nat :=
  let l := physPlace p
  let d := skipOf s (physCluster p) l.2.1
  if l.2.2.2 = d then none
  else some (l.1 * 512 + l.2.1 * 32 + l.2.2.1 * 8 + (if l.2.2.2 < d then l.2.2.2 else l.2.2.2 - 1))

/-- The key of a memory's counters and log (R273): physical core, 2,000 + physical core, 4,000 + bank, 5,000 + site. -/
def eccKey (s : State) (id : MemId) (w : Nat) : Nat :=
  match id with
  | .slice c => physOf s c
  | .basket c => 2000 + physOf s c
  | .hamper => 4000 + 8 * w / 1048576
  | .stack => 5000 + 8 * w / 2 ^ 29 / 256

/-- The log address of a word (R273). -/
def logAddr (id : MemId) (w : Nat) : Nat :=
  match id with
  | .stack =>
    let b := 8 * w % 2 ^ 29
    let g := 8 * w / 2 ^ 29
    b % 1024 + (b / 2 ^ 14) * 2 ^ 10 + (b / 1024 % 16) * 2 ^ 25 + (g % 256) * 2 ^ 29 + (g / 256) * 2 ^ 37
  | _ => 8 * w

/-- How many log entries an instance has (R273). -/
def logRoom (key : Nat) : Nat := if key < 4000 then 4 else if key < 5000 then 8 else 32

/-- The unit of an instance in a record. -/
def eccUnit (key : Nat) : Nat × Nat :=
  if key < 2000 then (uPhys, key)
  else if key < 4000 then (uPhys, key - 2000)
  else if key < 5000 then (uHamper, key - 4000)
  else if key < 6000 then (uSite, key - 5000)
  else (uCarrier, key - 6000)

/-- The instance of counters under a key. -/
def eccAt (s : State) (key : Nat) : EccInst := tget {} s.ecc key
/-- Changes an instance of counters. -/
def modEcc (s : State) (key : Nat) (f : EccInst → EccInst) : State := { s with ecc := tmod {} s.ecc key f }

/-- The entry that gives way (R274): the lowest count, on a tie the oldest last time, of those that are no repair candidate.
DEDUCED (log 130). -/
def victim : List EccLog → Option EccLog
  | [] => none
  | e :: t => match victim t with
    | none => if e.candidate then none else some e
    | some f =>
      if e.candidate then some f
      else if e.count.toNat < f.count.toNat ∨ (e.count = f.count ∧ e.last.toNat ≤ f.last.toNat) then some e else some f

/-- One more of a count that stops at its largest value (R273). -/
def satInc (x : W32) : W32 := if x = 0xFFFFFFFF then x else x + 1

/-- Logs a correction (R274). DEDUCED (log 130). -/
def logCorrection (i : EccInst) (room : Nat) (addr : Nat) (y : Byte) (now : W64) : EccInst :=
  let a := BitVec.ofNat 64 addr
  let i := { i with corrected := i.corrected + 1 }
  if i.log.any (fun e => e.addr == a) then
    { i with log := i.log.map (fun e => if e.addr = a then { e with syndrome := y, count := satInc e.count, last := now } else e) }
  else
    let e : EccLog := ⟨a, y, false, 1, now, now⟩
    if i.log.length < room then { i with log := i.log ++ [e] }
    else match victim i.log with
      | some v => { i with log := i.log.map (fun x => if x.addr = v.addr then e else x) }
      | none => { i with evicted := i.evicted + 1 }

/-- Flags a stack address a repair candidate, and raises its record (R279). DEDUCED (log 130). -/
def flagCandidate (s : State) (key addr : Nat) : State :=
  let a := BitVec.ofNat 64 addr
  let i := eccAt s key
  if key < 5000 ∨ 6000 ≤ key then s
  else if i.log.any (fun e => e.addr == a && !e.candidate) then
    raise (modEcc s key (fun i => { i with log := i.log.map (fun e => if e.addr = a then { e with candidate := true } else e) }))
      { kind := kRepairCandidate, unit := uSite, id := key - 5000, detail := addr / 1024 }
  else s

/-- Counts and logs a corrected word; at ppr_count corrections its address becomes a repair candidate (R272–R274, R279). -/
def noteCorrected (s : State) (key addr : Nat) (y : Byte) : State :=
  let s := modEcc s key (fun i => logCorrection i (logRoom key) addr y s.time)
  match (eccAt s key).log.find? (fun e => e.addr == BitVec.ofNat 64 addr) with
  | some e => if pprCount s ≤ e.count.toNat then flagCandidate s key addr else s
  | none => s

/-- Counts an uncorrectable word and raises its record (R266); a stack address with a log entry becomes a repair
candidate (R279). -/
def noteUncorrectable (s : State) (key addr : Nat) : State :=
  let s := modEcc s key (fun i => { i with uncorrectable := i.uncorrectable + 1 })
  let s := raise s { kind := kUncorrectable, unit := (eccUnit key).1, id := (eccUnit key).2, detail := addr / 64 }
  flagCandidate s key addr

/-- Counts a poisoned word read by a decoder (R273). -/
def notePoison (s : State) (key : Nat) : State := modEcc s key (fun i => { i with poisonRead := i.poisonRead + 1 })

/-! Carriers (R13, R170, R172, R265, R266, R273) -/

/-- A word found uncorrectable on a carrier of a class (R266): counted, with its record. Class 6, which has no counters, stands for the L0
crossings (R13). DEDUCED (log 98). -/
def noteLink (s : State) (cls detail : Nat) : State :=
  let s := if cls < 6 then modEcc s (6000 + cls) (fun i => { i with uncorrectable := i.uncorrectable + 1 }) else s
  raise s { kind := kUncorrectable, unit := uCarrier, id := cls, detail }

/-- Counts the poisoned words that a carrier's decoders read (R273). -/
def countPoison (s : State) (cls : Nat) (l : List (W64 × Bool)) : State :=
  let n := (l.filter (fun x => x.2)).length
  if n = 0 then s else modEcc s (6000 + cls) (fun i => { i with poisonRead := i.poisonRead + BitVec.ofNat 64 n })

/-- Poisons the words of a list at the places named. -/
def poisonAt (bad : List Nat) (l : List (W64 × Bool)) : List (W64 × Bool) :=
  l.zipIdx.map (fun x => (x.1.1, x.1.2 || bad.contains x.2))

/-- Words that cross a carrier of a class: those named become uncorrectable on it and are delivered as poison (R172, R265). -/
def crossWords (s : State) (cls detail : Nat) (bad : List Nat) (l : List (W64 × Bool)) : List (W64 × Bool) × State :=
  (poisonAt bad l, (bad.filter (fun i => decide (i < l.length))).foldl (fun s _ => noteLink s cls detail)
    (if cls < 6 then countPoison s cls l else s))

/-! Busy ranges (R223) -/

/-- Byte offset n units into a local part, as a word key of the stack memory. -/
def localKey (s : State) (nbu off : Nat) : Nat := (nbu * 2 ^ 29 + stripeGib s * 2 ^ 22 + off) / 8

/-- The input range of an operation, in bytes of its local part. -/
def opIn (o : Op) : Nat × Nat := (64 * (o.words.getD 1 0).toNat, 64 * (o.words.getD 2 0).toNat)
/-- The output range of an operation. -/
def opOut (o : Op) : Nat × Nat := (64 * (o.words.getD 3 0).toNat, 64 * (o.words.getD 4 0).toNat)

/-- Whether two byte ranges overlap. -/
def overlap (a b : Nat × Nat) : Bool := decide (a.1 < b.1 + b.2) && decide (b.1 < a.1 + a.2) && decide (0 < a.2) && decide (0 < b.2)

/-- Whether a byte range of a bank group's linear space is busy with an operation; `outOnly` looks at output ranges. -/
def busyLinear (s : State) (nbu b len : Nat) (outOnly : Bool) : Bool :=
  let base := stripeGib s * 2 ^ 22
  (nbuAt s nbu).ops.any (fun o =>
    ((if outOnly then [opOut o] else opIn o :: opOut o :: o.ranges)).any (fun r => overlap (base + r.1, r.2) (b, len)))

/-- Whether a word of the stacks is in a busy range. -/
def busyWord (s : State) (w : Nat) : Bool := busyLinear s (8 * w / 2 ^ 29) (8 * w % 2 ^ 29) 8 false

/-! Reading and writing words -/

/-- Whether the armed flip-mask names this word (R283). -/
def flipHits (s : State) (id : MemId) (w : Nat) : Bool :=
  s.ecct.armed && decide (bits s.ecct.addr 25 0 = 8 * w) &&
  (match id with
   | .slice c => decide (bits s.ecct.target 1 0 = 0) && decide (bits s.ecct.target 15 4 = physOf s c)
   | .basket c => decide (bits s.ecct.target 1 0 = 1) && decide (bits s.ecct.target 15 4 = physOf s c)
   | .hamper => decide (bits s.ecct.target 1 0 = 2)
   | .stack => false)

/-- Stores a codeword; the armed flip-mask inverts its bits (R283). -/
def storeWord (s : State) (id : MemId) (w : Nat) (d : W64) (c : Byte) : State :=
  if flipHits s id w then
    let e := s.ecct
    setMem { s with ecct := { e with armed := false, done := true } } id
      (putWord (memAt s id) w (d ^^^ join32 e.maskLo e.maskHi) (c ^^^ e.maskChk.extractLsb' 0 8))
  else setMem s id (putWord (memAt s id) w d c)

/-- Stores a word back after a correction or as poison; in a busy range only from the completion point on (R272, R266, R226). -/
def writeBack (s : State) (id : MemId) (w : Nat) (d : W64) (c : Byte) : State :=
  if id = .stack ∧ busyWord s w then (if s.deferred.contains w then s else { s with deferred := s.deferred ++ [w] })
  else storeWord s id w d c

/-- A memory word through its decoder: what it delivers, and what that leaves (R262, R266, R272). A site whose decoders have
both failed reads as poison (R281). DEDUCED (log 74). -/
def readWord (s : State) (id : MemId) (w : Nat) : (W64 × Bool) × State :=
  let x := rawWord (memAt s id) w
  let key := eccKey s id w
  if id = .stack ∧ (stkAt s (key - 5000)).dead then ((x.1, true), noteUncorrectable s key (logAddr id w))
  else match classify (syndrome x.1 x.2) with
  | .clean => ((x.1, false), s)
  | .poison => ((x.1, true), notePoison s key)
  | .uncorrectable =>
    if id = .stack ∧ s.deferred.contains w = true then ((x.1, true), s)
    else ((x.1, true), writeBack (noteUncorrectable s key (logAddr id w)) id w x.1 (poisonCheck x.1))
  | .corrected k =>
    let d := corrected x.1 k
    ((d, false), writeBack (noteCorrected s key (logAddr id w) (syndrome x.1 x.2)) id w d (checkOf d))

/-- n words from word w. -/
def readWords (s : State) (id : MemId) (w : Nat) : Nat → List (W64 × Bool) × State
  | 0 => ([], s)
  | n + 1 =>
    let a := readWord s id w
    let r := readWords a.2 id (w + 1) n
    (a.1 :: r.1, r.2)

/-- Writes a whole word, clean or poisoned. -/
def writeWord (s : State) (id : MemId) (w : Nat) (x : W64 × Bool) : State :=
  storeWord s id w x.1 (if x.2 then poisonCheck x.1 else checkOf x.1)

/-- Writes the all-zero codeword into every word of a memory; an armed flip-mask meets its word here too (R271, R283).
DEDUCED (log 8). -/
def fillZero (s : State) (id : MemId) : State :=
  let s := setMem s id {}
  let w := bits s.ecct.addr 25 0 / 8
  if flipHits s id w then storeWord s id w 0 0 else s

/-- Writes words from word w. -/
def writeWords (s : State) (id : MemId) (w : Nat) : List (W64 × Bool) → State
  | [] => s
  | x :: l => writeWords (writeWord s id w x) id (w + 1) l

/-- The bytes of words. -/
def wordBytes (l : List (W64 × Bool)) : List Byte := l.flatMap (fun x => leBytes x.1.toNat 8)
/-- Whether a word of a list is poisoned. -/
def anyPoison (l : List (W64 × Bool)) : Bool := l.any (fun x => x.2)

/-- The words of a byte string. -/
def bytesWords : Nat → List Byte → List (W64 × Bool)
  | 0, _ => []
  | n + 1, b => (BitVec.ofNat 64 (leNat (b.take 8)), false) :: bytesWords n (b.drop 8)

/-- Bytes with their poison, as 8-byte words. -/
def flagWords : Nat → List (Byte × Bool) → List (W64 × Bool)
  | 0, _ => []
  | n + 1, l => (BitVec.ofNat 64 (leNat ((l.take 8).map (fun x => x.1))), (l.take 8).any (fun x => x.2)) :: flagWords n (l.drop 8)

/-- n bytes from byte address a, and whether a word read for them is poisoned. -/
def readMem (s : State) (id : MemId) (a n : Nat) : (List Byte × Bool) × State :=
  let w0 := a / 8
  let r := readWords s id w0 (ceilDiv (a + n) 8 - w0)
  ((((wordBytes r.1).drop (a % 8)).take n, anyPoison r.1), r.2)

/-- Writes one word of which `bytes` replace those from offset o: a part of a word merges into the old word, which poisons
what it was poisoned or uncorrectable in (R270). -/
def mergeWord (s : State) (id : MemId) (w o : Nat) (bytes : List Byte) (p : Bool) : State :=
  if o = 0 ∧ bytes.length = 8 then writeWord s id w (BitVec.ofNat 64 (leNat bytes), p)
  else
    let r := readWord s id w
    let old := leBytes r.1.1.toNat 8
    writeWord r.2 id w (BitVec.ofNat 64 (leNat (old.take o ++ bytes ++ old.drop (o + bytes.length))), p || r.1.2)

/-- Writes a byte string at byte address a, word by word, each word poisoned as given. -/
def writeMem (s : State) (id : MemId) (a : Nat) (p : Bool) : Nat → List Byte → State
  | 0, _ => s
  | _, [] => s
  | fuel + 1, b =>
    let n := 8 - a % 8
    writeMem (mergeWord s id (a / 8) (a % 8) (b.take n) p) id (a + (b.take n).length) p fuel (b.drop n)

/-- Writes bytes from byte address a, each with its poison: a word is poisoned by any of them. -/
def writeRun (s : State) (id : MemId) (a : Nat) : Nat → List (Byte × Bool) → State
  | 0, _ => s
  | _, [] => s
  | fuel + 1, b =>
    let l := b.take (8 - a % 8)
    writeRun (mergeWord s id (a / 8) (a % 8) (l.map (fun x => x.1)) (l.any (fun x => x.2))) id (a + l.length) fuel (b.drop (8 - a % 8))

/-- Writes bytes. -/
def writeBytes (s : State) (id : MemId) (a : Nat) (b : List Byte) (p : Bool) : State := writeMem s id a p (b.length + 1) b

/-! Stack addresses (R205–R207) -/

/-- The sites of E: enabled and trained (R206, R454). DEDUCED (log 74). -/
def liveSites (s : State) : List Nat := (sitesOf s.variant).filter (fun n => (stkAt s n).trained)

/-- The bank group and its linear address of a stack address (R206). -/
def stackPlace (s : State) (a : Nat) : Nat × Nat :=
  if a < 2 ^ 39 then
    let e := liveSites s
    let u := a / 256
    let v := u / e.length
    (e.getD (u % e.length) 0 * 256 + v % 256, v / 256 * 256 + a % 256)
  else (a / 2 ^ 36 % 8 * 256 + a / 2 ^ 28 % 256, stripeGib s * 2 ^ 22 + a % 2 ^ 28)

/-- The word of the stack memory at a stack address. -/
def stackWord (s : State) (a : Nat) : Nat := ((stackPlace s a).1 * 2 ^ 29 + (stackPlace s a).2) / 8

/-- Whether one 64-byte unit's address is legal (R207). DEDUCED (log 74). -/
def stackLegal (s : State) (a : Nat) : Bool :=
  if a < 2 ^ 39 then decide (a < (liveSites s).length * stripeGib s * 2 ^ 30)
  else decide (a < 2 ^ 40) && (liveSites s).contains (a / 2 ^ 36 % 8) && decide (a % 2 ^ 28 < (80 - stripeGib s) * 2 ^ 22)

/-- The end of the window or local part that a legal address lies in. -/
def stackEnd (s : State) (a : Nat) : Nat :=
  if a < 2 ^ 39 then (liveSites s).length * stripeGib s * 2 ^ 30
  else a - a % 2 ^ 28 + (80 - stripeGib s) * 2 ^ 22

/-- The status of a stack range (R207): alignment to `al` bytes first, then the bounds. -/
def stackBad (s : State) (a len al : Nat) : Option Byte :=
  if a % al ≠ 0 ∨ len % al ≠ 0 then some eAlign
  else if !(stackLegal s a) || decide (stackEnd s a < a + len) then some eRange
  else none

/-- The reach windows of a partition (R506): base and length in bytes. -/
def reachWindows (s : State) (n : Nat) : List (Nat × Nat) :=
  (upFrom 0 8).map (fun k =>
    let o := 0xD01000 + 0x100 * n + 0x10 * k
    ((reg s o).toNat + bits (reg s (o + 4)) 7 0 * 2 ^ 32, bits (reg s (o + 8)) 27 0 * 4096))

/-- Whether a range lies in one enabled window. -/
def inWindow (w : Nat × Nat) (a len : Nat) : Bool := decide (w.1 ≤ a) && decide (a + len ≤ w.1 + w.2)

/-- The first address of a range that no window covers, by at most `fuel` windows in turn. -/
def coverFrom (ws : List (Nat × Nat)) (a e : Nat) : Nat → Nat
  | 0 => a
  | fuel + 1 =>
    if e ≤ a then a
    else match ws.find? (fun w => decide (w.1 ≤ a) && decide (a < w.1 + w.2)) with
      | some w => coverFrom ws (w.1 + w.2) e fuel
      | none => a

/-- Whether a legal stack range lies in the reach of a partition (R506): in the union of its windows and of the local parts of
its NBUs. -/
def inReach (s : State) (n a len : Nat) : Bool :=
  let own := if 2 ^ 39 ≤ a ∧ a / 2 ^ 36 % 8 < 4 ∧ nbuOn s.variant (a / 2 ^ 28 % 2048)
      ∧ nbuOwner s (a / 2 ^ 28 % 2048) = n then [(a - a % 2 ^ 28, 2 ^ 28)] else []
  decide (a + len ≤ coverFrom (reachWindows s n ++ own) a (a + len) 12)

/-- Reads n words of the stacks from a stack address. -/
def readStack (s : State) (a : Nat) : Nat → List (W64 × Bool) × State
  | 0 => ([], s)
  | n + 1 =>
    let x := readWord s .stack (stackWord s a)
    let r := readStack x.2 (a + 8) n
    (x.1 :: r.1, r.2)

/-- The Hem reads n bytes from an 8-byte aligned stack address, each word of them through its decoder (R268, R272).
DEDUCED (log 75). -/
def readTable (s : State) (a n : Nat) : State := (readStack s a (ceilDiv n 8)).2

/-- n bytes from an 8-byte aligned stack address, as a decoder delivers them. DEDUCED (log 75). -/
def peekStack (s : State) (a n : Nat) : List Byte :=
  ((upFrom 0 (ceilDiv n 8)).flatMap (fun i =>
    let x := rawWord s.stack (stackWord s (a + 8 * i))
    let d := match classify (syndrome x.1 x.2) with | .corrected k => corrected x.1 k | _ => x.1
    leBytes d.toNat 8)).take n

/-- Whether a word of n bytes of stack memory reads as poison: a table, header or list that holds one fails its request (R268); so does
every word of a site whose decoders have both failed (R281). DEDUCED (log 75). -/
def peekBad (s : State) (a n : Nat) : Bool :=
  (upFrom 0 (ceilDiv n 8)).any (fun i =>
    let w := stackWord s (a + 8 * i)
    let x := rawWord s.stack w
    (stkAt s (eccKey s .stack w - 5000)).dead || (match classify (syndrome x.1 x.2) with
      | .poison => true
      | .uncorrectable => true
      | _ => false))

/-- Writes words of the stacks from a stack address. -/
def writeStack (s : State) (a : Nat) : List (W64 × Bool) → State
  | [] => s
  | x :: l => writeStack (writeWord s .stack (stackWord s a) x) (a + 8) l

/-- Whether a stack range of n 64-byte units meets a busy range. -/
def busyStack (s : State) (a : Nat) (outOnly : Bool) : Nat → Bool
  | 0 => false
  | n + 1 => busyLinear s (stackPlace s a).1 (stackPlace s a).2 64 outOnly || busyStack s (a + 64) outOnly n

/-- Whether a table of n bytes lies in a busy output range: its read is held (R223). -/
def busyTable (s : State) (a n : Nat) : Bool := busyStack s (a - a % 64) true (ceilDiv (a % 64 + n) 64)

/-- The write-backs a completion point releases: each deferred word no longer busy is decoded once more and stored (R226); a
newer write has left it clean (R272). -/
def releaseDeferred (s : State) : State :=
  s.deferred.foldl (fun s w =>
    if busyWord s w then s
    else
      let x := rawWord s.stack w
      let s := { s with deferred := s.deferred.filter (fun v => v != w) }
      match classify (syndrome x.1 x.2) with
      | .corrected k => setMem s .stack (putWord s.stack w (corrected x.1 k) (checkOf (corrected x.1 k)))
      | .uncorrectable => setMem s .stack (putWord s.stack w x.1 (poisonCheck x.1))
      | _ => s) s

/-- The report that a partition, or a station of it, has consumed poison (R268). -/
def reportPoison (s : State) (n : Nat) (station : Option Nat) : State :=
  raise s { kind := kPoisonConsumed, unit := uPart, id := n, part := some n, station := station, status := sPoison }

/-- Consumption of poison by a station or unit of a partition (R268): the report, and the run's first poisoned station.
DEDUCED (log 82). -/
def consumePoison (s : State) (n : Nat) (station : Option Nat) : State :=
  let s := reportPoison s n station
  modPart s n (fun p => { p with run := p.run.map (fun r => { r with poisoned := r.poisoned <|> some (station.getD 0xFFFF) }) })

end Sys2Proof.Machine
end

