-- ==== Sys2Proof/Machine/Operands.lean ====
section
/-! DEFINITION. Operand forms: the fields of an instruction word (R116), address operands (R118, R119), tile layouts and
trailers (R38–R43), the rows of a tile decoded (R60) and output tiles put together (R40–R42). -/

namespace Sys2Proof.Machine

/-! The instruction word (R116) -/

/-- op. -/
def iOp (w : IWord) : Nat := bits w 7 0
/-- ta. -/
def iTa (w : IWord) : Nat := bits w 11 8
/-- tb. -/
def iTb (w : IWord) : Nat := bits w 15 12
/-- wpeg. -/
def iWpeg (w : IWord) : Nat := bits w 20 16
/-- wcnt. -/
def iWcnt (w : IWord) : Nat := bits w 28 21
/-- ppeg. -/
def iPpeg (w : IWord) : Nat := bits w 33 29
/-- pcnt. -/
def iPcnt (w : IWord) : Nat := bits w 41 34
/-- mod. -/
def iMod (w : IWord) : Nat := bits w 47 42
/-- x. -/
def iX (w : IWord) : Nat := bits w 67 48
/-- y. -/
def iY (w : IWord) : Nat := bits w 87 68
/-- z. -/
def iZ (w : IWord) : Nat := bits w 107 88
/-- imm. -/
def iImm (w : IWord) : Nat := bits w 127 108

/-- Bits hi to lo of a field value. -/
def sub (x hi lo : Nat) : Nat := x / 2 ^ lo % 2 ^ (hi + 1 - lo)

/-- An n-bit field as a signed number. -/
def sext (n x : Nat) : Int := if x < 2 ^ (n - 1) then Int.ofNat x else Int.ofNat x - 2 ^ n

/-! Addresses (R118, R119) -/

/-- The size of a basket, and the end of slice data. -/
def basketEnd : Nat := 0x40000
/-- The end of slice data. -/
def sliceEnd : Nat := 0x1C0000

/-- The sum of the loop contributions to b14's or b15's offset (R121). -/
def loopOffset (e : Eng) (last : Bool) : Int :=
  e.loops.foldl (fun a l => a + Int.ofNat l.i * (if last then l.s15 else l.s14)) 0

/-- The effective byte address of base bi and an offset in 64-byte units (R118). -/
def effOf (c : Core) (e : Eng) (b off : Nat) : Int :=
  Int.ofNat (tget 0 c.base b).toNat +
    64 * (Int.ofNat off + if b = 14 then loopOffset e false else if b = 15 then loopOffset e true else 0)

/-- The effective byte address of an address operand. -/
def effAddr (c : Core) (e : Eng) (x : Nat) : Int := effOf c e (sub x 19 16) (sub x 15 0)

/-- Whether an access of len bytes lies in a region that ends at `top` (R119). -/
def fits (a : Int) (len top : Nat) : Bool := decide (0 ≤ a) && decide (a + Int.ofNat len ≤ Int.ofNat top)

/-! Tile layout (R39) -/

/-- The blocks an escape capacity code stands for. -/
def capOf (code : Nat) : Nat := match code with | 1 => 8 | 2 => 16 | 3 => 32 | 4 => 64 | 5 => 128 | _ => 0

/-- Whether a tag, scale kind and capacity code are paired (R39). -/
def pairOk (tag kind code : Nat) : Bool :=
  match tag with
  | 0 => (kind == 0 || kind == 2) && code == 0
  | 1 => (kind == 0 || kind == 2) && code == 0
  | 2 => kind == 1 && decide (code ≤ 5)
  | 3 => kind == 2 && code == 0
  | 4 => kind == 1 && decide (code ≤ 5)
  | 5 => kind == 2 && code == 0
  | 6 => kind == 0 && code == 0
  | _ => false

/-- The scale kind of a KC (R120). -/
def kcKind (kc : Nat) : Nat := kc % 4
/-- The capacity code of a KC (R120). -/
def kcCode (kc : Nat) : Nat := kc / 4 % 8
/-- Whether R39 pairs a tag with a KC. -/
def kcOk (tag kc : Nat) : Bool := pairOk tag (kcKind kc) (kcCode kc)

/-- Bytes of one row's elements. -/
def rowBytes (tag : Nat) : Nat := match tag with | 2 => 32 | 3 => 32 | 4 => 16 | 6 => 128 | _ => 64
/-- Bytes of the scale section. -/
def scaleBytes (kind : Nat) : Nat := if kind = 0 then 0 else 128
/-- The offset of the escape section. -/
def escOffset (tag kind : Nat) : Nat := 64 * rowBytes tag + scaleBytes kind
/-- The size of a tile (R39). -/
def tileSize (tag kind code : Nat) : Nat := escOffset tag kind + 32 * capOf code + 64
/-- The size of a tile by its KC. -/
def kcSize (tag kc : Nat) : Nat := tileSize tag (kcKind kc) (kcCode kc)

/-- A tile as read from a memory: its declared form, its bytes, the indices of its poisoned words. -/
structure Tile where
  tag : Nat
  kind : Nat
  code : Nat
  bytes : List Byte
  bad : List Nat
deriving DecidableEq, Repr

/-- The indices of the poisoned words of a list. -/
def poisonIndex (l : List (W64 × Bool)) : List Nat :=
  (l.zipIdx.filter (fun x => x.1.2)).map (fun x => x.2)

/-- A tile out of a memory at byte address a (a multiple of 64). -/
def readTile (s : State) (id : MemId) (a tag kc : Nat) : Tile × State :=
  let r := readWords s id (a / 8) (kcSize tag kc / 8)
  (⟨tag, kcKind kc, kcCode kc, wordBytes r.1, poisonIndex r.1⟩, r.2)

/-- The tile's size. -/
def Tile.size (t : Tile) : Nat := tileSize t.tag t.kind t.code
/-- Byte i of a tile. -/
def Tile.byte (t : Tile) (i : Nat) : Nat := (t.bytes.getD i 0).toNat
/-- Whether the word of byte i is poisoned. -/
def Tile.badAt (t : Tile) (i : Nat) : Bool := t.bad.contains (i / 8)
/-- n bytes of the trailer from its byte i. -/
def Tile.trailer (t : Tile) (i n : Nat) : Nat := field t.bytes (t.size - 64 + i) n
/-- The escape map. -/
def Tile.escMap (t : Tile) : Nat := t.trailer 8 16
/-- Whether block b is escaped. -/
def Tile.escaped (t : Tile) (b : Nat) : Bool := (t.escMap >>> b) % 2 == 1
/-- The number of set bits of a number below bit n. -/
def popBelow (x : Nat) : Nat → Nat
  | 0 => 0
  | n + 1 => popBelow x n + (x >>> n) % 2
/-- tensor_scale. -/
def Tile.tensorScale (t : Tile) : W32 := BitVec.ofNat 32 (t.trailer 0 4)
/-- valid_rows. -/
def Tile.validRows (t : Tile) : Nat := t.trailer 24 1
/-- valid_cols. -/
def Tile.validCols (t : Tile) : Nat := t.trailer 25 1

/-- Whether a tensor scale is legal for a tag (R70). -/
def tscaleOk (tag : Nat) (x : W32) : Bool :=
  if tag = 3 ∨ tag = 5 ∨ tag = 6 then x == 0x3F800000
  else !bitAt x 31 && decide (0 < bits x 30 23) && decide (bits x 30 23 < 255)

/-- Whether the trailer agrees with the declared form (R43, R70). -/
def Tile.trailerOk (t : Tile) : Bool :=
  t.trailer 4 1 == t.tag + 16 * t.kind && t.trailer 5 1 == t.code && t.trailer 7 1 == 0 && t.trailer 26 8 == 0 &&
  t.trailer 34 30 == 0 && t.trailer 6 1 == popBelow t.escMap 128 && decide (t.trailer 6 1 ≤ capOf t.code) &&
  decide (1 ≤ t.validRows) && decide (t.validRows ≤ 64) && decide (1 ≤ t.validCols) && decide (t.validCols ≤ 64) &&
  tscaleOk t.tag t.tensorScale

/-- Whether the trailer's own words are poisoned. -/
def Tile.trailerBad (t : Tile) : Bool := (upFrom (t.size / 8 - 8) 8).any (fun w => t.bad.contains w)

/-- Whether the whole tile is consumed as poison (R43). -/
def Tile.allBad (t : Tile) : Bool := t.trailerBad || !t.trailerOk

/-- The decoded scale of block b (R60). -/
def Tile.scale (t : Tile) (b : Nat) : Num := if t.kind = 0 then .one else scaleVal t.kind (t.byte (64 * rowBytes t.tag + b))

/-- Element (r, c): its code's value before scales, and whether a word it depends on is poisoned (R40, R42, R60). -/
def Tile.elem (t : Tile) (r c : Nat) : Num × Bool :=
  let b := 2 * r + c / 32
  let sb := decide (t.kind ≠ 0) && t.badAt (64 * rowBytes t.tag + b)
  if t.kind = 1 ∧ t.escaped b then
    let i := escOffset t.tag t.kind + 32 * popBelow t.escMap b + c % 32
    (e4m3 (t.byte i), t.allBad || sb || t.badAt i)
  else
    let i := r * rowBytes t.tag + c * rowBytes t.tag / 64
    let v := match t.tag with
      | 2 => elemVal 2 (t.byte i / 16 ^ (c % 2) % 16)
      | 3 => elemVal 3 (t.byte i / 16 ^ (c % 2) % 16)
      | 4 => elemVal 4 (t.byte i / 4 ^ (c % 4) % 4)
      | 6 => elemVal 6 (t.byte i + 256 * t.byte (i + 1))
      | g => elemVal g (t.byte i)
    (v, t.allBad || sb || t.badAt i)

/-- Block h of row r, for a dot product. A NaN scale makes every element NaN (R67, R68). -/
def Tile.blk (t : Tile) (r h : Nat) : Blk :=
  let es := (upFrom (32 * h) 32).map (t.elem r)
  { scale := t.scale (2 * r + h), elems := es.map (fun x => x.1), poison := es.any (fun x => x.2),
    escaped := decide (t.kind = 1) && t.escaped (2 * r + h) }

/-- Element (r, c) with its scales, rounded to FP32 (R60, R134). -/
def Tile.value (t : Tile) (r c : Nat) : Acc :=
  let x := t.elem r c
  let s := t.scale (2 * r + c / 32)
  { v := if s.isNan then f32nan else f32of ((x.1.mul s).mul (f32val t.tensorScale)), p := x.2 }

/-- A row of 64 FP32 values. -/
def Tile.row (t : Tile) (r : Nat) : List Acc := (upFrom 0 64).map (t.value r)

/-! Output tiles -/

/-- Element codes packed as R40 places them in memory. -/
def packCodes (tag : Nat) : List Nat → List Byte
  | a :: b :: c :: d :: l =>
    (match tag with
     | 2 => [BitVec.ofNat 8 (a + 16 * b), BitVec.ofNat 8 (c + 16 * d)]
     | 3 => [BitVec.ofNat 8 (a + 16 * b), BitVec.ofNat 8 (c + 16 * d)]
     | 4 => [BitVec.ofNat 8 (a + 4 * b + 16 * c + 64 * d)]
     | 6 => leBytes a 2 ++ leBytes b 2 ++ leBytes c 2 ++ leBytes d 2
     | _ => [BitVec.ofNat 8 a, BitVec.ofNat 8 b, BitVec.ofNat 8 c, BitVec.ofNat 8 d]) ++ packCodes tag l
  | _ => []

/-- A converted block ready to be written: number, scale byte, element codes, escaped, poisoned elements, counts. -/
structure OutBlk where
  b : Nat
  scale : Nat
  codes : List Nat
  escaped : Bool
  poison : List Bool
  sat : Nat
  flush : Nat
  nonfinite : Nat
deriving DecidableEq, Repr

/-- The five counts of a conversion (R82): saturated, flushed, not finite, escaped, refused. -/
structure Census where
  sat : Nat := 0
  flush : Nat := 0
  nonfinite : Nat := 0
  esc : Nat := 0
  refused : Nat := 0
deriving DecidableEq, Repr

/-- The form of an output: tag, KC, stochastic rounding, escape threshold when escapes are automatic (R77). -/
structure OutForm where
  tag : Nat
  kc : Nat
  stoch : Bool
  esc : Option Nat
deriving DecidableEq, Repr

/-- Converts one block: values with their poison, how many escapes the tile has left. A poisoned element takes part in no
escape decision and is not counted, and its word is written poisoned, with its block where the block has a scale (R268, R77,
R82). DEDUCED (log 63). -/
def outBlock (f : OutForm) (b : Nat) (room : Nat) (l : List Acc) (gen : W64) : OutBlk × Bool × W64 :=
  let vals := l.map (fun a => f32val a.v)
  let anyP := l.any (fun a => a.p)
  let want := match f.esc with
    | some t => !anyP && wantsEscape t vals
    | none => false
  let esc := want && decide (0 < room)
  let c := convBlock f.tag (kcKind f.kc) esc f.stoch vals gen
  let kept := convBlock f.tag (kcKind f.kc) esc f.stoch (l.map (fun a => if a.p then .one else f32val a.v)) gen
  let n := if !anyP then (c.sat, c.flush, c.nonfinite)
           else if kcKind f.kc = 0 then (kept.sat, kept.flush, kept.nonfinite) else (0, 0, 0)
  ({ b, scale := c.scale, codes := c.codes, escaped := esc, poison := l.map (fun a => a.p || (anyP && decide (kcKind f.kc ≠ 0))),
     sat := n.1, flush := n.2.1, nonfinite := n.2.2 }, want && !esc, c.gen)

/-- A block of a row that nothing is converted for: zeros (R131). -/
def zeroBlk (b : Nat) : OutBlk := ⟨b, 0, List.replicate 32 0, false, List.replicate 32 false, 0, 0, 0⟩

/-- 1 for true. -/
def one (x : Bool) : Nat := if x then 1 else 0

/-- The sum of two censuses. -/
def Census.add (a b : Census) : Census :=
  ⟨a.sat + b.sat, a.flush + b.flush, a.nonfinite + b.nonfinite, a.esc + b.esc, a.refused + b.refused⟩

/-- What one block adds to the census. DEDUCED (log 63). -/
def blkCensus (o : OutBlk) (refused : Bool) : Census := ⟨o.sat, o.flush, o.nonfinite, one o.escaped, one refused⟩

/-- Converts the two blocks of each row, rows from r on (none: a row with nothing to convert); answers blocks, census and
generator. -/
def outRows (f : OutForm) (r room : Nat) : List (Option (List Acc)) → W64 → List OutBlk × Census × W64
  | [], g => ([], {}, g)
  | none :: rows, g =>
    let t := outRows f (r + 1) room rows g
    (zeroBlk (2 * r) :: zeroBlk (2 * r + 1) :: t.1, t.2)
  | some row :: rows, g =>
    let a := outBlock f (2 * r) room (row.take 32) g
    let room1 := room - one a.1.escaped
    let b := outBlock f (2 * r + 1) room1 (row.drop 32) a.2.2
    let t := outRows f (r + 1) (room1 - one b.1.escaped) rows b.2.2
    (a.1 :: b.1 :: t.1, ((blkCensus a.1 a.2.1).add (blkCensus b.1 b.2.1)).add t.2.1, t.2.2)

/-- The decoded values of a written block (R60), with their poison. -/
def blkValues (tag kind : Nat) (o : OutBlk) : List Acc :=
  let sc := scaleVal kind o.scale
  (o.codes.zip o.poison).map (fun x =>
    ⟨if sc.isNan then f32nan else f32of ((if o.escaped then e4m3 x.1 else elemVal tag x.1).mul sc), x.2⟩)

/-- The bytes a block writes: offset in the tile, data, and which bytes are poisoned; `k` is its place among the escapes. -/
def blkBytes (tag kind : Nat) (o : OutBlk) (k : Nat) : List (Nat × List Byte × Bool) :=
  let row := o.b / 2 * rowBytes tag + o.b % 2 * (rowBytes tag / 2)
  let sc := if kind = 0 then [] else [(64 * rowBytes tag + o.b, [BitVec.ofNat 8 o.scale], o.poison.any id)]
  if o.escaped then
    [(row, zeros (rowBytes tag / 2), false), (escOffset tag kind + 32 * k, o.codes.map (BitVec.ofNat 8), o.poison.any id)] ++ sc
  else
    let l := packCodes tag o.codes
    let w := rowBytes tag / 2
    (upFrom 0 (w / 8)).map (fun i =>
      (row + 8 * i, (l.drop (8 * i)).take 8, ((o.poison.drop (i * 8 * 32 / w)).take (8 * 32 / w)).any id)) ++ sc

/-- Numbers the escapes of blocks from k on. -/
def numberEsc (k : Nat) : List OutBlk → List (OutBlk × Nat)
  | [] => []
  | o :: l => (o, k) :: numberEsc (if o.escaped then k + 1 else k) l

/-- The trailer of a tile (R41). -/
def trailerBytes (tag kc count map rows cols : Nat) (tscale : W32) : List Byte :=
  leBytes tscale.toNat 4 ++ leBytes (tag + 16 * kcKind kc) 1 ++ leBytes (kcCode kc) 1 ++ leBytes count 1 ++ [0] ++
  leBytes map 16 ++ leBytes rows 1 ++ leBytes cols 1 ++ zeros 38

/-- The escape map of blocks. -/
def mapOf (l : List OutBlk) : Nat := l.foldl (fun a o => if o.escaped then a + 2 ^ o.b else a) 0

/-- Writes pieces of a tile at a base address. -/
def writePieces (s : State) (id : MemId) (a : Nat) : List (Nat × List Byte × Bool) → State
  | [] => s
  | x :: l => writePieces (writeBytes s id (a + x.1) x.2.1 x.2.2) id a l

/-- The 8-byte words of a tile image with scattered pieces: whole-tile writers build the tile first, so that every word is
written once (R132). -/
def tileWords (n : Nat) (pieces : List (Nat × List Byte × Bool)) : List (W64 × Bool) :=
  let bytes := pieces.foldl (fun (t : Tab Byte) x => putBytes t x.1 x.2.1) []
  let bad := pieces.flatMap (fun x => if x.2.2 then (upFrom (x.1 / 8) (ceilDiv (x.1 % 8 + x.2.1.length) 8)) else [])
  (upFrom 0 n).map (fun w =>
    (BitVec.ofNat 64 (leNat ((upFrom (8 * w) 8).map (tget 0 bytes))), bad.contains w))

/-- Writes a complete tile of blocks (R132). -/
def writeTile (s : State) (id : MemId) (a : Nat) (f : OutForm) (rows : Nat) (l : List OutBlk) : State :=
  let kind := kcKind f.kc
  let n := kcSize f.tag f.kc
  let count := (l.filter (fun o => o.escaped)).length
  let pieces := (numberEsc 0 l).flatMap (fun x => blkBytes f.tag kind x.1 x.2)
  writeWords s id (a / 8) (tileWords (n / 8)
    (pieces ++ [(n - 64, trailerBytes f.tag f.kc count (mapOf l) rows 64 0x3F800000, false)]))

end Sys2Proof.Machine
end

