-- ==== Sys2Proof/Machine/Engine.lean ====
section
/-! DEFINITION. The engines of a core: which may issue (R88–R91, R111), the queue (R88, R121), pegs (R90–R92), illegal
instructions and stopped runs (R139–R141, R113), issue and retirement (R89). -/

namespace Sys2Proof.Machine

/-! Where a core stands -/

/-- The partition that holds a logical core. -/
def partOfCore (s : State) (core : Nat) : Option Nat := partOfCluster s (clusterOf core)

/-- The place of x in a list, counted from k. -/
def placeOf (x k : Nat) : List Nat → Option Nat
  | [] => none
  | y :: l => if x = y then some k else placeOf x (k + 1) l

/-- The partition-relative index of a core (R45). -/
def relOf (s : State) (n core : Nat) : Nat := (placeOf core 0 (coresOf s n)).getD 0

/-- The columns of a partition-relative row. -/
def relWidth (s : State) (n : Nat) : Nat :=
  match shapeOf (clustersOf s n) with
  | some (_, _, _, ww, we) => 8 * (ww + we)
  | none => 1

/-- Whether a station with a core binding covers a partition-relative core (R36). -/
def covers (st : Station) (width i : Nat) : Bool :=
  st.kind ≠ 12 && decide (st.b0 ≤ i / width) && decide (i / width < st.b0 + st.b2) && decide (st.b1 ≤ i % width) &&
  decide (i % width < st.b1 + st.b3)

/-- Whether a station's kind uses an engine (R82). -/
def usesEngine (st : Station) (e : Nat) : Bool :=
  match e with
  | 3 => st.kind == 1 && st.p.getD 3 0 == 0
  | 4 => st.kind == 1 && st.p.getD 3 0 == 1
  | 5 => st.kind == 2
  | 6 => st.kind == 3 || st.kind == 4 || st.kind == 13
  | _ => false

/-- The index of the first element of a list that passes a test. -/
def firstIdx {α : Type} (p : α → Bool) (k : Nat) : List α → Option Nat
  | [] => none
  | x :: l => if p x then some k else firstIdx p (k + 1) l

/-- The station that counts what an engine of a core does (R82). -/
def stationFor (s : State) (n core e : Nat) : Option Nat :=
  match (partAt s n).image with
  | none => none
  | some img =>
    let w := relWidth s n
    let i := relOf s n core
    match firstIdx (fun st => covers st w i && usesEngine st e) 0 img.stations with
    | some k => some k
    | none => firstIdx (fun st => covers st w i) 0 img.stations

/-- Engine e of a core consumes poison (R268). -/
def coreConsumes (s : State) (core e : Nat) : State :=
  match partOfCore s core with
  | some n => consumePoison s n (stationFor s n core e)
  | none => s

/-- Adds to the counts of a station's statistics record (R82, R83): saturated, flushed, not finite, escaped, refused, audits
done, failed, skipped. -/
def addStats (s : State) (n st : Nat) (l : List Nat) : State :=
  modPart s n (fun p => { p with stats := tmod {} p.stats st (fun x =>
    { x with run := (x.run.zip l).map (fun y => min (y.1 + y.2) 0xFFFFFFFF),
             total := (x.total.zip l).map (fun y => y.1 + BitVec.ofNat 64 y.2) }) })

/-- Counts a conversion for an engine of a core. -/
def countCensus (s : State) (core e : Nat) (c : Census) : State :=
  match partOfCore s core with
  | some n => match stationFor s n core e with
    | some st => addStats s n st [c.sat, c.flush, c.nonfinite, c.esc, c.refused, 0, 0, 0]
    | none => s
  | none => s

/-- The operand role of a tile of a station, or that it is an output tile (R37). DEDUCED (log 68). -/
inductive TileSide where
  | activation | weight | output
deriving DecidableEq, Repr

/-- The stream that a tile of a station belongs to, for the detail of a trailer mismatch (R43): the station's lowest input stream of
the tile's operand role, its lowest output stream for an output tile, else its lowest stream. DEDUCED (log 68). -/
def streamOf (s : State) (n st : Nat) (side : TileSide) : Nat :=
  match (partAt s n).image with
  | some img =>
    let own := fun (x : Stream) => match side with
      | .activation => x.dst == st && !x.weight
      | .weight => x.dst == st && x.weight
      | .output => x.src == st
    match firstIdx own 0 img.streams with
    | some k => k
    | none => (firstIdx (fun x => x.src == st || x.dst == st) 0 img.streams).getD 0
  | none => 0

/-- The record of a tile that does not fit its instruction (R43, R131, R136). DEDUCED (log 62, 68). -/
def trailerMismatch (s : State) (core e : Nat) (side : TileSide) : State :=
  match partOfCore s core with
  | some n =>
    let st := stationFor s n core e
    raise s { kind := kTrailer, unit := uCore, id := core, part := some n, station := st, status := sPoison,
              detail := match st with | some k => streamOf s n k side | none => 0 }
  | none => s

/-- Adds to a counter of the CORE page (R115). DESIGN CHOICE (log 18). -/
def coreCount (s : State) (core off n : Nat) : State :=
  modCore s core (fun c => { c with cnt := tmod 0 c.cnt off (fun x => x + BitVec.ofNat 64 n) })

/-- Adds a free number of cycles below 2^32 to a counter of the CORE page that timing alone decides. DESIGN CHOICE (log 18). -/
def coreCycles (s : State) (core off : Nat) : State :=
  let f := takeFree s
  coreCount f.2 core off (bits f.1 31 0)

/-- The cycles an instruction of an engine lost: to bank conflicts (R94), and as stalls of an array's rows and columns (R102). Cycles are
not modelled, so each number is free. DESIGN CHOICE (log 18). -/
def stalled (s : State) (core e : Nat) : State :=
  let s := coreCycles s core 0x128
  if e = 3 ∨ e = 4 then coreCycles (coreCycles s core 0x100) core 0x108 else s

/-- Whether a live sparing is moving a logical core (R195): it stands at or beyond the failed position of a cluster row being moved. -/
def coreMoves (s : State) (core : Nat) : Bool :=
  s.sparings.any (fun x => x.cluster == clusterOf core && x.row == core / 32 % 4 && decide (x.pos ≤ core % 8))

/-! Stopping a run -/

/-- The program counters of a core's engines. -/
def corePcs (c : Core) : List (BitVec 14) := (upFrom 0 7).map (fun e => BitVec.ofNat 14 (engAt c e).pc)

/-- The code of an engine's state (R115); the engines of a gated domain that have not ended show 4. -/
def engCode (c : Core) (e : Nat) : Nat :=
  match (engAt c e).st with
  | .ended => 5
  | .halted => 6
  | .idle => if c.gated && e != 1 then 4 else 0
  | .running => if c.gated && e != 1 then 4 else 1
  | .waitPeg => if c.gated && e != 1 then 4 else 2
  | .waitBarrier => if c.gated && e != 1 then 4 else 3
  | .gated => 4

/-- CORE_ENG_STATE (R115). -/
def engStates (c : Core) : W32 :=
  BitVec.ofNat 32 ((upFrom 0 7).foldl (fun a e => a + engCode c e * 16 ^ e) 0)

/-- Latches CORE_HALT_STATE and CORE_HALT_PC of a core (R115). -/
def latchHalt (c : Core) : Core := { c with haltState := engStates c, haltPc := corePcs c }

/-- Ends the issue of a partition's engines, as in step 3 of R140: the first stopping event decides how the run ends (R329,
R141), and latches the halt registers. DEDUCED (log 132, 135). -/
def stopRun (s : State) (n : Nat) (e : Ending) : State :=
  match (partAt s n).run with
  | some r =>
    if r.stop.isSome then s
    else modCores (modPart s n (fun p => { p with run := some { r with stop := some e } })) n latchHalt
  | none => s

/-- An instruction fails a check (R140): its engine halts, the record is raised, the run stops. DEDUCED (log 135). -/
def haltIllegal (s : State) (core e : Nat) (st : Byte) : State :=
  match partOfCore s core with
  | some n =>
    let pc := (engAt (coreAt s core) e).pc
    let s := modCore s core (fun c => modEng c e (fun x => { x with st := .halted }))
    let s := raise s { kind := kIllegal, unit := uCore, id := core, part := some n, status := st,
                       detail := pc % 16384 + e * 2 ^ 28 }
    stopRun s n { status := sAborted, cause := 2 }
  | none => s

/-! Pegs -/

/-- A post (R90, R92). DESIGN CHOICE (log 60). -/
def postPeg (s : State) (core e q k : Nat) : State :=
  if k = 0 then s
  else
    let v := (tget 0 (coreAt s core).peg q).toNat + k
    let s := modCore s core (fun c => { c with peg := tset 0 c.peg q (BitVec.ofNat 16 (min v 65535)) })
    if 65535 < v then
      raise s { kind := kPegOverflow, unit := uCore, id := core, part := partOfCore s core, detail := q + e * 256 }
    else s

/-- Whether the wait of an engine's next instruction is satisfied. -/
def waitMet (c : Core) (e : Nat) : Bool :=
  match (engAt c e).queue with
  | w :: _ => decide (iWcnt w ≤ (tget 0 c.peg (iWpeg w)).toNat)
  | [] => false

/-- A gated core wakes when the wait of an engine of the gated domain is satisfied (R112). -/
def wakeOnPost (c : Core) : Core :=
  if c.gated && [0, 2, 3, 4, 5, 6].any (fun e => (engAt c e).st == .waitPeg && waitMet c e)
  then { c with gated := false, waitSince := none } else c

/-! Retirement (R89) -/

/-- Whether the oldest issued instruction of an engine may retire. -/
def mayRetire (c : Core) (f : InFlight) : Bool :=
  match f.until_ with
  | .ready => true
  | .arm n => !(c.arms.any (fun x => x.2.any (fun a => a.id == n)))
  | .barrier _ _ => false

/-- Whether nothing but a BAR is in flight in an engine. -/
def onlyBarrier (x : Eng) : Bool := x.flight.all (fun f => match f.until_ with | .barrier _ _ => true | _ => false)

/-- Whether an engine is waiting (R111): its program has ended, its BAR awaits release with nothing older executing, or its next instruction's
wait is unsatisfied with everything issued retired. -/
def isWaiting (c : Core) (e : Nat) : Bool :=
  let x := engAt c e
  x.st == .ended || (x.st == .waitBarrier && onlyBarrier x) || (x.st == .waitPeg && x.flight.isEmpty && !waitMet c e)

/-- Notes since when all six engines of the gated domain have been waiting without a break (R111). -/
def noteWait (now : W64) (c : Core) : Core :=
  { c with waitSince := if [0, 2, 3, 4, 5, 6].all (isWaiting c) then some (c.waitSince.getD now) else none }

/-- Retires the oldest issued instruction of an engine, when it may (R89): its base write, its post, the end of its program.
DESIGN CHOICE (log 9); DEDUCED (log 59). -/
def retireHead (s : State) (core e : Nat) : State :=
  let c := coreAt s core
  match (engAt c e).flight with
  | [] => s
  | f :: rest =>
    if mayRetire c f && !(coreMoves s core) then
      let s := modCore s core (fun c =>
        let c := { c with progress := s.time, excluded := 0, base := match f.base with | some (b, v) => tset 0 c.base b v | none => c.base }
        modEng c e (fun x => { x with flight := rest, st := if f.ends then .ended else x.st }))
      modCore (postPeg s core e f.ppeg f.pcnt) core (fun c => noteWait s.time (wakeOnPost c))
    else s

/-! The queue (R88, R121) -/

/-- Words of a memory as stored, corrected, with nothing counted: what the queue's replay and the plan readers use. -/
def peekBytes (s : State) (id : MemId) (a n : Nat) : List Byte :=
  let w0 := a / 8
  (((upFrom w0 (ceilDiv (a + n) 8 - w0)).flatMap (fun w =>
    let x := rawWord (memAt s id) w
    let d := match classify (syndrome x.1 x.2) with | .corrected k => corrected x.1 k | _ => x.1
    leBytes d.toNat 8)).drop (a % 8)).take n

/-- The load address and the number of instructions of an engine's program. -/
def progOf (c : Core) (e : Nat) : Nat × Nat :=
  let p := c.progs.getD e (0, 0)
  (p.1, p.2 / 16)

/-- Instruction words from their bytes. -/
def instrWords : Nat → List Byte → List IWord
  | 0, _ => []
  | n + 1, b => BitVec.ofNat 128 (leNat (b.take 16)) :: instrWords n (b.drop 16)

/-- n instructions of a program from index i. -/
def programWords (s : State) (core e i n : Nat) : List IWord :=
  let p := progOf (coreAt s core) e
  instrWords n (peekBytes s (.slice core) (p.1 + 16 * i) (16 * n))

/-- The loop levels after the instruction before pc, and the next program counter: at the end of a body the next iteration
begins, or the level ends (R121). -/
def loopEnd (pc : Nat) : List LoopLevel → List LoopLevel × Nat
  | [] => ([], pc)
  | l :: ls =>
    if pc = l.start + l.len then
      if l.i + 1 < l.count then ({ l with i := l.i + 1 } :: ls, l.start) else loopEnd pc ls
    else (l :: ls, pc)

/-- Moves an engine past the instruction at its head: levels are listed innermost first. A body of 48 instructions or fewer
is replayed from the queue, a longer one refetched. -/
def passHead (s : State) (core e : Nat) : State :=
  let x := engAt (coreAt s core) e
  let q := x.queue.drop 1
  let t := loopEnd (x.pc + 1) x.loops
  if t.2 = x.pc + 1 then modCore s core (fun c => modEng c e (fun x => { x with pc := t.2, queue := q, loops := t.1 }))
  else
    let len := x.pc + 1 - t.2
    if len ≤ 48 then
      let tail := q.take (64 - len)
      modCore s core (fun c => modEng c e (fun y => { y with
        pc := t.2, loops := t.1, queue := programWords s core e t.2 len ++ tail, fetch := x.pc + 1 + tail.length }))
    else modCore s core (fun c => modEng c e (fun y => { y with pc := t.2, loops := t.1, queue := [], fetch := t.2 }))

/-- A taken branch: the queue is refetched from the target. -/
def jumpTo (s : State) (core e target : Nat) : State :=
  modCore s core (fun c => modEng c e (fun x => { x with pc := target, queue := [], fetch := target }))

/-! Issue -/

/-- Whether an engine may take up an instruction now: its partition's run is as asked, its core is not in reset and not being moved, its
clock runs, its program has not ended, no instruction of its core awaits re-execution, and no BAR of it awaits release.
DEDUCED (log 135). -/
def ready (s : State) (core e : Nat) (goes : Run → Bool) : Bool :=
  let c := coreAt s core
  let x := engAt c e
  match partOfCore s core with
  | none => false
  | some n => match (partAt s n).run with
    | none => false
    | some r =>
      r.started && goes r && (s.hup.loss == .none || (s.hup.loss == .ride && e == 1)) && !c.inReset && !(c.gated && e != 1) &&
      !(coreMoves s core) && c.redo.isNone && x.st != .ended && x.st != .halted && x.st != .idle &&
      !(x.flight.any (fun f => f.ends || (match f.until_ with | .barrier _ _ => true | _ => false)))

/-- Whether an engine issues. DEDUCED (log 113, 135). -/
def mayIssue (s : State) (core e : Nat) : Bool := ready s core e (fun r => r.stop.isNone)

/-- Whether an engine that has not stopped yet may still find an illegal instruction, after another ended its run (R141).
DEDUCED (log 135). -/
def mayDetect (s : State) (core e : Nat) : Bool := ready s core e (fun r => match r.stop with
  | some x => x.status == sAborted && x.cause == 2
  | none => false)

/-- The functions assigned in each engine (R117, R125–R134). -/
def assigned (op : Nat) : Bool :=
  let f := op % 16
  decide (op < 0x70) && (f == 0 || f == 13 || f == 14 || f == 15 ||
    (match op / 16 with
     | 0 => decide (f ≤ 8)
     | 1 => decide (f ≤ 2)
     | 2 => decide (f ≤ 3)
     | 3 => decide (f ≤ 4)
     | 4 => decide (f ≤ 5)
     | 5 => decide (f ≤ 3)
     | _ => decide (f ≤ 5)))

/-- Whether an engine with a lower number than e waits on the same peg and may be served (R91). DESIGN CHOICE (log 60). -/
def servedFirst (c : Core) (e p : Nat) : Bool :=
  (upFrom 0 e).any (fun k => (engAt c k).st == .waitPeg && waitMet c k &&
    (match (engAt c k).queue with
     | w :: _ => iWpeg w == p && iWcnt w != 0 && ((iOp w != 0x11 && iOp w != 0x12) || decide ((tget [] c.arms (iY w)).length < 2))
     | [] => false))

/-- Takes up the instruction at the head of an engine's queue when it has the function `fn`: its checks in order (R139), its
wait (R90) and what else it needs free (R89), then its effect. An unassigned opcode halts the engine whatever function is
asked for; any other function leaves the engine unchanged. Once an illegal instruction has ended the run, the checks are all
that is left of it (R141). DESIGN CHOICE (log 60); DEDUCED (log 135). -/
def issueIf (s : State) (core e fn : Nat) (free : Core → IWord → Bool) (check : State → Core → Eng → IWord → Option Byte)
    (effect : State → IWord → State) : State :=
  if mayIssue s core e || mayDetect s core e then
    let c := coreAt s core
    match (engAt c e).queue with
    | [] => s
    | w :: _ =>
      if iOp w / 16 ≠ e ∨ !(assigned (iOp w)) then haltIllegal s core e eRange
      else if iOp w ≠ 16 * e + fn then s
      else match check s c (engAt c e) w with
        | some st => haltIllegal s core e st
        | none =>
          if !(mayIssue s core e) then s
          else if waitMet c e && free c w && !(iWcnt w != 0 && servedFirst c e (iWpeg w)) then
            effect (modCore s core (fun c =>
              modEng { c with peg := tmod 0 c.peg (iWpeg w) (fun p => p - BitVec.ofNat 16 (iWcnt w)) } e
                (fun x => { x with st := .running }))) w
          else modCore s core (fun c => noteWait s.time (modEng c e (fun x => { x with st := .waitPeg })))
  else s

/-- The same for an instruction that needs nothing but its engine. DESIGN CHOICE (log 9, 12); DEDUCED (log 59). -/
def issue (s : State) (core e fn : Nat) (check : State → Core → Eng → IWord → Option Byte)
    (effect : State → IWord → State) : State := issueIf s core e fn (fun _ _ => true) check effect

/-- An issued instruction joins those in flight; one that takes one cycle retires at once when nothing older is in flight
(R137). DEDUCED (log 59). -/
def launch (s : State) (core e : Nat) (w : IWord) (f : InFlight) (oneCycle : Bool) : State :=
  let old := (engAt (coreAt s core) e).flight
  let s := modCore s core (fun c => modEng c e (fun x => { x with
    flight := x.flight ++ [{ f with ppeg := iPpeg w, pcnt := iPcnt w }] }))
  if oneCycle && old.isEmpty then retireHead s core e else modCore s core (noteWait s.time)

/-- The common end of an effect: past the head, and in flight. -/
def issued (s : State) (core e : Nat) (w : IWord) (f : InFlight) (oneCycle : Bool) : State :=
  launch (passHead s core e) core e w f oneCycle

/-- The same for an instruction that moves data: it may have lost cycles. DESIGN CHOICE (log 18). -/
def issuedData (s : State) (core e : Nat) (w : IWord) (f : InFlight) : State := issued (stalled s core e) core e w f false

/-- The first check that fails, each with its status. -/
def checks (l : List (Bool × Byte)) : Option Byte := (l.find? (fun x => !x.1)).map (fun x => x.2)

/-- The plan of a core: where it lies and how long it is (R53, R174). -/
def planAt (c : Core) : Nat × Nat := c.progs.getD 7 (0, 0)

/-- Byte range of the plan of a core. -/
def planBytes (s : State) (core a n : Nat) : List Byte :=
  peekBytes s (.slice core) ((planAt (coreAt s core)).1 + a) n

/-- Entry k of a core's plan (R175): send or receive, port; none beyond the table. -/
def planEntry (s : State) (core k : Nat) : Option (Bool × Nat) :=
  let h := planBytes s core 0 16
  if k < field h 0 2 then
    let b := planBytes s core (field h 8 4 + 8 * k) 2
    some (field b 0 1 % 2 == 1, field b 1 1 % 8)
  else none

end Sys2Proof.Machine
end

