-- ==== Sys2Proof/Machine/Control.lean ====
section
/-! DEFINITION. What every engine has: queue refill (R88), retirement (R89), clock gating (R111), and the
common instructions NOP, LOOP, BAR and END (R121–R123). -/

namespace Sys2Proof.Machine

/-- The bits of a list of fields, each (hi, lo). -/
def maskOf : List (Nat × Nat) → IWord
  | [] => 0
  | x :: l => (BitVec.ofNat 128 (2 ^ (x.1 + 1 - x.2) - 1) <<< x.2) ||| maskOf l

/-- Check 2 of R139: every bit outside op, the wait, the post and the fields listed is zero. -/
def onlyBits (w : IWord) (l : List (Nat × Nat)) : Bool := (w &&& ~~~(maskOf ((7, 0) :: (41, 16) :: l))) == 0

/-- The run of a partition is going on: its cores have started and nothing has stopped it. -/
def runLive (s : State) (n : Nat) : Bool :=
  match (partAt s n).run with
  | some r => r.started && r.stop.isNone
  | none => false

/-- The lowest engine whose queue has 16 entries free and whose program goes on: one whose END has issued fetches nothing more (R123). -/
def refillNext (c : Core) : Option Nat :=
  (upFrom 0 7).find? (fun e =>
    let x := engAt c e
    x.st != .ended && x.st != .halted && x.st != .idle && !(x.flight.any (fun f => f.ends)) &&
    decide (x.queue.length + 16 ≤ 64) &&
    decide (x.fetch < (progOf c e).2))

/-- QUEUE_REFILL (R88): 16 instructions of the lowest engine with 16 entries free, through the slice's decoder.
DESIGN CHOICE (log 9); DEDUCED (log 65). -/
def execQueueRefill (core : CoreId) (s : State) : Host.Outcome State Fault Refusal :=
  whenAon s fun s =>
    let c := coreAt s core.val
    match partOfCore s core.val with
    | none => s
    | some n =>
      if runLive s n && !c.inReset && s.hup.loss == .none then
        match refillNext c with
        | none => s
        | some e =>
          let x := engAt c e
          let p := progOf c e
          let k := min 16 (p.2 - x.fetch)
          let r := readMem s (.slice core.val) (p.1 + 16 * x.fetch) (16 * k)
          modCore r.2 core.val (fun c => modEng c e (fun x => { x with
            queue := x.queue ++ instrWords k r.1.1, fetch := x.fetch + k }))
      else s

/-- INSTRUCTION_RETIRE (R89): the oldest issued instruction of an engine retires, once what it waits for is done. -/
def execInstructionRetire (core : CoreId) (eng : EngId) (s : State) : Host.Outcome State Fault Refusal :=
  whenAon s fun s => retireHead s core.val eng.val

/-- gate_us of a partition (R114). -/
def gateUs (s : State) (n : Nat) : Nat := bits (reg s (0xA04008 + 0x40 * n)) 10 0
/-- wdog_ms of a partition (R114). -/
def wdogMs (s : State) (n : Nat) : Nat := bits (reg s (0xA0400C + 0x40 * n)) 9 0

/-- CLOCK_GATING (R111): all six engines of the gated domain have waited for gate_us. -/
def execClockGating (core : CoreId) (s : State) : Host.Outcome State Fault Refusal :=
  whenAon s fun s =>
    let c := coreAt s core.val
    match partOfCore s core.val, c.waitSince with
    | some n, some t =>
      if runLive s n && !c.gated && !c.inReset && decide (gateUs s n ≠ 0) && decide (25 * gateUs s n ≤ since s t) &&
          [0, 2, 3, 4, 5, 6].all (isWaiting c)
      then
        let s := { s with power := { s.power with lending := terase s.power.lending core.val } }
        modCore s core.val (fun c => { c with gated := true })
      else s
    | _, _ => s

/-- The check of NOP and END (R123, R139). -/
def nopCheck (_ : State) (_ : Core) (_ : Eng) (w : IWord) : Option Byte :=
  checks [(onlyBits w [], eReserved)]

/-- NOP (R123). -/
def execNop (core : CoreId) (eng : EngId) (s : State) : Host.Outcome State Fault Refusal :=
  whenAon s fun s =>
    issue s core.val eng.val 0 nopCheck
      (fun s w => issued s core.val eng.val w {} true)

/-- The checks of LOOP (R121). -/
def loopCheck (e : Nat) (_ : State) (c : Core) (x : Eng) (w : IWord) : Option Byte :=
  let fin := x.pc + 1 + sub (iY w) 5 0
  checks [(onlyBits w [(87, 68), (107, 88), (127, 108)], eReserved),
    (decide (1 ≤ iImm w) && decide (1 ≤ sub (iY w) 5 0) && decide (fin ≤ (progOf c e).2), eRange),
    (decide (x.loops.length < (if e = 0 then 4 else 2)) &&
      (match x.loops with | l :: _ => decide (fin ≤ l.start + l.len) | [] => true), eState)]

/-- LOOP (R121). -/
def execLoop (core : CoreId) (eng : EngId) (s : State) : Host.Outcome State Fault Refusal :=
  whenAon s fun s =>
    issue s core.val eng.val 13
      (loopCheck eng.val)
      (fun s w =>
        let s := passHead s core.val eng.val
        launch (modCore s core.val (fun c => modEng c eng.val (fun x => { x with
          loops := { start := x.pc, len := sub (iY w) 5 0, count := iImm w, i := 0,
                     s14 := sext 14 (sub (iY w) 19 6), s15 := sext 20 (iZ w) } :: x.loops })))
          core.val eng.val w {} true)

/-- The owning partition of a barrier, 15 for none (R363). -/
def barOwner (s : State) (k : Nat) : Nat := bits (reg s (0xB00000 + 0x100 * k)) 3 0

/-- The checks of BAR (R122). -/
def barCheck (core : Nat) (s : State) (_ : Core) (_ : Eng) (w : IWord) : Option Byte :=
  checks [(onlyBits w [(115, 108)], eReserved),
    (partOfCore s core == some (barOwner s (iImm w % 256)), ePartition)]

/-- BAR (R122): the arrival sets out for the barrier unit, and the engine waits. -/
def execBar (core : CoreId) (eng : EngId) (s : State) : Host.Outcome State Fault Refusal :=
  whenAon s fun s =>
    issue s core.val eng.val 14
      (barCheck core.val)
      (fun s w =>
        let k : BarId := ⟨iImm w % 256, Nat.mod_lt _ (by decide)⟩
        let s := modCore (passHead s core.val eng.val) core.val (fun c =>
          modEng c eng.val (fun x => { x with st := .waitBarrier }))
        launch s core.val eng.val w { until_ := .barrier k none } false)

/-- END (R123). -/
def execEndProg (core : CoreId) (eng : EngId) (s : State) : Host.Outcome State Fault Refusal :=
  whenAon s fun s =>
    issue s core.val eng.val 15 nopCheck
      (fun s w => launch (modCore s core.val (fun c => modEng c eng.val (fun x => { x with queue := [], loops := [] })))
        core.val eng.val w { ends := true } true)

end Sys2Proof.Machine
end

