-- ==== Sys2Proof/Machine/Defect.lean ====
section
/-! DEFINITION. Defects and what serves in their place: the defect list (R449–R451), fenced clusters (R28, R478), live core
sparing (R194–R196). -/

namespace Sys2Proof.Machine

/-- Records a defect in the Cullet store (R449, R451): an entry found again counts; a full list raises its record. -/
def addDefect (s : State) (rec unit id : Nat) (src : BitVec 2) : State :=
  let same := fun (e : DefEntry) => e.unit == BitVec.ofNat 8 unit && e.id == BitVec.ofNat 32 id
  if s.boot.list.any same then
    { s with boot := { s.boot with list := s.boot.list.map (fun e =>
        if same e then { e with lastStart := s.boot.startCount, count := satInc e.count } else e) } }
  else if s.boot.list.length < 8192 then
    { s with boot := { s.boot with list := s.boot.list ++
        [⟨BitVec.ofNat 16 rec, BitVec.ofNat 8 unit, src, BitVec.ofNat 32 id, s.time, s.boot.startCount, s.boot.startCount, 1⟩] } }
  else raise s { kind := kListFull }

/-- The state of a partition that a cluster belongs to. -/
def clusterPart (s : State) (c : Nat) : Option Nat := partOfCluster s c

/-- Whether a partition is RUNNING. -/
def running (s : State) (n : Nat) : Bool := (partAt s n).st == .running

/-- The logical cores of a cluster (R26). -/
def clusterCores (c : Nat) : List Nat :=
  (upFrom 0 4).flatMap (fun r => (upFrom 0 8).map (fun k => c / 16 * 512 + (c % 16 / 4 * 4 + r) * 32 + c % 4 * 8 + k))

/-- Places a core in reset (R460): every engine halted. -/
def resetCore (c : Core) : Core :=
  (upFrom 0 7).foldl (fun c e => modEng c e (fun x => { x with st := .halted })) { c with inReset := true }

/-- Fences a cluster (R28, R379); in a running partition it goes into cluster reset with its record (R478). -/
def fenceCluster (s : State) (c : Nat) : State :=
  if s.units.fenced.contains c then s
  else
    let s := { s with units := { s.units with fenced := s.units.fenced ++ [c] },
                      sparings := s.sparings.filter (fun x => x.cluster != c) }
    match clusterPart s c with
    | some n =>
      if running s n then
        raise ((clusterCores c).foldl (fun s k => modCore s k resetCore) s)
          { kind := kClusterFenced, unit := uCluster, id := c, part := some n }
      else s
    | none => s

/-- The key of a cluster row: cluster × 4 + row in the cluster. -/
def rowKey (p : Nat) : Nat := physCluster p * 4 + (physPlace p).2.1 % 4

/-- Begins the sparing of a physical core (R194–R196): in a partition the migration takes until CORE_SPARING_COMPLETE; in none
it is only recorded; with the row's spare gone the cluster is fenced. DEDUCED (log 129). -/
def spareCore (s : State) (rec p : Nat) : State :=
  let c := physCluster p
  let row := (physPlace p).2.1 % 4
  let pos := (physPlace p).2.2.2
  let d := skipOf s c row
  if s.sparings.any (fun x => x.cluster == c && x.row == row) || s.units.fenced.contains c then
    (if s.sparings.any (fun x => x.cluster == c && x.row == row && x.pos == pos) then s
     else fenceCluster (addDefect s rec uPhys p 2) c)
  else
    let s := addDefect s rec uPhys p 2
    if pos = d then
      { s with units := { s.units with spareGone := if s.units.spareGone.contains (rowKey p) then s.units.spareGone
                                                    else s.units.spareGone ++ [rowKey p] } }
    else if d ≠ 8 ∨ s.units.spareGone.contains (rowKey p) then fenceCluster s c
    else match clusterPart s c with
      | none =>
        let row := c / 16 * 512 + (c % 16 / 4 * 4 + row) * 32 + c % 4 * 8
        raise { s with units := { s.units with skip := tset 8 s.units.skip (rowKey p) pos } }
          { kind := kCoreSpared, unit := uCore, id := row + pos, detail := p }
      | some n => { s with sparings := s.sparings ++ [⟨c, row, pos, some (partFin n), s.time⟩] }

/-- Every listed word of a memory passes its decoder, as a migration reads it (R195). DEDUCED (log 127). -/
def passDecoder (s : State) (id : MemId) : State :=
  let m := memAt s id
  let ws := (m.data.map (fun x => x.1 / 8)) ++ (m.check.map (fun x => x.1))
  ws.foldl (fun s w => (readWord s id w).2) s

/-- The logical cores that a sparing moves (R195): those at the failed position and east of it in their cluster row. -/
def movedCores (x : Sparing) : List Nat :=
  (upFrom x.pos (8 - x.pos)).map (fun k => x.cluster / 16 * 512 + (x.cluster % 16 / 4 * 4 + x.row) * 32 + x.cluster % 4 * 8 + k)

/-- The end of a sparing (R195, R196): words that do not decode are poison at the new place, an audit under way is skipped
(R85), the bypass is re-pointed, the record is raised. DEDUCED (log 129). -/
def finishSparing (s : State) (x : Sparing) : State :=
  let moved := movedCores x
  let old := physOf s (moved.getD 0 0)
  let s := moved.foldl (fun s c => passDecoder (passDecoder s (.slice c)) (.basket c)) s
  let s := moved.foldl (fun s c =>
    match (coreAt s c).audit, x.part with
    | some a, some n => modCore (addStats s n.val a.station [0, 0, 0, 0, 0, 0, 0, 1]) c (fun k => { k with audit := none })
    | _, _ => s) s
  let s := { s with units := { s.units with skip := tset 8 s.units.skip (x.cluster * 4 + x.row) x.pos },
                    sparings := s.sparings.filter (fun y => !(y.cluster == x.cluster && y.row == x.row)) }
  raise s { kind := kCoreSpared, unit := uCore, id := moved.getD 0 0, part := x.part.map (fun n => n.val), detail := old }

/-- Which sparing a physical core's is. -/
def sparingOf (s : State) (p : Nat) : Option Sparing :=
  s.sparings.find? (fun x => x.cluster == physCluster p && x.row == (physPlace p).2.1 % 4 && x.pos == (physPlace p).2.2.2)

/-- LIVE_CORE_SPARING (R194, R196): the Gaffer has declared a physical core defective. DEDUCED (log 129). -/
def execLiveCoreSparing (core : PhysId) (s : State) : Host.Outcome State Fault Refusal :=
  whenAon s fun s => spareCore s kCheckerFault core.val

end Sys2Proof.Machine
end

