-- ==== Sys2Proof/Machine/Real.lean ====
section
/-! DEFINITION. The functions that the manual gives within 2 units in the last place of FP32 (R101, R109, R147, R254): each exact value
in fixed point with 512 fraction bits, and the FP32 result, a free choice among the values within that bound. -/

namespace Sys2Proof.Machine

/-- One in fixed point with 512 fraction bits. -/
def fxOne : Nat := 2 ^ 512
/-- A fixed-point product. -/
def fxMul (a b : Nat) : Nat := a * b / fxOne
/-- A fixed-point quotient. -/
def fxDiv (a b : Nat) : Nat := a * fxOne / b
/-- The magnitude of a finite value in fixed point: exact for FP32. -/
def magFx : Num → Nat
  | .fin _ m e => m * 2 ^ (e + 512).toNat
  | _ => 0
/-- A magnitude and a sign as a value. -/
def fxNum (neg : Bool) (x : Nat) : Num := .fin neg x (-512)
/-- A signed fixed-point number as a value. -/
def fxInt (x : Int) : Num := fxNum (decide (x < 0)) x.natAbs

/-! Series -/

/-- 1 + y ÷ k × (1 + y ÷ (k + d) × …), n factors: the exponential's series for d = 1, k = 1; for d = 2 and y = x², k = 3 the
series of Φ, Σ x^2n ÷ (1 × 3 × … × (2n + 1)). -/
def powerTail (y d : Nat) : Nat → Nat → Nat
  | 0, _ => fxOne
  | n + 1, k => fxOne + fxMul y (powerTail y d n (k + d)) / k

/-- Σ z2^j ÷ (k + 2j) over n terms. -/
def oddTail (z2 : Nat) : Nat → Nat → Nat
  | 0, _ => 0
  | n + 1, k => fxOne / k + fxMul z2 (oddTail z2 n (k + 2))

/-- The same with alternating signs. -/
def altTail (z2 : Nat) : Nat → Nat → Nat
  | 0, _ => 0
  | n + 1, k => fxOne / k - fxMul z2 (altTail z2 n (k + 2))

/-- n squarings. -/
def fxSquares : Nat → Nat → Nat
  | 0, x => x
  | n + 1, x => fxSquares n (fxMul x x)

/-- The integer square root by bits, n bits below the ones found. -/
def rootBits (a : Nat) : Nat → Nat → Nat
  | 0, r => r
  | n + 1, r => rootBits a n (if (r + 2 ^ n) * (r + 2 ^ n) ≤ a then r + 2 ^ n else r)

/-- √x. -/
def fxRoot (x : Nat) : Nat := rootBits (x * fxOne) 600 0

/-- e^x for 0 ≤ x < 256. -/
def fxExp (x : Nat) : Nat := fxSquares 10 (powerTail (x / 1024) 1 100 1)

/-- e^−x for x ≥ 0; below the least step of the fixed point that step. -/
def fxExpNeg (x : Nat) : Nat := if 256 * fxOne ≤ x then 1 else max 1 (fxDiv fxOne (fxExp x))

/-- ln 2 = 2 artanh(1/3). -/
def fxLn2 : Nat := 2 * fxMul (fxOne / 3) (oddTail (fxOne / 9) 170 1)

/-- π = 16 arctan(1/5) − 4 arctan(1/239). -/
def fxPi : Nat :=
  16 * fxMul (fxOne / 5) (altTail (fxOne / 25) 120 1) - 4 * fxMul (fxOne / 239) (altTail (fxOne / 57121) 40 1)

/-- A decimal constant n ÷ d. -/
def fxDec (n d : Nat) : Nat := n * fxOne / d

/-! Functions of a sign and a magnitude -/

/-- 1 ÷ (1 + e^−x). -/
def fxSigmoid (neg : Bool) (a : Nat) : Nat :=
  let e := fxExpNeg a
  fxDiv (if neg then e else fxOne) (fxOne + e)

/-- φ, the density of the standard normal distribution. -/
def fxDensity (a : Nat) : Nat := fxDiv (fxExpNeg (fxMul a a / 2)) (fxRoot (2 * fxPi))

/-- Φ, the distribution function of the standard normal distribution: ½ ± φ(a) Σ a^(2n+1) ÷ (2n + 1)!!, at 16 and beyond within the
fixed point's least step of its limit. -/
def fxNormal (neg : Bool) (a : Nat) : Nat :=
  if 16 * fxOne ≤ a then (if neg then 1 else fxOne)
  else
    let t := fxMul (fxDensity a) (fxMul a (powerTail (fxMul a a) 2 700 3))
    if neg then fxOne / 2 - t else fxOne / 2 + t

/-- The magnitude of u = 0.797,884,56 (x + 0.044,715 x³) (R101, R147). -/
def fxTanhArg (a : Nat) : Nat := fxMul (fxDec 79788456 100000000) (a + fxMul (fxDec 44715 1000000) (fxMul a (fxMul a a)))

/-! Exact values of the functions at a finite FP32 operand -/

/-- A signed fixed-point number of a sign and a magnitude. -/
def fxSigned (neg : Bool) (x : Nat) : Int := if neg then -(Int.ofNat x) else Int.ofNat x

/-- e^x. -/
def expNum (x : Num) : Num :=
  let a := magFx x
  fxNum false (if x.neg then fxExpNeg a else if 256 * fxOne ≤ a then fxExp (255 * fxOne) else fxExp a)

/-- ln x for x > 0. -/
def lnNum : Num → Num
  | .fin _ m e =>
    let l := m.log2
    let f := m * fxOne / 2 ^ l
    fxInt ((e + Int.ofNat l) * Int.ofNat fxLn2 +
      2 * Int.ofNat (let z := fxDiv (f - fxOne) (f + fxOne); fxMul z (oddTail (fxMul z z) 170 1)))
  | x => x

/-- 1 ÷ x for x ≠ 0. -/
def rcpNum (x : Num) : Num := fxNum x.neg (fxDiv fxOne (magFx x))

/-- 1 ÷ √x for x > 0. -/
def rsqNum (x : Num) : Num := fxNum false (fxDiv fxOne (fxRoot (magFx x)))

/-- tanh x. -/
def tanhNum (x : Num) : Num :=
  let e := fxExpNeg (2 * magFx x)
  fxNum x.neg (fxDiv (fxOne - e) (fxOne + e))

/-- 1 ÷ (1 + e^−x). -/
def sigmoidNum (x : Num) : Num := fxNum false (fxSigmoid x.neg (magFx x))

/-- x × Φ(x). -/
def geluNum (x : Num) : Num := fxNum x.neg (fxMul (magFx x) (fxNormal x.neg (magFx x)))

/-- 0.5 x (1 + tanh u) = x ÷ (1 + e^−2u). -/
def geluTanhNum (x : Num) : Num := fxNum x.neg (fxMul (magFx x) (fxSigmoid x.neg (2 * fxTanhArg (magFx x))))

/-- x ÷ (1 + e^−x). -/
def siluNum (x : Num) : Num := fxNum x.neg (fxMul (magFx x) (fxSigmoid x.neg (magFx x)))

/-- The exact f′ of a code of R147 whose result the manual gives within 2 units in the last place. -/
def derivNum (code : Nat) (x : Num) : Num :=
  let a := magFx x
  let s := fxSigmoid x.neg a
  let far := fxNum x.neg (if x.neg then 1 else fxOne)
  match code with
  | 2 => if 16 * fxOne ≤ a then far
         else fxInt (Int.ofNat (fxNormal x.neg a) + fxSigned x.neg (fxMul a (fxDensity a)))
  | 3 =>
    if 32 * fxOne ≤ a then far
    else
      let u := 2 * fxTanhArg a
      let p := fxSigmoid x.neg u
      fxInt (Int.ofNat p + fxSigned x.neg (fxMul (2 * fxMul a (fxMul p (fxSigmoid (!x.neg) u)))
        (fxMul (fxDec 79788456 100000000) (fxOne + fxMul (fxDec 134145 1000000) (fxMul a a)))))
  | 4 => fxInt (Int.ofNat s + fxSigned x.neg (fxMul s (fxMul a (fxSigmoid (!x.neg) a))))
  | 5 =>
    let e := fxExpNeg (2 * a)
    fxNum false (4 * fxDiv e (fxMul (fxOne + e) (fxOne + e)))
  | 6 => fxNum false (fxMul s (fxSigmoid (!x.neg) a))
  | 13 => Num.one.add (x.mul x).negate
  | 14 => x.mul (Num.one.add x.negate)
  | _ => fxNum false (if x.neg then 0 else 2 * fxRoot a)

/-! The FP32 result -/

/-- An FP32 value in the order of its magnitudes, and back. -/
def f32rank (x : W32) : Int := fxSigned (bitAt x 31) (bits x 30 0)
/-- The FP32 value of a rank. -/
def f32atRank (k : Int) : W32 := f32sign (decide (k < 0)) ||| BitVec.ofNat 32 k.natAbs

/-- The unit in the last place of FP32 at a value. -/
def f32ulp : Num → Num
  | .fin _ m e => .fin false 1 (if m = 0 then -149 else max (Int.ofNat m.log2 + e) (-126) - 23)
  | _ => .zero

/-- An FP32 value within 2 units in the last place of an exact value: the nearest, moved by as many steps as `steps` says where that
stays within the bound. DESIGN CHOICE (log 71). -/
def f32near (v : Num) (steps : Int) : W32 :=
  let base := f32of v
  let y := f32atRank (f32rank base + steps)
  if steps = 0 then base
  else if (f32val y).finite && (f32val base).finite &&
      !((f32ulp v).mul (.fin false 2 0)).lt ((f32val y).add v.negate).abs then y
  else base

/-- The steps, −2 to 2, that a free number stands for. -/
def freeSteps (k : Nat) : Int := match k % 5 with | 0 => 0 | 1 => 1 | 2 => -1 | 3 => 2 | _ => -2

/-- A function's FP32 result at a finite operand, within 2 units in the last place of the exact value: which of the values within the bound
the machine gives is free, by the function's number and the operand. DESIGN CHOICE (log 71). -/
def f32fn (id : Nat) (f : Num → Num) (x : W32) : W32 := f32near (f (f32val x)) (freeSteps (Config.ulps id x))

/-- The sum of FP32 partials, each added exactly once, every addition rounded to nearest even, in an order that `choose` gives (R74):
which two of the n + 1 values left are added next. -/
def sumInOrder (choose : Nat → Nat) : Nat → List W32 → W32
  | 0, l => l.headD 0
  | n + 1, l =>
    let i := choose (2 * n) % l.length
    let r := l.eraseIdx i
    let j := choose (2 * n + 1) % r.length
    sumInOrder choose n (f32add (l.getD i 0) (r.getD j 0) :: r.eraseIdx j)

/-- A sum of an NBU: the order is free. DESIGN CHOICE (log 78). -/
def nbuSum (l : List W32) : W32 := sumInOrder (Config.nbuOrder l) (l.length - 1) l

end Sys2Proof.Machine
end

