-- ==== Sys2Proof/Machine/Flags.lean ====
section
/-! DEFINITION. The special values of the arithmetic functions: activation functions (R101), derivatives (R147), the Rinse
unit's vector functions (R135), and the sums of the check-stitch column (R103, R104). -/

namespace Sys2Proof.Machine

/-- A function of FP32: NaN to NaN, its limits at the infinities, else f. -/
def withLimits (atPos atNeg : W32) (f : W32 → W32) (x : W32) : W32 :=
  match f32val x with
  | .nan => f32nan
  | .inf neg => if neg then atNeg else atPos
  | .fin _ _ _ => f x

/-- FP32 1.0. -/
def f32one : W32 := 0x3F800000
/-- FP32 −1.0. -/
def f32minusOne : W32 := 0xBF800000

/-- max(y, 0). -/
def relu (y : W32) : W32 := if bitAt y 31 then 0 else y

/-- The fused activation functions (R101). -/
def actFn (code : Nat) (y : W32) : W32 :=
  match code with
  | 0 => y
  | 1 => withLimits (f32inf false) 0 relu y
  | 2 => withLimits (f32inf false) 0 (f32fn 0x42 geluNum) y
  | 3 => withLimits (f32inf false) 0 (f32fn 0x43 geluTanhNum) y
  | 4 => withLimits (f32inf false) 0 (f32fn 0x44 siluNum) y
  | 5 => withLimits f32one f32minusOne (f32fn 0x45 tanhNum) y
  | 6 => withLimits f32one 0 (f32fn 0x46 sigmoidNum) y
  | _ => withLimits (f32inf false) 0 (fun y => f32mul (relu y) (relu y)) y

/-- f′ of R147. -/
def derivFn (code : Nat) (x : W32) : W32 :=
  let near := f32fn (0x80 + code) (derivNum code)
  let step := fun (x : W32) => if bitAt x 31 || (f32val x).isZero then 0 else f32one
  match code with
  | 0 => f32one
  | 1 => withLimits f32one 0 step x
  | 7 => withLimits (f32inf false) 0 (fun x => f32add (relu x) (relu x)) x
  | 9 => withLimits f32one 0 step x
  | 5 => withLimits 0 0 near x
  | 6 => withLimits 0 0 near x
  | 13 => withLimits (f32inf true) (f32inf true) near x
  | 14 => withLimits (f32inf true) (f32inf true) near x
  | 15 => withLimits (f32inf false) 0 near x
  | _ => withLimits f32one 0 near x

/-- MIN and MAX of R135; a NaN, or zeros of both signs, have no stated result and are free. -/
def minMax (op : Nat) (a b : W32) : W32 :=
  let x := f32val a
  let y := f32val b
  if x.isNan || y.isNan || (x.isZero && y.isZero && a != b) then Config.minMaxOpen op a b
  else if op = 5 then (if y.lt x then b else a) else (if x.lt y then b else a)

/-- The vector operations of R135 on one lane: the operation, vs1, vs2 and the old vd. -/
def laneOp (op : Nat) (a b d : W32) : W32 :=
  match op with
  | 0x01 => f32add a b
  | 0x02 => f32sub a b
  | 0x03 => f32mul a b
  | 0x04 => f32fma a b d
  | 0x05 => minMax 5 a b
  | 0x06 => minMax 6 a b
  | 0x07 => if (f32val a).lt (f32val b) then f32one else 0
  | 0x08 => if (f32val d).isZero then b else a
  | 0x10 => withLimits (f32inf false) 0 (f32fn 0x10 expNum) a
  | 0x11 => match f32val a with
    | .nan => f32nan
    | .inf false => f32inf false
    | .inf true => Config.logNonPositive a
    | .fin s m _ => if m = 0 ∨ s = true then Config.logNonPositive a else f32fn 0x11 lnNum a
  | 0x12 => match f32val a with
    | .nan => f32nan
    | .inf s => f32sign s
    | .fin _ m _ => if m = 0 then Config.rcpZero a else f32fn 0x12 rcpNum a
  | 0x13 => match f32val a with
    | .nan => f32nan
    | .inf false => 0
    | .inf true => Config.rsqNonPositive a
    | .fin s m _ => if m = 0 ∨ s = true then Config.rsqNonPositive a else f32fn 0x13 rsqNum a
  | 0x14 => withLimits f32one f32minusOne (f32fn 0x14 tanhNum) a
  | _ => withLimits f32one 0 (f32fn 0x15 sigmoidNum) a

/-- The larger of two FP32 values; a NaN stays. -/
def f32larger (a b : W32) : W32 :=
  if (f32val a).isNan || (f32val b).isNan then f32nan else if (f32val a).lt (f32val b) then b else a

/-! The check-stitch column (R103, R104) -/

/-- An exact value added to an FP32 sum, rounded once. DEDUCED (log 143). -/
def f32accum (a : W32) (x : Num) : W32 := f32of ((f32val a).add x)

/-- The elements of a list of blocks with their scales, for each of the 32 positions of each block. -/
def scaledElems (l : List Blk) : List (List Num) := l.map (fun b => b.elems.map (fun e => e.mul b.scale))

/-- Adds the scaled elements of one column, position by position. DEDUCED (log 143). -/
def addColumn (acc : List (List W32)) (col : List Blk) : List (List W32) :=
  (acc.zip (scaledElems col)).map (fun x => (x.1.zip x.2).map (fun y => f32accum y.1 y.2))

/-- The column's weights w_k, by group and position: each an FP32 sum over the tile's columns in ascending order.
DEDUCED (log 143). -/
def checkWeights (groups : Nat) (cols : List (List Blk)) : List (List W32) :=
  cols.foldl addColumn (List.replicate groups (List.replicate 32 0))

/-- C_m: an FP32 sum in ascending K order. DEDUCED (log 143). -/
def checkSum (acts : List Blk) (ws : List (List W32)) : W32 :=
  ((scaledElems acts).zip ws).foldl (fun a x => (x.1.zip x.2).foldl (fun a y => f32accum a (y.1.mul (f32val y.2))) a) 0

/-- The exponent t of the tolerance, by rate class. -/
def checkTol (cls : Nat) : Nat := if cls = 3 then 14 else 16

/-- Whether a row matches, given C_m and its products p[m][n] column by column, groups inner: none where a sum is not finite (R104), so that it
is not checked. D_m and S_m are FP32 sums in that order; the comparison is exact. DEDUCED (log 143). -/
def rowMatches (t : Nat) (c : W32) (prods : List W32) : Option Bool :=
  let d := prods.foldl f32add 0
  let p := prods.foldl (fun a p => f32add a (p &&& 0x7FFFFFFF)) 0
  if !(f32val c).finite || !(f32val d).finite || !(f32val p).finite then none
  else
    let bound := (((f32val p).add (f32val c).abs).mul (.fin false 1 (-Int.ofNat t))).add (.fin false 1 (-126))
    some (!(bound.lt ((f32val c).add (f32val d).negate).abs))

/-- Whether no operand of a list of blocks is a NaN or an infinity. -/
def blksFinite (l : List Blk) : Bool := l.all (fun b => b.scale.finite && b.elems.all Num.finite)

end Sys2Proof.Machine
end

