-- ==== Sys2Proof/Machine/Arrays.lean ====
section
/-! DEFINITION. The F and G arrays (R96–R106, R129–R132): matmul, drain, layout and clear; the derivative drain with its
statistics (R146–R151); the shadow audit's sampling (R84, R85). -/

namespace Sys2Proof.Machine

/-- The engine number of an array: G or F. -/
def arrEng (g : Bool) : Nat := if g then 4 else 3
/-- The array of a core. -/
def arrOf (c : Core) (g : Bool) : Arr := if g then c.g else c.f
/-- Changes an array of a core. -/
def modArr (s : State) (core : Nat) (g : Bool) (f : Arr → Arr) : State :=
  modCore s core (fun c => if g then { c with g := f c.g } else { c with f := f c.f })

/-- The rate class of a pairing (R71): 0 FP8, 1 4-bit, 2 2-bit, 3 BF16. -/
def rateClass (ta tb : Nat) : Option Nat :=
  if ta = 6 ∧ tb ≤ 5 then some 3
  else if ta ≤ 5 ∧ ta ≠ 4 ∧ tb ≤ 5 then
    (if tb = 4 then (if ta = 5 then some 0 else some 2)
     else if (ta = 2 ∨ ta = 3) ∧ (tb = 2 ∨ tb = 3) then some 1 else some 0)
  else none

/-- The K of a tile by array and rate class (R96). -/
def tileK (g : Bool) (cls : Nat) : Nat :=
  (match cls with | 1 => 64 | 2 => 128 | _ => 32) * (if g then 2 else 1)

/-- What an MM covers: its K, its first K position, rows, accumulator row, flags. -/
structure MmForm where
  k : Nat
  k0 : Nat
  m : Nat
  a : Nat
  accumulate : Bool
  keep : Bool
deriving DecidableEq, Repr

/-- The form of an MM word on an array. -/
def mmForm (g : Bool) (w : IWord) : MmForm :=
  ⟨tileK g ((rateClass (iTa w) (iTb w)).getD 0), 32 * sub (iMod w) 0 0, sub (iImm w) 16 8, sub (iImm w) 7 0,
   sub (iImm w) 17 17 == 1, sub (iImm w) 18 18 == 1⟩

/-- Tiles along K that an MM reads. -/
def MmForm.kTiles (f : MmForm) : Nat := ceilDiv (f.k0 + f.k) 64
/-- Activation tiles along M. -/
def MmForm.mTiles (f : MmForm) : Nat := ceilDiv f.m 64
/-- The blocks of an MM along K: tile and half. -/
def MmForm.blocks (f : MmForm) : List (Nat × Nat) :=
  (upFrom 0 (f.k / 32)).map (fun b => ((f.k0 + 32 * b) / 64, (f.k0 + 32 * b) % 64 / 32))

/-- The addresses of the activation tiles, M-tile by M-tile. -/
def actAddrs (c : Core) (g : Bool) (f : MmForm) (w : IWord) : List Int :=
  let a := arrOf c g
  let x := effAddr c (engAt c (arrEng g)) (iX w)
  (upFrom 0 f.mTiles).flatMap (fun i => (upFrom 0 f.kTiles).map (fun j =>
    x + Int.ofNat (64 * (i * a.mStride + j * a.kStride))))

/-- The addresses of the weight tiles. -/
def wtAddrs (c : Core) (g : Bool) (f : MmForm) (w : IWord) : List Int :=
  let y := effAddr c (engAt c (arrEng g)) (iY w)
  (upFrom 0 f.kTiles).map (fun j => y + Int.ofNat (64 * (j * (arrOf c g).wStride)))

/-- The activation KC of an MM. -/
def mmKa (w : IWord) : Nat := sub (iZ w) 4 0
/-- The weight KC of an MM. -/
def mmKw (w : IWord) : Nat := sub (iZ w) 9 5

/-- The checks of an MM (R130, R139). -/
def mmCheck (g : Bool) (_ : State) (c : Core) (_ : Eng) (w : IWord) : Option Byte :=
  let f := mmForm g w
  checks [(onlyBits w [(15, 8), (42, 42), (67, 48), (87, 68), (97, 88), (126, 108)], eReserved),
  ((rateClass (iTa w) (iTb w)).isSome && kcOk (iTa w) (mmKa w) && kcOk (iTb w) (mmKw w) &&
    (f.k0 == 0 || f.k == 32), eRange),
  (decide (1 ≤ f.m) && decide (f.m ≤ 256) && decide (f.a + f.m ≤ 256), eRange),
  (!f.keep || (match (arrOf c g).kept with | some k => k.tag == iTb w && k.kc == mmKw w | none => false), eState),
  ((actAddrs c g f w).all (fun a => fits a (kcSize (iTa w) (mmKa w)) basketEnd) &&
    (f.keep || (wtAddrs c g f w).all (fun a => fits a (kcSize (iTb w) (mmKw w)) basketEnd)), eRange)]

/-- Reads tiles of one form at addresses of a memory. -/
def readTiles (s : State) (id : MemId) (tag kc : Nat) : List Int → List Tile × State
  | [] => ([], s)
  | a :: l =>
    let t := readTile s id a.toNat tag kc
    let r := readTiles t.2 id tag kc l
    (t.1 :: r.1, r.2)

/-- Raises the record of each tile of a list whose trailer does not fit (R43). -/
def noteTrailers (s : State) (core e : Nat) (side : TileSide) (l : List Tile) : State :=
  l.foldl (fun s t => if !t.trailerBad && !t.trailerOk then trailerMismatch s core e side else s) s

/-- The one tensor scale of a list of tiles, if they agree (R131). DEDUCED (log 62). -/
def oneScale (l : List Tile) : Option Num :=
  match l with
  | [] => none
  | t :: r => if r.all (fun u => u.tensorScale == t.tensorScale) then some (f32val t.tensorScale) else none

/-- A tile of a list, or an empty one. -/
def tileAt (l : List Tile) (i : Nat) : Tile := l.getD i ⟨0, 0, 0, [], []⟩

/-- Loads the computing buffer from weight tiles: 64 columns of blocks along K. -/
def keepTiles (f : MmForm) (tag kc : Nat) (l : List Tile) : Kept :=
  { tag, kc, scale := oneScale l,
    cols := (upFrom 0 64).map (fun n => f.blocks.map (fun b => (tileAt l b.1).blk n b.2)) }

/-- What an MM accumulates in one row: its activation blocks, whether it is poisoned whole. -/
structure MmRow where
  row : Nat
  acts : List Blk
  poison : Bool
deriving Repr

/-- What an MM computes with: whether it adds, the tensor-scale product t of its operands, the tolerance exponent, the weights by
column, whether one of them is poisoned, whether they are all finite, the check-stitch column's weights. -/
structure MmJob where
  adds : Bool
  t : W32
  tol : Nat
  cols : List (List Blk)
  colBad : Bool
  finite : Bool
  ws : List (List W32)
deriving Repr

/-- The value an upset of row i puts in place of one. -/
def upsetAt (ups : List Upset) (i col grp : Nat) (x : W32) : W32 :=
  match ups.find? (fun u => u.row == i && u.col == col && u.grp == grp) with
  | some u => u.value
  | none => x

/-- The products of a row by column and group (R72 steps 1 and 2), as the array forms them. DEDUCED (log 143). -/
def rowProducts (acts : List Blk) (cols : List (List Blk)) (i : Nat) (ups : List Upset) : List (List W32) :=
  cols.zipIdx.map (fun col => (acts.zip col.1).zipIdx.map (fun p => upsetAt ups i col.2 p.2 (dotGroup p.1.1 p.1.2)))

/-- Writes one row's products into an accumulator (R100, R131): the tensor-scale product t, overwriting or adding. Answers
whether the recorded product differs. DEDUCED (log 62). -/
def accRow (a : Arr) (x : MmJob) (r : MmRow) (prods : List (List W32)) : Arr × Bool :=
  let differs := x.adds && (match tget none a.scale r.row with | some u => u != x.t | none => false)
  let keepT := x.adds && (tget none a.scale r.row).isSome
  let acc := ((prods.zip x.cols).zipIdx).foldl (fun acc y =>
    let old : Acc := if x.adds then tget {} acc (r.row * 64 + y.2) else {}
    tset {} acc (r.row * 64 + y.2)
      ⟨y.1.1.foldl f32add old.v, old.p || r.poison || differs || y.1.2.any (fun b => b.poison)⟩) a.acc
  ({ a with acc, scale := if keepT then a.scale else tset none a.scale r.row (some x.t) }, differs)

/-- What executing rows of an MM leaves: the array, whether a recorded product differed, the rows not checked (R104), the first row that
mismatches (R105), counted from the instruction's first. -/
structure RowsOut where
  arr : Arr
  differs : Bool := false
  skipped : Nat := 0
  stop : Option Nat := none
deriving Repr

/-- Executes rows in order from row i: a row's products enter the accumulator once it matches, or is not checked; a row that mismatches ends
the execution (R104, R105). -/
def mmRows (a : Arr) (x : MmJob) (ups : List Upset) : Nat → List MmRow → RowsOut
  | _, [] => { arr := a }
  | i, r :: l =>
    let prods := rowProducts r.acts x.cols i ups
    let clean := !r.poison && !x.colBad
    let m := if clean && x.finite && blksFinite r.acts
      then rowMatches x.tol (upsetAt ups i 64 0 (checkSum r.acts x.ws)) prods.flatten else none
    if m = some false then { arr := a, stop := some i }
    else
      let y := accRow a x r prods
      let z := mmRows y.1 x ups (i + 1) l
      { z with differs := y.2 || z.differs, skipped := one (clean && m.isNone) + z.skipped }

/-- The record of an arithmetic fault (R106), and the sparing it brings. -/
def arithmeticFault (s : State) (core : Nat) : State :=
  let p := physOf s core
  spareCore (raise s { kind := kArithmetic, unit := uCore, id := core, part := partOfCore s core, detail := p }) kArithmetic p

/-- The record of a fault that the spare does not cure (R106). -/
def faultUnresolved (s : State) (core : Nat) : State :=
  raise s { kind := kUnresolved, unit := uCore, id := core, part := partOfCore s core }

/-- An arithmetic fault of an instruction (R106, R471): it waits for the sparing of its core, and is then executed anew. Where no spare is
left the cluster is fenced, and nothing is executed again. DEDUCED (log 129). -/
def holdRedo (s : State) (core : Nat) (r : Redo) : State :=
  let s := arithmeticFault s core
  if coreMoves s core then modCore s core (fun c => { c with redo := some r }) else s

/-- The activation tiles of an MM. -/
def mmActs (s : State) (core : Nat) (g : Bool) (w : IWord) : List Tile × State :=
  readTiles s (.basket core) (iTa w) (mmKa w) (actAddrs (coreAt s core) g (mmForm g w) w)

/-- The rows of an MM from its activation tiles; `mixed` poisons them all (R131). -/
def mmRowsOf (f : MmForm) (acts : List Tile) (mixed : Bool) : List MmRow :=
  (upFrom 0 f.m).map (fun m =>
    let bl := f.blocks.map (fun b => (tileAt acts (m / 64 * f.kTiles + b.1)).blk (m % 64) b.2)
    ⟨f.a + m, bl, mixed || bl.any (fun b => b.poison)⟩)

/-- What an MM computes with, from the weights kept and its activation tiles; and whether it has no one t (R131). -/
def mmJob (f : MmForm) (w : IWord) (kept : Kept) (acts : List Tile) : MmJob × Bool :=
  let ta := oneScale acts
  ({ adds := f.accumulate, t := f32of ((ta.getD .nan).mul (kept.scale.getD .nan)),
     tol := checkTol ((rateClass (iTa w) (iTb w)).getD 0), cols := kept.cols,
     colBad := kept.cols.any (fun col => col.any (fun b => b.poison)), finite := kept.cols.all blksFinite,
     ws := checkWeights f.blocks.length kept.cols }, ta.isNone || kept.scale.isNone)

/-- One execution of the rows of an MM from row j on: the accumulator, the rows not checked, a mismatch counted and reported (R104, R105), one
record where a recorded product differs (R131). Answers the row that mismatches. -/
def mmPass (s : State) (core : Nat) (g : Bool) (x : MmJob) (ups : List Upset) (j : Nat) (rows : List MmRow) : State × Option Nat :=
  let out := mmRows (arrOf (coreAt s core) g) x ups j (rows.drop j)
  let s := coreCount (modArr s core g (fun _ => out.arr)) core 0x118 out.skipped
  let s := if out.differs then trailerMismatch s core (arrEng g) .activation else s
  let s := if out.stop.isSome then
      raise (coreCount s core 0x110 1) { kind := kCheckMismatch, unit := uCore, id := core, part := partOfCore s core }
    else s
  (s, out.stop)

/-- The end of an MM: the poison it consumed is reported, and it is in flight. -/
def mmEnd (s : State) (core : Nat) (g : Bool) (w : IWord) (bad : Bool) : State :=
  issuedData (if bad then coreConsumes s core (arrEng g) else s) core (arrEng g) w {}

/-- The effect of an MM (R96–R100, R103–R106, R130, R131): its operands, its rows, a re-execution from the first row that mismatches, an
arithmetic fault when that mismatches too. DEDUCED (log 62). -/
def mmEffect (core : Nat) (g : Bool) (fault : ArrayFault) (s : State) (w : IWord) : State :=
  let e := arrEng g
  let c := coreAt s core
  let f := mmForm g w
  let acts := mmActs s core g w
  let s := noteTrailers acts.2 core e .activation acts.1
  let wts := if f.keep then ([], s) else readTiles s (.basket core) (iTb w) (mmKw w) (wtAddrs c g f w)
  let s := noteTrailers wts.2 core e .weight wts.1
  let kept := if f.keep then ((arrOf c g).kept.getD (keepTiles f (iTb w) (mmKw w) [])) else keepTiles f (iTb w) (mmKw w) wts.1
  let x := mmJob f w kept acts.1
  let s := if x.2 then trailerMismatch s core e (if (oneScale acts.1).isNone then .activation else .weight) else s
  let rows := mmRowsOf f acts.1 x.2
  let bad := rows.any (fun r => r.poison) || x.1.colBad
  let p := mmPass (modArr s core g (fun a => { a with kept := some kept })) core g x.1 fault.first 0 rows
  match p.2 with
  | none => mmEnd p.1 core g w bad
  | some j =>
    let again := mmActs p.1 core g w
    let q := mmPass again.2 core g x.1 fault.second j (mmRowsOf f again.1 x.2)
    match q.2 with
    | none => mmEnd q.1 core g w bad
    | some k => holdRedo q.1 core { eng := e, word := w, row := k, upsets := fault.third }

/-- The re-execution of an MM on the spare, from its first unmatched row (R106): where a row mismatches again, the remaining rows enter the
accumulator poisoned. -/
def mmRedo (core : Nat) (g : Bool) (r : Redo) (s : State) : State :=
  let f := mmForm g r.word
  match (arrOf (coreAt s core) g).kept with
  | none => s
  | some kept =>
    let acts := mmActs s core g r.word
    let x := mmJob f r.word kept acts.1
    let rows := mmRowsOf f acts.1 x.2
    let p := mmPass acts.2 core g x.1 r.upsets r.row rows
    match p.2 with
    | none => mmEnd p.1 core g r.word (rows.any (fun r => r.poison) || x.1.colBad)
    | some j =>
      let q := mmPass p.1 core g x.1 [] j (rows.map (fun r => { r with poison := true }))
      mmEnd (faultUnresolved q.1 core) core g r.word true

/-- FMM, GMM. -/
def execMm (core : CoreId) (g : Bool) (fault : ArrayFault) (s : State) : Host.Outcome State Fault Refusal :=
  whenAon s fun s => issue s core.val (arrEng g) 1 (mmCheck g) (mmEffect core.val g fault)

/-- The check of FLAY and GLAY. -/
def layCheck (_ : State) (_ : Core) (_ : Eng) (w : IWord) : Option Byte :=
  checks [(onlyBits w [(67, 48), (87, 68), (107, 88)], eReserved)]

/-- FLAY, GLAY. -/
def execLay (core : CoreId) (g : Bool) (s : State) : Host.Outcome State Fault Refusal :=
  whenAon s fun s =>
    issue s core.val (arrEng g) 3
      layCheck
      (fun s w => issued (modArr s core.val g (fun a => { a with mStride := iX w, kStride := iY w, wStride := iZ w }))
        core.val (arrEng g) w {} true)

/-- The checks of FCLR and GCLR. -/
def clrCheck (_ : State) (_ : Core) (_ : Eng) (w : IWord) : Option Byte :=
  checks [(onlyBits w [(124, 108)], eReserved),
    (decide (1 ≤ sub (iImm w) 16 8) && decide (sub (iImm w) 16 8 ≤ 256) &&
      decide (sub (iImm w) 7 0 + sub (iImm w) 16 8 ≤ 256), eRange)]

/-- FCLR, GCLR. -/
def execClr (core : CoreId) (g : Bool) (s : State) : Host.Outcome State Fault Refusal :=
  whenAon s fun s =>
    issue s core.val (arrEng g) 4
      clrCheck
      (fun s w =>
        let lo := sub (iImm w) 7 0
        let hi := lo + sub (iImm w) 16 8
        issued (modArr s core.val g (fun a => { a with
          acc := a.acc.filter (fun x => !(decide (lo * 64 ≤ x.1) && decide (x.1 < hi * 64))),
          scale := a.scale.filter (fun x => !(decide (lo ≤ x.1) && decide (x.1 < hi))) })) core.val (arrEng g) w {} false)

/-! Drains -/

/-- PART_ESC_THRESH of the partition of a core. -/
def escLog (s : State) (core : Nat) : Nat := bits (reg s (0xA04000 + 0x40 * (partOfCore s core).getD 0)) 4 0

/-- The output form a drain word names: tag tb, a KC, mod[4] stochastic, mod[5] automatic escape. -/
def outForm (s : State) (core : Nat) (w : IWord) (kc : Nat) : OutForm :=
  ⟨iTb w, kc, sub (iMod w) 4 4 == 1, if sub (iMod w) 5 5 = 1 then some (escLog s core) else none⟩

/-- Whether an output form is legal (R132, R39). -/
def outOk (w : IWord) (kc : Nat) : Bool :=
  kcOk (iTb w) kc && (sub (iMod w) 4 4 == 0 || decide (iTb w ≤ 5)) &&
  (sub (iMod w) 5 5 == 0 || iTb w == 2 || iTb w == 4)

/-- The FP32 rows that a drain converts (R73 steps 1 and 2): none where the row has no recorded product. DEDUCED (log 62). -/
def drainRows (a : Arr) (fn : W32 → W32) (first n : Nat) : List (Option (List Acc)) :=
  (upFrom first n).map (fun r => match tget none a.scale r with
    | some t => some ((upFrom 0 64).map (fun c =>
        let x : Acc := tget {} a.acc (r * 64 + c)
        ⟨fn (f32mul x.v t), x.p⟩))
    | none => none)

/-- Takes values (y, z) of a sampled tile into its audit, in ascending row and column order: Σ (y − z)² and Σ z² in FP32, each term
added by a fused multiply-add (R84). DEDUCED (log 67). -/
def auditRows (a : Audit) (l : List (W32 × W32)) : Audit :=
  l.foldl (fun a x =>
    let d := f32sub x.1 x.2
    { a with dz := f32fma d d a.dz, zz := f32fma x.2 x.2 a.zz, some_ := a.some_ || !(f32val x.1).isZero }) a

/-- Whether an audited tile is outside tolerance (R84). DEDUCED (log 67). -/
def auditFails (a : Audit) : Bool :=
  if (f32val a.zz).isZero then a.some_
  else ((f32val a.zz).mul (.fin false 1 (-2 * Int.ofNat a.tol))).lt (f32val a.dz)

/-- A sampled tile is not audited (R85). DEDUCED (log 67). -/
def skipAudit (s : State) (n core st : Nat) : State :=
  modCore (addStats s n st [0, 0, 0, 0, 0, 0, 0, 1]) core (fun c => { c with audit := none })

/-- Takes rows of a sampled tile into its audit: none where a value is poisoned, or the station takes BF16 activations (R85).
DEDUCED (log 67). -/
def auditTile (s : State) (n core : Nat) (a : Audit) (bf16In : Bool) (ys zs : List Acc) : State :=
  if ys.any (fun y => y.p) || zs.any (fun z => z.p) || bf16In then skipAudit s n core a.station
  else modCore s core (fun c => { c with audit := some (auditRows a ((ys.zip zs).map (fun p => (p.1.v, p.2.v)))) })

/-- Output rows of a matmul or needle station with a narrow format, for the audit (R84, R85): a tile is numbered as it is begun and perhaps
sampled, which a sampled tile still unaudited makes way for; later rows of the sampled tile join it. DEDUCED (log 67). -/
def noteTile (s : State) (core e : Nat) (f : OutForm) (addr : Nat) (begins : Bool) (blks : List OutBlk) (rows : List (Option (List Acc))) :
    State :=
  match partOfCore s core with
  | none => s
  | some n => match stationFor s n core e, (partAt s n).image with
    | some st, some img =>
      let x := img.stations.getD st ⟨[], 0, 0, 0, false, false, 0, 0, 0, 0, 0, []⟩
      if (x.kind = 1 ∨ x.kind = 2) ∧ (x.fmtOut = 2 ∨ x.fmtOut = 3 ∨ x.fmtOut = 4) then
        let ys := blks.flatMap (blkValues f.tag (kcKind f.kc))
        let zs := rows.flatMap (fun r => r.getD (List.replicate 64 {}))
        if begins then
          let auditN := bits (reg s (0xA04004 + 0x40 * n)) 15 0
          let k := (tget ({} : Stat) (partAt s n).stats st).tiles
          let s := modPart s n (fun p => { p with stats := tmod {} p.stats st (fun q => { q with tiles := q.tiles + 1 }) })
          if auditN = 0 ∨ k % auditN ≠ 0 then s
          else
            let s := match (coreAt s core).audit with
              | some old => skipAudit s n core old.station
              | none => s
            auditTile s n core { station := st, addr, tol := bits (reg s (0xA04004 + 0x40 * n)) 20 16 } (x.fmtIn == 6) ys zs
        else match (coreAt s core).audit with
          | some a => if a.station = st ∧ a.addr = addr then auditTile s n core a (x.fmtIn == 6) ys zs else s
          | none => s
      else s
    | _, _ => s

/-- Converts rows into a complete tile (R101, R132): the tile in the basket, the census, the generator, the audit. -/
def drainTile (s : State) (core e : Nat) (f : OutForm) (addr : Nat) (rows : List (Option (List Acc))) : State × List OutBlk :=
  let r := outRows f 0 (capOf (kcCode f.kc)) rows (coreAt s core).gen
  let s := modCore s core (fun c => { c with gen := r.2.2 })
  let s := writeTile s (.basket core) addr f rows.length r.1
  let s := countCensus s core e r.2.1
  let s := if r.1.any (fun o => o.poison.any id) then coreConsumes s core e else s
  (noteTile s core e f addr true r.1 rows, r.1)

/-- The checks of FDRN and GDRN (R132, R139). -/
def drnCheck (_ : State) (c : Core) (x : Eng) (w : IWord) : Option Byte :=
  checks [(onlyBits w [(15, 12), (47, 42), (67, 48), (92, 88), (122, 108)], eReserved),
    (outOk w (sub (iZ w) 4 0) && decide (sub (iMod w) 3 0 ≤ 7), eRange),
    (decide (1 ≤ sub (iImm w) 14 8) && decide (sub (iImm w) 14 8 ≤ 64) &&
      decide (sub (iImm w) 7 0 + sub (iImm w) 14 8 ≤ 256), eRange),
    (fits (effAddr c x (iX w)) (kcSize (iTb w) (sub (iZ w) 4 0)) basketEnd, eRange)]

/-- FDRN, GDRN. -/
def execDrn (core : CoreId) (g : Bool) (s : State) : Host.Outcome State Fault Refusal :=
  whenAon s fun s =>
    issue s core.val (arrEng g) 2
      drnCheck
      (fun s w =>
        let c := coreAt s core.val
        let e := arrEng g
        let rows := drainRows (arrOf c g) (actFn (sub (iMod w) 3 0)) (sub (iImm w) 7 0) (sub (iImm w) 14 8)
        issuedData (drainTile s core.val e (outForm s core.val w (sub (iZ w) 4 0)) (effAddr c (engAt c e) (iX w)).toNat rows).1
          core.val e w {})

/-! The derivative drain (R146–R151) -/

/-- Whether two byte ranges, each an address and a length, are apart. -/
def apart (a b : Int × Nat) : Bool := decide (a.1 + Int.ofNat a.2 ≤ b.1) || decide (b.1 + Int.ofNat b.2 ≤ a.1)

/-- Whether GDRV computes statistics. -/
def gdrvStats (w : IWord) : Bool := sub (iZ w) 10 10 == 1

/-- The addresses of the row-sum and the column-sum vector. -/
def gdrvVecs (c : Core) (x : Eng) (w : IWord) : Int × Int :=
  (effOf c x (sub (iZ w) 15 12) 0, effOf c x (sub (iZ w) 19 16) 0)

/-- The checks of GDRV. -/
def gdrvCheck (_ : State) (c : Core) (x : Eng) (w : IWord) : Option Byte :=
  let code := sub (iMod w) 3 0
  let size := kcSize (iTb w) (sub (iZ w) 4 0)
  let out := effAddr c x (iX w)
  let v := gdrvVecs c x w
  checks [(onlyBits w ([(15, 12), (47, 42), (67, 48), (92, 88), (98, 98), (122, 108)] ++
    (if code = 0 then [] else [(11, 8), (87, 68), (97, 93)]) ++ (if gdrvStats w then [(107, 99)] else [])), eReserved),
  (outOk w (sub (iZ w) 4 0) && !([8, 10, 11, 12].contains code) &&
    (code == 0 || kcOk (iTa w) (sub (iZ w) 9 5)), eRange),
  (decide (1 ≤ sub (iImm w) 14 8) && decide (sub (iImm w) 14 8 ≤ 64) &&
    decide (sub (iImm w) 7 0 + sub (iImm w) 14 8 ≤ 256), eRange),
  (!(gdrvStats w) || (apart (v.1, 256) (v.2, 256) && apart (v.1, 256) (out, size) && apart (v.2, 256) (out, size)), eRange),
  (fits out size basketEnd && (code == 0 || fits (effAddr c x (iY w)) (kcSize (iTa w) (sub (iZ w) 9 5)) basketEnd) &&
    (!(gdrvStats w) || (decide (v.1 % 256 = 0) && decide (v.2 % 256 = 0) && fits v.1 256 basketEnd &&
      fits v.2 256 basketEnd)), eRange)]

/-- A sum of squares over values in order, poisoned ones left out, and whether one was (R150): each square is added with one rounding. -/
def sumSquares (l : List Acc) : W32 × Bool :=
  l.foldl (fun a x => if x.p then (a.1, true) else (f32fma x.v x.v a.1, a.2)) (0, false)

/-- Adds n values to the FP32 values from a basket address on, word by word: a poisoned old value poisons the word it stands in (R150,
R268). Answers whether one was. -/
def addValues (s : State) (core addr : Nat) : Nat → List W32 → State × Bool
  | 0, _ => (s, false)
  | n + 1, l =>
    let v := l.take 2
    let old := readMem s (.basket core) addr (4 * v.length)
    let sums := v.zipIdx.map (fun x => f32add (BitVec.ofNat 32 (field old.1.1 (4 * x.2) 4)) x.1)
    let r := addValues (writeBytes old.2 (.basket core) addr (sums.flatMap (fun v => leBytes v.toNat 4)) old.1.2) core (addr + 8) n
      (l.drop 2)
    (r.1, old.1.2 || r.2)

/-- Writes a statistics vector of 64 FP32 values (R150): entries beyond `n` are zero, or left as they are when adding; a vector that would have
included a poisoned element is poisoned whole. -/
def writeVector (s : State) (core e : Nat) (addr : Nat) (add : Bool) (n : Nat) (l : List (W32 × Bool)) : State :=
  let vals := (upFrom 0 64).map (fun i => if i < n then (l.getD i (0, false)).1 else 0)
  if l.any (fun x => x.2) then writeBytes s (.basket core) addr (vals.flatMap (fun v => leBytes v.toNat 4)) true
  else if add then
    let r := addValues s core addr (ceilDiv n 2) (vals.take n)
    if r.2 then coreConsumes r.1 core e else r.1
  else writeBytes s (.basket core) addr (vals.flatMap (fun v => leBytes v.toNat 4)) false

/-- GDRV (R148–R151). -/
def execGdrv (core : CoreId) (s : State) : Host.Outcome State Fault Refusal :=
  whenAon s fun s =>
    issue s core.val 4 5 gdrvCheck
      (fun s w =>
        let c := coreAt s core.val
        let x := engAt c 4
        let code := sub (iMod w) 3 0
        let n := sub (iImm w) 14 8
        let pre := if code = 0 then (none, s)
          else
            let t := readTile s (.basket core.val) (effAddr c x (iY w)).toNat (iTa w) (sub (iZ w) 9 5)
            (some t.1, t.2)
        let bad := match pre.1 with
          | some t => t.allBad || decide (t.validRows < n) || t.validCols != 64
          | none => false
        let s := match pre.1 with
          | some t => if bad && !t.trailerBad then trailerMismatch pre.2 core.val 4 .activation else pre.2
          | none => pre.2
        let rows := ((drainRows c.g id (sub (iImm w) 7 0) n).zipIdx).map (fun r => r.1.map (fun row =>
          (row.zipIdx).map (fun (v : Acc × Nat) =>
            let p : Acc := match pre.1 with | some t => t.value r.2 v.2 | none => { v := f32one }
            (⟨f32mul v.1.v (derivFn code p.v), v.1.p || p.p || bad⟩ : Acc))))
        let rows := if bad then rows.map (fun r => some ((r.getD (List.replicate 64 {})).map (fun a => { a with p := true })))
          else rows
        let out := drainTile s core.val 4 (outForm s core.val w (sub (iZ w) 4 0)) (effAddr c x (iX w)).toNat rows
        let s := out.1
        let s := if gdrvStats w then
            let kind := kcKind (sub (iZ w) 4 0)
            let q := out.2.flatMap (blkValues (iTb w) kind)
            let v := gdrvVecs c x w
            let add := sub (iZ w) 11 11 == 1
            let s := writeVector s core.val 4 v.1.toNat add n
              ((upFrom 0 n).map (fun r => sumSquares ((q.drop (64 * r)).take 64)))
            writeVector s core.val 4 v.2.toNat add 64
              ((upFrom 0 64).map (fun k => sumSquares ((upFrom 0 n).map (fun r => q.getD (64 * r + k) {}))))
          else s
        issuedData s core.val 4 w {})

/-! The shadow audit (R84, R85) -/

/-- SHADOW_AUDIT: the recomputation of a core's sampled tile ends, or cannot finish in time. -/
def execShadowAudit (core : CoreId) (station : Nat) (finished : Bool) (s : State) : Host.Outcome State Fault Refusal :=
  whenAon s fun s =>
    match partOfCore s core.val, (coreAt s core.val).audit with
    | some n, some a =>
      if a.station ≠ station then s
      else if !finished then skipAudit s n core.val station
      else
        let first := (tget ({} : Stat) (partAt s n).stats station).run.getD 6 0 == 0
        let s := addStats (modCore s core.val (fun c => { c with audit := none })) n station [0, 0, 0, 0, 0, 1, one (auditFails a), 0]
        if auditFails a && first then raise s { kind := kAudit, unit := uPart, id := n, part := some n, station := some station } else s
    | _, _ => s

end Sys2Proof.Machine
end

