-- ==== Sys2Proof/Machine/Params.lean ====
section
/-! DEFINITION. What lies in stack memory under the device's own hand: the parameter block table and its descriptors (R157–R163,
R321), and the bounds of the KV regions (R236). -/

namespace Sys2Proof.Machine

/-! Stations and streams of a partition's image -/

/-- The image's station of a partition. -/
def stationAt (s : State) (n st : Nat) : Option Station :=
  match (partAt s n).image with
  | some img => img.stations[st]?
  | none => none

/-- The streams of a station on one side. -/
def streamsOf (s : State) (n st : Nat) (out : Bool) : List Stream :=
  match (partAt s n).image with
  | some img => img.streams.filter (fun x => if out then x.src == st else x.dst == st)
  | none => []

/-- Parameter i of a station. -/
def Station.par (st : Station) (i : Nat) : Nat := (st.p.getD i 0).toNat

/-- The KC of a stream. -/
def Stream.kc (x : Stream) : Nat := x.scale + 4 * x.cap

/-! Tables in stack memory -/

/-- Writes bytes, a multiple of 8 of them, at an 8-byte aligned stack address. -/
def pokeStack (s : State) (a : Nat) (b : List Byte) : State := writeStack s a (bytesWords (b.length / 8) b)

/-- Writes zeros over n 8-byte words from a stack address. -/
def zeroStack (s : State) (a n : Nat) : State := writeStack s a (List.replicate n (0, false))

/-- Whether two address ranges, base and length, meet. -/
def meets (a b : Nat × Nat) : Bool := overlap a b

/-! KV regions (R236) -/

/-- The size of a local part, in bytes (R206). -/
def localSize (s : State) : Nat := (80 - stripeGib s) * 2 ^ 22
/-- The offset of the KV region in a local part. -/
def kvBase (s : State) : Nat := localSize s - (1025 + logKib s) * 1024
/-- The stack address of offset o in the local part of an NBU. -/
def localAddr (nbu o : Nat) : Nat := 2 ^ 39 + nbu / 256 * 2 ^ 36 + nbu % 256 * 2 ^ 28 + o
/-- Whether a stack range meets a KV region. -/
def inKvRegion (s : State) (a len : Nat) : Bool :=
  decide (2 ^ 39 ≤ a) && nbuOn s.variant (a / 2 ^ 36 % 8 * 256 + a / 2 ^ 28 % 256) &&
  decide (kvBase s < a % 2 ^ 28 + len) && decide (0 < len)

/-! Entries (R158) -/

/-- A parameter block entry. -/
structure PbEntry where
  copy0 : Nat
  copy1 : Nat
  grad : Nat
  stats : Nat
  rows : Nat
  cols : Nat
  fmt : Nat
  esc : Nat
  flags : Nat
  part : Nat
  version : Nat
  epoch : Nat
deriving DecidableEq, Repr

/-- An entry from its 64 bytes. -/
def pbOf (b : List Byte) : PbEntry :=
  ⟨field b 0 8 % 2 ^ 40, field b 8 8 % 2 ^ 40, field b 16 8 % 2 ^ 40, field b 24 8 % 2 ^ 40, field b 32 4, field b 36 4,
   field b 40 1, field b 41 1, field b 42 1, field b 43 1 % 16, field b 44 4, field b 48 8⟩

/-- The 64 bytes of an entry. -/
def pbBytes (e : PbEntry) : List Byte :=
  leBytes e.copy0 8 ++ leBytes e.copy1 8 ++ leBytes e.grad 8 ++ leBytes e.stats 8 ++ leBytes e.rows 4 ++ leBytes e.cols 4 ++
  leBytes e.fmt 1 ++ leBytes e.esc 1 ++ leBytes e.flags 1 ++ leBytes e.part 1 ++ leBytes e.version 4 ++ leBytes e.epoch 8 ++
  zeros 8

/-- Entry `id` of the table. -/
def pbAt (s : State) (id : Nat) : PbEntry := pbOf (peekStack s (pbtBase s + 64 * id) 64)
/-- Writes entry `id`. -/
def setPb (s : State) (id : Nat) (e : PbEntry) : State := pokeStack s (pbtBase s + 64 * id) (pbBytes e)

/-- The entry is valid. -/
def PbEntry.valid (e : PbEntry) : Bool := e.flags % 2 == 1
/-- The entry is frozen. -/
def PbEntry.frozen (e : PbEntry) : Bool := e.flags / 2 % 2 == 1
/-- grad_fmt. -/
def PbEntry.gradFmt (e : PbEntry) : Nat := e.flags / 4 % 2
/-- The block's format tag. -/
def PbEntry.tag (e : PbEntry) : Nat := e.fmt % 16
/-- The block's KC. -/
def PbEntry.kc (e : PbEntry) : Nat := e.fmt / 16 % 4 + 4 * (e.esc % 8)
/-- The number of tiles. -/
def PbEntry.tiles (e : PbEntry) : Nat := ceilDiv e.rows 64 * ceilDiv e.cols 64
/-- Row and column sums, R′ + C′. -/
def PbEntry.sums (e : PbEntry) : Nat := 64 * ceilDiv e.rows 64 + 64 * ceilDiv e.cols 64
/-- The bytes of a copy. -/
def PbEntry.copyLen (e : PbEntry) : Nat := e.tiles * kcSize e.tag e.kc
/-- The current copy. -/
def PbEntry.current (e : PbEntry) : Nat := if e.version % 2 = 0 then e.copy0 else e.copy1
/-- The regions of an entry: copies, gradients, statistics. -/
def PbEntry.regions (e : PbEntry) : List (Nat × Nat) :=
  [(e.copy0, e.copyLen), (e.copy1, e.copyLen), (e.grad, e.tiles * 8256)] ++
  (if e.stats = 0 then [] else [(e.stats, ceilDiv e.sums 2048 * 8256)])

/-- The table as a range. -/
def pbTable (s : State) : Nat × Nat := (pbtBase s, 64 * pbtCount s)
/-- The ids of the valid entries. -/
def validPbs (s : State) : List Nat := (upFrom 0 (pbtCount s)).filter (fun id => (pbAt s id).valid)

/-- Whether a RUNNING partition binds block `id` (R159, R161). -/
def pbBound (s : State) (id : Nat) : Bool :=
  allParts.any (fun n => match (partAt s n).run with
    | some r => r.slots.any (fun x => x.kind == 3 && decide (x.a.toNat = id))
    | none => false)

/-- Why a write by the host or over Myarn to a stack range is refused (R160, R236). -/
def hostWriteBad (s : State) (a len : Nat) : Option Byte :=
  let w := (a, len)
  let ids := validPbs s
  if inKvRegion s a len || meets w (pbTable s) then some eState
  else if ids.any (fun id => let e := pbAt s id; e.frozen && (meets w (e.copy0, e.copyLen) || meets w (e.copy1, e.copyLen)))
    then some eFrozen
  else if ids.any (fun id => let e := pbAt s id; meets w (e.current, e.copyLen)) then some eState
  else none

/-- A request reads tables of the stacks (base, bytes): it is held while one lies in a busy output range (R223), and a poisoned one fails it
(R268); else k goes on. DEDUCED (log 75). -/
def withTables (s : State) (ref : DescRef) (part : Nat) (l : List (Nat × Nat)) (k : State → State) : State :=
  if l.any (fun x => busyTable s x.1 x.2) then s
  else
    let t := l.foldl (fun s x => readTable s x.1 x.2) s
    if l.any (fun x => peekBad s x.1 x.2) then refuseRead (reportPoison t part none) ref sPoison else k t

/-- The entries of the parameter block table for a list of ids. -/
def pbRows (s : State) (ids : List Nat) : List (Nat × Nat) :=
  (ids.filter (fun id => decide (id < pbtCount s))).map (fun id => (pbtBase s + 64 * id, 64))

/-! PARAM_DEFINE (R159) -/

/-- The entry a PARAM_DEFINE asks for. DEDUCED (log 75). -/
def pbAsked (d : Desc) : PbEntry :=
  ⟨(arg d 1).toNat, (arg d 2).toNat, (arg d 3).toNat, (arg d 4).toNat, bits (arg d 5) 31 0, bits (arg d 5) 63 32,
   bits (arg d 6) 7 0, bits (arg d 6) 15 8, bits (arg d 6) 23 16 + 1, descPart d, 0, 0⟩

/-- Shape and format of an entry are legal. -/
def PbEntry.legal (e : PbEntry) : Bool :=
  decide (1 ≤ e.rows) && decide (e.rows ≤ 65536) && decide (1 ≤ e.cols) && decide (e.cols ≤ 65536) && decide (e.fmt < 64) &&
  decide (e.esc < 8) && kcOk e.tag e.kc

/-- No two ranges of a list meet. -/
def disjoint : List (Nat × Nat) → Bool
  | [] => true
  | x :: l => l.all (fun y => !meets x y) && disjoint l

/-- The first failing check of a PARAM_DEFINE: status and order. -/
def defineBad (s : State) (d : Desc) : Option (Byte × Nat) :=
  let id := (arg d 0).toNat
  let e := pbAsked d
  let old := pbAt s id
  let others := ((validPbs s).filter (fun k => k != id)).flatMap (fun k => (pbAt s k).regions)
  if pbtCount s = 0 then some (eState, 1)
  else if !(decide (id < pbtCount s) && e.legal) then some (eRange, 2)
  else if old.valid && old.part != descPart d then some (ePartition, 3)
  else if [e.copy0, e.copy1, e.grad, e.stats].any (fun a => a % 4096 != 0) then some (eAlign, 4)
  else if e.regions.any (fun r => (stackBad s r.1 r.2 64).isSome) || !disjoint e.regions ||
      e.regions.any (fun r => meets r (pbTable s) || others.any (meets r)) then some (eRange, 5)
  else if old.valid && old.frozen then some (eFrozen, 6)
  else if pbBound s id then some (eState, 7)
  else none

/-- PARAM_DEFINE. -/
def execParamDefine (port : NPort) (ring : RingId) (s : State) : Host.Outcome State Fault Refusal :=
  whenAon s fun s => withDescriptor s port ring 0x10 fun s ref d =>
    withTables s ref (descPart d) (pbRows s [(arg d 0).toNat]) fun s =>
      match defineBad s d with
      | some (st, k) => reject s ref st k 0
      | none => completeOk (setPb s (arg d 0).toNat (pbAsked d)) ref 0

/-! PARAM_FREEZE and PARAM_FLIP (R161, R162) -/

/-- The first element of a list that fails a test or occurs earlier in the list. -/
def firstUnfit (bad : Nat → Bool) : List Nat → List Nat → Option Nat
  | _, [] => none
  | seen, x :: l => if bad x || seen.contains x then some x else firstUnfit bad (x :: seen) l

/-- Checks 2 and 3 of R161 over a list of ids: status, order, first failing id. -/
def idsBad (s : State) (part : Nat) (ids : List Nat) : Option (Byte × Nat × Nat) :=
  match firstUnfit (fun id => !(decide (id < pbtCount s) && (pbAt s id).valid)) [] ids with
  | some id => some (eRange, 2, id)
  | none => (ids.find? (fun id => (pbAt s id).part != part)).map (fun id => (ePartition, 3, id))

/-- A descriptor over a list of block ids: the table exists, the size is in range, the list is aligned and read, checks 2 and 3
pass; then k over the ids. DEDUCED (log 32). -/
def withIds (s : State) (ref : DescRef) (d : Desc) (k : State → List Nat → State) : State :=
  let n := bits (arg d 1) 12 0
  if pbtCount s = 0 then reject s ref eState 1 0
  else if n = 0 ∨ 4096 < n then reject s ref eRange 2 0
  else if (arg d 0).toNat % 8 ≠ 0 then reject s ref eAlign 7 0
  else withRead s ref (arg d 0) (4 * n) fun s list =>
      let ids := listWords list n
      withTables s ref (descPart d) (pbRows s ids) fun s =>
        match idsBad s (descPart d) ids with
        | some (st, o, id) => reject s ref st o id
        | none => k s ids

/-- Sets or clears the frozen flag of an entry. -/
def PbEntry.setFrozen (e : PbEntry) (v : Bool) : PbEntry :=
  { e with flags := e.flags - (if e.frozen then 2 else 0) + (if v then 2 else 0) }

/-- A flip of an entry: the version, and unless a load the epoch. -/
def PbEntry.flip (e : PbEntry) (load : Bool) : PbEntry :=
  { e with version := (e.version + 1) % 2 ^ 32, epoch := if load then e.epoch else (e.epoch + 1) % 2 ^ 64 }

/-- PARAM_FREEZE. -/
def execParamFreeze (port : NPort) (ring : RingId) (s : State) : Host.Outcome State Fault Refusal :=
  whenAon s fun s => withDescriptor s port ring 0x11 fun s ref d =>
    withIds s ref d fun s ids =>
      completeOk (ids.foldl (fun s id => setPb s id ((pbAt s id).setFrozen (bitAt (arg d 1) 32))) s) ref 0

/-- PARAM_FLIP. -/
def execParamFlip (port : NPort) (ring : RingId) (s : State) : Host.Outcome State Fault Refusal :=
  whenAon s fun s => withDescriptor s port ring 0x12 fun s ref d =>
    withIds s ref d fun s ids =>
      match ids.find? (fun id => (pbAt s id).frozen), ids.find? (pbBound s) with
      | some id, _ => reject s ref eFrozen 4 id
      | none, some id => reject s ref eState 5 id
      | none, none =>
        completeOk (ids.foldl (fun s id => setPb s id ((pbAt s id).flip (bitAt (arg d 1) 32))) s) ref 0

/-! GRAD_FETCH (R164) -/

/-- The bytes a gradient tile is delivered in. -/
def PbEntry.gradTile (e : PbEntry) : Nat := if e.gradFmt = 0 then 4224 else 8192

/-- The bytes a fetch writes. DEDUCED (log 144). -/
def PbEntry.fetchLen (e : PbEntry) (stats : Bool) : Nat :=
  e.tiles * e.gradTile + (if stats ∧ e.stats ≠ 0 then 4 * e.sums else 0)

/-- The number a new transfer takes: the next one whose engine works (log entry 127). -/
def xferId (s : State) : Nat := ((upFrom s.nextXfer 64).find? (engineRuns s)).getD s.nextXfer

/-- Adds a transfer. -/
def addXfer (s : State) (x : Xfer) : State :=
  let id := xferId s
  { s with xfers := tset none s.xfers id (some x), nextXfer := id + 1 }

/-- GRAD_FETCH: the transfer then runs as MANGLE_TRANSFER steps. -/
def execGradFetch (port : NPort) (ring : RingId) (s : State) : Host.Outcome State Fault Refusal :=
  whenAon s fun s => withDescriptor s port ring 0x13 fun s ref d =>
    let id := (arg d 0).toNat
    if pbtCount s = 0 then reject s ref eState 1 0
    else withTables s ref (descPart d) (pbRows s [id]) fun s => match idsBad s (descPart d) [id] with
      | some (st, o, id) => reject s ref st o id
      | none =>
        let n := (pbAt s id).fetchLen (bitAt (arg d 3) 0)
        if pbBound s id then reject s ref eState 5 id
        else if bits (arg d 2) 31 0 < n then reject s ref eRange 7 0
        else acceptDesc (addXfer s { kind := .gradFetch, desc := some ref, part := partFin (descPart d),
                                     src := BitVec.ofNat 64 id, dst := arg d 1, len := n, port }) ref

end Sys2Proof.Machine
end

