-- ==== Sys2Proof/Machine/Records.lean ====
section
/-! DEFINITION. Operation records of the near-bank units (R216–R218) and NBU programs (R220): their fields and the checks that need
no state of an operation. -/

namespace Sys2Proof.Machine

/-- Bytes a to a + n − 1 of a string. -/
def slice (b : List Byte) (a n : Nat) : List Byte := (b.drop a).take n

/-- The 16 words of a record. -/
def recordWords (b : List Byte) : List W32 := (upFrom 0 16).map (fun i => BitVec.ofNat 32 (field b (4 * i) 4))

/-- Word i of a record. -/
def rw (w : List W32) (i : Nat) : Nat := (w.getD i 0).toNat
/-- op. -/
def rOp (w : List W32) : Nat := rw w 0 % 256
/-- The weight or stored-data tag. -/
def rTag (w : List W32) : Nat := rw w 0 / 2 ^ 16 % 16
/-- The vector tag. -/
def rVec (w : List W32) : Nat := rw w 0 / 2 ^ 20 % 16
/-- The weight KC of a GEMV. -/
def rKw (w : List W32) : Nat := rw w 10 % 32
/-- The vector KC of a GEMV. -/
def rKv (w : List W32) : Nat := rw w 10 / 32 % 32

/-- The words an operation names, of w5 to w15 (R217). -/
def rUsed : Nat → List Nat
  | 0x10 => [5, 6, 7, 8, 9, 10]
  | 0x11 => [5, 6, 7, 8, 9, 10, 11, 12]
  | 0x12 => [5, 6, 7, 8]
  | 0x14 => [5, 6]
  | 0x15 => [5, 6]
  | _ => []

/-- The bytes of the vector data of a GEMV (R221): elements, then from the next 64-byte boundary the block scales. -/
def vecBytes (tag kind m k : Nat) : Nat :=
  let e := m * (rowBytes tag * k / 64)
  if kind = 0 then e else ceilDiv e 64 * 64 + m * (k / 32)

/-- A whole number in a range. -/
def within (x lo hi : Nat) : Bool := decide (lo ≤ x) && decide (x ≤ hi)

/-- A positive, normal and finite FP32 pattern. -/
def f32normal (x : W32) : Bool := !bitAt x 31 && within (bits x 30 23) 1 254

/-- A head dimension (R234). -/
def headOk (d : Nat) : Bool := within d 32 256 && d % 32 == 0

/-- Check 5 of R218: words, tags and KCs. -/
def rLegal (w : List W32) : Bool :=
  let n := fun i => rw w i
  within (n 4) 1 0xFFFFFFFF &&
  match rOp w with
  | 0x10 =>
    within (n 5) 1 16 && within (n 6) 64 16384 && n 6 % 64 == 0 && within (n 7) 64 65536 && n 7 % 64 == 0 && n 8 % 64 == 0 &&
    decide (n 9 ≤ 1) && decide (n 10 < 1024) && decide (rTag w ≤ 5) && [0, 1, 2, 3, 5].contains (rVec w) &&
    kcOk (rTag w) (rKw w) && kcOk (rVec w) (rKv w) &&
    decide (n 8 + vecBytes (rVec w) (kcKind (rKv w)) (n 5) (n 6) ≤ 81920)
  | 0x11 =>
    within (n 5) 1 16 && headOk (n 6) && decide (n 8 ≤ 4096) && decide (n 10 ≤ 256) && f32normal (w.getD 11 0) &&
    (rTag w == 0 || rTag w == 2) && rVec w == 0 && decide (n 12 + n 5 * n 6 ≤ 81920)
  | 0x12 =>
    within (n 5) 1 256 && headOk (n 6) && within (n 8) 1 256 && (rTag w == 0 || rTag w == 2) && rVec w == 0
  | 0x13 => n 2 == n 4 && rTag w == 0 && rVec w == 0
  | 0x14 => n 2 == 0 && rTag w == 0 && rVec w == 0
  | _ => within (n 5) 2 64 && within (n 6) 1 1048576 && rTag w == 0 && rVec w == 0

/-- Checks 3 to 5 of R218: order and status of the first that fails. -/
def recordBad (w : List W32) : Option (Byte × Nat) :=
  if !(within (rOp w) 0x10 0x15) then some (eRange, 3)
  else if rw w 0 / 256 % 256 ≠ 0 ∨ rw w 0 / 2 ^ 24 ≠ 0 ∨
      ((upFrom 5 11).all (fun i => (rUsed (rOp w)).contains i || w.getD i 0 == 0)) = false then some (eReserved, 4)
  else if !(rLegal w) then some (eRange, 5)
  else none

/-- The units an operation's output takes. -/
def outUnits (w : List W32) : Nat :=
  let carriers := fun (values : Nat) => 129 * ceilDiv values 2048
  match rOp w with
  | 0x10 => carriers (rw w 5 * rw w 7)
  | 0x11 => carriers (rw w 5 * (2 + rw w 6))
  | 0x12 => ceilDiv (512 * (if rTag w = 0 then rw w 6 else rw w 6 / 2 + rw w 6 / 32)) 64
  | 0x15 => carriers (rw w 6)
  | _ => 1

/-- Check 6 of R218: both ranges in the local part, the output covered, no overlap of a COPY. -/
def rangesBad (s : State) (w : List W32) : Bool :=
  let fit := fun (o l : Nat) => decide (64 * (o + l) ≤ localSize s)
  !(fit (rw w 1) (rw w 2)) || !(fit (rw w 3) (rw w 4)) || decide (rw w 4 < outUnits w) ||
  (rOp w == 0x13 && overlap (rw w 1, rw w 2) (rw w 3, rw w 4))

/-! NBU programs (R220) -/

/-- One part of a program after its header: a record; a loop with its body length in words, count and strides; the end. -/
inductive ProgPart where
  | record (w : List W32)
  | loop (body count : Nat) (sIn sOut : Int)
  | fin
  | bad
deriving DecidableEq, Repr

/-- The part of a program at word i. -/
def progPart (b : List Byte) (i : Nat) : ProgPart :=
  let x := slice b (16 * i) 64
  let op := field x 0 1
  if 16 * i + 16 > b.length then .bad
  else if within op 0x10 0x15 then (if 16 * i + 64 ≤ b.length then .record (recordWords x) else .bad)
  else if op = 0x0F then (if field x 1 15 = 0 then .fin else .bad)
  else if op = 0x02 then
    (if field x 1 1 = 0 ∧ within (field x 2 2) 4 1020 = true ∧ field x 2 2 % 4 = 0 ∧ within (field x 4 4) 1 65536 = true then
      .loop (field x 2 2) (field x 4 4) (sext 32 (field x 8 4)) (sext 32 (field x 12 4)) else .bad)
  else .bad

/-- Whether words i to i + n − 1 of a program are records only. -/
def allRecords (b : List Byte) (i n : Nat) : Bool :=
  (upFrom 0 (n / 4)).all (fun k => match progPart b (i + 4 * k) with | .record _ => true | _ => false)

/-- Whether the program is legal from word i on. -/
def progFrom (b : List Byte) (i : Nat) : Nat → Bool
  | 0 => false
  | fuel + 1 =>
    match progPart b i with
    | .fin => true
    | .record w => (recordBad w).isNone && progFrom b (i + 4) fuel
    | .loop n _ _ _ => allRecords b (i + 1) n && progFrom b (i + 1) fuel
    | .bad => false

/-- The records of a program in order, from word i. -/
def progRecords (b : List Byte) (i : Nat) : Nat → List (List W32)
  | 0 => []
  | fuel + 1 =>
    match progPart b i with
    | .record w => w :: progRecords b (i + 4) fuel
    | .loop _ _ _ _ => progRecords b (i + 1) fuel
    | _ => []

/-- in_tiles of a program. -/
def inTiles (b : List Byte) : Nat := field b 2 2
/-- out_tiles of a program. -/
def outTiles (b : List Byte) : Nat := field b 4 2
/-- out_off of a program. -/
def outOff (b : List Byte) : Nat := field b 8 4

/-- A program's header and words are legal. -/
def progOk (b : List Byte) : Bool :=
  field b 0 1 == 1 && field b 1 1 == 0 && decide (inTiles b ≤ 256) && decide (outTiles b ≤ 64) && field b 6 2 == 0 &&
  field b 12 4 == 0 && progFrom b 1 1024

end Sys2Proof.Machine
end

