-- ==== Sys2Proof/Machine/NbuOps.lean ====
section
/-! DEFINITION. What the operations of the near-bank units compute and write (R216, R217, R250, R254), the ranges they name (R218,
R223), and the time they take (R219, R233). -/

namespace Sys2Proof.Machine

/-! Words of a local part -/

/-- n words from byte offset `off` of the local part of an NBU, through the stack's decoders. A word beyond the local part has no stated
value: it is free. -/
def readLocal (s : State) (u off : Nat) : Nat → List (W64 × Bool) × State
  | 0 => ([], s)
  | n + 1 =>
    let x := if off + 8 ≤ localSize s then readWord s .stack (localKey s u off)
             else (((takeFree s).1, false), (takeFree s).2)
    let r := readLocal x.2 u (off + 8) n
    (x.1 :: r.1, r.2)

/-- n bytes of a local part as they stand, with nothing counted. -/
def peekLocal (s : State) (u off n : Nat) : List Byte := peekStack s (localAddr u off) n

/-- What an operation writes: byte offsets in its local part, bytes, poisoned or not. -/
abbrev Stores := List (Nat × List Byte × Bool)

/-- Writes that follow each other without a gap are one run of bytes, each with its poison. -/
def joinRuns : Stores → List (Nat × List (Byte × Bool))
  | [] => []
  | x :: l =>
    let b := x.2.1.map (fun v => (v, x.2.2))
    match joinRuns l with
    | [] => [(x.1, b)]
    | y :: r => if x.1 + b.length = y.1 then (x.1, b ++ y.2) :: r else (x.1, b) :: y :: r

/-- Writes them: a word that a run covers is replaced, a part of a word is merged (R270). DEDUCED (log 76). -/
def putStores (s : State) (u : Nat) (l : Stores) : State :=
  (joinRuns l).foldl (fun s x => writeRun s .stack (8 * localKey s u 0 + x.1) x.2.length x.2) s

/-- The values of carrier tiles (R152, R217) from byte offset `off`: value j at position j mod 2,048 of tile j ÷ 2,048.
DESIGN CHOICE (log 78). -/
def carrierStores (off : Nat) (vals : List Acc) : Stores :=
  (upFrom 0 (ceilDiv vals.length 2048)).flatMap (fun k =>
    let t := (vals.drop (2048 * k)).take 2048
    let all := t ++ (upFrom t.length (2048 - t.length)).map (fun j => (⟨Config.nbuPad j, false⟩ : Acc))
    (upFrom 0 1024).map (fun i =>
      let a := all.getD (2 * i) {}
      let b := all.getD (2 * i + 1) {}
      (off + 8256 * k + 8 * i, leBytes a.v.toNat 4 ++ leBytes b.v.toNat 4, a.p || b.p)) ++
    [(off + 8256 * k + 8192, trailerBytes 6 0 0 0 64 64 0x3F800000, false)])

/-- `n` runs of `len` words of carriers, each in its own 8,256 bytes. -/
def readRuns (s : State) (u off len n : Nat) : List (W64 × Bool) × State :=
  (upFrom 0 n).foldl (fun (a : List (W64 × Bool) × State) k =>
    let x := readLocal a.2 u (off + 8256 * k) len
    (a.1 ++ x.1, x.2)) ([], s)

/-- n values of carrier tiles of a local part. -/
def readCarriers (s : State) (u off : Nat) (n : Nat) : List Acc × State :=
  let r := readRuns s u off 1024 (ceilDiv n 2048)
  ((r.1.flatMap (fun w => [(⟨lo32 w.1, w.2⟩ : Acc), ⟨hi32 w.1, w.2⟩])).take n, r.2)

/-! The vector buffer (R221, R253) -/

/-- Byte i of an NBU's vector buffer, and whether its word is poisoned. -/
def vecByte (x : Nbu) (i : Nat) : Nat × Bool := ((tget 0 x.vbuf i).toNat, x.vbad.contains (i / 8))

/-- The code of the element at position p of vector data from byte `off`. -/
def vecCode (x : Nbu) (tag off p : Nat) : Nat × Bool :=
  let b := vecByte x (off + p * rowBytes tag / 64)
  if tag = 2 ∨ tag = 3 then (b.1 / 16 ^ (p % 2) % 16, b.2) else b

/-- Block j (elements 32j to 32j + 31) of vector m of M vectors of K elements. -/
def vecBlk (x : Nbu) (tag kind off M K m j : Nat) : Blk :=
  let es := (upFrom (m * K + 32 * j) 32).map (vecCode x tag off)
  let sc := vecByte x (off + ceilDiv (M * (rowBytes tag * K / 64)) 64 * 64 + m * (K / 32) + j)
  { scale := if kind = 0 then .one else scaleVal kind sc.1, elems := es.map (fun e => elemVal tag e.1),
    poison := es.any (fun e => e.2) || (decide (kind ≠ 0) && sc.2), escaped := false }

/-! GEMV -/

/-- The weight tiles of n-tile nt, in ascending k. -/
def gemvTiles (s : State) (u : Nat) (w : List W32) (nt : Nat) : List Tile × State :=
  let size := kcSize (rTag w) (rKw w)
  let kt := rw w 6 / 64
  (upFrom 0 kt).foldl (fun (a : List Tile × State) k =>
    let r := readLocal a.2 u (64 * rw w 1 + (nt * kt + k) * size) (size / 8)
    (a.1 ++ [⟨rTag w, kcKind (rKw w), kcCode (rKw w), wordBytes r.1, poisonIndex r.1⟩], r.2)) ([], s)

/-- Output value of vector m and row r of an n-tile: the partial sums of the groups of 32 (R72), with the tensor scales, in the order the
NBU takes (R74); added to `old` when the operation adds. -/
def gemvValue (x : Nbu) (w : List W32) (vscale : W32) (tiles : List Tile) (m r : Nat) (old : Option Acc) : Acc :=
  let parts := tiles.zipIdx.flatMap (fun t => [0, 1].map (fun h =>
    let v := vecBlk x (rVec w) (kcKind (rKv w)) (rw w 8) (rw w 5) (rw w 6) m (2 * t.2 + h)
    let b := t.1.blk r h
    ((f32mul (dotGroup v b) (f32mul vscale t.1.tensorScale)), v.poison || b.poison)))
  let o := match old with | some a => [(a.v, a.p)] | none => []
  ⟨nbuSum ((o ++ parts).map (fun p => p.1)), (o ++ parts).any (fun p => p.2)⟩

/-- The values of a GEMV, with whether a weight tile's trailer does not fit (R43). -/
def gemvValues (s : State) (u : Nat) (w : List W32) (vscale : W32) : (List Acc × Bool) × State :=
  let n := rw w 7
  let old := if rw w 9 = 1 then readCarriers s u (64 * rw w 3) (rw w 5 * n) else ([], s)
  let x := nbuAt s u
  let r := (upFrom 0 (n / 64)).foldl (fun (a : (Tab Acc × Bool) × State) nt =>
    let t := gemvTiles a.2 u w nt
    let bad := t.1.any (fun y => !y.trailerBad && !y.trailerOk)
    let vals := (upFrom 0 (rw w 5)).flatMap (fun m => (upFrom 0 64).map (fun r =>
      let j := m * n + 64 * nt + r
      (j, gemvValue x w vscale t.1 m r (if rw w 9 = 1 then old.1[j]? else none))))
    ((vals.foldl (fun tab v => tset {} tab v.1 v.2) a.1.1, a.1.2 || bad), t.2)) (([], false), old.2)
  (((upFrom 0 (rw w 5 * n)).map (tget {} r.1.1), r.1.2), r.2)

/-! Pages and log rows (R234, R239, R245, R253) -/

/-- Element bytes of a token. -/
def tokenEb (tag d : Nat) : Nat := if tag = 0 then d else d / 2
/-- Scale bytes of a token. -/
def tokenSb (tag d : Nat) : Nat := if tag = 0 then 0 else d / 32
/-- The size of a page. -/
def pageSize (tag d : Nat) : Nat := 512 * (tokenEb tag d + tokenSb tag d)
/-- The 64-byte units of a log row. -/
def rowUnitsOf (tag d : Nat) : Nat := ceilDiv (16 + 2 * (tokenEb tag d + tokenSb tag d)) 64

/-- The four sections of a token in a page: offset and size of K elements, K scales, V elements, V scales of token t. -/
def tokenPlaces (tag d t : Nat) : List (Nat × Nat) :=
  let eb := tokenEb tag d
  let sb := tokenSb tag d
  [(t * eb, eb), (256 * eb + t * sb, sb), (256 * (eb + sb) + t * eb, eb), (256 * (2 * eb + sb) + t * sb, sb)]

/-- A page-list entry: page base in bytes, tokens. -/
def pageEntry (x : W64) : Nat × Nat := (64 * bits x 21 0, bits x 30 22)

/-- The page list of an ATTN_DECODE as it stands. -/
def pageList (s : State) (u : Nat) (w : List W32) : List (Nat × Nat) :=
  (upFrom 0 (rw w 8)).map (fun i => pageEntry (BitVec.ofNat 64 (field (peekLocal s u (64 * rw w 7 + 8 * i) 8) 0 8)))

/-- The byte offsets of n log rows that a list at byte offset `off` names. -/
def rowList (s : State) (u off n : Nat) : List Nat :=
  (upFrom 0 n).map (fun i => 64 * (field (peekLocal s u (off + 8 * (i / 2)) 8) (4 * (i % 2)) 4 % 2 ^ 22))

/-- Where the log row list of an operation lies, and its length. -/
def rowsOf (w : List W32) : Nat × Nat := match rOp w with
  | 0x11 => (64 * rw w 9, rw w 10)
  | 0x12 => (64 * rw w 7, rw w 8)
  | _ => (0, 0)

/-- The lists that an operation reads: offset and length in bytes. -/
def listsOf (w : List W32) : List (Nat × Nat) :=
  (if rOp w = 0x11 then [(64 * rw w 7, 8 * rw w 8)] else []) ++ [((rowsOf w).1, 4 * (rowsOf w).2)]

/-- The ranges that an operation's lists name: pages, then log rows (R223). -/
def namedRanges (s : State) (u : Nat) (w : List W32) : List (Nat × Nat) :=
  let d := rw w 6
  (if rOp w = 0x11 then (pageList s u w).map (fun p => (p.1, pageSize (rTag w) d)) else []) ++
  (rowList s u (rowsOf w).1 (rowsOf w).2).map (fun o => (o, 64 * rowUnitsOf (rTag w) d))

/-- Whether an entry of a list fails check 6 of R218. DEDUCED (log 79). -/
def listsBad (s : State) (u : Nat) (w : List W32) : Bool :=
  (listsOf w).any (fun r => decide (localSize s < r.1 + r.2)) ||
  (namedRanges s u w).any (fun r => decide (localSize s < r.1 + r.2)) ||
  (rOp w == 0x11 && (pageList s u w).any (fun p => !(within p.2 1 256)))

/-- Whether a word of the lists is poisoned. -/
def listsPoison (s : State) (u : Nat) (w : List W32) : Bool :=
  (listsOf w).any (fun r => peekBad s (localAddr u r.1) r.2)

/-- The lists pass the decoders as the operation reads them. -/
def readLists (s : State) (u : Nat) (w : List W32) : State :=
  (listsOf w).foldl (fun s r => if localSize s < r.1 + r.2 then s else readTable s (localAddr u r.1) r.2) s

/-- n bytes from byte offset `off` of a local part, with the poison of each. -/
def localBytes (s : State) (u off n : Nat) : List (Byte × Bool) × State :=
  let r := readLocal s u (off / 8 * 8) (ceilDiv (off % 8 + n) 8)
  (((r.1.flatMap (fun x => (leBytes x.1.toNat 8).map (fun b => (b, x.2)))).drop (off % 8)).take n, r.2)

/-- A token's K or V from its element and scale bytes: blocks of 32 and the poison of each. -/
def tokenBlks (tag d : Nat) (es sc : List (Byte × Bool)) : List Blk :=
  (upFrom 0 (d / 32)).map (fun j =>
    let code := fun (i : Nat) => if tag = 0 then ((es.getD i (0, false)).1.toNat) else (es.getD (i / 2) (0, false)).1.toNat / 16 ^ (i % 2) % 16
    let bad := (upFrom (32 * j) 32).any (fun i => (es.getD (if tag = 0 then i else i / 2) (0, false)).2)
    let x := sc.getD j (0, false)
    { scale := if tag = 0 then .one else ue5m3 x.1.toNat, elems := (upFrom (32 * j) 32).map (fun i => elemVal tag (code i)),
      poison := bad || (decide (tag ≠ 0) && x.2), escaped := false })

/-- The poison of each element of a token's K or V: of its own word and of its scale's (R254). -/
def elemPoison (tag d : Nat) (es sc : List (Byte × Bool)) : List Bool :=
  (upFrom 0 d).map (fun i =>
    (es.getD (if tag = 0 then i else i / 2) (0, false)).2 || (decide (tag ≠ 0) && (sc.getD (i / 32) (0, false)).2))

/-- A token that a decode operation reads: its K and V, and the poison of each element of V. -/
structure Token where
  k : List Blk
  v : List Blk
  p : List Bool
deriving DecidableEq, Repr

/-- Reads tokens from the offsets of their four sections. -/
def readTokens (s : State) (u tag d : Nat) : List (List (Nat × Nat)) → List Token × State
  | [] => ([], s)
  | l :: rest =>
    let at_ := fun (s : State) (i : Nat) => localBytes s u (l.getD i (0, 0)).1 (l.getD i (0, 0)).2
    let ke := at_ s 0
    let ks := at_ ke.2 1
    let ve := at_ ks.2 2
    let vs := at_ ve.2 3
    let r := readTokens vs.2 u tag d rest
    (⟨tokenBlks tag d ke.1 ks.1, tokenBlks tag d ve.1 vs.1, elemPoison tag d ve.1 vs.1⟩ :: r.1, r.2)

/-- Where the token sets of an ATTN_DECODE lie: pages, then log rows. -/
def tokenSet (s : State) (u : Nat) (w : List W32) : List (List (Nat × Nat)) :=
  let tag := rTag w
  let d := rw w 6
  let eb := tokenEb tag d
  let sb := tokenSb tag d
  (pageList s u w).flatMap (fun p => (upFrom 0 p.2).map (fun t => (tokenPlaces tag d t).map (fun x => (p.1 + x.1, x.2)))) ++
  (rowList s u (rowsOf w).1 (rowsOf w).2).map (fun o =>
    [(o + 16, eb), (o + 16 + eb, sb), (o + 16 + eb + sb, eb), (o + 16 + 2 * eb + sb, sb)])

/-! ATTN_DECODE (R254) -/

/-- x_t of a query vector and a key: w11 × q·k. -/
def score (scale vscale : W32) (q k : List Blk) : W32 :=
  f32mul scale (f32mul (nbuSum ((q.zip k).map (fun p => dotGroup p.1 p.2))) vscale)

/-- The value of element e of a token's V. -/
def vElem (l : List Blk) (e : Nat) : W32 :=
  match l[e / 32]? with
  | some b => if b.scale.isNan then f32nan else f32of ((b.elems.getD (e % 32) .zero).mul b.scale)
  | none => 0

/-- The partial (m, l, o) of one query head. An empty set gives the neutral partial. DEDUCED (log 89). -/
def partialOf (d : Nat) (scale vscale : W32) (q : List Blk) (ts : List Token) : List Acc :=
  let xs := ts.map (fun t => (score scale vscale q t.k, t))
  let kp := q.any (fun b => b.poison) && !ts.isEmpty || ts.any (fun t => t.k.any (fun b => b.poison))
  if ts.isEmpty then ⟨f32inf true, false⟩ :: List.replicate (1 + d) {}
  else
    let m := (xs.map (fun x => x.1)).foldl f32larger (f32inf true)
    let es := xs.map (fun x => (laneOp 0x10 (f32sub x.1 m) 0 0, x.2))
    ⟨m, kp⟩ :: ⟨nbuSum (es.map (fun x => x.1)), kp⟩ :: (upFrom 0 d).map (fun e =>
      ⟨nbuSum (es.map (fun x => f32mul x.1 (vElem x.2.v e))),
       kp || ts.any (fun t => t.p.getD e false)⟩)

/-- The output of an ATTN_DECODE. -/
def attnValues (s : State) (u : Nat) (w : List W32) (vscale : W32) : List Acc × State :=
  let d := rw w 6
  let r := readTokens s u (rTag w) d (tokenSet s u w)
  let x := nbuAt s u
  let lp := listsPoison s u w
  (((upFrom 0 (rw w 5)).flatMap (fun h =>
    partialOf d (w.getD 11 0) vscale ((upFrom 0 (d / 32)).map (vecBlk x 0 0 (rw w 12) (rw w 5) d h)) r.1)).map
      (fun a => { a with p := a.p || lp }), r.2)

/-! PAGE_COMMIT (R250) -/

/-- The header of a log row: valid, key (sequence, layer, KV head), position. -/
def rowHeader (s : State) (u o : Nat) : Bool × Nat × Nat :=
  let b := peekLocal s u o 16
  (field b 7 1 % 2 == 1, field b 0 7, field b 8 4)

/-- Whether the header of a log row is poisoned. DEDUCED (log 80). -/
def rowPoison (s : State) (u o : Nat) : Bool := peekBad s (localAddr u o) 16

/-- Whether the rows of a commit are what R250 asks: valid, of the first row's key, of consecutive positions. Poisoned headers are
not judged. DEDUCED (log 80). -/
def commitRowsOk (s : State) (u : Nat) (w : List W32) : Bool :=
  let rows := rowList s u (rowsOf w).1 (rowsOf w).2
  let first := rowHeader s u (rows.getD 0 0)
  listsPoison s u w || rowPoison s u (rows.getD 0 0) || rows.zipIdx.all (fun x =>
    let h := rowHeader s u x.1
    rowPoison s u x.1 || (h.1 && h.2.1 == first.2.1 && h.2.2 == first.2.2 + x.2))

/-- What a PAGE_COMMIT writes: positions w5 − w8 + k from row k, positions from w5 on zero. DEDUCED (log 80). -/
def commitStores (s : State) (u : Nat) (w : List W32) : Stores × State :=
  let tag := rTag w
  let d := rw w 6
  let out := 64 * rw w 3
  let eb := tokenEb tag d
  let sb := tokenSb tag d
  let lp := listsPoison s u w
  let r := ((rowList s u (rowsOf w).1 (rowsOf w).2).zipIdx).foldl (fun (a : List (Nat × List (Byte × Bool)) × State) x =>
    let bad := lp || rowPoison a.2 u x.1
    let b := localBytes a.2 u x.1 (16 + 2 * (eb + sb))
    (a.1 ++ [(rw w 5 - rw w 8 + x.2, (b.1.drop 16).map (fun v => (v.1, v.2 || bad)))], b.2)) ([], s)
  let parts := [(0, eb), (eb, sb), (eb + sb, eb), (2 * eb + sb, sb)]
  ((upFrom 0 4).flatMap (fun k =>
    r.1.flatMap (fun x => (upFrom 0 (parts.getD k (0, 0)).2).map (fun i =>
      let v := x.2.getD ((parts.getD k (0, 0)).1 + i) (0, false)
      (out + ((tokenPlaces tag d x.1).getD k (0, 0)).1 + i, [v.1], v.2))) ++
    (let a := ((tokenPlaces tag d (rw w 5)).getD k (0, 0)).1
     [(out + a, zeros (((tokenPlaces tag d 256).getD k (0, 0)).1 - a), false)])), r.2)

/-! All operations -/

/-- What an operation has come to: status, writes, poison consumed, a weight trailer that does not fit. -/
structure OpResult where
  status : Byte
  stores : Stores := []
  poison : Bool := false
  trailer : Bool := false
deriving DecidableEq, Repr

/-- An operation as it runs, from its reads to its last write. COPY moves words with their poison and consumes none (R267, R268).
DEDUCED (log 79). -/
def runOp (s : State) (u : Nat) (o : Op) : OpResult × State :=
  let w := o.words
  let out := 64 * rw w 3
  let vals := fun (a : List Acc) (t : Bool) (s : State) =>
    let p := a.any (fun x => x.p)
    (({ status := if p then sPoison else ok, stores := carrierStores out a, poison := p, trailer := t } : OpResult), s)
  match rOp w with
  | 0x10 =>
    let r := gemvValues s u w o.vscale
    vals r.1.1 r.1.2 r.2
  | 0x11 =>
    let s := readLists s u w
    if listsBad s u w then ({ status := eRange }, s)
    else
      let r := attnValues s u w o.vscale
      vals r.1 false r.2
  | 0x12 =>
    let s := readLists s u w
    if listsBad s u w || !(commitRowsOk s u w) then ({ status := eRange }, s)
    else
      let r := commitStores s u w
      let bad := listsPoison s u w || (rowList s u (rowsOf w).1 (rowsOf w).2).any (rowPoison s u)
      ({ status := if bad then sPoison else ok, stores := r.1, poison := bad }, r.2)
  | 0x13 =>
    let r := readLocal s u (64 * rw w 1) (8 * rw w 2)
    ({ status := ok, stores := r.1.zipIdx.map (fun x => (out + 8 * x.2, leBytes x.1.1.toNat 8, x.1.2)) }, r.2)
  | 0x14 =>
    ({ status := ok, stores := (upFrom 0 (8 * rw w 4)).map (fun i =>
        (out + 8 * i, leBytes (w.getD 5 0).toNat 4 ++ leBytes (w.getD 6 0).toNat 4, false)) }, s)
  | _ =>
    let size := 8256 * ceilDiv (rw w 6) 2048
    let r := (upFrom 0 (rw w 5)).foldl (fun (a : List (List Acc) × State) k =>
      let x := readCarriers a.2 u (64 * rw w 1 + k * size) (rw w 6)
      (a.1 ++ [x.1], x.2)) ([], s)
    vals ((upFrom 0 (rw w 6)).map (fun j =>
      let l := r.1.map (fun v => v.getD j {})
      ⟨nbuSum (l.map (fun a => a.v)), l.any (fun a => a.p)⟩)) false r.2

/-! The time an operation takes (R219, R233) -/

/-- Blocks escaped in the weights of a GEMV, by the trailers' esc_count. -/
def gemvEscapes (s : State) (u : Nat) (w : List W32) : Nat :=
  let size := kcSize (rTag w) (rKw w)
  (upFrom 0 (rw w 6 / 64 * (rw w 7 / 64))).foldl (fun a k =>
    a + field (peekLocal s u (64 * rw w 1 + k * size + size - 64) 8) 6 1) 0

/-- Bytes read, bytes written, multiply-accumulates at 256 and at 512 per ns (R212). -/
def opWork (s : State) (u : Nat) (w : List W32) : Nat × Nat × Nat × Nat :=
  let wide := decide (2 ≤ rTag w ∧ rTag w ≤ 4)
  let tok := 2 * (tokenEb (rTag w) (rw w 6) + tokenSb (rTag w) (rw w 6))
  let row := 64 * rowUnitsOf (rTag w) (rw w 6)
  let carriers := fun (n : Nat) => 8256 * ceilDiv n 2048
  match rOp w with
  | 0x10 =>
    let out := carriers (rw w 5 * rw w 7)
    let macs := rw w 5 * rw w 6 * rw w 7
    let slow := if wide then 32 * rw w 5 * gemvEscapes s u w else macs
    (rw w 6 / 64 * (rw w 7 / 64) * kcSize (rTag w) (rKw w) + (if rw w 9 = 1 then out else 0), out, slow, macs - slow)
  | 0x11 =>
    let t := (pageList s u w).foldl (fun a p => a + p.2) 0
    let macs := 2 * rw w 5 * (t + rw w 10) * rw w 6
    (8 * rw w 8 + 4 * rw w 10 + t * tok + rw w 10 * row, carriers (rw w 5 * (2 + rw w 6)), if wide then 0 else macs,
     if wide then macs else 0)
  | 0x12 => (4 * rw w 8 + rw w 8 * row, (256 - (rw w 5 - rw w 8)) * tok, 0, 0)
  | 0x13 => (64 * rw w 2, 64 * rw w 4, 0, 0)
  | 0x14 => (0, 64 * rw w 4, 0, 0)
  | _ => (rw w 5 * carriers (rw w 6), carriers (rw w 6), 0, 0)

/-- The read rate of an NBU in bytes per 100 ns: by the refresh rate of its stack, 15 GB/s for a buddy (R231, R233). -/
def nbuRate (s : State) (u : Nat) (buddy : Bool) : Nat :=
  if buddy then 1500 else if (stkAt s (u / 256)).double then 2790 else 2895

/-- The least time of an operation, in ns. DESIGN CHOICE (log 12); DEDUCED (log 76). -/
def opTime (s : State) (u : Nat) (o : Op) : Nat :=
  let k := opWork s u o.words
  let r := nbuRate s u o.buddy
  500 + max (ceilDiv (100 * k.1) r) (ceilDiv k.2.2.1 256 + ceilDiv k.2.2.2 512) + ceilDiv (100 * k.2.1) r

end Sys2Proof.Machine
end

