-- ==== Sys2Proof/Machine/Paged.lean ====
section
/-! DEFINITION. Pages, block tables and the gather log as they lie in stack memory (R234–R241, R245), and operations of the near-bank
units that end (R227, R228, R250). -/

namespace Sys2Proof.Machine

/-! Block tables (R238) -/

/-- A block table's header, with the region's base and length. -/
structure BlockTable where
  base : Nat
  nSeq : Nat
  layers : Nat
  heads : Nat
  fmt : Nat
  d : Nat
  maxPages : Nat
  offTail : Nat
  offPage : Nat
  offMap : Nat
  mapRows : Nat
deriving DecidableEq, Repr

/-- A block table from its 64 header bytes. -/
def tableOf (base : Nat) (b : List Byte) : BlockTable :=
  ⟨base, field b 4 4, field b 8 2, field b 10 1, field b 11 1 % 16, field b 12 2, field b 14 2, field b 16 8, field b 24 8,
   field b 32 8, field b 40 4⟩

/-- The number of (sequence, layer, head) tails. -/
def BlockTable.tails (t : BlockTable) : Nat := t.nSeq * t.layers * t.heads

/-- Whether the header of a region of `len` bytes meets R238. -/
def headerOk (base len : Nat) (b : List Byte) : Bool :=
  let t := tableOf base b
  let parts := [(0, 64), (t.offTail, 1088 * t.tails), (t.offPage, 8 * (t.tails * t.maxPages)), (t.offMap, 4 * t.mapRows)]
  field b 0 4 == 0x54424B59 && within t.nSeq 1 65536 && within t.layers 1 1024 && within t.heads 1 64 &&
  (t.fmt == 0 || t.fmt == 2) && field b 11 1 / 16 == 0 && headOk t.d && within t.maxPages 1 4096 && within t.mapRows 1 65536 &&
  t.offTail % 64 == 0 && t.offPage % 64 == 0 && t.offMap % 64 == 0 && field b 44 20 == 0 && base % 4096 == 0 &&
  decide (base < 2 ^ 39) && parts.all (fun x => decide (x.1 + x.2 ≤ len)) && disjoint parts

/-- The index x of a tail record. -/
def BlockTable.tailIndex (t : BlockTable) (seq layer head : Nat) : Nat := (seq * t.layers + layer) * t.heads + head
/-- The address of a tail record. -/
def BlockTable.tail (t : BlockTable) (seq layer head : Nat) : Nat := t.base + t.offTail + 1088 * t.tailIndex seq layer head
/-- The address of a page entry. -/
def BlockTable.page (t : BlockTable) (seq layer head p : Nat) : Nat :=
  t.base + t.offPage + 8 * (t.tailIndex seq layer head * t.maxPages + p)
/-- The size of a page (R234). -/
def BlockTable.pageLen (t : BlockTable) : Nat := pageSize t.fmt t.d
/-- The units of a log row (R245). -/
def BlockTable.rowUnits (t : BlockTable) : Nat := rowUnitsOf t.fmt t.d

/-! Tail records and page entries (R239, R240) -/

/-- Bytes 0–63 of a tail record. -/
structure Tail where
  open_ : Nat
  held : Nat
  inPage : Nat
  pending : Nat
  active : Nat
deriving DecidableEq, Repr

/-- The tail record at an address. -/
def tailAt (s : State) (a : Nat) : Tail :=
  let b := peekStack s a 16
  ⟨field b 0 2, field b 4 4, field b 8 2, field b 10 2, field b 12 1 % 2⟩

/-- Writes bytes 0–63 of a tail record. -/
def setTail (s : State) (a : Nat) (t : Tail) : State :=
  pokeStack s a (leBytes t.open_ 2 ++ [0, 0] ++ leBytes t.held 4 ++ leBytes t.inPage 2 ++ leBytes t.pending 2 ++
    leBytes t.active 1 ++ zeros 51)

/-- Entry k of a plist: the log row's offset in 64-byte units. -/
def plistAt (s : State) (a k : Nat) : Nat := field (peekStack s (a + 64 + 8 * (k / 2)) 8) (4 * (k % 2)) 4 % 2 ^ 22

/-- Writes entry k of a plist: half a word, merged into it (R270). -/
def setPlist (s : State) (a k v : Nat) : State :=
  mergeWord s .stack (stackWord s (a + 64 + 8 * (k / 2))) (4 * (k % 2)) (leBytes v 4) false

/-- A page entry. -/
structure Page where
  word : W64
deriving DecidableEq, Repr

/-- The page entry at an address. -/
def pageAt (s : State) (a : Nat) : Page := ⟨BitVec.ofNat 64 (field (peekStack s a 8) 0 8)⟩
/-- The NBU of a page's bank group. -/
def Page.nbu (p : Page) : Nat := bits p.word 3 0 * 256 + bits p.word 11 4
/-- The page's base in its local part, in bytes. -/
def Page.base (p : Page) : Nat := bits p.word 29 12 * 1024
/-- Tokens committed. -/
def Page.tokens (p : Page) : Nat := bits p.word 38 30
/-- allocated. -/
def Page.allocated (p : Page) : Bool := bitAt p.word 40
/-- lost. -/
def Page.lost (p : Page) : Bool := bitAt p.word 41
/-- A page entry with the device's fields replaced. -/
def Page.closed (p : Page) (tokens : Nat) (short lost : Bool) : Page :=
  ⟨(p.word &&& ~~~(BitVec.ofNat 64 (0x1FF * 2 ^ 30 + 2 ^ 39 + 2 ^ 41))) |||
    BitVec.ofNat 64 (tokens % 512 * 2 ^ 30 + (if short then 2 ^ 39 else 0) + (if lost then 2 ^ 41 else 0))⟩
/-- Writes a page entry, poisoned where the one it is worked out from was (R265). -/
def setPage (s : State) (a : Nat) (p : Page) (bad : Bool) : State := writeStack s a [(p.word, bad)]
/-- Whether a page meets R235. -/
def Page.legal (s : State) (p : Page) (len : Nat) : Bool :=
  decide (bits p.word 3 0 < 4) && nbuOn s.variant p.nbu && (liveSites s).contains (p.nbu / 256) &&
  decide (p.base + len ≤ kvBase s)

/-! Counters (R257) -/

/-- Changes the counters of a Pyrrel site. -/
def modKv (s : State) (site : Nat) (f : KvSite → KvSite) : State := { s with kv := tmod {} s.kv site f }

/-! Operations that end (R227, R228) -/

/-- The code of an operation's source. -/
def OpSource.code : OpSource → Byte
  | .station _ _ _ => 0
  | .log _ _ => 1
  | .desc _ _ _ => 2

/-- The seq of an operation's log entry. -/
def OpSource.seq : OpSource → W32
  | .station _ _ j => BitVec.ofNat 32 j
  | .log _ _ => 0
  | .desc _ _ q => q

/-- The partition an operation works for. -/
def OpSource.part : OpSource → PartId
  | .station n _ _ => n
  | .log n _ => n
  | .desc _ n _ => n

/-- The station an operation acts for, with its partition. -/
def OpSource.workOf : OpSource → Option Nat
  | .station _ k _ => some k
  | .log _ k => if k = 0xFFFF then none else some k
  | .desc _ _ _ => none

/-! The gather log (R236, R245, R247) -/

/-- The units of a gather log. -/
def logUnits (s : State) : Nat := 16 * logKib s
/-- The offset of the gather log in a local part. -/
def logBase (s : State) : Nat := kvBase s + 0x100400
/-- Head, tail and units in use of an NBU's log. -/
def ringState (s : State) (u : Nat) : Nat × Nat × Nat :=
  let b := peekLocal s u (kvBase s) 16
  (field b 0 4, field b 4 4, field b 8 4)
/-- Writes the ring state. -/
def setRing (s : State) (u : Nat) (head tail used : Nat) : State :=
  pokeStack s (localAddr u (kvBase s)) (leBytes head 4 ++ leBytes tail 4 ++ leBytes used 4 ++ zeros 4)

/-- The (sequence, layer, KV head) and position of the log row at a unit of the log. -/
def rowKeyAt (s : State) (u off : Nat) : Nat × Nat × Nat × Nat :=
  let b := peekLocal s u (logBase s + 64 * off) 16
  (field b 0 4, field b 4 2, field b 6 1, field b 8 4)

/-- The block table of a region: its header as a run that binds the region holds it (R242), else as it stands. DEDUCED (log 75). -/
def tableAt (s : State) (base : Nat) : BlockTable :=
  match allParts.findSome? (fun n => (partAt s n).run.bind (fun r =>
      (r.tables.find? (fun x => decide ((slotIn r.slots x.1).a.toNat = base))).map (fun x => tableOf base x.2.1))) with
  | some t => t
  | none => tableOf base (peekStack s base 64)

/-- Whether the owner of a log row names it in its plist (R247). -/
def plistNames (s : State) (u : Nat) (r : LogRow) : Bool :=
  match r.table with
  | none => false
  | some base =>
    let t := tableAt s base.toNat
    let k := rowKeyAt s u r.off
    let a := t.tail k.1 k.2.1 k.2.2.1
    let x := tailAt s a
    let i := k.2.2.2 + x.pending - x.held
    decide (k.1 < t.nSeq) && decide (k.2.1 < t.layers) && decide (k.2.2.1 < t.heads) &&
    decide (x.held ≤ k.2.2.2 + x.pending) && decide (i < x.pending) && 64 * plistAt s a i == logBase s + 64 * r.off

/-- Whether a row is live (R247). -/
def liveRow (s : State) (u : Nat) (r : LogRow) : Bool :=
  r.table.isSome && (plistNames s u r || busyLinear s u (stripeGib s * 2 ^ 22 + logBase s + 64 * r.off) (64 * r.units) false)

/-- The tail passes every row that is not live, and every pad row (R247). -/
def tailAdvance (s : State) (u : Nat) : Nat → State
  | 0 => s
  | fuel + 1 =>
    match (nbuAt s u).rows with
    | [] => s
    | r :: rest =>
      if liveRow s u r then s
      else
        let x := ringState s u
        let s := setRing s u x.1 ((r.off + r.units) % logUnits s) (x.2.2 - r.units)
        tailAdvance (modNbu s u (fun n => { n with rows := rest })) u fuel

/-- tailAdvance over all the rows a log holds. -/
def settleLog (s : State) (u : Nat) : State := tailAdvance s u (nbuAt s u).rows.length

/-! The end of an operation -/

/-- The code of an operation's source in its log entry (R227): the KV machinery's decode operations are of source 1. -/
def Op.code (o : Op) : Byte := if o.piece.isSome then 1 else o.source.code

/-- An operation whose NBU is fenced: the buddy is to run it from its start (R231), unless its writes are all made. DEDUCED (log 82). -/
def Op.toBuddy (o : Op) : Op :=
  if o.finished.isSome then o else { o with buddy := true, again := o.started || o.again, started := false }

/-- Whether what runs the operations of an NBU has one in hand: a fenced NBU's buddy serves both in turn (R231). -/
def runnerBusy (s : State) (u : Nat) : Bool :=
  let hand := fun (v : Nat) => (nbuAt s v).ops.any (fun o => o.started)
  hand u || ((nbuFenced s u || nbuFenced s (buddyOf u)) && hand (buddyOf u))

/-- The first operation of an NBU starts when nothing runs (R215) and the NBU clock runs (R474); an NBU that runs nothing refreshes what
it owes (R210). DEDUCED (log 124). -/
def startNext (s : State) (u : Nat) : State :=
  match (nbuAt s u).ops with
  | [] => { s with banks := s.banks.filter (fun x => x.1 / 16 != u) }
  | _ :: _ =>
    if runnerBusy s u || (nbuFenced s u && nbuFenced s (buddyOf u)) || s.pllLost.contains .nbu then s
    else modNbu s u (fun n => { n with ops := match n.ops with | o :: l => { o with started := true, start := s.time } :: l | [] => [] })

/-- Serves an ordinary access (R223): a read passes the decoders, a write stores its words. -/
def serveAccess (s : State) (a : StackAccess) : State :=
  if a.write then writeStack s a.addr.toNat (bytesWords (a.len / 8) a.data) else (readStack s a.addr.toNat (a.len / 8)).2

/-- Reads held for a completion point are served once their range is no output range (R223). -/
def releaseHeld (s : State) (u : Nat) : State :=
  let free := fun (a : StackAccess) => !(busyStack s a.addr.toNat true (a.len / 64))
  let l := (nbuAt s u).held
  (l.filter free).foldl serveAccess (modNbu s u (fun n => { n with held := l.filter (fun a => !(free a)) }))

/-- The operation that starts after one of an NBU has ended: of a fenced NBU and its buddy, the other's first (R231).
DEDUCED (log 82, 124). -/
def nextTurn (s : State) (u : Nat) : State :=
  if nbuFenced s u || nbuFenced s (buddyOf u) then startNext (startNext s (buddyOf u)) u else startNext s u

/-- Serves the first n accesses of an interleave queue, in arrival order (R224). -/
def serveQueue (s : State) (u n : Nat) : State :=
  let q := (nbuAt s u).queue
  (q.take n).foldl serveAccess (modNbu s u (fun x => { x with queue := q.drop n }))

/-- Whether an NBU runs an operation. -/
def nbuRuns (s : State) (u : Nat) : Bool := (nbuAt s u).ops.any (fun o => o.started && o.finished.isNone)

/-- A bank group in which nothing runs has nothing to pause for: what waits in its queue is served. DEDUCED (log 84). -/
def idleQueue (s : State) (u : Nat) : State := if nbuRuns s u then s else serveQueue s u (nbuAt s u).queue.length

/-- Removes operation i of an NBU with its entry in the operation log (R227): its ranges stop being busy, and what waited for that goes
on (R223, R226). DESIGN CHOICE (log 17). -/
def removeOp (s : State) (u i : Nat) (status : Byte) (torn : Bool) : State :=
  match (nbuAt s u).ops[i]? with
  | none => s
  | some o =>
    let e : OpLog :=
      { source := o.code, status, flags := BitVec.ofNat 8 ((if torn then 1 else 0) + (if o.buddy then 2 else 0)),
        op := BitVec.ofNat 8 (rOp o.words), seq := o.source.seq, start := o.start, done := s.time,
        tornOff := if torn then o.words.getD 3 0 else 0, tornLen := if torn then o.words.getD 4 0 else 0 }
    let s := modNbu s u (fun n => { n with
      ops := n.ops.take i ++ n.ops.drop (i + 1), log := (n.log ++ [e]).drop ((n.log.length + 1) - 4) })
    idleQueue (nextTurn (serveQueue (releaseHeld (releaseDeferred s) u) u 16) u) u

/-- A KV_COMMIT none of whose pages is still to be committed completes (R248): OK, or S_ABORTED carrying the first status of its
operations that is not. DEDUCED (log 88). -/
def settleJobs (s : State) : State :=
  let open_ := fun (j : KvJob) => s.commits.any (fun c => c.owner == some j.desc) ||
    s.nbus.any (fun x => x.2.ops.any (fun o => o.owner == some j.desc))
  (s.kvJobs.filter (fun j => !(open_ j))).foldl (fun s j =>
    match j.bad with
    | none => complete s j.desc ok 0 0 []
    | some st => complete s j.desc sAborted (endDetail { status := sAborted, cause := 5, carried := st.toNat }) 0 [])
    { s with kvJobs := s.kvJobs.filter open_ }

/-- The run that triggered a commit ends (R250), when it still runs. -/
def stopTrigger (s : State) (n : Nat) (begun : Option W64) (e : Ending) : State :=
  match (partAt s n).run with
  | some r => if r.started && begun == some r.begun then stopRun s n e else s
  | none => s

/-- The page entry of a commit that has ended (R250): with OK its tokens; else those that were there, short and lost, with the record, and
the run in which it was triggered ends. An entry worked out from a poisoned one is poisoned (R265). -/
def closePage (s : State) (u : Nat) (o : Op) (status : Byte) : State :=
  match o.commit with
  | none => s
  | some a =>
    let w5 := rw o.words 5
    let bad := peekBad s a.toNat 8
    let s := readTable s a.toNat 8
    let p := pageAt s a.toNat
    let n := o.source.part.val
    let s := if bad then reportPoison s n o.source.workOf else s
    if status = ok then
      modKv (setPage s a.toNat (p.closed w5 (decide (w5 < 256)) false) bad) (u / 256) (fun k =>
        if w5 = 256 then { k with full := k.full + 1 } else { k with short := k.short + 1 })
    else
      let s := raise (setPage s a.toNat (p.closed (w5 - rw o.words 8) true true) bad)
        { kind := kCommitFailed, unit := uNbu, id := u, part := some n, status }
      match o.owner with
      | some r => { s with kvJobs := s.kvJobs.map (fun j => if j.desc = r ∧ j.bad = none then { j with bad := some status } else j) }
      | none => stopTrigger s n o.begun { status := sAborted, cause := 5, carried := status.toNat }

/-- An operation that stops in its midst has made a part of its writes; which part is open (R228): free.
DEDUCED (log 76); DESIGN CHOICE (log 77). -/
def tearOp (s : State) (u : Nat) (o : Op) : State :=
  if (o.started || o.again) && o.finished.isNone then
    let r := runOp s u o
    let f := takeFree r.2
    putStores f.2 u (r.1.stores.take (f.1.toNat % (r.1.stores.length + 1)))
  else s

/-- Operation i of an NBU ends before its completion point (R228, R229, R231): nothing written or torn, its log entry, its
descriptor's completion, its page's loss. -/
def dropOp (s : State) (u i : Nat) (status : Byte) (detail : W64) : State :=
  match (nbuAt s u).ops[i]? with
  | none => s
  | some o =>
    let s := removeOp (tearOp s u o) u i status (o.started || o.again)
    match o.source with
    | .desc ref _ _ => complete s ref status detail 0 []
    | .log _ _ => closePage s u o status
    | .station _ _ _ => s

/-- How an operation ends whose NBU and its buddy are fenced (R231). -/
def fencedEnd : Ending := { status := sAborted, cause := 4 }

/-- A station whose operation ends so ends its run in the same way (R231). -/
def abandonRun (s : State) (o : Op) : State :=
  match o.source with
  | .station n _ _ => stopRun s n.val fencedEnd
  | _ => s

/-- The lowest free operation slot of an NBU that no repair holds (R226). -/
def freeSlot (s : State) (u : Nat) : Option Nat :=
  if s.repairs.any (fun r => r.nbu == u) then none
  else (upFrom 0 16).find? (fun k => !((nbuAt s u).ops.any (fun o => o.slot == k)))

/-- Writes an operation into a slot (R215): its ranges become busy; the first starts. With its NBU and the buddy fenced it ends at once
(R231). -/
def acceptOp (s : State) (u : Nat) (o : Op) : State :=
  let o := { o with ranges := namedRanges s u o.words, buddy := nbuFenced s u }
  let s := modNbu s u (fun n => { n with ops := n.ops ++ [o] })
  if nbuFenced s u && nbuFenced s (buddyOf u) then
    abandonRun (dropOp s u ((nbuAt s u).ops.length - 1) sAborted (endDetail fencedEnd)) o
  else startNext s u

/-! Slot areas (R236) -/

/-- The offset of the slot area of a slot. -/
def slotArea (s : State) (slot : Nat) : Nat := kvBase s + 0x400 + 0x10000 * slot

/-- Writes a list of 4-byte entries, each with its poison, at an offset of a local part, filled up with zero to whole words. -/
def putList4 (s : State) (u off : Nat) (l : List (Nat × Bool)) : State :=
  let b := l.flatMap (fun x => (leBytes x.1 4).map (fun v => (v, x.2)))
  writeStack s (localAddr u off) (flagWords (ceilDiv b.length 8) (b ++ (zeros (ceilDiv b.length 8 * 8 - b.length)).map (fun v => (v, false))))

/-! Commits (R248, R249) -/

/-- Where a commit's tail record lies, and its open page's entry. -/
def commitPlace (s : State) (c : Commit) : Nat × Nat :=
  let t := tableAt s c.table.toNat
  let a := t.tail c.seq c.layer c.head
  (a, t.page c.seq c.layer c.head (tailAt s a).open_)

/-- The NBU of the page that a commit names. -/
def commitNbu (s : State) (c : Commit) : Nat := (pageAt s (commitPlace s c).2).nbu

/-- A tail record after its page is committed: the next page, nothing in it. -/
def Tail.next (t : Tail) : Tail := { t with open_ := t.open_ + 1, inPage := 0, pending := 0 }

/-- The PAGE_COMMIT record of a page over the log row list of a slot area (R249). -/
def commitWords (s : State) (t : BlockTable) (x : Tail) (p : Page) (slot : Nat) : List W32 :=
  let l := (slotArea s slot + 0x8000) / 64
  ([0x12 + t.fmt * 2 ^ 16, l, ceilDiv (4 * x.pending) 64, p.base / 64, t.pageLen / 64, x.inPage, t.d, l, x.pending] ++
    List.replicate 7 0).map (BitVec.ofNat 32)

/-- A commit whose tail record or page entry reads as poison cannot be made (R268): the consumption is reported, and what asked for it ends
with S_POISON. DEDUCED (log 88). -/
def refuseCommit (s : State) (c : Commit) : State :=
  let n := c.part.val
  match c.owner with
  | some r =>
    let s := reportPoison s n none
    { s with kvJobs := s.kvJobs.map (fun j => if j.desc = r ∧ j.bad = none then { j with bad := some sPoison } else j) }
  | none =>
    if c.begun.isSome && c.begun == (partAt s n).run.map (fun r => r.begun) then consumePoison s n (some c.station)
    else reportPoison s n none

/-- Commits a page (R249), unless no slot is free: with nothing pending its entry is closed and no operation issued. -/
def tryCommit (s : State) (c : Commit) : Option State :=
  let t := tableAt s c.table.toNat
  let a := commitPlace s c
  let bad := peekBad s a.1 16 || peekBad s a.2 8
  let s := readTable (readTable s a.1 16) a.2 8
  let x := tailAt s a.1
  let p := pageAt s a.2
  if bad then some (refuseCommit s c)
  else if x.inPage = 0 then some s
  else if x.pending = 0 then
    let s := setPage s a.2 (p.closed p.tokens (decide (p.tokens < 256)) false) false
    some (modKv (setTail s a.1 x.next) (p.nbu / 256) (fun k =>
      if p.tokens = 256 then { k with full := k.full + 1 } else { k with short := k.short + 1 }))
  else match freeSlot s p.nbu with
    | none => none
    | some slot =>
      let l := (upFrom 0 x.pending).map (fun i => (plistAt s a.1 i, peekBad s (a.1 + 64 + 8 * (i / 2)) 8))
      let s := putList4 (readTable s (a.1 + 64) (4 * x.pending)) p.nbu (slotArea s slot + 0x8000) l
      let o : Op := { words := commitWords s t x p slot, source := .log c.part c.station, slot, commit := some (BitVec.ofNat 64 a.2),
                      owner := c.owner, begun := c.begun }
      some (acceptOp (setTail s a.1 x.next) p.nbu o)

/-- Commits a page, or keeps it to be committed when a slot frees. -/
def commitPage (s : State) (c : Commit) : State :=
  match tryCommit s c with
  | some t => t
  | none => if s.commits.contains c then s else { s with commits := s.commits ++ [c] }

/-- The occupancy rule of R248, at most `fuel` times in turn: above 0.75 of its units the owner of the row at the tail is committed, for
what triggered it: a partition and station, and the start of the run it was in. DEDUCED (log 87). -/
def drainLog (s : State) (u : Nat) (part : PartId) (station : Nat) (begun : Option W64) : Nat → State
  | 0 => s
  | fuel + 1 =>
    if 3 * logUnits s < 4 * (ringState s u).2.2 then
      match (nbuAt s u).rows with
      | r :: _ =>
        (match r.table with
         | some base =>
           if plistNames s u r then
             let k := rowKeyAt s u r.off
             drainLog (settleLog (commitPage s ⟨base, k.1, k.2.1, k.2.2.1, part, station, none, begun⟩) u) u part station begun fuel
           else s
         | none => s)
      | [] => s
    else s

/-- After appends, commits and releases: the tail of a log moves on (R247), and the occupancy rule is applied (R248).
DEDUCED (log 87). -/
def checkLog (s : State) (u : Nat) (part : PartId) (station : Nat) (begun : Option W64) : State :=
  let s := settleLog s u
  drainLog s u part station begun (nbuAt s u).rows.length

/-- The start of a partition's run. -/
def runBegun (s : State) (n : Nat) : Option W64 := (partAt s n).run.map (fun r => r.begun)

/-- What a PAGE_COMMIT leaves when it has ended: its page, then the log's rows; commands that waited for it complete. -/
def commitEnds (s : State) (u : Nat) (o : Op) (status : Byte) : State :=
  match o.source with
  | .log n k => settleJobs (checkLog (closePage s u o status) u n k o.begun)
  | _ => s

/-- An operation ends before its completion point (R228, R229, R231), and with a commit the log goes on. -/
def failOp (s : State) (u i : Nat) (status : Byte) (detail : W64) : State :=
  match (nbuAt s u).ops[i]? with
  | none => s
  | some o =>
    let s := dropOp s u i status detail
    match o.source with
    | .log n k => settleJobs (checkLog s u n k o.begun)
    | _ => s

/-- An operation of an NBU whose buddy is fenced too ends (R231). -/
def abandonOp (s : State) (u i : Nat) : State :=
  match (nbuAt s u).ops[i]? with
  | none => s
  | some o => abandonRun (failOp s u i sAborted (endDetail fencedEnd)) o

/-- Ends every operation of an NBU that neither it nor its buddy can run, from its last to its first. -/
def abandonOps (s : State) (u : Nat) : Nat → State
  | 0 => s
  | i + 1 => abandonOps (abandonOp s u i) u i

/-- Ends every operation of an NBU that passes a test, from its last to its first. -/
def failOpsOf (s : State) (u : Nat) (p : Op → Bool) (status : Byte) (detail : W64) : Nat → State
  | 0 => s
  | i + 1 =>
    let s' := match (nbuAt s u).ops[i]? with
      | some o => if p o then failOp s u i status detail else s
      | none => s
    failOpsOf s' u p status detail i

/-- Ends every operation that passes a test, in every NBU (R228). -/
def failOps (s : State) (p : Op → Bool) (status : Byte) (detail : W64) : State :=
  s.nbus.foldl (fun s x => failOpsOf s x.1 p status detail x.2.ops.length) s

/-- Whether an operation is a station's of partition n. -/
def ofStation (n : Nat) (o : Op) : Bool := match o.source with | .station m _ _ => m.val == n | _ => false

end Sys2Proof.Machine
end

