-- ==== Sys2Proof/Machine/Crc.lean ====
section
/-! DEFINITION. The two checks the manual computes in full: CRC-64 of flits (R289) and CRC-32C of images (R50). -/

namespace Sys2Proof.Machine

/-- n steps of the CRC-64 shift register. -/
def crc64Bits : Nat → W64 → W64
  | 0, x => x
  | n + 1, x => crc64Bits n (if x.getLsbD 63 then (x <<< 1) ^^^ 0x42F0E1EBA9EA3693 else x <<< 1)

/-- The register after a byte string. -/
def crc64From : W64 → List Byte → W64
  | x, [] => x
  | x, b :: l => crc64From (crc64Bits 8 (x ^^^ (b.zeroExtend 64 <<< 56))) l

/-- CRC-64 (R289). -/
def crc64 (l : List Byte) : W64 := crc64From 0xFFFFFFFFFFFFFFFF l ^^^ 0xFFFFFFFFFFFFFFFF

/-- n steps of the reflected CRC-32C shift register. -/
def crc32Bits : Nat → W32 → W32
  | 0, x => x
  | n + 1, x => crc32Bits n (if x.getLsbD 0 then (x >>> 1) ^^^ 0x82F63B78 else x >>> 1)

/-- The register after a byte string. -/
def crc32From : W32 → List Byte → W32
  | x, [] => x
  | x, b :: l => crc32From (crc32Bits 8 (x ^^^ b.zeroExtend 32)) l

/-- CRC-32C (R50). -/
def crc32c (l : List Byte) : W32 := crc32From 0xFFFFFFFF l ^^^ 0xFFFFFFFF

end Sys2Proof.Machine
end

