-- ==== Sys2Proof/Machine/Setup.lean ====
section
/-! DEFINITION. Set-up accesses: their order and answers (R297, R298, R443, R512–R517), doorbells (R313, R314), the semaphore (R331–R333), routes
(R351, R352), the fold and its checks (R336–R339, R521). -/

namespace Sys2Proof.Machine

/-! An access and its answer -/

/-- The SCPL of an access (R297). DEDUCED (log 46). -/
def answer (s : State) (a : Access) (st : Byte) (data : W32) : State := pushTxn s a.port (.scpl a.tag st data)

/-- Whether the device has been released (R442). -/
def released (s : State) : Bool := s.boot.phase == 9

/-- What a write at an offset leaves in a port's latches: a write elsewhere discards a held low word (R514), any access
elsewhere a latched high word (R298). DEDUCED (log 14). -/
def Latch.written (l : Latch) (off : Nat) : Latch :=
  { l with read := match l.read with | some (o, v) => if o = off then some (o, v) else none | none => none,
           write := match l.write with | some (o, v) => if o + 4 = off then some (o, v) else none | none => none }

/-- A set-up write through a Nalson port: before release it is refused (R443), else f gives its status; the SCPL follows.
DEDUCED (log 46). -/
def setupWrite (s : State) (a : Access) (off : Nat) (f : State → Byte × State) : State :=
  if off % 4 ≠ 0 then answer s a eAlign 0
  else if a.other ≠ 0 then answer s a eReserved 0
  else
    let s := modNal s a.port (fun n => { n with latch := n.latch.written off })
    if released s then
      let r := f s
      answer r.2 a r.1 0
    else answer s a eState 0

/-! Doorbells (R313, R314) -/

/-- Asks for the descriptors that are available, in index order; not during a Hem reset or a power loss (R315, R430, R462).
DEDUCED (log 29). -/
def readDescs (s : State) (p : NPort) (r : RingId) : Nat → State
  | 0 => s
  | n + 1 =>
    let g := ringAt s p r
    if g.avail = 0 ∨ hemWorks s = false then s
    else
      let k := g.nextK
      let s := modRing s p r (fun g => { g with avail := g.avail - 1, nextK := k + 1, descs := g.descs ++ [{ k, stage := .reading }] })
      readDescs (askRead s p { addr := g.dbase + BitVec.ofNat 64 (64 * (k % cfgEntries g.cfg)), len := 64, owner := .desc r k }) p r n

/-- The descriptors of a ring that are owed a final completion, by number. -/
def owed (g : Ring) : List Nat := g.descs.map (fun d => d.k) ++ upFrom g.nextK g.avail

/-- The check of R314 that a doorbell fails. -/
def doorbellBad (g : Ring) (body : W64) : Option Byte :=
  let e := cfgEntries g.cfg
  let prod := bits body 47 32
  let q := g.prod.toNat
  let n := (prod + e - q) % e
  let d := lo32 body - g.lastDbl
  if bits body 63 54 ≠ 0 then some eReserved
  else if !cfgEnabled g.cfg || g.stopped then some eState
  else if e ≤ prod then some eRange
  else if bitAt d 31 ∨ (d = 0 ∧ prod ≠ q) then some eSeq
  else if lo32 body ≠ g.lastDbl + BitVec.ofNat 32 n then some eSeq
  else if (owed g).any (fun k => decide ((k % e + e - q) % e < n)) then some eNoResource
  else none

/-- The ring a doorbell names. -/
def doorbellRing (body : W64) : RingId := ⟨bits body 53 48, Nat.lt_of_lt_of_le (Nat.mod_lt _ (by decide)) (by decide)⟩

/-- What a doorbell does at a port. DEDUCED (log 29). -/
def ringDoorbell (s : State) (port : NPort) (body : W64) : State :=
  let r := doorbellRing body
  let g := ringAt s port r
  match doorbellBad g body with
  | some st =>
    raise (modRing s port r (fun g => { g with dblRej := g.dblRej + 1 }))
      { kind := kDoorbell, unit := uDescRing, id := port.val * 64 + r.val, status := st }
  | none =>
    let e := cfgEntries g.cfg
    let n := (bits body 47 32 + e - g.prod.toNat) % e
    readDescs (modRing s port r (fun g => { g with
      lastDbl := lo32 body, prod := BitVec.ofNat 16 (bits body 47 32), avail := g.avail + n })) port r n

/-- Whether a press of a port waits for its frame boundary (R338). -/
def pressWaits (s : State) (p : NPort) : Bool := match s.fold.waiting with | some a => a.port == p | none => false

/-- A press that waited has taken effect, or never will: its answer, then the doorbells that came after it (R301).
DEDUCED (log 29). -/
def pressAnswer (s : State) (a : Access) (st : Byte) : State :=
  let l := (nalAt s a.port).dbls
  l.foldl (fun s b => ringDoorbell s a.port b) (answer (modNal s a.port (fun n => { n with dbls := [] })) a st 0)

/-! The semaphore (R332, R333) -/

/-- Lease left, in ms. -/
def leaseMs (s : State) : Nat :=
  if s.sem.held && !s.sem.expired then 100 - since s s.sem.renewed / 25000 else 0

/-- GAF_SEM_PEEK. -/
def semWord (s : State) : W32 :=
  BitVec.ofNat 32 (leaseMs s * 65536 + one s.sem.expired * 8 + one s.sem.held * 4 + (if s.sem.held then s.sem.owner.val else 0))

/-- A claiming read by a port (R333). -/
def claimSem (s : State) (p : NPort) : State :=
  if !s.sem.held || s.sem.owner == p then
    { s with sem := { s.sem with held := true, expired := false, owner := p, renewed := s.time } }
  else s

/-- The fold is discarded with the semaphore; a waiting press is answered E_OWNER (R333, R338's cases). -/
def dropFold (s : State) : State :=
  let s' := { s with fold := { s.fold with words := [], waiting := none } }
  match s.fold.waiting with
  | some a => pressAnswer s' a eOwner
  | none => s'

/-- A write to GAF_SEM_CTL by a port (R333, R513). -/
def semCtl (s : State) (p : NPort) (v : W32) : Byte × State :=
  if v &&& 0xFFFFFFFC ≠ 0 then (eReserved, s)
  else if bitAt v 0 && bitAt v 1 then (eRange, s)
  else if bitAt v 0 then
    if s.sem.held && s.sem.owner == p then
      (ok, dropFold { s with sem := { s.sem with held := false, expired := false, owner := 0 } })
    else (eOwner, s)
  else if bitAt v 1 then
    if s.sem.held && s.sem.expired && s.sem.owner != p then
      let old := s.sem.owner
      let s := dropFold { s with sem := { s.sem with expired := false, owner := p, renewed := s.time, breaks := s.sem.breaks + 1 } }
      (ok, raise s { kind := kSemBroken, unit := uNalson, id := p.val, detail := old.val })
    else (eState, s)
  else (ok, s)

/-- SEMAPHORE_CLAIM: the claiming read of GAF_SEM. -/
def execSemaphoreClaim (a : Access) (s : State) : Host.Outcome State Fault Refusal :=
  whenAon s fun s =>
    if a.other ≠ 0 then answer s a eReserved 0
    else
    let s := modNal s a.port (fun n => { n with latch := { n.latch with read := none } })
    if released s then
      let s := claimSem s a.port
      answer s a ok (semWord s)
    else answer s a eState 0

/-- SEMAPHORE_RELEASE: a write to GAF_SEM_CTL. -/
def execSemaphoreRelease (a : Access) (v : W32) (s : State) : Host.Outcome State Fault Refusal :=
  whenAon s fun s => setupWrite s a 0x10008 (fun s => semCtl s a.port v)

/-- SEMAPHORE_BREAK: a write to GAF_SEM_CTL. -/
def execSemaphoreBreak (a : Access) (v : W32) (s : State) : Host.Outcome State Fault Refusal :=
  whenAon s fun s => setupWrite s a 0x10008 (fun s => semCtl s a.port v)

/-- LEASE_EXPIRY: 100 ms without renewal. DESIGN CHOICE (log 10). -/
def execLeaseExpiry (s : State) : Host.Outcome State Fault Refusal :=
  whenAon s fun s =>
    if s.sem.held && !s.sem.expired && decide (msTicks 100 ≤ since s s.sem.renewed) then
      { s with sem := { s.sem with expired := true } }
    else s

/-! Routes (R351, R352) -/

/-- A route: segment, relay, destination partition, destination module, with the rest of its 24 bytes. -/
structure Route where
  seg : W64
  mid : W64
  last : W64
deriving DecidableEq, Repr

/-- Hop i of a segment. -/
def hop (seg : W64) (i : Nat) : Nat := bits seg (4 * i + 7) (4 * i + 4)
/-- relay. -/
def Route.relay (r : Route) : Nat := bits r.mid 15 0
/-- dst. -/
def Route.dst (r : Route) : Nat := bits r.mid 19 16
/-- dst_id. -/
def Route.dstId (r : Route) : W32 := hi32 r.mid

/-- The terminal hop of the hops from i on, when every hop before it is a port and every hop after it is zero. -/
def terminal (seg : W64) : List Nat → Option Nat
  | [] => none
  | i :: l =>
    let h := hop seg i
    if h = 14 ∨ h = 15 then (if l.all (fun j => hop seg j == 0) then some h else none)
    else if h ≤ 7 then terminal seg l else none

/-- Whether a route is legal. -/
def Route.legal (v : Variant) (r : Route) : Bool :=
  bits r.seg 3 0 == 0 && decide (hop r.seg 0 < myarnPorts v) && decide (r.dst < 8) && bits r.mid 31 20 == 0 && r.last == 0 &&
  (match terminal r.seg (upFrom 1 14) with
   | some 14 => r.relay == 0xFFFF
   | some _ => r.relay != 0xFFFF
   | none => false)

/-- A route held in six staged words from a base offset, with the fold laid over. -/
def routeAt (s : State) (base : Nat) : Route :=
  ⟨join32 (overlaid s base) (overlaid s (base + 4)), join32 (overlaid s (base + 8)) (overlaid s (base + 12)), 0⟩

/-! The fold -/

/-- Whether a cluster may be named by a partition: enabled and not fenced (R521). -/
def clusterUsable (s : State) (c : Nat) : Bool := clusterOn s.variant c && !s.units.fenced.contains c

/-- The routes that the configuration of barrier k names, parent first (R363). DEDUCED (log 49). -/
def namedRoutes (s : State) (k : Nat) : List Nat :=
  let b := 0xB00000 + 0x100 * k
  let cfg := overlaid s b
  (if bitAt cfg 4 then [b + 0x20] else []) ++ (upFrom 0 (bits cfg 7 5)).map (fun c => b + 0x38 + 0x18 * c)

/-- The base of the wide register that a staged offset is a word of, and the word its checks are made at (R515). -/
def wideOf (off : Nat) : Option (Nat × Nat) :=
  if 0xB00000 ≤ off ∧ off < 0xB10000 then
    let o := off % 0x100
    if 0x20 ≤ o ∧ o < 0x38 then some (off - (o - 0x20), off - (o - 0x20) + 12)
    else if 0x38 ≤ o ∧ o < 0x98 then some (off - (o - 0x38) % 0x18, off - (o - 0x38) % 0x18 + 12)
    else none
  else if 0xD01000 ≤ off ∧ off < 0xD01800 then some (off - off % 0x10, off - off % 0x10 + 8)
  else none

/-- Whether a staged word is in the fold. -/
def folded (s : State) (off : Nat) : Bool := (s.fold.words.lookup off).isSome

/-- Check 5 across registers and words, with the written word already laid in (R363, R515, R521, R510). DEDUCED (log 25). -/
def acrossBad (s : State) (off : Nat) (v : W32) : Option Byte :=
  if 0xA00000 ≤ off ∧ off < 0xA00100 then
    if v = 0 then none
    else if (upFrom 0 32).all (fun c => !bitAt v c || clusterUsable s c) && (shapeOf v).isSome then none else some eRange
  else if 0xB00000 ≤ off ∧ off < 0xB10000 ∧ off % 0x100 = 0 then
    if (namedRoutes s (off / 0x100 % 0x100)).all (fun b => (routeAt s b).legal s.variant) then none else some eRange
  else match wideOf off with
  | some (base, chk) =>
    if off ≠ chk ∧ folded s chk = false then none
    else if off < 0xD00000 then
      (if (namedRoutes s (off / 0x100 % 0x100)).contains base && !(routeAt s base).legal s.variant then some eRange else none)
    else
      let a := (overlaid s base).toNat + bits (overlaid s (base + 4)) 7 0 * 2 ^ 32
      let n := bits (overlaid s (base + 8)) 27 0 * 4096
      if n = 0 then none else stackBad s a n 64
  | none => none

/-- Stages a word, replacing one already in the fold. -/
def stageWord (s : State) (off : Nat) (v : W32) : State :=
  { s with fold := { s.fold with words := (s.fold.words.filter (fun x => x.1 != off)) ++ [(off, v)] } }

/-- A write of a staged register through a port (R336). -/
def foldWrite (s : State) (p : NPort) (off : Nat) (v : W32) : Byte × State :=
  match stagedAt s.variant off with
  | none => (eRange, s)
  | some r =>
    if !holdsSem s p then (eOwner, s)
    else if s.fold.waiting.isSome then (eState, s)
    else if r.frz && s.fold.frozen then (eFrozen, s)
    else if v &&& r.rsv ≠ 0 then (eReserved, s)
    else match r.bad v with
      | some st => (st, s)
      | none => match acrossBad (stageWord s off v) off v with
        | some st => (st, s)
        | none =>
          if s.fold.words.length < 512 || folded s off then (ok, stageWord s off v) else (eNoResource, s)

/-- FOLD_WRITE. -/
def execFoldWrite (a : Access) (offset : BitVec 28) (v : W32) (s : State) : Host.Outcome State Fault Refusal :=
  whenAon s fun s => setupWrite s a offset.toNat (fun s => foldWrite s a.port offset.toNat v)

/-- The state with the fold laid over its applied registers. -/
def laid (s : State) : State := s.fold.words.foldl (fun s x => setReg s x.1 x.2) s

/-- Whether an applied register changes under the fold. -/
def changes (s t : State) (off : Nat) : Bool := reg s off != reg t off

/-- A partition's state. -/
def partState (s : State) (n : Nat) : PartState := (partAt s n).st
/-- Whether a partition is RUNNING. -/
def isRunning (s : State) (n : Nat) : Bool := partState s n == .running
/-- Whether any NBU has an accepted operation. -/
def anyNbuOp (s : State) : Bool := s.nbus.any (fun x => !x.2.ops.isEmpty)

/-- Whether an owner change of an NBU is allowed by R214. -/
def ownerFine (s t : State) (id : Nat) : Bool :=
  let busy := fun (n : Nat) => decide (n < 8) && (partState s n == .loading || isRunning s n)
  nbuOwner s id == nbuOwner t id || ((nbuAt s id).ops.isEmpty && !busy (nbuOwner s id) && !busy (nbuOwner t id))

/-- Whether an owner word after the press names only partitions set up after it (R338). -/
def ownersFine (v : Variant) (t : State) (k : Nat) : Bool :=
  (upFrom (8 * k) 8).all (fun id => !nbuOn v id || nbuOwner t id == 15 || isSetUp t (nbuOwner t id))

/-- Whether a barrier has an arrival pending. -/
def barPending (b : Bar) : Bool := b.loc != 0 || b.children != 0 || b.nextLoc != 0 || b.nextChildren != 0 || b.awaiting

/-- The checks of R338 over the applied state s and the state t with the fold laid over: order and register of the first
failure. DEDUCED (log 25, 138). -/
def pressBad (s t : State) : Option (Nat × Nat) :=
  let pc := fun (n : Nat) => 0xA00000 + 0x20 * n
  let shared := fun (n : Nat) => allParts.any (fun m => m != n && (clustersOf t n &&& clustersOf t m) != 0)
  let unusable := fun (n : Nat) => (upFrom 0 32).any (fun c => bitAt (clustersOf t n) c && !clusterUsable s c)
  let c1 := (allParts.find? (fun n => shared n || unusable n)).map (fun n => (1, pc n))
  let c2 := (allParts.find? (fun n => changes s t (pc n) && partState s n != .empty)).map (fun n => (2, pc n))
  let c3 := if allParts.any (fun n => portOf s n != portOf t n && !nalUp s (portOf t n)) then some (3, 0x10018) else none
  let running := allParts.any (isRunning s)
  let notEmpty := allParts.any (fun n => partState s n != .empty)
  let c4 := if changes s t 0x300100 && running then some (4, 0x300100) else none
  let c5 := if changes s t 0x300108 && (notEmpty || pbtCount t != 0 || anyNbuOp s) then some (5, 0x300108) else none
  let c6 := if changes s t 0x500304 && (notEmpty || anyNbuOp s) then some (6, 0x500304) else none
  let pbt := changes s t 0xA05000 || changes s t 0xA05004
  let tab := pbTable t
  let c7 := if !pbt then none
    else if running then some (7, if changes s t 0xA05000 then 0xA05000 else 0xA05004)
    else if pbtCount t ≠ 0 ∧ ((stackBad t tab.1 tab.2 64).isSome ∨
        (validPbs s).any (fun id => (pbAt s id).regions.any (meets tab)) = true) then some (7, 0xA05000) else none
  let c8 := if inKvRegion t tab.1 tab.2 then some (8, 0x500304) else none
  let c9 := ((upFrom 0 128).find? (fun k =>
      !((upFrom (8 * k) 8).all (ownerFine s t) && ownersFine s.variant t k))).map (fun k => (9, 0x500000 + 4 * k))
  let c10 := (allParts.find? (fun n => changes s t (0xA04014 + 0x40 * n) && (partState s n == .loading || isRunning s n))).map
    (fun n => (10, 0xA04014 + 0x40 * n))
  let c11 := (s.bars.find? (fun x => bits (reg s (0xB00000 + 0x100 * x.1)) 3 0 != bits (reg t (0xB00000 + 0x100 * x.1)) 3 0 &&
      barPending x.2)).map (fun x => (11, 0xB00000 + 0x100 * x.1))
  (([c1, c2, c3, c4, c5, c6, c7, c8, c9, c10, c11] : List (Option (Nat × Nat))).findSome? id)

/-- Runs the checks of R338: their status, and FOLD_DETAIL. DEDUCED (log 25). -/
def foldChecks (s : State) : Byte × State :=
  match pressBad s (laid s) with
  | none => (ok, { s with fold := { s.fold with detail := 0 } })
  | some (k, off) => (eInconsistent, { s with fold := { s.fold with detail := BitVec.ofNat 64 (off + k * 2 ^ 32) } })

/-- A write to a FOLD register (R337): owner, reserved bits, go, and for all but FOLD_CHECK the waiting press. DEDUCED (log 26). -/
def foldCtl (s : State) (p : NPort) (v rsv : W32) (waits : Bool) (f : State → Byte × State) : Byte × State :=
  if !holdsSem s p then (eOwner, s)
  else if v &&& rsv ≠ 0 then (eReserved, s)
  else if !bitAt v 0 then (ok, s)
  else if waits && s.fold.waiting.isSome then (eState, s)
  else f s

/-- FOLD_CHECK. -/
def execFoldCheck (a : Access) (v : W32) (s : State) : Host.Outcome State Fault Refusal :=
  whenAon s fun s => setupWrite s a 0x20000 (fun s => foldCtl s a.port v 0xFFFFFFFE false foldChecks)

/-- Freezes the FRZ fields (R339). -/
def freezeFold (s : State) : Byte × State :=
  if s.fold.words.isEmpty then (ok, { s with fold := { s.fold with frozen := true } }) else (eState, s)

/-- Empties the fold. -/
def discardFold (s : State) : Byte × State := (ok, { s with fold := { s.fold with words := [] } })

/-- FOLD_FREEZE. -/
def execFoldFreeze (a : Access) (v : W32) (s : State) : Host.Outcome State Fault Refusal :=
  whenAon s fun s => setupWrite s a 0x20008 (fun s => foldCtl s a.port v 0xFFFFFFFE true freezeFold)

/-- FOLD_DISCARD. -/
def execFoldDiscard (a : Access) (v : W32) (s : State) : Host.Outcome State Fault Refusal :=
  whenAon s fun s => setupWrite s a 0x2000C (fun s => foldCtl s a.port v 0xFFFFFFFE true discardFold)

end Sys2Proof.Machine
end

