-- ==== Sys2Proof/Machine/Image.lean ====
section
/-! DEFINITION. Schedule images: their tables (R48–R55) and the checks 4 to 18 of a load (R56). -/

namespace Sys2Proof.Machine

/-! The tables -/

/-- A station entry from its 128 bytes (R51). -/
def stationOf (e : List Byte) : Station :=
  { name := e.take 32, kind := field e 32 1, fmtIn := field e 34 1 % 16, fmtOut := field e 34 1 / 16,
    stoch := field e 35 1 % 2 == 1, esc := field e 35 1 / 2 % 2 == 1, b0 := field e 36 2, b1 := field e 38 2,
    b2 := field e 40 2, b3 := field e 42 2, fallback := field e 44 2,
    p := (upFrom 0 16).map (fun i => BitVec.ofNat 32 (field e (64 + 4 * i) 4)) }

/-- A stream entry from its 16 bytes (R52). -/
def streamEntry (e : List Byte) : Stream :=
  { src := field e 0 2, dst := field e 2 2, fmt := field e 4 1 % 16, scale := field e 4 1 / 16 % 4, cap := field e 5 1 % 8,
    route := field e 6 1 % 4, weight := field e 7 1 % 2 == 1, tiles := field e 8 4 }

/-- A core's section (R53): its ten used subsection entries. -/
def coreSec (b e : List Byte) : CoreSec :=
  let o := field e 0 4
  { offset := o, length := field e 4 4,
    subs := if field e 4 4 = 0 then []
            else (upFrom 0 10).map (fun i => (field b (o + 16 * i) 4, field b (o + 16 * i + 4) 4, field b (o + 16 * i + 8) 4)) }

/-- An NBU directory entry (R55). -/
def nbuDir (b e : List Byte) : NbuDir :=
  { first := field e 0 2, count := field e 2 2, station := field e 4 2, program := slice b (field e 8 4) (field e 12 4) }

/-- Entries of a table: n of `size` bytes from offset o. -/
def entries (b : List Byte) (o size n : Nat) : List (List Byte) := (upFrom 0 n).map (fun i => slice b (o + size * i) size)

/-- The image that a byte string spells. -/
def imageOf (b : List Byte) : Image :=
  { level := field b 4 1 % 16, h := field b 5 1, ww := field b 6 1, we := field b 7 1, length := field b 8 4,
    stations := (entries b (field b 24 4) 128 (field b 16 2)).map stationOf,
    streams := (entries b (field b 28 4) 16 (field b 18 2)).map streamEntry,
    cores := (entries b (field b 32 4) 8 (field b 20 2)).map (coreSec b),
    nbus := (entries b (field b 36 4) 16 (field b 22 2)).map (nbuDir b),
    seed := BitVec.ofNat 64 (field b 48 8), tag := BitVec.ofNat 64 (field b 56 8) }

/-! Checks 6 and 8 to 12: bytes and extents -/

/-- The CRC of an image: of all bytes, with the crc field zero (R50). -/
def imageCrc (b : List Byte) : W32 := crc32c (b.take 12 ++ zeros 4 ++ b.drop 16)

/-- Check 8: every reserved field within the image is zero. -/
def reservedClear (b : List Byte) (img : Image) : Bool :=
  field b 4 1 / 16 == 0 && field b 40 8 == 0 &&
  (entries b (field b 24 4) 128 (field b 16 2)).all (fun e =>
    field e 33 1 / 2 == 0 && field e 35 1 / 4 == 0 && field e 46 18 == 0) &&
  (entries b (field b 28 4) 16 (field b 18 2)).all (fun e =>
    field e 4 1 / 64 == 0 && field e 5 1 / 8 == 0 && field e 6 1 / 4 == 0 && field e 7 1 / 2 == 0 && field e 12 4 == 0) &&
  img.cores.all (fun c => c.length == 0 ||
    ((upFrom 0 10).all (fun i => field b (c.offset + 16 * i + 12) 4 == 0) && field b (c.offset + 160) 96 == 0)) &&
  (entries b (field b 36 4) 16 (field b 22 2)).all (fun e => field e 6 2 == 0)

/-- Check 9: the shape is in range and matches the partition (R46). -/
def shapeFits (s : State) (n : Nat) (img : Image) : Bool :=
  within img.h 1 4 && decide (img.ww ≤ 4) && decide (img.we ≤ 4) && decide (1 ≤ img.ww + img.we) &&
  (match shapeOf (clustersOf s n) with
   | some (_, _, h, ww, we) =>
     h == img.h && ((ww == img.ww && we == img.we) ||
       ((img.ww == 0) != (img.we == 0) && (ww == 0) != (we == 0) && ww + we == img.ww + img.we))
   | none => false)

/-- Check 10 for the counts of the header. -/
def countsFit (b : List Byte) (img : Image) : Bool :=
  within (field b 16 2) 1 1024 && decide (field b 18 2 ≤ 4096) && field b 20 2 == 32 * img.h * (img.ww + img.we) &&
  decide (field b 22 2 ≤ 1024)

/-- The first NBU directory entry that fails a test. -/
def nbuFirst (img : Image) (bad : NbuDir → Bool) : Option Nat := firstIdx bad 0 img.nbus

/-- Check 11: alignment. -/
def aligned (b : List Byte) (img : Image) : Bool :=
  [24, 28, 32, 36].all (fun o => field b o 4 % 64 == 0) &&
  img.cores.all (fun c => c.offset % 64 == 0 && c.subs.all (fun x => x.1 % 64 == 0 && x.2.1 % 16 == 0 && x.2.2 % 64 == 0)) &&
  (entries b (field b 36 4) 16 (field b 22 2)).all (fun e => field e 8 4 % 64 == 0 && field e 12 4 % 16 == 0)

/-- The extents of header, tables and sections. -/
def tableExtents (b : List Byte) (img : Image) : List (Nat × Nat) :=
  [(0, 64), (field b 24 4, 128 * field b 16 2), (field b 28 4, 16 * field b 18 2), (field b 32 4, 8 * field b 20 2),
   (field b 36 4, 16 * field b 22 2)] ++ img.cores.map (fun c => (c.offset, c.length))

/-- The extents of the NBU programs. -/
def progExtents (b : List Byte) : List (Nat × Nat) :=
  (entries b (field b 36 4) 16 (field b 22 2)).map (fun e => (field e 8 4, field e 12 4))

/-- Check 12 but for the programs: offsets of empty tables are zero, extents within the image and apart, subsections within
their section behind its entries and apart. -/
def extentsFit (b : List Byte) (img : Image) : Bool :=
  (field b 18 2 != 0 || field b 28 4 == 0) && (field b 22 2 != 0 || field b 36 4 == 0) &&
  (tableExtents b img).all (fun x => decide (x.1 + x.2 ≤ img.length)) && disjoint (tableExtents b img) &&
  img.cores.all (fun c => if c.length = 0 then c.offset == 0 else
    decide (256 ≤ c.length) && c.subs.all (fun x => x.2.1 == 0 || (decide (256 ≤ x.1) && decide (x.1 + x.2.1 ≤ c.length))) &&
    disjoint (c.subs.map (fun x => (x.1, x.2.1))))

/-- Check 12 for one program: its length, its place, no overlap but with an identical program. DEDUCED (log 53). -/
def progFits (b : List Byte) (img : Image) (x : Nat × Nat) : Bool :=
  within x.2 16 16384 && decide (x.1 + x.2 ≤ img.length) && (tableExtents b img).all (fun y => !meets x y) &&
  (progExtents b).all (fun y => y == x || !meets x y)

/-! Check 13: stations -/

/-- Parameter i is zero from word k on. -/
def zeroFrom (st : Station) (k : Nat) : Bool := (upFrom k (16 - k)).all (fun i => st.par i == 0)

/-- The tile size of a station under R35: the largest of its streams'. -/
def stationTile (img : Image) (st : Nat) : Nat :=
  (img.streams.filter (fun x => x.src == st || x.dst == st)).foldl (fun a x => max a (kcSize x.fmt x.kc)) 64

/-- A tile stride of a station. -/
def strideOk (img : Image) (k : Nat) (st : Station) : Bool :=
  st.par 1 % 64 == 0 && within (st.par 1) (stationTile img k) (2 ^ 31)

/-- The operation codes of the Rinse unit (R135). -/
def rinseCode (c : Nat) : Bool := within c 1 9 || within c 0x10 0x15 || within c 0x20 0x22 || within c 0x30 0x32

/-- Whether a needle station accepts a pairing (R71). -/
def needlePair (a w : Nat) : Bool := a != 6 && ([0, 1, 2, 3, 5].contains a) && decide (w ≤ 5)

/-- The parameters of a fused-backward station (R153). -/
def backwardOk (st : Station) : Bool :=
  let none_ := 0xFFFFFFFF
  decide (st.par 0 ≤ 2) && within (st.par 1) 1 65536 && within (st.par 2) 1 65536 && zeroFrom st 8 &&
  (match st.par 0 with
   | 2 => decide (st.par 3 ≤ 1) && st.par 4 == 0 && st.par 5 == 0 && st.par 6 == none_ && st.par 7 == none_
   | f => st.par 3 == 0 && decide (st.par 4 ≤ 2 - f) && f32normal (st.p.getD 5 0) &&
     (if st.par 4 = 0 then st.par 6 == none_ else decide (st.par 6 ≤ 255)) &&
     (if st.par 4 = 2 then decide (st.par 7 ≤ 255) else st.par 7 == none_))

/-- The directory entries of a station. -/
def dirOf (img : Image) (k : Nat) : List NbuDir := img.nbus.filter (fun d => d.station == k)

/-- The program of a station's first directory entry. -/
def stationProg (img : Image) (k : Nat) : List Byte := match dirOf img k with | d :: _ => d.program | [] => []

/-- An nbu station (R36, R220, R252): its run of NBUs in one site, each covered once by its directory entries, whose programs are
legal and begin with the station's record; its streams bring whole groups of tiles; a decode station's record is the template
of R252. DEDUCED (log 141). -/
def nbuStationOk (img : Image) (k : Nat) (st : Station) : Bool :=
  let ds := dirOf img k
  let inSt := img.streams.filter (fun x => x.dst == k)
  within st.b1 1 256 && st.b2 == 0 && st.b3 == 0 &&
  st.b0 / 256 == (st.b0 + st.b1 - 1) / 256 && (recordBad st.p).isNone &&
  (upFrom st.b0 st.b1).all (fun u => (ds.filter (fun d => decide (d.first ≤ u) && decide (u < d.first + d.count))).length == 1) &&
  ds.all (fun d => decide (st.b0 ≤ d.first) && decide (d.first + d.count ≤ st.b0 + st.b1) && progOk d.program &&
    (progRecords d.program 1 1024).head? == some st.p &&
    (inSt.all (fun x => inTiles d.program == 0 || x.tiles % inTiles d.program == 0))) &&
  (rOp st.p != 0x11 ||
    ([1, 2, 3, 7, 8, 9, 10, 12].all (fun i => rw st.p i == 0) && rw st.p 4 == 1 && st.fallback == 0xFFFF &&
     ds.all (fun d => d.program.length == 96)))

/-- The parameters of a station by its kind (R35). -/
def parOk (v : Variant) (img : Image) (k : Nat) (st : Station) : Bool :=
  let p := st.par
  match st.kind with
  | 1 => within (p 0) 1 256 && within (p 1) 1 65536 && within (p 2) 1 65536 && decide (p 3 ≤ 1) && decide (p 4 ≤ 7) &&
    decide (p 5 ≤ 1) && decide (p 6 ≤ 5) && zeroFrom st 7
  | 2 => within (p 0) 1 64 && within (p 1) 1 65536 && within (p 2) 1 65536 && needlePair st.fmtIn (p 3) && zeroFrom st 4
  | 3 => rinseCode (p 0) && within (p 1) 1 65536 && within (p 2) 1 65536 && zeroFrom st 4
  | 4 => backwardOk st
  | 5 => decide (p 0 ≤ 255) && strideOk img k st && decide (p 2 ≤ 1) && zeroFrom st 3 &&
    (p 2 == 0 || (img.streams.filter (fun x => x.src == k)).all (fun x => x.scale == 0))
  | 6 => decide (p 0 ≤ 255) && strideOk img k st && zeroFrom st 2
  | 7 => decide (p 0 ≤ 255) && strideOk img k st && decide (p 2 ≤ 2) && zeroFrom st 3
  | 8 => decide (p 0 ≤ 255) && strideOk img k st && decide (p 2 ≤ 2) && zeroFrom st 3
  | 9 => decide (p 0 ≤ 65535) && decide (p 1 < myarnPorts v) && zeroFrom st 2
  | 10 => decide (p 0 ≤ 65535) && decide (p 1 < myarnPorts v) && decide (p 2 ≤ 255) && zeroFrom st 3
  | 11 => decide (p 0 ≤ 255) && within (p 1) 1 256 && decide (p 2 ≤ 65535) && decide (p 3 ≤ 1) &&
    decide (1 ≤ p 5) && decide (p 4 + p 5 ≤ 64) && zeroFrom st 6 && !st.esc
  | 12 => nbuStationOk img k st
  | 13 => within (p 0) 1 256 && within (p 1) 1 256 && within (p 2) 1 1024 && zeroFrom st 3
  | _ => false

/-- A station's name (R34, R51): 1 to 31 characters, then zeros. -/
def nameOk (l : List Byte) : Bool :=
  let n := (l.takeWhile (fun b => b != 0)).length
  within n 1 31 && (l.take n).all (fun b => within b.toNat 0x21 0x7E) && (l.drop n).all (fun b => b == 0)

/-- Kinds without an input side. -/
def noInput (k : Nat) : Bool := k == 5 || k == 7 || k == 9
/-- Kinds without an output side. -/
def noOutput (k : Nat) : Bool := k == 6 || k == 8 || k == 10 || k == 11

/-- Kinds whose work converts values into their output format, and so use the rounding and escape flags (R51, R79). -/
def converts (k : Nat) : Bool := decide (k ≤ 4) || decide (12 ≤ k)

/-- The fallback of a station (R51). -/
def fallbackOk (img : Image) (st : Station) : Bool :=
  st.fallback == 0xFFFF || (st.kind == 12 &&
    (match img.stations[st.fallback]? with | some f => f.kind != 12 | none => false))

/-- A core binding lies in the grid (R36). -/
def coresBound (img : Image) (st : Station) : Bool :=
  within st.b2 1 (4 * img.h) && within st.b3 1 (8 * (img.ww + img.we)) && decide (st.b0 + st.b2 ≤ 4 * img.h) &&
  decide (st.b1 + st.b3 ≤ 8 * (img.ww + img.we))

/-- How many nbu stations up to k have a fallback. -/
def fallbacksTo (img : Image) (k : Nat) : Nat :=
  ((img.stations.take (k + 1)).filter (fun x => x.kind == 12 && x.fallback != 0xFFFF)).length

/-- Whether two gather-append stations name the same slot and layer with overlapping heads (R243). -/
def headsMeet (a b : Station) : Bool :=
  a.kind == 11 && b.kind == 11 && a.par 0 == b.par 0 && a.par 2 == b.par 2 && overlap (a.par 4, a.par 5) (b.par 4, b.par 5)

/-- Check 13 for station k. The binding flag is byte 33 of its entry. -/
def stationOk (v : Variant) (b : List Byte) (img : Image) (k : Nat) (st : Station) : Bool :=
  nameOk st.name && within st.kind 1 13 &&
  field b (field b 24 4 + 128 * k + 33) 1 % 2 == one (st.kind == 12) &&
  decide (st.fmtIn ≤ 6) && st.fmtIn != 4 && decide (st.fmtOut ≤ 6) &&
  (!(noInput st.kind) || st.fmtIn == 0) && (!(noOutput st.kind) || st.fmtOut == 0) &&
  (!st.stoch || (converts st.kind && decide (st.fmtOut ≤ 5))) && (!st.esc || (converts st.kind && (st.fmtOut == 2 || st.fmtOut == 4))) &&
  fallbackOk img st && (st.kind == 12 || (coresBound img st && (dirOf img k).isEmpty)) && parOk v img k st &&
  (st.kind != 12 || st.fallback == 0xFFFF || decide (fallbacksTo img k ≤ 64)) &&
  (img.stations.take k).all (fun o => o.name != st.name && !headsMeet o st)

/-- Check 13: the lowest station that fails; a directory entry that names none counts as one. DEDUCED (log 53). -/
def stationsBad (v : Variant) (b : List Byte) (img : Image) : Option Nat :=
  match (img.stations.zipIdx).find? (fun x => !(stationOk v b img x.2 x.1)) with
  | some x => some x.2
  | none => (img.nbus.find? (fun d => decide (img.stations.length ≤ d.station))).map (fun d => d.station)

/-! Check 14: streams -/

/-- The weight format of a station that has one. -/
def weightTag (st : Station) : Option Nat := match st.kind with | 1 => some (st.par 6) | 2 => some (st.par 3) | _ => none

/-- Check 14 for one stream entry on its own. -/
def streamOk (img : Image) (x : Stream) : Bool :=
  match img.stations[x.src]?, img.stations[x.dst]? with
  | some a, some d =>
    !(noOutput a.kind) && !(noInput d.kind) && pairOk x.fmt x.scale x.cap && decide (1 ≤ x.tiles) &&
    a.fmtOut == x.fmt &&
    (if x.weight then (if d.kind = 4 then x.fmt != 4 else weightTag d == some x.fmt)
     else d.fmtIn == x.fmt && x.fmt != 4) &&
    (x.route != 1 || (img.ww != 0 && img.we != 0)) &&
    (x.route != 2 || within a.kind 5 11 || within d.kind 5 11) &&
    (x.route != 3 || a.kind == 12 || d.kind == 12)
  | _, _ => false

/-- The streams into and out of a station. -/
def inputs (img : Image) (k : Nat) : List Stream := img.streams.filter (fun x => x.dst == k)
/-- The streams out of a station. -/
def outputs (img : Image) (k : Nat) : List Stream := img.streams.filter (fun x => x.src == k)

/-- The gather-append stations that the source of stream x feeds. -/
def partners (img : Image) (x : Stream) : List Station :=
  ((outputs img x.src).filterMap (fun y => img.stations[y.dst]?)).filter (fun st => st.kind == 11)

/-- A decode station's streams and its partner (R252). -/
def decodeSet (img : Image) (k : Nat) (st : Station) : Bool :=
  match inputs img k with
  | [x] =>
    x.fmt == 0 && x.scale == 0 && !x.weight &&
    (match partners img x with
     | [pt] =>
       let hq := rw st.p 5 * pt.par 5
       pt.par 1 == rw st.p 6 && hq * rw st.p 6 % 64 == 0 && inTiles (stationProg img k) * 64 == hq * rw st.p 6
     | _ => false) &&
    (match outputs img k with
     | [y] => (match img.stations[y.dst]? with | some d => d.kind == 13 | none => false)
     | _ => false)
  | _ => false

/-- The query heads of a decode station: g × its partner's heads. -/
def decodeHeads (img : Image) (k : Nat) (st : Station) : Nat :=
  match inputs img k with
  | x :: _ => (match partners img x with | pt :: _ => rw st.p 5 * pt.par 5 | [] => 0)
  | [] => 0

/-- A combine station's streams (R256). -/
def combineSet (img : Image) (k : Nat) (st : Station) : Bool :=
  let l := inputs img k
  within l.length 1 4 && st.par 2 % (max l.length 1) == 0 &&
  l.all (fun x => match img.stations[x.src]? with
    | some a => a.kind == 12 && rOp a.p == 0x11 && decodeHeads img x.src a == st.par 0 && rw a.p 6 == st.par 1
    | none => false) &&
  (match outputs img k with | [y] => [0, 1, 2, 3, 5, 6].contains y.fmt | _ => false)

/-- A station's set of streams (R37, R78, R154, R243, R252, R256). -/
def setOk (img : Image) (k : Nat) (st : Station) : Bool :=
  (match outputs img k with
   | [] => true
   | x :: l => l.all (fun y => y.fmt == x.fmt && y.scale == x.scale && y.cap == x.cap)) &&
  (match st.kind with
   | 4 => (match inputs img k with | [a, b] => a.weight != b.weight | _ => false)
   | 11 => (match inputs img k with
     | [x] => !x.weight && x.scale == 0 && (x.fmt == 0 || x.fmt == 6)
     | _ => false)
   | 12 => rOp st.p != 0x11 || decodeSet img k st
   | 13 => combineSet img k st
   | _ => true)

/-- Check 14: the first failing stream, or the first failing station with bit 31 set. DEDUCED (log 53). -/
def streamsBad (img : Image) : Option Nat :=
  match firstIdx (fun x => !(streamOk img x)) 0 img.streams with
  | some i => some i
  | none => ((img.stations.zipIdx).find? (fun x => !(setOk img x.2 x.1))).map (fun x => x.2 + 2 ^ 31)

/-! Checks 15 to 18 -/

/-- Check 15: load addresses (R54). DEDUCED (log 53, 141). -/
def loadsOk (img : Image) : Bool :=
  img.cores.all (fun c =>
    (c.subs.zipIdx).all (fun x =>
      if x.1.2.1 = 0 then x.1.1 == 0 && x.1.2.2 == 0
      else if x.2 = 9 then decide (x.1.2.2 + x.1.2.1 ≤ sliceEnd)
      else decide (sliceEnd ≤ x.1.2.2) && decide (x.1.2.2 + x.1.2.1 ≤ 0x200000)) &&
    disjoint (c.subs.map (fun x => (x.2.2, x.2.1))))

/-- The NBUs that an entry names. -/
def dirNbus (d : NbuDir) : List Nat := upFrom d.first d.count

/-- Check 18: every nbu station with a fenced NBU has a fallback or unfenced buddies. -/
def fencesOk (s : State) (img : Image) : Bool :=
  img.stations.all (fun st => st.kind != 12 || st.fallback != 0xFFFF ||
    (upFrom st.b0 st.b1).all (fun u => !(nbuFenced s u) || !(nbuFenced s (buddyOf u))))

/-- Checks 4 to 18 of R56 over an image's bytes: status, order and item of the first that fails. DEDUCED (log 53, 141). -/
def imageBad (s : State) (n : Nat) (level : Nat) (len : Nat) (b : List Byte) : Option (Byte × Nat × Nat) :=
  let img := imageOf b
  if field b 0 4 ≠ 0x49534B59 then some (eAuth, 4, 0)
  else if img.length ≠ len then some (eRange, 5, 0)
  else if imageCrc b ≠ BitVec.ofNat 32 (field b 12 4) then some (eAuth, 6, 0)
  else if img.level ≠ level then some (eLevel, 7, 0)
  else if !(reservedClear b img) then some (eReserved, 8, 0)
  else if !(shapeFits s n img) then some (eRange, 9, 0)
  else if !(countsFit b img) then some (eRange, 10, 0)
  else match nbuFirst img (fun d => !(within d.count 1 256)) with
  | some i => some (eRange, 10, i)
  | none =>
  if !(aligned b img) then some (eAlign, 11, 0)
  else if !(extentsFit b img) then some (eRange, 12, 0)
  else match firstIdx (fun x => !(progFits b img x)) 0 (progExtents b) with
  | some i => some (eRange, 12, i)
  | none => match stationsBad s.variant b img with
  | some i => some (eRange, 13, i)
  | none => match streamsBad img with
  | some i => some (eRange, 14, i)
  | none =>
  if !(loadsOk img) then some (eRange, 15, 0)
  else match nbuFirst img (fun d => !((dirNbus d).all (nbuOn s.variant)) || d.first / 256 != (d.first + d.count - 1) / 256) with
  | some i => some (eRange, 16, i)
  | none =>
  if img.nbus.any (fun d => (dirNbus d).any (fun u => nbuOwner s u != n)) then some (ePartition, 17, 0)
  else if !(fencesOk s img) then some (eNoResource, 18, 0)
  else none

end Sys2Proof.Machine
end

