-- ==== Sys2Proof/Machine/Plan.lean ====
section
/-! DEFINITION. Stitch plans and seam slot lists (R174–R177, R189) and the checks that a first run start makes of them (R180). -/

namespace Sys2Proof.Machine

/-- A step of a plan (R176), with the bytes its reserved fields lie in. -/
structure PlanStep where
  count : Nat
  kind : Nat
  src : Nat
  sent : Nat
  rcvd : Nat
  rmask : Nat
  dout : Nat
  din : Nat
  clean : Bool
deriving DecidableEq, Repr

/-- A step from its 32 bytes. -/
def planStepOf (b : List Byte) : PlanStep :=
  let k := field b 4 1 % 4
  { count := field b 0 4, kind := k, src := field b 8 2, sent := field b 10 8, rcvd := field b 18 8, rmask := field b 26 1 % 32,
    dout := field b 28 2, din := field b 30 2,
    clean := field b 4 1 / 4 == 0 && field b 5 3 == 0 &&
      (if k = 0 then field b 8 2 / 2 ^ 15 == 0 && field b 10 8 / 2 ^ 60 == 0 && field b 18 8 / 2 ^ 60 == 0 &&
          field b 26 1 / 32 == 0 && field b 27 1 == 0 && field b 28 2 / 2 ^ 13 == 0 && field b 30 2 / 2 ^ 13 == 0
       else field b 8 24 == 0) }

/-- The source code of output o. -/
def PlanStep.srcOf (t : PlanStep) (o : Nat) : Nat := t.src / 8 ^ o % 8
/-- The send entry of output o. -/
def PlanStep.sendOf (t : PlanStep) (o : Nat) : Nat := t.sent / 4096 ^ o % 4096
/-- The receive entry of input i. -/
def PlanStep.recvOf (t : PlanStep) (i : Nat) : Nat := t.rcvd / 4096 ^ i % 4096
/-- Whether input i delivers. -/
def PlanStep.delivers (t : PlanStep) (i : Nat) : Bool := t.rmask / 2 ^ i % 2 == 1
/-- The valid stream of a drop field. -/
def dropStream (x : Nat) : Option Nat := if x / 4096 % 2 = 1 then some (x % 4096) else none

/-- A plan as it lies in the program region: entries as (direction, port, clean), the examined steps to the first end. -/
structure Plan where
  nEntry : Nat
  nStep : Nat
  offEntry : Nat
  offStep : Nat
  clean : Bool
  entries : List (Nat × Nat × Bool)
  steps : List PlanStep
deriving DecidableEq, Repr

/-- Steps up to and with the first end step. -/
def toEnd : List PlanStep → List PlanStep
  | [] => []
  | t :: l => if t.kind = 3 then [t] else t :: toEnd l

/-- The plan in a subsection's bytes. DEDUCED (log 136). -/
def planOf (b : List Byte) : Plan :=
  let ne := field b 0 2
  let os := field b 12 4
  let oe := field b 8 4
  let fit := (b.length - os) / 32
  { nEntry := ne, nStep := field b 4 4, offEntry := oe, offStep := os,
    clean := field b 2 2 == 0 && field b 16 48 == 0,
    entries := (upFrom 0 (min ne ((b.length - oe) / 8))).map (fun i =>
      let e := slice b (oe + 8 * i) 8
      (field e 0 1 % 2, field e 1 1 % 8, field e 0 1 / 2 == 0 && field e 1 1 / 8 == 0 && field e 2 6 == 0)),
    steps := toEnd ((upFrom 0 (min (field b 4 4) fit)).map (fun i => planStepOf (slice b (os + 32 * i) 32))) }

/-- Whether loops balance, nest at most 2 deep, and each body holds a route step: `open_` lists whether each open body has one. -/
def loopsOk : List PlanStep → List Bool → Bool
  | [], _ => false
  | t :: l, open_ =>
    match t.kind, open_ with
    | 0, o => decide (1 ≤ t.count) && loopsOk l (o.map (fun _ => true))
    | 1, o => decide (1 ≤ t.count) && decide (o.length < 2) && loopsOk l (false :: o)
    | 2, true :: o => loopsOk l o
    | 2, _ => false
    | _, o => o.isEmpty && t.count == 0

/-- The place of a core in its partition: row, column, rows, columns, the columns of W, and whether it stands at logical column 31 of W or
column 0 of E. -/
structure Place where
  row : Nat
  col : Nat
  rows : Nat
  cols : Nat
  west : Nat
  edge : Bool
deriving DecidableEq, Repr

/-- Whether the output o of a core faces a core of its partition (R173). -/
def Place.faces (p : Place) (o : Nat) : Bool :=
  match o with
  | 0 => decide (0 < p.row)
  | 1 => decide (p.col + 1 < p.cols)
  | 2 => decide (p.row + 1 < p.rows)
  | 3 => decide (0 < p.col)
  | _ => true

/-- Whether the core has a Hem drop (R178). -/
def Place.drop (p : Place) : Bool := p.col % 8 == 3 || p.col % 8 == 4
/-- The output that leads across the seam, if any (R173). -/
def Place.seam (p : Place) : Option Nat :=
  if p.west = 0 ∨ p.west = p.cols then none
  else if p.col + 1 = p.west then some 1 else if p.col = p.west then some 3 else none

/-- Check 3 for a route step. DEDUCED (log 136). -/
def entriesOk (pl : Plan) (p : Place) (t : PlanStep) : Bool :=
  let entry := fun (e dir : Nat) => match pl.entries[e]? with | some x => x.1 == dir && decide (e < pl.nEntry) | none => false
  (upFrom 0 5).all (fun o =>
    t.srcOf o != 7 && t.srcOf o != o + 1 && (t.srcOf o != 6 || entry (t.sendOf o) 0) &&
    (!(t.delivers o) || entry (t.recvOf o) 1)) &&
  (p.drop || (t.srcOf 4 == 0 && !(t.delivers 4) && (upFrom 0 5).all (fun o => t.srcOf o != 5) &&
    (dropStream t.dout).isNone && (dropStream t.din).isNone))

/-- Check 4 for a route step. -/
def dropsOk (img : Image) (t : PlanStep) : Bool :=
  let named := fun (x : Nat) => match dropStream x with
    | some k => (match img.streams[k]? with | some y => y.route == 2 | none => false)
    | none => true
  named t.dout && named t.din && (t.srcOf 4 == 0 || (dropStream t.din).isSome) &&
  ((!(t.delivers 4) && (upFrom 0 5).all (fun o => t.srcOf o != 5)) || (dropStream t.dout).isSome)

/-- Check 5 for a route step. -/
def portsOk (p : Place) (t : PlanStep) : Bool := (upFrom 0 4).all (fun o => t.srcOf o == 0 || p.faces o)

/-- A loop's body and what follows its end. -/
def splitBody : Nat → List PlanStep → List PlanStep × List PlanStep
  | _, [] => ([], [])
  | d, t :: l =>
    if t.kind = 2 ∧ d = 0 then ([], l)
    else
      let r := splitBody (if t.kind = 1 then d + 1 else if t.kind = 2 then d - 1 else d) l
      (t :: r.1, r.2)

/-- Cycles of a list of steps, modulo 64, with fuel for its nesting. -/
def spanOf : Nat → List PlanStep → Nat
  | 0, _ => 0
  | _, [] => 0
  | f + 1, t :: l =>
    match t.kind with
    | 0 => (t.count + spanOf f l) % 64
    | 1 => let b := splitBody 0 l; (t.count * spanOf f b.1 + spanOf f b.2) % 64
    | _ => 0

/-- Whether every cycle in which output o sends, from cycle c on, falls on a set bit of the mask (R189). -/
def masked (mask o : Nat) : Nat → List PlanStep → Nat → Bool
  | 0, _, _ => true
  | _, [], _ => true
  | f + 1, t :: l, c =>
    match t.kind with
    | 0 =>
      (t.srcOf o == 0 || (upFrom 0 (min t.count 64)).all (fun i => mask / 2 ^ ((c + i) % 64) % 2 == 1)) &&
      masked mask o f l (c + t.count)
    | 1 =>
      let b := splitBody 0 l
      let n := spanOf f b.1
      (upFrom 0 (min t.count 64)).all (fun i => masked mask o f b.1 (c + i * n)) && masked mask o f b.2 (c + t.count * n)
    | _ => true

/-- Check 6: the seam slot list (R189). DEDUCED (log 55). -/
def seamListOk (mode1 : Bool) (p : Place) (pl : Plan) (l : List Byte) : Bool :=
  let mask := field l 8 8
  (l.isEmpty || (p.edge && l.length == 16 && field l 0 1 == p.row / 2 && field l 1 7 == 0 &&
    (!mode1 || decide (((upFrom 0 64).filter (fun s => mask / 2 ^ s % 2 == 1)).length ≤ 62)))) &&
  (match p.seam with
   | none => true
   | some o => masked mask o (2 * pl.steps.length + 2) pl.steps 0)

/-- The checks of R180 for one core: order and status of the first that fails. A core without a plan keeps every output idle.
DEDUCED (log 136). -/
def planBad (img : Image) (mode1 : Bool) (p : Place) (plan seam : List Byte) : Option (Byte × Nat) :=
  let pl := planOf plan
  let routes := pl.steps.filter (fun t => t.kind == 0)
  if plan.isEmpty then (if seamListOk mode1 p { pl with steps := [] } seam then none else some (eRange, 6))
  else if !(pl.clean && pl.entries.all (fun e => e.2.2) && pl.steps.all (fun t => t.clean)) then some (eReserved, 1)
  else if !(decide (64 ≤ plan.length) && decide (pl.nEntry ≤ 4096) && within pl.nStep 1 16777216 && pl.offEntry % 16 == 0 &&
      pl.offStep % 16 == 0 && (pl.nEntry != 0 || pl.offEntry == 0) && decide (pl.offEntry + 8 * pl.nEntry ≤ plan.length) &&
      decide (pl.offStep + 32 * pl.nStep ≤ plan.length) && loopsOk pl.steps []) then some (eRange, 2)
  else if !(pl.entries.all (fun e => decide (e.2.1 ≤ 3) || (e.2.1 == 4 && p.drop)) && routes.all (entriesOk pl p)) then some (eRange, 3)
  else if !(routes.all (dropsOk img)) then some (eRange, 4)
  else if !(routes.all (portsOk p)) then some (ePartition, 5)
  else if !(seamListOk mode1 p pl seam) then some (eRange, 6)
  else none

/-- The place of the core with a partition-relative index. -/
def placeIn (s : State) (n i : Nat) : Place :=
  match shapeOf (clustersOf s n) with
  | some (_, k0, h, ww, we) =>
    let col := i % (8 * (ww + we))
    ⟨i / (8 * (ww + we)), col, 4 * h, 8 * (ww + we), 8 * ww, 8 * k0 + col == 31 || 8 * k0 + col == 32⟩
  | none => ⟨0, 0, 1, 1, 0, false⟩

/-- A program subsection of a core as it lies in the slice. -/
def subsection (s : State) (core k : Nat) : List Byte :=
  let p := (coreAt s core).progs.getD k (0, 0)
  peekBytes s (.slice core) p.1 p.2

/-- The first core of a partition whose plan or list fails: status, order, partition-relative index (R180). -/
def plansBad (s : State) (n : Nat) (img : Image) : Option (Byte × Nat × Nat) :=
  ((coresOf s n).zipIdx).findSome? (fun x =>
    (planBad img (tackMode s) (placeIn s n x.2) (subsection s x.1 7) (subsection s x.1 8)).map (fun b => (b.1, b.2, x.2)))

end Sys2Proof.Machine
end

