-- ==== Sys2Proof/Machine/Rails.lean ====
section
/-! DEFINITION. Rails, operating voltages and headers: AVSBus targets and writes (R375, R376, R413), headers turned on and off
(R380). -/

namespace Sys2Proof.Machine

/-! Operating voltages (R412, R413) -/

/-- The header state of a cluster. -/
def hdrAt (s : State) (c : Nat) : Hdr := tget {} s.power.hdr c
/-- Changes the header state of a cluster. -/
def modHdr (s : State) (c : Nat) (f : Hdr → Hdr) : State :=
  { s with power := { s.power with hdr := tmod {} s.power.hdr c f } }
/-- Whether a cluster is lit. -/
def lit (s : State) (c : Nat) : Bool := (hdrAt s c).lit

/-- The voltage of a cluster's grade at the frequency bin, and its guard, in mV. -/
def clusterMv (s : State) (c : Nat) : Nat :=
  let w := Config.vf (Config.grade c).toNat
  (if s.therm.bin then bits w 25 16 else bits w 9 0) + 5 * (tget 0 s.therm.guard c).toNat

/-- The operating voltage a partition takes at a run start. -/
def operatingMv (s : State) (n : Nat) : Nat := (clusterList s n).foldl (fun a c => max a (clusterMv s c)) 0

/-- The operating voltage of a partition now: held through a run. -/
def heldMv (s : State) (n : Nat) : Nat :=
  match (partAt s n).run with
  | some r => if r.started then r.mv else operatingMv s n
  | none => operatingMv s n

/-- oc_a. -/
def ocLimit (s : State) : Nat := bits (reg s 0x700020) 9 0

/-- The clusters of a half. -/
def halfClusters (h : Nat) : List Nat := upFrom (16 * h) 16

/-- The VDD_CORE target of a half (R376), in mV. DEDUCED (log 103). -/
def coreTarget (s : State) (h : Nat) : Nat :=
  let l := (halfClusters h).filter (lit s)
  if l.isEmpty then 650
  else
    let vmax := l.foldl (fun a c => max a (match partOfCluster s c with | some n => heldMv s n | none => clusterMv s c)) 0
    min 900 (vmax + 30 + ceilDiv (120 * ocLimit s) 1000)

/-- The target that a rail should have (R376, R415). DEDUCED (log 103). -/
def railWant (s : State) (a : Nat) : Nat :=
  let fixed := fun (v : Nat) => (Config.railTarget a).getD v
  match a with
  | 0 => coreTarget s 0
  | 1 => coreTarget s 1
  | 2 => fixed 780 + 5 * s.therm.sliceGuard.toNat
  | 3 => fixed 780 + 5 * s.therm.sliceGuard.toNat
  | 4 => fixed 780 + 5 * s.therm.hemGuard.toNat
  | _ => fixed 760

/-! AVSBus writes (R375) -/

/-- Rail a. -/
def avsAt (s : State) (a : Nat) : Avs := tget {} s.power.avs a
/-- Changes rail a. -/
def modAvs (s : State) (a : Nat) (f : Avs → Avs) : State :=
  { s with power := { s.power with avs := tmod {} s.power.avs a f } }

/-- The next target on the way from t to w: at most 50 mV a write. -/
def stepMv (t w : Nat) : Nat := if t < w then min w (t + 50) else max w (t - 50)

/-- Writes the next target of a rail that has none awaiting its read-back. -/
def avsWrite (s : State) (a : Nat) : State :=
  modAvs s a (fun r =>
    if r.written.isSome ∨ r.target = r.want then r
    else { r with target := BitVec.ofNat 12 (stepMv r.target.toNat r.want.toNat), written := some s.time, retries := 0 })

/-- Sets what a rail is to reach. DEDUCED (log 103). -/
def avsWant (s : State) (a mv : Nat) : State := avsWrite (modAvs s a (fun r => { r with want := BitVec.ofNat 12 mv })) a

/-- Recomputes the VDD_CORE targets: a rise at once, a fall too when `falls` (R376: after the event). -/
def retarget (s : State) (falls : Bool) : State :=
  [0, 1].foldl (fun s a =>
    let v := coreTarget s a
    if falls ∨ (avsAt s a).want.toNat < v then avsWant s a v else s) s

/-- Whether a half's rail has read back its target. -/
def railReady (s : State) (h : Nat) : Bool :=
  let r := avsAt s h
  r.written.isNone && decide (coreTarget s h ≤ r.good.toNat)

/-- Whether a half's rise has failed. -/
def railFailed (s : State) (h : Nat) : Bool :=
  let r := avsAt s h
  r.fault && r.written.isNone && decide (r.good.toNat < coreTarget s h)

/-- The halves that a partition has clusters in. -/
def halvesOf (s : State) (n : Nat) : List Nat := [0, 1].filter (fun h => (clusterList s n).any (fun c => c / 16 == h))

/-- What a read-back of rail a, 150 µs after a write, finds: no response, or a voltage, and an alert (R375). DEDUCED (log 103). -/
def avsReadback (s : State) (a : Nat) (mv : Option Nat) (alert : Bool) : State :=
  let r := avsAt s a
  let fine := match mv with
    | some m => !alert && decide (m ≤ r.target.toNat + 10) && decide (r.target.toNat ≤ m + 10)
    | none => false
  if r.written.isNone then s
  else if fine then
    avsWrite (modAvs s a (fun r => { r with
      readback := BitVec.ofNat 12 (mv.getD 0), good := r.target, fault := false, retries := 0, written := none })) a
  else
    let seen := fun (r : Avs) => match mv with | some m => { r with readback := BitVec.ofNat 12 m } | none => r
    if r.retries < 2 then modAvs s a (fun r => { seen r with retries := r.retries + 1, written := some s.time })
    else
      raise (modAvs s a (fun r => { seen r with
        target := r.good, want := r.good, fault := true, retries := 0, written := none }))
        { kind := kAvsFault, unit := uRail, id := a }

/-- AVS_READBACK (R375): the voltage read 150 µs after a write. DEDUCED (log 103). -/
def execAvsReadback (rail : Fin 6) (mv : Option Nat) (alert : Bool) (s : State) : Host.Outcome State Fault Refusal :=
  whenAon s fun s =>
    match (avsAt s rail.val).written with
    | some t => if since s t < 3750 then s else avsReadback s rail.val mv alert
    | none => s

/-- The voltage a regulator starts at (R540), in mV. -/
def bootMv (a : Nat) : Nat := if a < 2 then 750 else if a < 5 then 780 else 760

/-- A start writes a rail's target, from the setpoint the regulator has, in the steps of R375 (R376, R442). DEDUCED (log 103). -/
def avsStart (s : State) (a : Nat) : State :=
  modAvs s a (fun r =>
    let now := if r.target = 0 then bootMv a else r.target.toNat
    let want := railWant s a
    { target := BitVec.ofNat 12 (stepMv now want), readback := r.readback, good := BitVec.ofNat 12 now,
      want := BitVec.ofNat 12 want, written := some s.time })

/-! Headers (R380) -/

/-- Turns a cluster's headers on; the rise of its rail comes first. -/
def turnOn (s : State) (c : Nat) : State :=
  modHdr s c (fun _ => { stage := 0, turning := true, last := s.time, lit := true })

/-- Turns a cluster's headers off at once; what its turn-on contributed goes with it (R381). -/
def turnOff (s : State) (c : Nat) : State :=
  modHdr { s with power := { s.power with stagePart := s.power.stagePart.filter (fun x => x.1 / 8 != c) } } c (fun _ => {})

/-- Whether a cluster of a partition is still turning on (R381), or dark. -/
def stagingPart (s : State) (n : Nat) : Bool := (clusterList s n).any (fun c => (hdrAt s c).turning || !(hdrAt s c).lit)

/-- The clusters beside a cluster in the grid of R44. -/
def besides (c : Nat) : List Nat :=
  let p := clusterCell c
  (if p.1 = 0 then [] else [cellCluster (p.1 - 1) p.2]) ++ (if p.1 = 3 then [] else [cellCluster (p.1 + 1) p.2]) ++
  (if p.2 = 0 then [] else [cellCluster p.1 (p.2 - 1)]) ++ (if p.2 = 7 then [] else [cellCluster p.1 (p.2 + 1)])

end Sys2Proof.Machine
end

