-- ==== Sys2Proof/Machine/Link.lean ====
section
/-! DEFINITION. The link layer that Nalson and Myarn ports share: flits received (R288–R293, R344, R345), flits sent (R290–R295,
R346), capability exchange, training and retraining (R303–R306, R348), lanes (R287, R342, R343). -/

namespace Sys2Proof.Machine

/-! A port's link layer -/

/-- The link layer of a port. -/
def lkAt (s : State) : Link → Lk
  | .nalson p => (nalAt s p).lk
  | .myarn p => (myaAt s p.val).lk

/-- Changes the link layer of a port. -/
def modLk (s : State) (l : Link) (f : Lk → Lk) : State :=
  match l with
  | .nalson p => modNal s p (fun n => { n with lk := f n.lk })
  | .myarn p => modMya s p.val (fun n => { n with lk := f n.lk })

/-- Adds to a counter of a port, by its register offset. -/
def portCount (s : State) (l : Link) (off n : Nat) : State :=
  match l with
  | .nalson p => modNal s p (fun x => { x with cnt := tmod 0 x.cnt off (fun c => c + BitVec.ofNat 64 n) })
  | .myarn p => modMya s p.val (fun x => { x with cnt := tmod 0 x.cnt off (fun c => c + BitVec.ofNat 64 n) })

/-- Every link. -/
def allLinks : List Link :=
  [.nalson 0, .nalson 1, .myarn 0, .myarn 1, .myarn 2, .myarn 3, .myarn 4, .myarn 5, .myarn 6, .myarn 7]

/-- Whether a port exists on this variant. -/
def linkOn (s : State) : Link → Bool
  | .nalson _ => true
  | .myarn p => decide (p.val < myarnPorts s.variant)

/-- The enable of a port: disable clear on Nalson, enable set on Myarn (R309, R372). -/
def linkEnabled (s : State) : Link → Bool
  | .nalson p => !bitAt (nalAt s p).ctl 0
  | .myarn p => bitAt (reg s (0x600004 + 0x10000 * p.val)) 0

/-- Raises a record about a port. -/
def raisePort (s : State) (l : Link) (nalson myarn detail : Nat) : State :=
  match l with
  | .nalson p => raise s { kind := nalson, unit := uNalson, id := p.val, detail }
  | .myarn p => raise s { kind := myarn, unit := uMyarn, id := p.val, detail }

/-- Queues a link-control payload (R304, R348). -/
def control (s : State) (l : Link) (b : List Byte) : State := modLk s l (fun k => { k with control := k.control ++ [b] })

/-- How many flits the retry buffer holds (R292, R345). -/
def retryRoom : Link → Nat
  | .nalson _ => 512
  | .myarn _ => 1536

/-- A link event on the other Nalson port, when it is up (R300). -/
def linkEvent (s : State) (p : NPort) (event : Nat) : State :=
  pushTxn s (otherPort p) (.msg 3 (BitVec.ofNat 64 (event + 256 * p.val)))

/-! Retraining (R306) -/

/-- A port begins to retrain: it keeps its retry buffer and its tags. -/
def beginRetrain (s : State) (l : Link) (cause : Byte) : State :=
  if (lkAt s l).phase = .up then
    let s := modLk s l (fun k => { k with phase := .retraining, since := s.time, replays := 0, capOk := false, ackOk := false })
    let s := control s l [3, cause]
    raisePort (portCount s l 0x28 1) l kNalRetrained kMyaRetrained 0
  else s

/-- A protocol error (R290). DEDUCED (log 40). -/
def protocolError (s : State) (l : Link) : State :=
  let s := raisePort (portCount s l 0x38 1) l kNalProtocol kNalProtocol 0
  beginRetrain s l 2

/-! Acknowledgement and replay (R291, R293) -/

/-- The index of a sequence in the retry buffer. -/
def retryIndex (q : BitVec 12) (l : List Sent) : Option Nat := firstIdx (fun x => x.seq == q) 0 l

/-- Whether an acknowledgement lies in the sender's window: a flit of the retry buffer, or the one before its first. -/
def ackFits (k : Lk) (q : BitVec 12) : Bool :=
  match k.retry with
  | [] => q + 1 == k.txSeq
  | x :: _ => q + 1 == x.seq || (retryIndex q k.retry).isSome

/-- Frees what an acknowledgement covers; the round trip is the newest flit's (R309). -/
def takeAck (k : Lk) (q : BitVec 12) : Lk :=
  match retryIndex q k.retry with
  | none => k
  | some i => { k with retry := k.retry.drop (i + 1), replays := 0,
                       replay := match k.replay with
                         | some j => if i + 1 ≤ j ∧ j - (i + 1) < k.retry.length - (i + 1) then some (j - (i + 1))
                                     else if i + 1 ≤ j then none else if k.retry.length ≤ i + 1 then none else some 0
                         | none => none }

/-- Begins a replay from the oldest flit; the fourth without an advance retrains the port. -/
def startReplay (s : State) (l : Link) : State :=
  let k := lkAt s l
  if k.retry.isEmpty then s
  else
    let s := portCount s l 0x20 1
    let s := modLk s l (fun k => { k with
      replay := some 0, replays := k.replays + 1,
      retry := match k.retry with | x :: r => { x with time := s.time } :: r | [] => [] })
    if 4 ≤ k.replays + 1 then beginRetrain s l 0 else s

/-- The measured round trip of the newest flit that an acknowledgement frees, in ns (40 ns a tick). DEDUCED (log 41). -/
def noteRtt (s : State) (l : Link) (q : BitVec 12) : State :=
  let k := lkAt s l
  match retryIndex q k.retry with
  | none => s
  | some i => match k.retry[i]? with
    | none => s
    | some x =>
      let v := BitVec.ofNat 32 (min (40 * since s x.time) 65535)
      match l with
      | .nalson p => modNal s p (fun n => { n with rtt := v })
      | .myarn p => modMya s p.val (fun n => { n with rtt := v })

/-- Asks for a replay in the next outgoing flit (R293). -/
def sendNak (s : State) (l : Link) : State :=
  modLk s l (fun k => { k with nak := true, gap := true, nakTime := s.time })

/-- A transaction flit is discarded (R293): the first asks for a replay; until the expected one arrives the request is only repeated by
NAK_REPEAT. -/
def discardFlit (s : State) (l : Link) : State := if (lkAt s l).gap then s else sendNak s l

/-! Codewords and lanes (R286, R341) -/

/-- The lanes that have not failed, of a port's 8 or 9. DEDUCED (log 45). -/
def goodLanes (l : Link) (failed : BitVec 9) : List Nat :=
  (upFrom 0 (match l with | .nalson _ => 8 | .myarn _ => 9)).filter (fun k => !bitAt failed k)

/-- The lanes that carry symbols 0, 1, … of a codeword in turn: the active lanes of a Nalson port; a Myarn port's lane map (R343).
DEDUCED (log 45). -/
def laneMap (s : State) (l : Link) : List Nat :=
  let k := lkAt s l
  match l with
  | .nalson _ => if k.width = 1 then upFrom 0 4 else if k.width = 2 then upFrom 4 4 else upFrom 0 8
  | .myarn p =>
    if k.width = 1 then (goodLanes l k.failed).take 4
    else (upFrom 0 8).map (fun j => if (myaAt s p.val).spared = BitVec.ofNat 4 j then 8 else j)

/-- The lane of symbol i of a codeword. -/
def laneOf (s : State) (l : Link) (i : Nat) : Nat := (laneMap s l).getD (i % (laneMap s l).length) 0

/-- The marker of codeword c (R286, R341). -/
def markerOf (l : Link) (c : Byte) : BitVec 20 :=
  BitVec.ofNat 20 (c.toNat + (match l with | .nalson _ => 0xA5C | .myarn _ => 0x3C6) * 256)

/-- Whether a codeword begins in the flit at place i of the five that two codewords carry: 640 bytes are two flits and a half. -/
def beginsCodeword (i : Nat) : Bool := i == 0 || i == 2

/-- A codeword with up to 15 symbol errors is corrected, each counted on its lane; one with more is counted uncorrectable. -/
def takeCodeword (s : State) (l : Link) (errors : List (Fin 544)) : Bool × State :=
  if 15 < errors.length then (true, portCount s l 0x10 1)
  else (false, errors.foldl (fun s e =>
    let n := laneOf s l e.val
    modLk (portCount s l (0x80 + 8 * n) 1) l (fun k => { k with
      syms := (upFrom 0 9).map (fun i => k.syms.getD i 0 + (if i = n then 1 else 0)) })) s)

/-- A flit comes in: whether it has a byte in an uncorrectable codeword, and the state that counts its codeword.
DESIGN CHOICE (log 38). -/
def passCodeword (s : State) (l : Link) (f : Flit) : Bool × State :=
  let k := lkAt s l
  let r := if beginsCodeword k.rxPos then takeCodeword s l f.errors else (k.rxBad, s)
  (r.1 || (k.rxPos == 2 && k.rxBad), modLk r.2 l (fun k => { k with rxPos := (k.rxPos + 1) % 5, rxBad := r.1 }))

/-! Sending -/

/-- The eight header bytes and the payload: what the CRC covers. -/
def flitBytes (f : Flit) : List Byte := leBytes f.header.toNat 8 ++ f.payload

/-- Splits a payload into slots of 16 bytes. -/
def slotsOf : Nat → List Byte → List (List Byte)
  | 0, _ => []
  | n + 1, b => b.take 16 :: slotsOf n (b.drop 16)

/-- Frees receive buffer of a class, to be returned in later headers. DEDUCED (log 39). -/
def freeCredit (k : Lk) (c n : Nat) : Lk :=
  { k with returns := (upFrom 0 3).map (fun i => k.returns.getD i 0 + (if i = c then n else 0)) }

/-- Acknowledged ends: a MYA_WRITE whose last packet is acknowledged completes (R359); an either-port write is done with (R307). -/
def noteEnds (s : State) (l : Link) (ids : List Nat) : State :=
  match l with
  | .nalson p => modNal s p (fun n => { n with either := n.either.filter (fun x => !ids.contains x.1) })
  | .myarn _ => ids.foldl (fun s id =>
      match tget none s.xfers id with
      | some x => match x.desc with
        | some ref => complete { s with xfers := tset none s.xfers id none } ref ok 0 (BitVec.ofNat 64 x.asked) []
        | none => s
      | none => s) s

/-- A byte string filled to n bytes with zeros. -/
def padTo (n : Nat) (b : List Byte) : List Byte := b.take n ++ zeros (n - b.length)

/-- The slots of data bytes. -/
def dataSlots (b : List Byte) : List (List Byte) := slotsOf (ceilDiv b.length 16) (padTo (16 * ceilDiv b.length 16) b)

/-- A header slot (R296). -/
def headSlot (type tag len status code : Nat) (body : W64) : List Byte :=
  leBytes type 1 ++ [0] ++ leBytes tag 2 ++ leBytes len 2 ++ leBytes status 1 ++ leBytes code 1 ++ leBytes body.toNat 8

/-- The slots of a transaction (R296, R297). -/
def txnSlots : Txn → List (List Byte)
  | .mrd tag len addr => [headSlot 1 tag len 0 0 addr]
  | .mwr addr data => headSlot 2 0 data.length 0 0 addr :: dataSlots data
  | .scpl tag status data => [headSlot 7 tag.toNat 0 status.toNat 0 (join32 0 data)]
  | .msg code body => [headSlot 8 0 0 0 code.toNat body]

/-- The credit class of a transaction (R294). -/
def txnClass : Txn → Option Nat
  | .mrd _ _ _ => some 1
  | .scpl _ _ _ => none
  | _ => some 0

/-- Takes the first transaction that may start (R294, R295, R301): completions always, posted ones past a read that lacks credit,
a read past nothing but completions. -/
def takeTxn (credits : List Nat) (noPosted noRead : Bool) : List Txn → Option (Txn × List Txn)
  | [] => none
  | t :: l =>
    let fits := match txnClass t with
      | none => true
      | some c => decide ((txnSlots t).length ≤ credits.getD c 0)
    let may := match txnClass t with
      | none => true
      | some 0 => !noPosted && fits
      | some _ => !noPosted && !noRead && fits
    if may then some (t, l)
    else (takeTxn credits (noPosted || txnClass t == some 0) (noRead || txnClass t == some 1) l).map
      (fun r => (r.1, t :: r.2))

/-- Spends credits of a class. -/
def spend (k : Lk) (c n : Nat) : Lk :=
  { k with credits := (upFrom 0 3).map (fun i => k.credits.getD i 0 - (if i = c then n else 0)) }

/-- The bits of a poison map. -/
def poisonMap (l : List Nat) : List Byte :=
  (upFrom 0 64).map (fun i => BitVec.ofNat 8 ((upFrom 0 8).foldl (fun a j => a + (if l.contains (8 * i + j) then 2 ^ j else 0)) 0))

/-- The slots of a packet (R350, R362). -/
def packetSlots (p : Packet) : List (List Byte) :=
  let h := leBytes p.segment.toNat 8 ++ leBytes p.relay.toNat 2 ++ [p.dst, p.kind] ++ leBytes p.dstId.toNat 4 ++
    leBytes p.ident.toNat 2 ++ leBytes (p.len.toNat % 8192 + (if p.poison.isEmpty then 0 else 8192)) 2 ++
    leBytes p.srcId.toNat 4 ++ leBytes p.arg.toNat 8
  slotsOf 2 h ++ (if p.poison.isEmpty then [] else slotsOf 4 (poisonMap p.poison)) ++ dataSlots p.data

/-- The 64-byte credit units of a packet (R346). -/
def packetUnits (p : Packet) : Nat := ceilDiv (packetSlots p).length 4

/-- Returns the receive credits of a packet to the sender of the port it came in by. DEDUCED (log 39). -/
def returnUnits (s : State) (input : Option MPort) (c : Nat) (p : Packet) : State :=
  match input with
  | some i => modLk s (.myarn i) (fun k => freeCredit k c (packetUnits p))
  | none => s

/-- Starts a packet of channel c on a Myarn port, when it holds the credits for all of it. -/
def startPacket (s : State) (p : MPort) (c : Nat) (o : OutPkt) (rest : List OutPkt) : Option State :=
  let n := packetUnits o.pkt
  if n ≤ (lkAt s (.myarn p)).credits.getD c 0 then
    let s := modMya s p.val (fun x => match c with
      | 0 => { x with v0 := rest } | 1 => { x with v1 := rest } | _ => { x with v2 := rest })
    let s := modLk s (.myarn p) (fun k => { spend k c n with
      outSlots := k.outSlots ++ packetSlots o.pkt,
      outEnds := match o.xfer, o.last with
        | some x, true => k.outEnds ++ [(k.outSlots.length + (packetSlots o.pkt).length, x)]
        | _, _ => k.outEnds })
    let s := match o.xfer with
      | some x => if o.pkt.kind = 3 then noteEnds s (.myarn p) [x] else s
      | none => s
    let s := portCount s (.myarn p) 0x60 (o.pkt.len.toNat % 8192)
    let s := if c = 0 ∧ (lkAt s (.myarn p)).credits.getD 0 0 = 0 then
        modMya s p.val (fun x => { x with stallSince := some (x.stallSince.getD s.time) }) else s
    some (returnUnits s o.input c o.pkt)
  else none

/-- The numbers whose ends are on their way: in the outgoing slots or in the retry buffer. -/
def pendingEnds (k : Lk) : List Nat := k.outEnds.map (fun x => x.2) ++ k.retry.flatMap (fun x => x.ends)

/-- Moves what may start next into the outgoing slots: V2 before V1 before V0 (R346), or the Nalson egress. None: nothing may. -/
def loadNext (s : State) : Link → Option State
  | .nalson p =>
    let n := nalAt s p
    match takeTxn n.lk.credits false false n.egress with
    | none => none
    | some (t, rest) => some (modNal s p (fun n =>
        let k := match txnClass t with | some c => spend n.lk c (txnSlots t).length | none => n.lk
        let at_ := k.outSlots.length + (txnSlots t).length
        let e := match n.either.find? (fun x => x.2 == t && !(pendingEnds k).contains x.1) with
          | some x => [(at_, x.1)] | none => []
        { n with egress := rest, lk := { k with outSlots := k.outSlots ++ txnSlots t, outEnds := k.outEnds ++ e } }))
  | .myarn p =>
    let n := myaAt s p.val
    let go := fun (c : Nat) (l : List OutPkt) => match l with | o :: r => startPacket s p c o r | [] => none
    match go 2 n.v2 with
    | some t => some t
    | none => match go 1 n.v1 with
      | some t => some t
      | none => go 0 n.v0

/-- Fills the outgoing slots up to one flit. -/
def fillSlots (s : State) (l : Link) : Nat → State
  | 0 => s
  | n + 1 => if 15 ≤ (lkAt s l).outSlots.length then s
             else match loadNext s l with | some t => fillSlots t l n | none => s

/-- The header of an outgoing flit with the credits it returns, on Myarn those of the channels in turn (R346), and the link layer after it.
DEDUCED (log 39). -/
def sendHeader (l : Link) (k : Lk) (kind seq : Nat) : W64 × Lk :=
  let base := kind + seq * 2 ^ 4 + (k.rxSeq - 1).toNat * 2 ^ 16 + one k.rxAny * 2 ^ 28 + one k.nak * 2 ^ 29
  let k := { k with nak := false, unacked := 0 }
  match l with
  | .nalson _ =>
    let p := min (k.returns.getD 0 0) 4095
    let n := min (k.returns.getD 1 0) 4095
    (BitVec.ofNat 64 (base + p * 2 ^ 32 + n * 2 ^ 44), { k with returns := [k.returns.getD 0 0 - p, k.returns.getD 1 0 - n, 0] })
  | .myarn _ =>
    match ([k.turn, k.turn + 1, k.turn + 2].map (fun i => i % 3)).find? (fun i => k.returns.getD i 0 != 0) with
    | none => (BitVec.ofNat 64 (base + 3 * 2 ^ 30), k)
    | some c =>
      let n := min (k.returns.getD c 0) 8191
      (BitVec.ofNat 64 (base + c * 2 ^ 30 + n * 2 ^ 32),
        { k with turn := (c + 1) % 3, returns := (upFrom 0 3).map (fun i => k.returns.getD i 0 - (if i = c then n else 0)) })

/-- Puts a flit on the wire. -/
def emit (s : State) (l : Link) (kind seq : Nat) (payload : List Byte) (f : Lk → Lk) : State :=
  let r := sendHeader l (lkAt s l) kind seq
  let b := beginsCodeword r.2.txPos
  let fl : Flit := { marker := if b then markerOf l r.2.txCodeword else 0, header := r.1, payload, crc := 0 }
  modLk s l (fun _ => f { r.2 with
    wire := some { fl with crc := crc64 (flitBytes fl) }, sinceNull := r.2.sinceNull + 1, txPos := (r.2.txPos + 1) % 5,
    txCodeword := if b then r.2.txCodeword + 1 else r.2.txCodeword })

/-- The next flit of a port (R290, R292, R293, R346): the null flit that is due, link control, a replay, new transactions, else a
null flit. DESIGN CHOICE (log 12). -/
def transmit (s : State) (l : Link) : State :=
  let k := lkAt s l
  let null := fun (s : State) => emit s l 0 0 (zeros 240) (fun k => { k with sinceNull := 0 })
  if k.phase = .down ∨ !linkOn s l then s
  else if 4095 ≤ k.sinceNull then null s
  else match k.control with
  | c :: rest => emit s l 2 0 (padTo 240 c) (fun k => { k with control := rest })
  | [] =>
    if k.phase ≠ .up then null s
    else match k.replay.bind (fun i => (k.retry[i]?).map (fun x => (i, x))) with
    | some (i, x) => emit s l 1 x.seq.toNat x.payload (fun k => { k with
        replay := if i + 1 < k.retry.length then some (i + 1) else none,
        retry := k.retry.map (fun y => if y.seq = x.seq then { y with time := s.time } else y) })
    | none =>
      if retryRoom l ≤ k.retry.length then null s
      else
        let s := fillSlots s l 16
        let k := lkAt s l
        if k.outSlots.isEmpty then null s
        else
          let body := padTo 240 (k.outSlots.take 15).flatten
          let ends := (k.outEnds.filter (fun x => decide (x.1 ≤ 15))).map (fun x => x.2)
          emit s l 1 k.txSeq.toNat body (fun k => { k with
            outSlots := k.outSlots.drop 15,
            outEnds := (k.outEnds.filter (fun x => decide (15 < x.1))).map (fun x => (x.1 - 15, x.2)),
            txSeq := k.txSeq + 1, replay := none, retry := k.retry ++ [⟨k.txSeq, body, s.time, ends⟩] })

/-! Received flits -/

/-- The reserved header bits of a port's flits (R288, R344). -/
def headerReserved : Link → W64
  | .nalson _ => 0xFF000000C0000000
  | .myarn _ => 0xFFFFE00000000000

/-- Adds returned credits to a class. -/
def addCredit (k : Lk) (c n : Nat) : Lk :=
  { k with credits := (upFrom 0 3).map (fun i => k.credits.getD i 0 + (if i = c then n else 0)) }

/-- The credits of a header. DEDUCED (log 39). -/
def headerCredits (l : Link) (h : W64) (k : Lk) : Lk :=
  match l with
  | .nalson _ => addCredit (addCredit k 0 (bits h 43 32)) 1 (bits h 55 44)
  | .myarn _ => if bits h 31 30 = 3 then k else addCredit k (bits h 31 30) (bits h 44 32)

/-- The numbers of the transfers and writes that end in what an acknowledgement covers. -/
def ackEnds (k : Lk) (q : BitVec 12) : List Nat :=
  match retryIndex q k.retry with
  | some i => (k.retry.take (i + 1)).flatMap (fun x => x.ends)
  | none => []

/-- What the header of a flit that passes its CRC tells the sender's side: acknowledgement, nak, credits. None: a protocol
error. DESIGN CHOICE (log 38). -/
def takeHeader (s : State) (l : Link) (h : W64) : Option State :=
  let q := h.extractLsb' 16 12
  if h &&& headerReserved l ≠ 0 ∨ 3 ≤ bits h 3 0 then none
  else if bitAt h 28 && !ackFits (lkAt s l) q then none
  else
    let s := if bitAt h 28 then
        let ids := ackEnds (lkAt s l) q
        noteEnds (modLk (noteRtt s l q) l (fun k => takeAck k q)) l ids else s
    let s := modLk s l (headerCredits l h)
    let s := match l with
      | .myarn p => if (lkAt s l).credits.getD 0 0 = 0 then s else modMya s p.val (fun n => { n with stallSince := none, stallSeen := false })
      | .nalson _ => s
    some (if bitAt h 29 then startReplay s l else s)

/-- The slots and the credit class of the transaction that a header slot begins, none for an unknown type (R294, R297). -/
def nalsonLen (h : List Byte) : Option (Nat × Option Nat) :=
  match field h 0 1 with
  | 3 => some (1 + ceilDiv (field h 4 2 % 8192) 16, none)
  | 4 => some (1, some 0)
  | 5 => some (1, some 1)
  | 6 => some (1, some 1)
  | _ => none

/-- The slots of the packet that two header slots begin, none for an unknown type (R350, R357). -/
def packetLen (h : List Byte) : Option Nat :=
  let t := field h 11 1
  if 1 ≤ t ∧ t ≤ 5 then
    some (2 + (if field h 18 2 / 8192 % 2 = 1 then 4 else 0) + ceilDiv (field h 18 2 % 8192) 16)
  else none

/-- Parses slots: what remains of a transaction that goes on in the next flit, with the credits freed; none where a type is
unknown. DESIGN CHOICE (log 38); DEDUCED (log 40). -/
def parseSlots (l : Link) : Nat → List (List Byte) → Lk → Option Lk
  | 0, sl, k => some { k with inSlots := sl }
  | _, [], k => some { k with inSlots := [] }
  | fuel + 1, h :: t, k =>
    match l with
    | .nalson _ =>
      if h.getD 0 0 = 0 then some { k with inSlots := [] }
      else match nalsonLen h with
        | none => none
        | some (n, c) =>
          if t.length + 1 < n then some { k with inSlots := h :: t }
          else parseSlots l fuel (t.drop (n - 1)) (match c with | some c => freeCredit k c n | none => k)
    | .myarn _ =>
      if h.all (fun b => b == 0) then some { k with inSlots := [] }
      else match t with
        | [] => some { k with inSlots := [h] }
        | g :: _ => match packetLen (h ++ g) with
          | none => none
          | some n =>
            if t.length + 1 < n then some { k with inSlots := h :: t } else parseSlots l fuel (t.drop (n - 1)) k

/-- A flit passes its codewords and its CRC (R286, R289), or is counted and lost. DESIGN CHOICE (log 38). -/
def checkFlit (s : State) (l : Link) (f : Flit) : Bool × State :=
  let c := passCodeword s l f
  if c.1 then (false, c.2)
  else if f.crc ≠ crc64 (flitBytes f) then (false, portCount c.2 l 0x18 1)
  else (true, c.2)

/-- The transactions of an accepted flit: a type that is not known makes the flit a protocol error, and it is discarded (R297). The device
returns an acknowledgement within 32 accepted flits (R291). DESIGN CHOICE (log 38). -/
def acceptFlit (s0 s : State) (l : Link) (f : Flit) : State :=
  let k := lkAt s l
  let k' := { k with rxSeq := k.rxSeq + 1, rxAny := true, unacked := k.unacked + 1, gap := false, nak := false }
  match parseSlots l 64 (k.inSlots ++ slotsOf 15 f.payload) k' with
  | none => protocolError s0 l
  | some k'' =>
    let s := modLk s l (fun _ => k'')
    if 32 ≤ k''.unacked then transmit s l else s

/-- A flit of kind `kind` reaches a port that is up: FEC and CRC, the header, then for a transaction flit its sequence and its
slots. DESIGN CHOICE (log 38). -/
def receiveFlit (s : State) (l : Link) (kind : Nat) (f : Flit) : State :=
  if !linkOn s l || (lkAt s l).phase != .up then s
  else
    let c := checkFlit s l f
    if !c.1 then (if kind = 1 then discardFlit c.2 l else c.2)
    else if bits f.header 3 0 ≠ kind ∧ bits f.header 3 0 < 3 then c.2
    else match takeHeader c.2 l f.header with
      | none => protocolError c.2 l
      | some s =>
        if kind ≠ 1 then s
        else if f.header.extractLsb' 4 12 ≠ (lkAt s l).rxSeq then discardFlit s l
        else acceptFlit c.2 s l f

/-- A link-control flit of a type reaches a port in one of the phases given (R290, R304, R348): FEC and CRC, the header, then its payload.
DESIGN CHOICE (log 38). -/
def receiveControl (s : State) (l : Link) (type : Nat) (phases : List LinkPhase) (f : Flit) (k : State → List Byte → State) : State :=
  if !linkOn s l || !(phases.contains (lkAt s l).phase) then s
  else
    let c := checkFlit s l f
    if !c.1 ∨ (bits f.header 3 0 ≠ 2 ∧ bits f.header 3 0 < 3) then c.2
    else match takeHeader c.2 l f.header with
      | none => protocolError c.2 l
      | some s => if field f.payload 0 1 = type then k s f.payload else s

/-- TRANSACTION_FLIT (R291, R345). The transactions it brings are commands of their own. DESIGN CHOICE (log 38). -/
def execTransactionFlit (link : Link) (f : Flit) (s : State) : Host.Outcome State Fault Refusal :=
  whenAon s fun s => receiveFlit s link 1 f

/-- NULL_FLIT (R290). -/
def execNullFlit (link : Link) (f : Flit) (s : State) : Host.Outcome State Fault Refusal :=
  whenAon s fun s => receiveFlit s link 0 f

/-- NAK_REPEAT (R293): once a µs until the expected flit arrives. -/
def execNakRepeat (link : Link) (s : State) : Host.Outcome State Fault Refusal :=
  whenAon s fun s =>
    let k := lkAt s link
    if k.phase = .up ∧ k.gap = true ∧ 25 ≤ since s k.nakTime then sendNak s link else s

/-- REPLAY_TIMEOUT (R293): the oldest unacknowledged flit has waited 10 µs. DESIGN CHOICE (log 10). -/
def execReplayTimeout (link : Link) (s : State) : Host.Outcome State Fault Refusal :=
  whenAon s fun s =>
    let k := lkAt s link
    match k.retry with
    | x :: _ => if k.phase = .up ∧ 250 ≤ since s x.time then startReplay s link else s
    | [] => s

/-! Lanes -/

/-- A Nalson lane fails (R287): its record, and a retraining without it. -/
def failNalLane (s : State) (port : NPort) (lane : Nat) : State :=
  let k := (nalAt s port).lk
  if k.phase = .up ∧ bitAt k.failed lane = false then
    let s := modLk s (.nalson port) (fun k => { k with failed := k.failed ||| (1#9 <<< lane) })
    beginRetrain (raise s { kind := kNalLane, unit := uNalson, id := port.val, detail := lane }) (.nalson port) 1
  else s

/-- LANE_FAILED (R287): a lane's codeword marker is not found within 1 µs. -/
def execLaneFailed (port : NPort) (lane : Fin 8) (s : State) : Host.Outcome State Fault Refusal :=
  whenAon s fun s => failNalLane s port lane.val

/-- The codeword at which a lane moves: the first multiple of 8 at least 4 after the current one (R343). -/
def moveCodeword (c : Byte) : Byte := BitVec.ofNat 8 (ceilDiv (c.toNat + 4) 8 * 8)

/-- SPARE (R343): the peer's receiver has lost a lane of ours. -/
def execSpare (port : MPort) (f : Flit) (codeword : Byte) (s : State) : Host.Outcome State Fault Refusal :=
  whenAon s fun s => receiveControl s (.myarn port) 5 [.up] f fun s payload =>
    let n := myaAt s port.val
    let lane := field payload 1 1
    if lane < 8 ∧ n.spared = 0xF then
      let c := moveCodeword codeword
      control (modMya s port.val (fun n => { n with subst := some (BitVec.ofNat 4 lane, c) })) (.myarn port)
        [6, BitVec.ofNat 8 lane, c]
    else s

/-- SPARE_ACK (R343). -/
def execSpareAck (port : MPort) (f : Flit) (s : State) : Host.Outcome State Fault Refusal :=
  whenAon s fun s => receiveControl s (.myarn port) 6 [.up] f fun s payload =>
    let n := myaAt s port.val
    if n.asked = some (BitVec.ofNat 4 (field payload 1 1)) then
      modMya s port.val (fun n => { n with asked := none, subst := some (BitVec.ofNat 4 (field payload 1 1), payload.getD 2 0) })
    else s

/-- LANE_SUBSTITUTION (R343): codeword c arrives, and lane 8 carries the position. -/
def execLaneSubstitution (port : MPort) (codeword : Byte) (s : State) : Host.Outcome State Fault Refusal :=
  whenAon s fun s =>
    match (myaAt s port.val).subst with
    | some (lane, c) =>
      if c = codeword then
        let s := modMya s port.val (fun n => { n with subst := none, spared := lane })
        raise (portCount s (.myarn port) 0x40 1) { kind := kMyaLane, unit := uMyarn, id := port.val, detail := lane.toNat }
      else s
    | none => s

/-- CREDIT_STALL (R355): V0 credits at zero for 10 ms. -/
def execCreditStall (port : MPort) (s : State) : Host.Outcome State Fault Refusal :=
  whenAon s fun s =>
    let n := myaAt s port.val
    match n.stallSince with
    | some t =>
      if n.lk.phase = .up ∧ n.lk.credits.getD 0 0 = 0 ∧ n.stallSeen = false ∧ msTicks 10 ≤ since s t then
        raise (modMya s port.val (fun n => { n with stallSeen := true })) { kind := kCreditStall, unit := uMyarn, id := port.val }
      else s
    | none => s

/-! Training (R303–R306, R348) -/

/-- Whether a port's good lanes make width 8: all 8 of a Nalson port, 8 of a Myarn port's 9. -/
def wideLanes (l : Link) (failed : BitVec 9) : Bool := decide (8 ≤ (goodLanes l failed).length)

/-- Whether a port can run at a width, by its code in the status register (R303, R309, R343, R372): on lanes that have not failed, and at width
8 only when the peer offers it. DESIGN CHOICE (log 145). -/
def widthFits (l : Link) (k : Lk) (failed : BitVec 9) (width : BitVec 2) : Bool :=
  let has := fun (n m : Nat) => (upFrom n m).all (fun i => (goodLanes l failed).contains i)
  match l, width.toNat with
  | .nalson _, 1 => has 0 4
  | .nalson _, 2 => has 4 4
  | .nalson _, 3 => has 0 8 && k.peerWide
  | .myarn _, 1 => decide (4 ≤ (goodLanes l failed).length)
  | .myarn _, 2 => wideLanes l failed && k.peerWide
  | _, _ => false

/-- The capability payload of the device (R304, R348). -/
def capPayload (s : State) : Link → List Byte
  | .nalson p =>
    [1] ++ leBytes 2 2 ++ [if wideLanes (.nalson p) (nalAt s p).lk.failed then 8 else 4] ++ leBytes 4096 2 ++ leBytes 256 2 ++ leBytes 512 2
  | .myarn p =>
    [1] ++ leBytes 2 2 ++ [if wideLanes (.myarn p) (myaAt s p.val).lk.failed then 8 else 4] ++ leBytes s.moduleId.toNat 4 ++ leBytes 6144 2 ++ leBytes 512 2 ++ [64] ++ leBytes 1536 2

/-- A port begins full training afresh: nothing of its link layer stays but its excluded lanes. -/
def beginTraining (s : State) (l : Link) : State :=
  control (modLk s l (fun k => { phase := .training, since := s.time, failed := k.failed, reference := k.reference })) l
    (capPayload s l)

/-- Level mismatch (R305): the port stays down, and trains again 100 ms later. -/
def levelMismatch (s : State) (l : Link) (levels : BitVec 16) : State :=
  let s := modLk s l (fun k => { phase := .down, since := s.time, failed := k.failed, peerLevels := levels, reference := k.reference })
  raisePort s l kNalLevel kMyaLevel 0

/-- CAP_ACK (R304): the level the peer chose. -/
def execCapAck (link : Link) (f : Flit) (s : State) : Host.Outcome State Fault Refusal :=
  whenAon s fun s => receiveControl s link 2 [.training, .full] f fun s payload =>
    if field payload 1 2 = 2 then modLk s link (fun k => { k with ackOk := true })
    else levelMismatch s link (lkAt s link).peerLevels

/-- The full training that follows a retraining (R306, R343): buffers and tags stay. DEDUCED (log 45); DESIGN CHOICE (log 145). -/
def beginFull (s : State) (l : Link) : State :=
  control (modLk s l (fun k => { k with phase := .full, fullSince := s.time, capOk := false, ackOk := false })) l (capPayload s l)

/-- TRAINING_COMPLETE (R303, R306): null flits pass both ways; the port is up at the width found, which its good lanes allow. After a retrain
the flits not acknowledged are replayed. DESIGN CHOICE (log 145). -/
def execTrainingComplete (link : Link) (width : BitVec 2) (failedLanes : BitVec 9) (s : State) :
    Host.Outcome State Fault Refusal :=
  whenAon s fun s =>
    let k := lkAt s link
    let failed := k.failed ||| failedLanes
    if linkOn s link && widthFits link k failed width &&
        (k.phase == .retraining || ((k.phase == .training || k.phase == .full) && k.capOk && k.ackOk)) then
      let s := modLk s link (fun k => { k with
        phase := .up, since := s.time, width, level := 1, failed,
        sinceNull := 0, rxPos := 0, rxBad := false, txPos := 0, gap := false, replay := if k.retry.isEmpty then none else some 0 })
      match link with
      | .nalson p => if k.phase = .training then linkEvent s p 1 else if k.width ≠ width then linkEvent s p 2 else s
      | .myarn p => modMya s p.val (fun n => { n with
          subst := none, asked := none,
          spared := if width = 2 then (match (upFrom 0 8).find? (fun i => bitAt failed i) with | some i => BitVec.ofNat 4 i | none => 0xF)
                    else 0xF })
    else s

/-- RETRAIN (R306): the peer retrains, or FEC lock is lost, for which no cause code is stated: free. DESIGN CHOICE (log 145). -/
def execRetrain (link : Link) (cause : RetrainCause) (s : State) : Host.Outcome State Fault Refusal :=
  whenAon s fun s => match cause with
    | .flit f => receiveControl s link 3 [.up] f fun s payload => beginRetrain s link (payload.getD 1 0)
    | .lockLost => if (lkAt s link).phase = .up then beginRetrain (takeFree s).2 link (BitVec.ofNat 8 ((takeFree s).1.toNat % 4)) else s

end Sys2Proof.Machine
end

