-- ==== Sys2Proof/Machine/Rings.lean ====
section
/-! DEFINITION. Reads of host memory and their completions (R299, R302), doorbells (R301), rings and error rings enabled and
disabled (R312, R335), and NOP descriptors (R321). -/

namespace Sys2Proof.Machine

/-! Doorbells -/

/-- DBL (R301, R313, R314): it waits behind a press of its port that has not yet taken effect. DEDUCED (log 29). -/
def execDbl (port : NPort) (body : W64) (s : State) : Host.Outcome State Fault Refusal :=
  whenAon s fun s =>
    if pressWaits s port then modNal s port (fun n => { n with dbls := n.dbls ++ [body] }) else ringDoorbell s port body

/-! Completions of reads (R299) -/

/-- A descriptor from its 64 bytes. -/
def descOf (k : Nat) (b : List Byte) : Desc :=
  { k, stage := .read, opcode := b.getD 0 0, lvlPart := b.getD 1 0, flags := b.getD 2 0, rsv := b.getD 3 0,
    seq := BitVec.ofNat 32 (field b 4 4), args := (upFrom 0 7).map (fun i => BitVec.ofNat 64 (field b (8 + 8 * i) 8)) }

/-- Changes descriptor k of a ring. -/
def modDesc (s : State) (p : NPort) (r : RingId) (k : Nat) (f : Desc → Desc) : State :=
  modRing s p r (fun g => { g with descs := g.descs.map (fun d => if d.k = k then f d else d) })

/-- The read of a descriptor has ended (R316). -/
def descRead (s : State) (p : NPort) (r : RingId) (k : Nat) (res : Option Byte) (w : List (W64 × Bool)) : State :=
  settleRing (modDesc s p r k (fun d => match res with
    | some st => { d with stage := .failed st }
    | none => if anyPoison w then { d with stage := .failed sPoison } else descOf k (wordBytes w))) p r

/-- Removes a transfer. -/
def dropXfer (s : State) (id : Nat) : State := { s with xfers := tset none s.xfers id none }

/-- The station a stream transfer works for: the stream's source, or its destination on the sink side. -/
def xferStation (s : State) (n k : Nat) (sink : Bool) : Nat :=
  match (partAt s n).image with
  | some img => match img.streams[k]? with
    | some x => if sink then x.dst else x.src
    | none => 0
  | none => 0

/-- Ends a transfer with a final status: its descriptor completes; a stream's run stops. DEDUCED (log 35). -/
def endXfer (s : State) (id : Nat) (e : Ending) : State :=
  match tget none s.xfers id with
  | none => s
  | some x => match x.kind with
    | .stream n k sink => stopRun s n.val { e with item := xferStation s n.val k sink }
    | _ => match x.desc with
      | some ref => complete (dropXfer s id) ref e.status (endDetail e) 0 []
      | none => dropXfer s id

/-- A read of a transfer has failed (R299, R329): an unsupported address, or no last CPLD. DEDUCED (log 35). -/
def failRead (s : State) (id off : Nat) (unsupported : Bool) : State :=
  endXfer s id (if unsupported then { status := sAborted, cause := 5, carried := eRange.toNat, item := off / 64 }
                else { status := sTimeout, item := off / 64 })

/-- A read of a fetch has ended: the next is asked for, or the fetch has ended (R299). -/
def fetchRead (s : State) (no off : Nat) (res : Option Byte) (w : List (W64 × Bool)) : State :=
  match s.fetches.find? (fun x => x.2.no == no) with
  | none => s
  | some (id, f) =>
    match res with
    | some st => setFetch s id { f with res := some (if st = eRange then .unsupported off else .timeout off) }
    | none =>
      let got := f.got ++ w
      if wholeWords f.len ≤ 8 * got.length then
        setFetch s id { f with got := [], res := some (.data ((wordBytes got).take f.len) (poisonIndex got)) }
      else askFetch (setFetch s id { f with got }) f (8 * got.length)

/-- The last CPLD of a read is in, or the read has ended without it (`res`: the status). -/
def readDone (s : State) (p : NPort) (m : Mrd) (res : Option Byte) : State :=
  match m.owner with
  | .desc r k => descRead s p r k res m.got
  | .flush after => pushTxns s (otherPort p) after
  | .fetch no off => fetchRead s no off res m.got
  | .xfer id off =>
    match res with
    | some st => failRead s id off (st == eRange)
    | none => match tget none s.xfers id with
      | some x => { s with xfers := tset none s.xfers id (some { x with buf := x.buf ++ m.got }) }
      | none => s

/-- The outstanding read under a tag. -/
def tagged (s : State) (p : NPort) (tag : Nat) : Option Mrd := (nalAt s p).tags.lookup tag

/-- Frees a tag. -/
def freeRead (s : State) (p : NPort) (tag : Nat) : State :=
  modNal s p (fun n => { n with tags := n.tags.filter (fun x => x.1 != tag) })

/-- CPLD. DEDUCED (log 36). -/
def execCpld (port : NPort) (tag : BitVec 10) (status : Byte) (last : Bool) (_offset : W32) (data : List Byte) (s : State) :
    Host.Outcome State Fault Refusal :=
  whenAon s fun s =>
    let t := tag.toNat
    if (nalAt s port).retired.any (fun x => x.1 == t) then portCount s (.nalson port) 0x40 1
    else match tagged s port t with
    | none => s
    | some m =>
      let w := bytesWords (data.length / 8) data
      let m := { m with got := m.got ++ (if status = 2 then w.map (fun x => (x.1, true)) else w),
                        unsupported := m.unsupported || status == 1 }
      if last then
        let s := freeRead s port t
        let s := readDone s port m (if m.unsupported then some eRange else none)
        pumpReads s port (nalAt s port).waiting.length
      else modNal s port (fun n => { n with tags := n.tags.map (fun x => if x.1 = t then (t, m) else x) })

/-- MRD_TIMEOUT: 50 ms without the last CPLD; the tag stays retired. DESIGN CHOICE (log 10); DEDUCED (log 35). -/
def execMrdTimeout (port : NPort) (tag : BitVec 10) (s : State) : Host.Outcome State Fault Refusal :=
  whenAon s fun s =>
    match tagged s port tag.toNat with
    | some m =>
      if timeCounts s = true ∧ msTicks 50 ≤ since s m.issued then
        let s := freeRead s port tag.toNat
        let s := modNal s port (fun n => { n with retired := n.retired ++ [(tag.toNat, s.time)] })
        let s := readDone s port m (some sTimeout)
        pumpReads s port (nalAt s port).waiting.length
      else s
    | none => s

/-- TAG_RETIRE_EXPIRY: a further 50 ms. -/
def execTagRetireExpiry (port : NPort) (tag : BitVec 10) (s : State) : Host.Outcome State Fault Refusal :=
  whenAon s fun s =>
    match (nalAt s port).retired.lookup tag.toNat with
    | some t =>
      if msTicks 50 ≤ since s t then
        let s := modNal s port (fun n => { n with retired := n.retired.filter (fun x => x.1 != tag.toNat) })
        pumpReads s port (nalAt s port).waiting.length
      else s
    | none => s

/-! Rings enabled and disabled (R312, R335) -/

/-- The field checks of RING_CFG and RING_ERR_CFG. -/
def cfgBad (v : W32) : Option Byte :=
  if v &&& 0xFFFFC000 ≠ 0 then some eReserved
  else if bits v 4 0 = 0 then (if bitAt v 13 then some eRange else none)
  else inRange (bits v 4 0) 6 16

/-- A write of RING_CFG of ring r of port p through port q. -/
def ringCfgWrite (s : State) (q p : NPort) (r : RingId) (v : W32) : Byte × State :=
  let g := ringAt s p r
  if q ≠ p then (eOwner, s)
  else match cfgBad v with
    | some st => (st, s)
    | none =>
      if cfgEnabled g.cfg then
        if cfgEnabled v then (if v = g.cfg then (ok, s) else (eState, s))
        else if !(owed g).isEmpty then (eState, s)
        else (ok, modRing s p r (fun g => { g with cfg := v, stopped := false }))
      else if cfgEnabled v then
        (ok, modRing s p r (fun g => { g with
          cfg := v, stopped := false, lastDbl := g.seq0 - 1, prod := 0, nextK := 0, avail := 0, descs := [] }))
      else (ok, modRing s p r (fun g => { g with cfg := v }))

/-- The offset of a ring's registers. -/
def ringOff (p : NPort) (r : RingId) : Nat := 0x200000 + 0x10000 * p.val + 0x40 * r.val

/-- RING_ENABLE: a write of RING_CFG. -/
def execRingEnable (a : Access) (p : NPort) (ring : RingId) (v : W32) (s : State) : Host.Outcome State Fault Refusal :=
  whenAon s fun s => setupWrite s a (ringOff p ring + 0x10) (fun s => ringCfgWrite s a.port p ring v)

/-- RING_DISABLE: a write of RING_CFG. -/
def execRingDisable (a : Access) (p : NPort) (ring : RingId) (v : W32) (s : State) : Host.Outcome State Fault Refusal :=
  whenAon s fun s => setupWrite s a (ringOff p ring + 0x10) (fun s => ringCfgWrite s a.port p ring v)

/-- A write of RING_ERR_CFG of port p through port q. DEDUCED (log 24). -/
def errCfgWrite (s : State) (q p : NPort) (v : W32) : Byte × State :=
  let e := errAt s p
  if q ≠ p then (eOwner, s)
  else match cfgBad v with
    | some st => (st, s)
    | none =>
      if cfgEnabled e.cfg && cfgEnabled v then (if v = e.cfg then (ok, s) else (eState, s))
      else if cfgEnabled v then (ok, modErr s p (fun e => { e with cfg := v, prod := 0, cons := 0 }))
      else (ok, modErr s p (fun e => { e with cfg := v }))

/-- ERROR_RING_ENABLE: a write of RING_ERR_CFG. -/
def execErrorRingEnable (a : Access) (p : NPort) (v : W32) (s : State) : Host.Outcome State Fault Refusal :=
  whenAon s fun s => setupWrite s a (0x201008 + 0x10000 * p.val) (fun s => errCfgWrite s a.port p v)

/-- ERROR_RING_DISABLE: a write of RING_ERR_CFG. -/
def execErrorRingDisable (a : Access) (p : NPort) (v : W32) (s : State) : Host.Outcome State Fault Refusal :=
  whenAon s fun s => setupWrite s a (0x201008 + 0x10000 * p.val) (fun s => errCfgWrite s a.port p v)

/-- NOP descriptor. -/
def execNopDescriptor (port : NPort) (ring : RingId) (s : State) : Host.Outcome State Fault Refusal :=
  whenAon s fun s => withDescriptor s port ring 0x00 fun s ref _ => completeOk s ref 0

end Sys2Proof.Machine
end

