-- ==== Sys2Proof/Machine/Transfers.lean ====
section
/-! DEFINITION. Transfers: COPY_IN and COPY_OUT (R323), the words that leave for the host (R269), gradients (R164–R166), Myarn
writes (R359), and the streams between stack, host or Myarn and the hamper buffers (R35, R144, R145, R179), as MANGLE_TRANSFER
moves them. -/

namespace Sys2Proof.Machine

/-- A change of a transfer. -/
def setXfer (s : State) (id : Nat) (x : Xfer) : State := { s with xfers := tset none s.xfers id (some x) }

/-! Hamper buffers (R179) -/

/-- The hamper word at byte o of a buffer. -/
def bufWord (b : HBuf) (o : Nat) : Nat := (b.units.getD (o % b.size / 4096) 0 * 4096 + o % 4096) / 8

/-- The hamper buffer of a stream of a partition. -/
def bufOf (s : State) (n k : Nat) : Option HBuf := ((partAt s n).run).bind (fun r => r.bufs.lookup k)

/-- Bytes free in a buffer. -/
def HBuf.room (b : HBuf) : Nat := b.size - (b.put - b.got)

/-- Changes a buffer's counts. -/
def setBuf (s : State) (n k : Nat) (b : HBuf) : State :=
  modPart s n (fun p => { p with run := p.run.map (fun r => { r with
    bufs := r.bufs.map (fun x => if x.1 = k then (k, b) else x) }) })

/-- Puts words into a stream's buffer. -/
def bufPut (s : State) (n k : Nat) (l : List (W64 × Bool)) : State :=
  match bufOf s n k with
  | none => s
  | some b =>
    let s := (l.zipIdx).foldl (fun s x => writeWord s .hamper (bufWord b (b.put + 8 * x.2)) x.1) s
    setBuf s n k { b with put := b.put + 8 * l.length }

/-- Reads n words of a buffer from byte o. -/
def bufRead (s : State) (b : HBuf) (o : Nat) : Nat → List (W64 × Bool) × State
  | 0 => ([], s)
  | n + 1 =>
    let x := readWord s .hamper (bufWord b o)
    let r := bufRead x.2 b (o + 8) n
    (x.1 :: r.1, r.2)

/-- Takes n words out of a stream's buffer. -/
def bufGet (s : State) (n k words : Nat) : List (W64 × Bool) × State :=
  match bufOf s n k with
  | none => ([], s)
  | some b =>
    let r := bufRead s b b.got words
    (r.1, setBuf r.2 n k { b with got := b.got + 8 * words })

/-! Words for the host (R269) -/

/-- The bytes that leave: a poisoned word as eight zero bytes. -/
def hostBytes (l : List (W64 × Bool)) : List Byte := l.flatMap (fun x => if x.2 then zeros 8 else leBytes x.1.toNat 8)

/-- The offset, in words from `base`, of the first poisoned word. -/
def firstPoison (base : Nat) (l : List (W64 × Bool)) : Option Nat := (firstIdx (fun x => x.2) 0 l).map (fun i => base + i)

/-- Sends bytes to host memory in writes that cross no 4 KiB boundary (R297). -/
def sendHost (s : State) (p : NPort) (addr : W64) : Nat → List Byte → State
  | 0, _ => s
  | _, [] => s
  | fuel + 1, b =>
    let n := hostChunk addr.toNat b.length
    sendHost (pushTxn s p (.mwr addr (b.take n))) p (addr + BitVec.ofNat 64 n) fuel (b.drop n)

/-- Completes a descriptor's transfer to the host: OK, or S_POISON with the first poisoned word. -/
def finishOut (s : State) (id : Nat) (x : Xfer) (result : W64) : State :=
  match x.desc with
  | some ref =>
    let s := dropXfer s id
    match x.poison with
    | some k => complete s ref sPoison (endDetail { status := sPoison, item := k }) result [x.port]
    | none => complete s ref ok 0 result [x.port]
  | none => dropXfer s id

/-! COPY_IN and COPY_OUT (R321–R323) -/

/-- The checks that COPY_IN and COPY_OUT share: alignment, length, the stack range, reach. DEDUCED (log 30, 31). -/
def copyBad (s : State) (n host stack len : Nat) : Option Byte :=
  if host % 8 ≠ 0 ∨ len % 64 ≠ 0 ∨ stack % 64 ≠ 0 then some eAlign
  else if len = 0 then some eRange
  else match stackBad s stack len 64 with
    | some st => some st
    | none => if inReach s n stack len then none else some ePartition

/-- COPY_IN. -/
def execCopyIn (port : NPort) (ring : RingId) (s : State) : Host.Outcome State Fault Refusal :=
  whenAon s fun s => withDescriptor s port ring 0x08 fun s ref d =>
    let a := (arg d 1).toNat
    let n := bits (arg d 2) 31 0
    match copyBad s (descPart d) (arg d 0).toNat a n with
    | some st => reject s ref st 7 0
    | none => match hostWriteBad s a n with
      | some st => reject s ref st 7 0
      | none =>
        if busyStack s a false (n / 64) then reject s ref eBusyRange 7 0
        else acceptDesc (addXfer s { kind := .copyIn, desc := some ref, part := partFin (descPart d),
                                     src := arg d 0, dst := arg d 1, len := n, port }) ref

/-- COPY_OUT. -/
def execCopyOut (port : NPort) (ring : RingId) (s : State) : Host.Outcome State Fault Refusal :=
  whenAon s fun s => withDescriptor s port ring 0x09 fun s ref d =>
    let a := (arg d 0).toNat
    let n := bits (arg d 2) 31 0
    match copyBad s (descPart d) (arg d 1).toNat a n with
    | some st => reject s ref st 7 0
    | none => acceptDesc (addXfer s { kind := .copyOut, desc := some ref, part := partFin (descPart d),
                                      src := arg d 0, dst := arg d 1, len := n, port }) ref

/-- Asks the host for the next bytes of a transfer, when nothing is outstanding. -/
def askNext (s : State) (id : Nat) (x : Xfer) (p : NPort) (addr left : Nat) : State :=
  if x.asked = x.moved ∧ 0 < left then
    let n := hostChunk addr left
    askRead (setXfer s id { x with asked := x.asked + n, port := p }) p
      { addr := BitVec.ofNat 64 addr, len := n, owner := .xfer id x.moved }
  else s

/-- n words of the stacks from address a, as the Mangle takes them over the L0 crossings (R13). -/
def readCrossing (s : State) (a n : Nat) (bad : List Nat) : List (W64 × Bool) × State :=
  let r := readStack s a n
  crossWords r.2 6 0 bad r.1

/-- n words of a stream's buffer, as the Mangle takes them over the L0 crossings (R13). -/
def getCrossing (s : State) (n k words : Nat) (bad : List Nat) : List (W64 × Bool) × State :=
  let r := bufGet s n k words
  crossWords r.2 6 0 bad r.1

/-- A step of a COPY_IN: words that have come are written unless their range is busy; else the next are asked for. -/
def stepCopyIn (s : State) (id : Nat) (x : Xfer) (bad : List Nat) : State :=
  match x.buf with
  | [] => askNext s id x x.port (x.src.toNat + x.moved) (x.len - x.moved)
  | l =>
    let a := x.dst.toNat + x.moved
    let n := 8 * l.length
    if busyStack s (a - a % 64) false (ceilDiv (a % 64 + n) 64) then s
    else
      let y := crossWords s 6 0 bad l
      let s := writeStack y.2 a y.1
      if x.len ≤ x.moved + n then
        (match x.desc with | some ref => complete (dropXfer s id) ref ok 0 0 [] | none => dropXfer s id)
      else setXfer s id { x with buf := [], moved := x.moved + n }

/-- A step of a COPY_OUT: up to 4 KiB, held while they lie in a busy output range (R223). -/
def stepCopyOut (s : State) (id : Nat) (x : Xfer) (bad : List Nat) : State :=
  let a := x.src.toNat + x.moved
  let n := hostChunk (x.dst.toNat + x.moved) (x.len - x.moved)
  if busyStack s (a - a % 64) true (ceilDiv (a % 64 + n) 64) then s
  else
    let r := readCrossing s a (n / 8) bad
    let s := sendHost r.2 x.port (x.dst + BitVec.ofNat 64 x.moved) 2 (hostBytes r.1)
    let x := { x with moved := x.moved + n, poison := x.poison <|> firstPoison (x.moved / 8) r.1 }
    if x.len ≤ x.moved then finishOut s id x 0 else setXfer s id x

/-! Gradients (R164–R166) -/

/-- A block of 32 BF16 values packed by R165: scale code and elements. -/
def packGrad (vals : List Num) : Nat × List Byte :=
  let c := convBlock 0 1 true false vals 0
  (c.scale, c.codes.map (BitVec.ofNat 8))

/-- The bytes of a gradient tile as delivered: grad_fmt 1 its elements, grad_fmt 0 packed. -/
def gradBytes (fmt : Nat) (b : List Byte) : List Byte :=
  if fmt = 1 then b.take 8192
  else
    let blks := (upFrom 0 128).map (fun k => packGrad ((upFrom 0 32).map (fun i => bf16 (field b (64 * k + 2 * i) 2))))
    blks.flatMap (fun x => x.2) ++ blks.map (fun x => BitVec.ofNat 8 x.1)

/-- A step of a GRAD_FETCH: one tile, or the values of one carrier tile of the statistics. -/
def stepGrad (s : State) (id : Nat) (x : Xfer) (bad : List Nat) : State :=
  let e := pbAt s x.src.toNat
  let tiles := e.tiles * e.gradTile
  let out := fun (s : State) (b : List Byte) (p : Option Nat) =>
    let s := sendHost s x.port (x.dst + BitVec.ofNat 64 x.moved) 4 b
    let x := { x with moved := x.moved + b.length, poison := x.poison <|> p }
    if x.len ≤ x.moved then finishOut s id x (BitVec.ofNat 64 x.len) else setXfer s id x
  if x.moved < tiles then
    if busyTable s (e.grad + x.moved / e.gradTile * 8256) 8256 then s
    else
    let r := readCrossing s (e.grad + x.moved / e.gradTile * 8256) 1032 bad
    if anyPoison r.1 then out r.2 (zeros e.gradTile) (some (x.moved / 8))
    else out r.2 (gradBytes e.gradFmt (wordBytes r.1)) none
  else
    let t := (x.moved - tiles) / 8192
    let n := min 8192 (x.len - x.moved)
    if busyTable s (e.stats + t * 8256) n then s
    else
    let r := readCrossing s (e.stats + t * 8256) (n / 8) bad
    out r.2 (hostBytes r.1) (firstPoison (x.moved / 8) r.1)

/-! Myarn packets (R350, R358, R359) -/

/-- A packet under a route, with p = 1 (R352). -/
def packetOf (s : State) (r : Route) (kind : Byte) (ident : BitVec 16) (arg_ : W64) (l : List (W64 × Bool)) : Packet :=
  { segment := r.seg + 1, relay := BitVec.ofNat 16 r.relay, dst := BitVec.ofNat 8 r.dst, kind, dstId := r.dstId, ident,
    len := BitVec.ofNat 16 (8 * l.length), srcId := s.moduleId, arg := arg_, data := wordBytes l, poison := poisonIndex l }

/-- The port a route leaves by. -/
def routePort (r : Route) : MPort := ⟨hop r.seg 0 % 8, Nat.mod_lt _ (by decide)⟩

/-- The route of three words. -/
def routeOf (l : List W64) : Route := ⟨l.getD 0 0, l.getD 1 0, l.getD 2 0⟩

/-- Queues a packet of channel c at a Myarn port. -/
def queuePacket (s : State) (p : MPort) (c : Nat) (o : OutPkt) : State :=
  modMya s p.val (fun x => match c with
    | 0 => { x with v0 := x.v0 ++ [o] } | 1 => { x with v1 := x.v1 ++ [o] } | _ => { x with v2 := x.v2 ++ [o] })

/-- A step of a MYA_WRITE: one packet, held while its source lies in a busy output range. The transfer ends once its last packet
is acknowledged. -/
def stepMyaWrite (s : State) (id : Nat) (x : Xfer) (stream : BitVec 16) (route : List W64) (bad : List Nat) : State :=
  let a := x.src.toNat + x.moved
  let n := hostChunk (x.dst.toNat + x.moved) (x.len - x.moved)
  if n = 0 ∨ busyStack s a true (ceilDiv n 64) = true then s
  else
    let r := readCrossing s a (n / 8) bad
    let p := packetOf s (routeOf route) 2 stream (x.dst + BitVec.ofNat 64 x.moved) r.1
    let s := setXfer r.2 id { x with moved := x.moved + n }
    queuePacket s (routePort (routeOf route)) 0 ⟨p, none, some id, decide (x.len ≤ x.moved + n)⟩

/-! Streams (R35, R144, R145, R179, R358) -/

/-- A tile's bytes transposed: element (r, c) becomes (c, r), valid_rows and valid_cols change places (R145). Each output word
that takes a byte of a poisoned word is poisoned (R267). -/
def transposeTile (tag : Nat) (l : List (W64 × Bool)) : List (W64 × Bool) :=
  let b := wordBytes l
  let w := rowBytes tag / 64
  let size := 64 * rowBytes tag
  let src := fun (i : Nat) =>
    if i < size then
      let r := i / rowBytes tag
      let c := i % rowBytes tag / w
      c * rowBytes tag + r * w + i % w
    else if i = size + 24 then size + 25 else if i = size + 25 then size + 24 else i
  (upFrom 0 l.length).map (fun k =>
    let is_ := (upFrom (8 * k) 8).map src
    (BitVec.ofNat 64 (leNat (is_.map (fun i => b.getD i 0))), is_.any (fun i => ((l[i / 8]?).getD (0, false)).2)))

/-- A stream of the image of a partition. -/
def streamAt (s : State) (n k : Nat) : Option Stream := ((partAt s n).image).bind (fun i => i.streams[k]?)

/-- A slot of the run of a partition. -/
def slotAt (s : State) (n i : Nat) : Option Slot := ((partAt s n).run).bind (fun r => r.slots[i]?)

/-- The base address of slot i of a partition's run: a range's address, or the copy of a block held since the run's start
(R163). -/
def slotBase (s : State) (n i : Nat) : Nat :=
  match (partAt s n).run with
  | some r => match r.resolved.lookup i with
    | some a => a
    | none => match r.slots[i]? with | some x => x.a.toNat | none => 0
  | none => 0

/-- The Nalson port a host station uses now (R35): the one it names; for either, the mapped port while it is up. -/
def stationPort (s : State) (n : Nat) (st : Station) : NPort :=
  match st.par 2 with
  | 0 => 0
  | 1 => 1
  | _ => if nalUp s (portOf s n) then portOf s n else otherPort (portOf s n)

/-- Counts the port that a run's host writes use (R302). -/
def notePort (s : State) (n : Nat) (p : NPort) : State :=
  modPart s n (fun x => { x with run := x.run.map (fun r => { r with ports := if r.ports.contains p then r.ports else r.ports ++ [p] }) })

/-- Numbers the write of an either-port station until it is acknowledged (R307). DEDUCED (log 37). -/
def eitherWrite (s : State) (p : NPort) (t : Txn) : State :=
  modNal s p (fun n => { n with either := n.either ++ [(n.eitherSeq, t)], eitherSeq := n.eitherSeq + 1 })

/-- A source's step: a stack-in station moves one tile into its buffer when there is room and nothing holds it. -/
def stepStackIn (s : State) (id : Nat) (x : Xfer) (n k : Nat) (st : Station) (sm : Stream) (base : Nat) (bad : List Nat) : State :=
  let size := kcSize sm.fmt sm.kc
  match bufOf s n k with
  | none => s
  | some b =>
    let a := base + x.moved / size * st.par 1
    if x.len ≤ x.moved ∨ b.room < size ∨ busyStack s a true (size / 64) = true then s
    else
      let r := readCrossing s a (size / 8) bad
      bufPut (setXfer r.2 id { x with moved := x.moved + size }) n k
        (if st.par 2 = 1 then transposeTile sm.fmt r.1 else r.1)

/-- A sink's step: a stack-out station writes one tile; a busy range refuses it and ends the run (R225). -/
def stepStackOut (s : State) (id : Nat) (x : Xfer) (n k : Nat) (st : Station) (sm : Stream) (base : Nat) (bad : List Nat) : State :=
  let size := kcSize sm.fmt sm.kc
  match bufOf s n k with
  | none => s
  | some b =>
    let a := base + x.moved / size * st.par 1
    if x.len ≤ x.moved ∨ b.put - b.got < size then s
    else if busyStack s a false (size / 64) then
      stopRun (raise s { kind := kBusyRange, unit := uNbu, id := (stackPlace s a).1, part := some n, station := some sm.dst,
                         status := eBusyRange }) n { status := sAborted, cause := 5, carried := eBusyRange.toNat }
    else
      let r := bufGet s n k (size / 8)
      let y := crossWords r.2 6 0 bad r.1
      writeStack (setXfer y.2 id { x with moved := x.moved + size }) a y.1

/-- The host address and the bytes left in the tile at which a stream's host transfer stands. -/
def hostPlace (x : Xfer) (size stride base : Nat) : Nat × Nat :=
  (base + x.moved / size * stride + x.moved % size, size - x.moved % size)

/-- A source's step: a host-in station puts what has come into its buffer, else asks for the next bytes. -/
def stepHostIn (s : State) (id : Nat) (x : Xfer) (n k : Nat) (st : Station) (sm : Stream) (base : Nat) (bad : List Nat) : State :=
  let size := kcSize sm.fmt sm.kc
  let h := hostPlace x size (st.par 1) base
  match x.buf, bufOf s n k with
  | [], some _ =>
    let p := stationPort s n st
    if x.len ≤ x.moved ∨ nalUp s p = false then s else askNext s id x p h.1 h.2
  | l, some b =>
    if b.room < 8 * l.length then s
    else
      let y := crossWords s 6 0 bad l
      bufPut (setXfer y.2 id { x with buf := [], moved := x.moved + 8 * l.length }) n k y.1
  | _, none => s

/-- A sink's step: a host-out station sends up to 4 KiB of what its buffer holds; the first poisoned word of a run is reported
(R269). -/
def stepHostOut (s : State) (id : Nat) (x : Xfer) (n k : Nat) (st : Station) (sm : Stream) (base : Nat) (bad : List Nat) : State :=
  let size := kcSize sm.fmt sm.kc
  let h := hostPlace x size (st.par 1) base
  let p := stationPort s n st
  match bufOf s n k with
  | none => s
  | some b =>
    let m := hostChunk h.1 h.2
    if x.len ≤ x.moved ∨ b.put - b.got < m ∨ nalUp s p = false then s
    else
      let r := getCrossing s n k (m / 8) bad
      let t : Txn := .mwr (BitVec.ofNat 64 h.1) (hostBytes r.1)
      let s := pushTxn (notePort r.2 n p) p t
      let s := if st.par 2 = 2 then eitherWrite s p t else s
      let first := firstPoison ((h.1 - base) / 8) r.1
      let s := match x.poison, first with
        | none, some o =>
          modPart (raise s { kind := kPoisonSent, unit := uPart, id := n, part := some n, station := some sm.dst, status := sPoison,
                             detail := o }) n
            (fun q => { q with run := q.run.map (fun r => { r with poisoned := r.poisoned <|> some sm.dst }) })
        | _, _ => s
      setXfer s id { x with moved := x.moved + m, poison := x.poison <|> first }

/-- A sink's step: a myarn-out station sends one packet of a tile, once the packet of a stream before it has
left the port's queue (R358). DEDUCED (log 44). -/
def stepMyarnOut (s : State) (id : Nat) (x : Xfer) (n k : Nat) (st : Station) (sm : Stream) (bad : List Nat) : State :=
  let size := kcSize sm.fmt sm.kc
  match bufOf s n k, slotAt s n (st.par 2) with
  | some b, some sl =>
    let m := min 4096 (size - x.moved % size)
    let route : Route := ⟨sl.a, sl.b, sl.c⟩
    let waits := (myaAt s (routePort route).val).v0.any (fun o => o.input.isNone && o.pkt.kind == 1)
    if x.len ≤ x.moved ∨ b.put - b.got < m ∨ waits then s
    else
      let r := getCrossing s n k (m / 8) bad
      let p := packetOf s route 1 (BitVec.ofNat 16 (st.par 0)) 0 r.1
      let s := setXfer r.2 id { x with moved := x.moved + m }
      let key := n * 65536 + st.par 0 % 65536
      let s := { s with sent := tmod {} s.sent key (fun e => { e with count := e.count + BitVec.ofNat 32 m }) }
      queuePacket s (routePort route) 0 ⟨p, none, none, false⟩
  | _, _ => s

/-- A step of a stream's transfer. -/
def stepStream (s : State) (id : Nat) (x : Xfer) (n k : Nat) (sink : Bool) (bad : List Nat) : State :=
  match (partAt s n).image, streamAt s n k with
  | some img, some sm =>
    match img.stations[if sink then sm.dst else sm.src]?, (partAt s n).run with
    | some st, some r =>
      let base := slotBase s n (st.par 0)
      if r.stop.isSome then s
      else match sink, st.kind with
        | false, 5 => stepStackIn s id x n k st sm base bad
        | true, 6 => stepStackOut s id x n k st sm base bad
        | false, 7 => stepHostIn s id x n k st sm base bad
        | true, 8 => stepHostOut s id x n k st sm base bad
        | true, 10 => stepMyarnOut s id x n k st sm bad
        | _, _ => s
    | _, _ => s
  | _, _ => s

/-- Whether a transfer's engine may begin an access: it has not stopped (R473); in ride-through 16 of the 64 may (R430).
DEDUCED (log 113). -/
def engineWorks (s : State) (id : Nat) : Bool :=
  engineRuns s id && (hemWorks s || (s.hemReset.isNone && s.hup.loss == .ride && decide (id % 64 < 16)))

/-- MANGLE_TRANSFER: the next step of one transfer; the words named become uncorrectable on an L0 crossing (R13).
DESIGN CHOICE (log 12). -/
def execMangleTransfer (xfer : Nat) (bad : List Nat) (s : State) : Host.Outcome State Fault Refusal :=
  whenAon s fun s =>
    match tget none s.xfers xfer with
    | none => s
    | some x =>
      if !engineWorks s xfer then s
      else match x.kind with
        | .copyIn => stepCopyIn s xfer x bad
        | .copyOut => stepCopyOut s xfer x bad
        | .gradFetch => stepGrad s xfer x bad
        | .myaWrite stream route => stepMyaWrite s xfer x stream route bad
        | .stream n k sink => stepStream s xfer x n.val k sink bad

end Sys2Proof.Machine
end

