-- ==== Sys2Proof/Machine/Runs.lean ====
section
/-! DEFINITION. Images loaded (R56–R59), runs started, stopped and ended (R325–R329), partition resets (R330, R461). -/

namespace Sys2Proof.Machine

/-! Loads -/

/-- PART_LOAD (R56): checks 1 to 18; the partition enters LOADING. -/
def execPartLoad (port : NPort) (ring : RingId) (s : State) : Host.Outcome State Fault Refusal :=
  whenAon s fun s => withDescriptor s port ring 0x01 fun s ref d =>
    let n := descPart d
    let p := partAt s n
    let a := (arg d 0).toNat
    let len := bits (arg d 1) 31 0
    let go := fun (s : State) (stack : Bool) (b : List Byte) =>
      match imageBad s n (nalAt s port).lk.level.toNat len b with
      | some (st, o, item) => reject s ref st o item
      | none =>
        let s := acceptDesc (modPart s n (fun p => { p with
          st := .loading, measurement := Config.sha384 b,
          load := some { desc := ref, stack, addr := arg d 0, image := imageOf b, crc := imageCrc b } })) ref
        if stack then s else beginFetch s (.load n) port (arg d 0) len
    if (p.st != .empty && p.st != .ready) || p.load.isSome || p.thermalHalt then reject s ref eState 1 0
    else if a % 64 ≠ 0 ∨ len % 64 ≠ 0 then reject s ref eAlign 2 0
    else if bitAt (arg d 1) 32 then
      match stackBad s a len 64 with
      | some st => reject s ref st 3 0
      | none =>
        if !(inReach s n a len) then reject s ref ePartition 3 0
        else
          if busyTable s a len then s
          else
            let r := readStack s a (len / 8)
            if anyPoison r.1 then refuseRead (reportPoison r.2 n none) ref sPoison else go r.2 true (wordBytes r.1)
    else withRead s ref (arg d 0) len fun s b => go s false b

/-- Ends a load with the partition EMPTY (R59). -/
def endLoad (s : State) (n : Nat) (l : Load) (e : Ending) : State :=
  complete (modPart (dropFetch s (.load n)) n (fun p => { p with st := .empty, image := none, load := none, stats := [], measurement := 0 }))
    l.desc e.status (endDetail e) 0 []

/-- The first value of a core's generator (R80). -/
def genSeed (seed : W64) (i : Nat) : W64 :=
  let x := seed ^^^ BitVec.ofNat 64 ((i + 1) * 0x9E3779B97F4A7C15)
  if x = 0 then 1 else x

/-- A core as a load leaves it (R58). DEDUCED (log 61). -/
def loadedCore (seed : W64) (i : Nat) (sec : CoreSec) (c : Core) : Core :=
  let clear := fun (a : Arr) => { a with acc := [], scale := [] }
  { c with
    audit := none, esc := [], redo := none,
    eng := [], peg := [], f := clear c.f, g := clear c.g, needle := { c.needle with acc := [], tscale := [] },
    gen := genSeed seed i, progs := sec.subs.map (fun x => (x.2.2, x.2.1)) }

/-- Writes the subsections of a core. -/
def writeSubs (s : State) (core : Nat) (b : List Byte) (sec : CoreSec) : State :=
  sec.subs.foldl (fun s x =>
    writeWords s (.slice core) (x.2.2 / 8) (bytesWords (x.2.1 / 8) (slice b (sec.offset + x.1) x.2.1))) s

/-- The second read's bytes are in and whole: the image is written out (R58). -/
def finishLoad (s : State) (n : Nat) (l : Load) (b : List Byte) : State :=
  let img := l.image
  let s := ((coresOf s n).zip img.cores).zipIdx.foldl (fun s x =>
    modCore (writeSubs s x.1.1 b x.1.2) x.1.1 (loadedCore img.seed x.2 x.1.2)) s
  let s := img.nbus.foldl (fun s d => (dirNbus d).foldl (fun s u => modNbu s u (fun x => { x with program := d.program })) s) s
  completeOk (modPart s n (fun p => { p with
    st := .ready, image := some img, load := none, stats := [], runNo := 0, mode := none,
    measurement := Config.sha384 b })) l.desc img.tag

/-- IMAGE_LOAD_COMPLETE (R58, R59): the second read ends. -/
def execImageLoadComplete (part : PartId) (s : State) : Host.Outcome State Fault Refusal :=
  whenAon s fun s =>
    let n := part.val
    match (partAt s n).load with
    | none => s
    | some l =>
      let whole := fun (s : State) (b : List Byte) =>
        if imageCrc b ≠ l.crc then endLoad s n l { status := sAborted, cause := 1 } else finishLoad s n l b
      if stagingPart s n || s.hemReset.isSome then s
      else if l.lost || (partAt s n).reset.isSome then endLoad s n l { status := sResetAbort }
      else if l.stack then
        if busyTable s l.addr.toNat l.image.length then s
        else
          let r := readStack s l.addr.toNat (l.image.length / 8)
          if anyPoison r.1 then endLoad (reportPoison r.2 n none) n l { status := sPoison } else whole r.2 (wordBytes r.1)
      else fetched s (.load n) l.desc.port l.addr l.image.length fun s r => match r with
        | .unsupported o => endLoad s n l { status := sAborted, cause := 5, carried := eRange.toNat, item := o / 64 }
        | .timeout o => endLoad s n l { status := sTimeout, item := o / 64 }
        | .portDown => endLoad s n l { status := sLinkDown }
        | .data b [] => whole s b
        | .data _ _ => endLoad s n l { status := sPoison }

/-! Slot tables (R325, R326) -/

/-- Slot i from its 32 bytes. -/
def slotOf (e : List Byte) : Slot :=
  ⟨field e 0 1, BitVec.ofNat 64 (field e 8 8), BitVec.ofNat 64 (field e 16 8), BitVec.ofNat 64 (field e 24 8)⟩

/-- Whether an entry is legal (R325, R207, R352). DEDUCED (log 137). -/
def slotOk (s : State) (e : List Byte) : Bool :=
  let x := slotOf e
  decide (x.kind ≤ 4) && field e 1 7 == 0 && (x.kind == 0 || x.kind == 4 || x.c == 0) &&
  (x.kind != 3 || (x.a.toNat / 2 ^ 17 == 0 && x.b == 0)) &&
  (x.kind != 1 || (stackBad s x.a.toNat x.b.toNat 64).isNone) &&
  (x.kind != 4 || Route.legal s.variant ⟨x.a, x.b, x.c⟩)



/-- The slots a station names with the kinds they must have (R326). -/
def slotNeeds (st : Station) : List (Nat × List Nat) :=
  match st.kind with
  | 4 => (if st.par 4 = 0 then [] else [(st.par 6, [3])]) ++ (if st.par 4 = 2 then [(st.par 7, [3])] else [])
  | 5 => [(st.par 0, [1, 3])]
  | 6 => [(st.par 0, [1])]
  | 7 => [(st.par 0, [2])]
  | 8 => [(st.par 0, [2])]
  | 10 => [(st.par 2, [4])]
  | 11 => [(st.par 0, [1])]
  | _ => []

/-- The bytes a station moves through a slot of kind 1 or 2 (check 4 of R327). -/
def slotSpan (img : Image) (k : Nat) (st : Station) : Nat :=
  let l := img.streams.filter (fun x => x.src == k || x.dst == k)
  if l.isEmpty ∨ st.kind < 5 ∨ 8 < st.kind then 0
  else (l.foldl (fun a x => max a x.tiles) 1 - 1) * st.par 1 + stationTile img k

/-- Whether a slot names an entry that its partition owns, if it is of kind 3 (R326). -/
def slotOwned (s : State) (n : Nat) (x : Slot) : Bool :=
  x.kind != 3 || (decide (x.a.toNat < pbtCount s) && (pbAt s x.a.toNat).valid && (pbAt s x.a.toNat).part == n)

/-- Check 4 of R327 for a station: kinds, the port of a route (R358), then ownership and reach, then lengths.
DEDUCED (log 30, 54). -/
def stationSlotsBad (s : State) (n : Nat) (img : Image) (l : List Slot) (k : Nat) (st : Station) : Option Byte :=
  let needs := (slotNeeds st).map (fun x => (slotIn l x.1, x.2))
  if needs.any (fun x => !(x.2.contains x.1.kind)) then some eRange
  else if st.kind = 10 ∧ hop (slotIn l (st.par 2)).a 0 ≠ st.par 1 then some eRange
  else if needs.any (fun x => !(slotOwned s n x.1)) then some ePartition
  else if needs.any (fun x => decide (x.1.kind = 1 ∨ x.1.kind = 2) && decide (x.1.b.toNat < slotSpan img k st)) then some eRange
  else none

/-- The first element with an answer, over a list with its indices. -/
def firstOf {α β : Type} (l : List α) (f : Nat → α → Option β) : Option β := (l.zipIdx).findSome? (fun x => f x.2 x.1)

/-! Hamper buffers (R179) -/

/-- The hamper units that the reservations of the Myarn ports take (R347): 804 KiB for each enabled port. DEDUCED (log 51). -/
def hamperReserved (v : Variant) : Nat := 201 * myarnPorts v

/-- The units of the hamper that no buffer holds, that are not withdrawn and not reserved (R347, R523); the reservations are the lowest
units that no buffer holds. DEDUCED (log 51). -/
def hamperFree (s : State) : List Nat :=
  let used := allParts.flatMap (fun n => match (partAt s n).run with | some r => r.bufs.flatMap (fun x => x.2.units) | none => [])
  ((upFrom 0 16384).filter (fun u => !(s.units.hamperOut.contains (u / 256)) && !(used.contains u))).drop (hamperReserved s.variant)

/-- The banks that wait for the next run start are withdrawn (R281). -/
def withdrawBanks (s : State) : State :=
  { s with units := { s.units with hamperOut := s.units.hamperOut ++ s.units.hamperNext, hamperNext := [] } }

/-- The buffers a run asks for: stream and size. -/
def bufSizes (img : Image) : List (Nat × Nat) :=
  (img.streams.zipIdx.filter (fun x => x.1.route == 2)).map (fun x => (x.2, ceilDiv (4 * kcSize x.1.fmt x.1.kc) 4096 * 4096))

/-- Allocates buffers from a list of free units. DEDUCED (log 51, 52). -/
def allocBufs : List Nat → List (Nat × Nat) → List (Nat × HBuf)
  | _, [] => []
  | free, (k, n) :: l => (k, ⟨free.take (n / 4096), n, 0, 0⟩) :: allocBufs (free.drop (n / 4096)) l

/-! Check 5 of R327 -/

/-- Whether an nbu station has a fenced NBU. -/
def stationFenced (s : State) (st : Station) : Bool := st.kind == 12 && (upFrom st.b0 st.b1).any (nbuFenced s)

/-- Check 5 for gather-append stations (R242, R243). -/
def appendBad (s : State) (n : Nat) (l : List Slot) (st : Station) : Option Byte :=
  if st.kind ≠ 11 then none
  else
    let x := slotIn l (st.par 0)
    let b := peekStack s x.a.toNat 64
    let t := tableOf x.a.toNat b
    let bound := allParts.any (fun m => m != n && (match (partAt s m).run, (partAt s m).image with
      | some r, some img => img.stations.any (fun y => y.kind == 11 &&
          meets ((slotIn r.slots (y.par 0)).a.toNat, (slotIn r.slots (y.par 0)).b.toNat) (x.a.toNat, x.b.toNat))
      | _, _ => false))
    if !(headerOk x.a.toNat x.b.toNat b) then some eRange
    else if bound then some eState
    else if t.heads < st.par 4 + st.par 5 ∨ st.par 1 ≠ t.d ∨ t.layers ≤ st.par 2 then some eRange
    else none

/-- Check 5 for decode stations (R252): the partner's page tag. -/
def decodeBad (s : State) (img : Image) (l : List Slot) (k : Nat) (st : Station) : Option Byte :=
  if st.kind = 12 ∧ rOp st.p = 0x11 then
    match (inputs img k).flatMap (partners img) with
    | pt :: _ =>
      let x := slotIn l (pt.par 0)
      if (tableOf x.a.toNat (peekStack s x.a.toNat 64)).fmt = rTag st.p then none else some eRange
    | [] => none
  else none

/-- Check 5 for fused-backward stations (R156). -/
def gainBad (s : State) (l : List Slot) (st : Station) : Option Byte :=
  if st.kind = 4 ∧ (slotNeeds st).any (fun x =>
      let e := pbAt s (slotIn l x.1).a.toNat
      !(e.rows == 1 && e.cols == st.par 1 && e.tag == 6)) = true then some eRange else none

/-- Whether the device rings of a partition include a failed one (R192). DEDUCED (log 54). -/
def ringsLost (s : State) (n : Nat) : Bool :=
  match shapeOf (clustersOf s n) with
  | some (j0, _, h, ww, we) =>
    ww != 0 && we != 0 && s.units.ringsFailed.any (fun r => decide (2 * j0 ≤ r) && decide (r < 2 * j0 + 2 * h))
  | none => false

/-- The tables that a run start reads (R242, R268): parameter block entries, block table headers, batch maps. -/
def runTables (s : State) (img : Image) (l : List Slot) : List (Nat × Nat) :=
  pbRows s ((l.filter (fun x => x.kind == 3)).map (fun x => x.a.toNat)) ++
  (img.stations.filter (fun st => st.kind == 11)).flatMap (fun st =>
    let x := slotIn l (st.par 0)
    let b := peekStack s x.a.toNat 64
    (x.a.toNat, 64) :: (if headerOk x.a.toNat x.b.toNat b then
      [(x.a.toNat + (tableOf 0 b).offMap, 4 * (tableOf 0 b).mapRows)] else []))

/-- Reads the plans and Seam slot lists of a partition's cores where they are to be checked again (R180); whether a word of them is
poisoned. -/
def readPlans (s : State) (n : Nat) : Bool × State :=
  if (partAt s n).mode = some (tackMode s) then (false, s)
  else (coresOf s n).foldl (fun a c => ([7, 8] : List Nat).foldl (fun a k =>
    let p := (coreAt a.2 c).progs.getD k (0, 0)
    let r := readMem a.2 (.slice c) p.1 p.2
    (a.1 || r.1.2, r.2)) a) (false, s)

/-- The checks 2 to 5 of R327 over a table's entries: status, order and item of the first that fails. DEDUCED (log 54). -/
def runBad (s : State) (n : Nat) (img : Image) (es : List (List Byte)) : Option (Byte × Nat × Nat) :=
  let l := es.map slotOf
  let unaligned := l.any (fun x => decide (x.kind = 1 ∨ x.kind = 2) && (x.a.toNat % 64 != 0 || x.b.toNat % 64 != 0))
  let copies := (validPbs s).flatMap (fun id => let e := pbAt s id; [(e.copy0, e.copyLen), (e.copy1, e.copyLen)])
  if unaligned then some (eAlign, 2, 0)
  else if es.length > 256 ∨ es.any (fun e => !(slotOk s e)) = true then some (eRange, 3, 0)
  else match firstOf img.stations (stationSlotsBad s n img l) with
  | some st => some (st, 4, 0)
  | none =>
  if l.any (fun x => !(slotOwned s n x)) then some (ePartition, 4, 0)
  else if l.any (fun x => x.kind == 1 && !(inReach s n x.a.toNat x.b.toNat)) then some (ePartition, 4, 0)
  else match (if (partAt s n).mode = some (tackMode s) then none else plansBad s n img) with
  | some b => some b
  | none =>
  if (hamperFree (withdrawBanks s)).length < (bufSizes img).foldl (fun a x => a + x.2 / 4096) 0 then some (eNoResource, 5, 0)
  else if ringsLost s n then some (eNoResource, 5, 0)
  else if img.stations.any (fun st => stationFenced s st && st.fallback == 0xFFFF &&
      (upFrom st.b0 st.b1).any (fun u => nbuFenced s u && nbuFenced s (buddyOf u))) then some (eNoResource, 5, 0)
  else if img.stations.any (fun st => st.kind == 6 &&
      (pbTable s :: copies).any (meets ((slotIn l (st.par 0)).a.toNat, (slotIn l (st.par 0)).b.toNat))) then some (eState, 5, 0)
  else match firstOf img.stations (fun _ st => gainBad s l st) with
  | some st => some (st, 5, 0)
  | none => match firstOf img.stations (fun _ st => appendBad s n l st) with
  | some st => some (st, 5, 0)
  | none => (firstOf img.stations (decodeBad s img l)).map (fun st => (st, 5, 0))

/-! Run starts -/

/-- Accepts a run over its slots (R327): the buffers are allocated, the rails begin to rise. DEDUCED (log 52). -/
def acceptRun (s : State) (n : Nat) (ref : DescRef) (seq : W32) (img : Image) (es : List (List Byte)) : State :=
  let l := es.map slotOf
  let s := withdrawBanks s
  let run : Run := { desc := ref, seq, slots := l, bufs := allocBufs (hamperFree s) (bufSizes img) }
  let s := modPart s n (fun p => { p with
    st := .running, mode := some (tackMode s), run := some run, ran := p.ran ++ [(ref.port.val * 64 + ref.ring.val, seq)] })
  acceptDesc (retarget s false) ref

/-- PART_RUN (R327). -/
def execPartRun (port : NPort) (ring : RingId) (s : State) : Host.Outcome State Fault Refusal :=
  whenAon s fun s => withDescriptor s port ring 0x02 fun s ref d =>
    let n := descPart d
    let p := partAt s n
    let a := (arg d 0).toNat
    let k := bits (arg d 1) 8 0
    let go := fun (s : State) (img : Image) (b : List Byte) =>
      let es := entries b 0 32 k
      match runBad s n img es with
      | some (st, o, item) => reject s ref st o item
      | none => withTables s ref n (runTables s img (es.map slotOf)) fun s =>
        let q := readPlans s n
        if q.1 then refuseRead (reportPoison q.2 n none) ref sPoison else acceptRun q.2 n ref d.seq img es
    match p.image with
    | none => reject s ref eState 1 0
    | some img =>
      if p.st != .ready || p.noStart || p.reset.isSome then reject s ref eState 1 0
      else if a % 64 ≠ 0 then reject s ref eAlign 2 0
      else if 256 < k then reject s ref eRange 3 0
      else if bitAt (arg d 1) 32 then
        if k ≠ 0 ∧ (stackLegal s a = false ∨ stackEnd s a < a + 32 * k) then reject s ref eRange 3 0
        else if k ≠ 0 ∧ inReach s n a (32 * k) = false then reject s ref ePartition 7 0
        else
          if busyTable s a (32 * k) then s
          else
            let r := readStack s a (4 * k)
            if anyPoison r.1 then refuseRead (reportPoison r.2 n none) ref sPoison else go r.2 img (wordBytes r.1)
      else if k = 0 then go s img []
      else withRead s ref (arg d 0) (32 * k) fun s b => go s img b

/-- A core as a run start leaves it (R328, R53): an engine with an empty program has ended. DEDUCED (log 61). -/
def startedCore (now : W64) (c : Core) : Core :=
  noteWait now { c with
    eng := (upFrom 0 7).foldl (fun t e => tset {} t e { st := if (progOf c e).2 = 0 then .ended else .running }) []
    sreg := [], base := [], peg := [],
    f := { c.f with mStride := 0, kStride := 0, wStride := 0, kept := none },
    g := { c.g with mStride := 0, kStride := 0, wStride := 0, kept := none },
    needle := { c.needle with loaded := false }, rinse := { c.rinse with src := 0, dst := 0 },
    arms := [], nextArm := 0, router := {}, gated := false, waitSince := none, progress := now, excluded := 0, redo := none,
    grad := [] }

/-- The fallback mask of a run (R222). DEDUCED (log 52). -/
def fallbackMask (img : Image) (fallen : List Nat) : Nat :=
  ((((img.stations.zipIdx).filter (fun x => x.1.kind == 12 && x.1.fallback != 0xFFFF)).zipIdx).filter
    (fun x => fallen.contains x.1.2)).foldl (fun a x => a + 2 ^ x.2) 0

/-- The transfers of a run's streams (R35, R179): one for each elastic side of a stream that carries tiles. -/
def streamXfers (n : Nat) (img : Image) (fallen : List Nat) : List Xfer :=
  (img.streams.zipIdx).flatMap (fun y =>
    let x := y.1
    let k := y.2
    let len := x.tiles * kcSize x.fmt x.kc
    let kindOf := fun (i : Nat) => match img.stations[i]? with | some st => st.kind | none => 0
    let make := fun (sink : Bool) => ({ kind := .stream (partFin n) k sink, desc := none, part := partFin n, src := 0, dst := 0, len } : Xfer)
    if x.route ≠ 2 ∨ fallen.contains x.src = true ∨ fallen.contains x.dst = true then []
    else (if [5, 7].contains (kindOf x.src) then [make false] else []) ++
         (if [6, 8, 10].contains (kindOf x.dst) then [make true] else []))

/-- The Myarn stream ids that a partition's stations bind. -/
def boundStreams (img : Image) : List Nat :=
  (img.stations.filter (fun st => st.kind == 9 || st.kind == 10)).map (fun st => st.par 0)

/-- At a run start, a barrier of the partition without parent or children starts with counts of zero (R369). -/
def freshBars (s : State) (n : Nat) : State :=
  { s with bars := (s.bars.map (fun x =>
      let cfg := reg s (0xB00000 + 0x100 * x.1)
      if bits cfg 3 0 = n ∧ bitAt cfg 4 = false ∧ bits cfg 7 5 = 0 then
        (x.1, { x.2 with loc := 0, children := 0, nextLoc := 0, nextChildren := 0, since := none, nextSince := none })
      else x)).filter (fun x => x.2 != {}) }

/-- Row 0 of the tiles of the gains of a run's stations (R156): station, base, bytes. DEDUCED (log 57). -/
def gainTables (s : State) (r : Run) (img : Image) : List (Nat × Nat × Nat) :=
  (img.stations.zipIdx).flatMap (fun x =>
    if x.1.kind = 4 ∧ x.1.par 4 ≠ 0 then
      let e := pbAt s (slotIn r.slots (x.1.par 6)).a.toNat
      (upFrom 0 (ceilDiv (x.1.par 1) 64)).map (fun t => (x.2, e.current + 8256 * t, 128))
    else [])

/-- Reads them: the values of each row, with the poison of their words. -/
def readGains (s : State) (l : List (Nat × Nat × Nat)) : List (Nat × List Acc) × State :=
  l.foldl (fun a x =>
    let r := readStack a.2 x.2.1 (x.2.2 / 8)
    (a.1 ++ [(x.1, r.1.flatMap (fun w => (upFrom 0 4).map (fun i =>
      (⟨BitVec.ofNat 32 (field (leBytes w.1.toNat 8) (2 * i) 2 * 65536), w.2⟩ : Acc))))], r.2)) ([], s)

/-- Begins a run, in the order of R328. -/
def beginRun (s : State) (n : Nat) (r : Run) (img : Image) : State :=
  let p := partAt s n
  let fallen := ((img.stations.zipIdx).filter (fun x => x.1.fallback != 0xFFFF && stationFenced s x.1)).map (fun x => x.2)
  let held := (img.stations.filter (fun st => st.kind == 11)).map (fun st =>
    let x := slotIn r.slots (st.par 0)
    let h := peekStack s x.a.toNat 64
    let t := tableOf x.a.toNat h
    (st.par 0, h, peekStack s (x.a.toNat + t.offMap) (4 * t.mapRows)))
  let copies := ((r.slots.zipIdx).filter (fun x => x.1.kind == 3)).map (fun x => (x.2, (pbAt s x.1.a.toNat).current))
  let gains := readGains s (gainTables s r img)
  let s := gains.2
  let block := leBytes p.runNo.toNat 8 ++ leBytes (fallbackMask img fallen) 8 ++ zeros 48
  let s := modCores s n (startedCore s.time)
  let s := ((clusterList s n).filter (fun c => s.units.fenced.contains c)).foldl (fun s c =>
    (clusterCores c).foldl (fun s k => modCore s k resetCore) s) s
  let s := (coresOf s n).foldl (fun s c => writeWords s (.basket c) (0x3FFC0 / 8) (bytesWords 8 block)) s
  let s := { s with
    sent := (boundStreams img).foldl (fun t i => terase t (n * 65536 + i)) s.sent,
    received := (boundStreams img).foldl (fun t i => terase t (n * 65536 + i)) s.received }
  let s := freshBars s n
  let s := (streamXfers n img fallen).foldl addXfer s
  let s := { s with
    appends := s.appends ++ ((img.stations.zipIdx).filter (fun x => x.1.kind == 11)).map
      (fun x => ({ part := partFin n, station := x.2 } : Append)),
    invokes := s.invokes ++ ((img.stations.zipIdx).filter (fun x => x.1.kind == 12 && !(fallen.contains x.2))).map
      (fun x => ({ part := partFin n, station := x.2 } : Invoke)),
    power := { s.power with budget := tset 0 s.power.budget n 56, borrow := s.power.borrow.filter (fun m => m != n) } }
  modPart s n (fun p => { p with run := some { r with
    started := true, begun := s.time, mv := operatingMv s n, resolved := copies, tables := held, fallen, gains := gains.1 } })

/-- RUN_START (R328): once the rails have risen and every cluster is lit. A rise that fails refuses the run (R376). -/
def execRunStart (part : PartId) (s : State) : Host.Outcome State Fault Refusal :=
  whenAon s fun s =>
    let n := part.val
    match (partAt s n).run, (partAt s n).image with
    | some r, some img =>
      if r.started || r.stop.isSome || stagingPart s n || !(hemWorks s) then s
      else if (halvesOf s n).any (railFailed s) then
        reject (modPart s n (fun p => { p with st := .ready, run := none })) r.desc eState 7 0
      else if (gainTables s r img).any (fun x => busyTable s x.2.1 x.2.2) then s
      else if (halvesOf s n).all (railReady s) then retarget (beginRun s n r img) true
      else s
    | _, _ => s

/-! Run ends -/

/-- Retires what has issued in an engine and may retire (R140). -/
def drainFlight (s : State) (core e : Nat) : Nat → State
  | 0 => s
  | k + 1 => drainFlight (retireHead s core e) core e k

/-- Every engine of a partition retires what it has issued. -/
def drainPart (s : State) (n : Nat) : State :=
  (coresOf s n).foldl (fun s c => (upFrom 0 7).foldl (fun s e => drainFlight s c e ((engAt (coreAt s c) e).flight.length)) s) s

/-- A core as a run's end leaves it: an engine that has not ended is halted, a core or cluster reset is over (R460).
DEDUCED (log 56). -/
def endedCore (c : Core) : Core :=
  (upFrom 0 7).foldl (fun c e => modEng c e (fun x => { x with
    st := if x.st = .ended then .ended else .halted, flight := [], queue := [], loops := [] }))
    { c with inReset := false, gated := false, waitSince := none, arms := [], router := { c.router with ended := true } }

/-- The partition of a stream's transfer. -/
def xferOf (n : Nat) (x : Xfer) : Bool := match x.kind with | .stream m _ _ => m.val == n | _ => false

/-- Takes a partition's machinery out of its run: transfers, appends, decodes, invocations, output waiting in the Hem. -/
def clearRun (s : State) (n : Nat) : State :=
  { s with
    xfers := s.xfers.filter (fun x => match x.2 with | some y => !(xferOf n y) | none => false),
    appends := s.appends.filter (fun x => x.part.val != n), decodes := s.decodes.filter (fun x => x.part.val != n),
    invokes := s.invokes.filter (fun x => x.part.val != n), hemOut := s.hemOut.filter (fun x => x.1 / 65536 != n) }

/-- The partial sums of a fused-backward station over the cores, by column (R156): the cores in ascending partition-relative order. -/
def gradSum (s : State) (n st which c : Nat) : Acc :=
  match (coresOf s n).map (fun k => tget {} (coreAt s k).grad (st * 2 ^ 18 + which * 2 ^ 17 + c)) with
  | [] => {}
  | x :: l => l.foldl (fun a b => ⟨f32add a.v b.v, a.p || b.p⟩) x

/-- Writes dγ or dβ into the gradient region of a block of shape 1 × m: row 0 of BF16 tiles, rounded to nearest even. -/
def writeGrad (s : State) (n st which m : Nat) (e : PbEntry) : State :=
  if busyStack s e.grad false (129 * ceilDiv m 64) then s
  else (upFrom 0 (ceilDiv m 64)).foldl (fun s t =>
    let cols := min 64 (m - 64 * t)
    let v := (upFrom 0 64).map (fun i => if i < cols then gradSum s n st which (64 * t + i) else {})
    let row := (v.zipIdx).map (fun x =>
      (2 * x.2, leBytes ((convElem 6 none .one (f32val x.1.v)).code) 2, x.1.p))
    writeStack s (e.grad + 8256 * t)
      (tileWords 1032 (row ++ [(8192, trailerBytes 6 0 0 0 1 cols 0x3F800000, false)]))) s

/-- The first station whose gains' gradients would be written into a busy range: that write is refused whole (R223). DEDUCED (log 57). -/
def gradBusy (s : State) (r : Run) (img : Image) : Option Nat :=
  firstIdx (fun st => st.kind == 4 && st.par 4 != 0 && ((if st.par 4 = 2 then [6, 7] else [6]).any (fun k =>
    busyStack s (pbAt s (slotIn r.slots (st.par k)).a.toNat).grad false (129 * ceilDiv (st.par 1) 64)))) 0 img.stations

/-- Writes the gains' gradients of a run (R156). DEDUCED (log 57). -/
def writeGrads (s : State) (n : Nat) (r : Run) (img : Image) : State :=
  (img.stations.zipIdx).foldl (fun s x =>
    let st := x.1
    if st.kind ≠ 4 ∨ st.par 4 = 0 then s
    else
      let s := writeGrad s n x.2 0 (st.par 1) (pbAt s (slotIn r.slots (st.par 6)).a.toNat)
      if st.par 4 = 2 then writeGrad s n x.2 1 (st.par 1) (pbAt s (slotIn r.slots (st.par 7)).a.toNat) else s) s

/-- Ends a run: NBU operations of its stations end with its status (R228), its buffers are freed, its completion is posted and the
partition is READY (R329). DEDUCED (log 52, 57, 132). -/
def finishRun (s : State) (n : Nat) (r : Run) (e : Ending) : State :=
  let s := drainPart s n
  let s := failOps s (ofStation n) e.status (endDetail e)
  let g := match (partAt s n).image with
    | some img => if !r.started then (e, s) else match gradBusy s r img with
      | some k =>
        (if e.status = ok then { status := sAborted, cause := 5, carried := eBusyRange.toNat, item := k } else e,
         raise (writeGrads s n r img)
           { kind := kBusyRange, unit := uPart, id := n, part := some n, station := some k, status := eBusyRange })
      | none => (e, writeGrads s n r img)
    | none => (e, s)
  let e := g.1
  let s := g.2
  let s := if r.started then modCores (clearRun s n) n endedCore else clearRun s n
  let result := (partAt s n).runNo
  let s := modPart s n (fun p => { p with
    st := .ready, run := none, runNo := if r.started then p.runNo + 1 else p.runNo, hemLost := false })
  complete s r.desc e.status (endDetail e) result r.ports

/-- Whether every engine of a core has ended; a core in reset runs nothing (R460). DEDUCED (log 56). -/
def coreEnded (c : Core) : Bool := c.inReset || (upFrom 0 7).all (fun e => (engAt c e).st == .ended)

/-- Whether a stream of a run has delivered its tiles: nothing is left to its transfers, and its buffer is empty after all of
them. -/
def streamDone (s : State) (n : Nat) (r : Run) (k : Nat) (x : Stream) : Bool :=
  let len := x.tiles * kcSize x.fmt x.kc
  r.fallen.contains x.src || r.fallen.contains x.dst ||
  ((match r.bufs.lookup k with | some b => b.put == len && b.got == len | none => true) &&
   s.xfers.all (fun y => match y.2 with
     | some t => (match t.kind with | .stream m j _ => m.val != n || j != k || decide (t.len ≤ t.moved) | _ => true)
     | none => true))

/-- How many invocations a run of an nbu station has (R220, R221). -/
def invocationsOf (img : Image) (k : Nat) : Nat :=
  let t := inTiles (stationProg img k)
  if t = 0 then 1 else match inputs img k with | x :: _ => x.tiles / t | [] => 0

/-- Whether a run has ended of itself (R329). -/
def runDone (s : State) (n : Nat) (r : Run) (img : Image) : Bool :=
  (coresOf s n).all (fun c => coreEnded (coreAt s c)) &&
  (img.streams.zipIdx).all (fun x => streamDone s n r x.2 x.1) &&
  s.invokes.all (fun v => v.part.val != n || (!v.running && decide (invocationsOf img v.station ≤ v.number))) &&
  s.appends.all (fun a => a.part.val != n || a.words.isEmpty) &&
  s.nbus.all (fun u => u.2.ops.all (fun o => match o.source with
    | .station m _ _ => m.val != n | .log m _ => m.val != n | .desc _ _ _ => true))

/-- RUN_END (R329). -/
def execRunEnd (part : PartId) (s : State) : Host.Outcome State Fault Refusal :=
  whenAon s fun s =>
    let n := part.val
    match (partAt s n).run, (partAt s n).image with
    | some r, some img =>
      if (partAt s n).reset.isSome || s.hemReset.isSome then s
      else match r.stop with
        | some e => finishRun s n r e
        | none =>
          if r.started && runDone s n r img then
            finishRun s n r (match r.poisoned with
              | some st => { status := sPoison, cause := 6, item := st }
              | none => { status := ok })
          else s
    | _, _ => s

/-- PART_STOP (R324). DEDUCED (log 56). -/
def execPartStop (port : NPort) (ring : RingId) (s : State) : Host.Outcome State Fault Refusal :=
  whenAon s fun s => withDescriptor s port ring 0x03 fun s ref d =>
    let n := descPart d
    let seq := BitVec.ofNat 32 (bits (arg d 0) 31 0)
    let rg := bits (arg d 0) 37 32
    let p := partAt s n
    let live := match p.run with
      | some r => r.desc.port == port && r.desc.ring.val == rg && r.seq == seq
      | none => false
    if live then completeOk (stopRun (acceptDesc s ref) n { status := sAborted, cause := 3 }) ref 0
    else if p.ran.contains (port.val * 64 + rg, seq) then complete s ref sAbortLate 0 0 []
    else reject s ref eRange 7 0

/-! Partition resets -/

/-- Begins a partition reset (R461): every engine stops issuing. One that runs already absorbs it; during a Hem reset it waits for
the resume (R465). -/
def beginReset (s : State) (n : Nat) (refs : List DescRef) : State :=
  if s.hemReset.isSome then
    modPart s n (fun p => { p with resetQueued := some (p.resetQueued.getD [] ++ refs) })
  else match (partAt s n).reset with
    | some x => modPart s n (fun p => { p with reset := some { x with descs := x.descs ++ refs } })
    | none => stopRun (modPart s n (fun p => { p with reset := some ⟨refs, s.time⟩ })) n { status := sResetAbort }

/-- PART_RESET. DEDUCED (log 56). -/
def execPartReset (port : NPort) (ring : RingId) (s : State) : Host.Outcome State Fault Refusal :=
  whenAon s fun s => withDescriptor s port ring 0x04 fun s ref d => beginReset (acceptDesc s ref) (descPart d) [ref]

/-- The accepted descriptors of a partition that are owed their completions, but for some. -/
def partDescs (s : State) (n : Nat) (but : List DescRef) : List DescRef :=
  (bothPorts.flatMap (fun p => (upFrom 0 64).flatMap (fun k =>
    let r : RingId := ⟨k % 64, Nat.mod_lt _ (by decide)⟩
    ((ringAt s p r).descs.filter (fun d => d.stage == .accepted && namesPart d.opcode.toNat && descPart d == n)).map
      (fun d => (⟨p, r, d.k⟩ : DescRef))))).filter (fun x => !(but.contains x))

/-- The tags of reads outstanding for the transfers of a partition retire (R299). -/
def retireTags (s : State) (n : Nat) : State :=
  let mine := fun (m : Mrd) => match m.owner with
    | .xfer id _ => (match tget none s.xfers id with | some x => x.part.val == n | none => false)
    | .fetch no _ => s.fetches.any (fun x => x.1 == .load n && x.2.no == no)
    | _ => false
  bothPorts.foldl (fun s p => modNal s p (fun x => { x with
    tags := x.tags.filter (fun t => !(mine t.2)),
    retired := x.retired ++ (x.tags.filter (fun t => mine t.2)).map (fun t => (t.1, s.time)),
    waiting := x.waiting.filter (fun m => !(mine m)) })) s

/-- A core with its memories' contents gone (R461): accumulators, vector buffer, Rinse registers; counters and halt registers
stay. -/
def wipedCore (c : Core) : Core := { cnt := c.cnt, haltState := c.haltState, haltPc := c.haltPc, gen := c.gen }

/-- Writes the all-zero codeword into the slices and baskets of cores. -/
def wipeMems (s : State) (l : List Nat) : State :=
  l.foldl (fun s c => fillZero (fillZero s (.slice c)) (.basket c)) s

/-- Whether the flip-mask's target lies in partition n: a slice or basket of its cores, or one of its hamper buffers (R283). -/
def flipIn (s : State) (n : Nat) : Bool :=
  let t := s.ecct.target
  if bits t 1 0 = 2 then
    (match (partAt s n).run with
     | some r => r.bufs.any (fun x => x.2.units.contains (bits s.ecct.addr 25 0 / 4096))
     | none => false)
  else partOfCluster s (physCluster (bits t 15 4)) == some n

/-- Disarms the flip-mask with done clear (R283). -/
def disarm (s : State) (n : Nat) : State :=
  if s.ecct.armed && flipIn s n then { s with ecct := { s.ecct with armed := false, done := false } } else s

/-- A barrier with zero counts, not broken, at generation 0: its cumulative count alone stays (R9, R363, R369). -/
def freshBar (b : Bar) : Bar := { releases := b.releases }

/-- Whether a barrier belongs to a partition. -/
def ownedBar (s : State) (n k : Nat) : Bool := barOwner s k == n

/-- Everything of a partition but its clusters and its slip, bubble and statistics registers goes (R461). -/
def wipePart (s : State) (n : Nat) : State :=
  let s := dropFetch (retireTags (disarm s n) n) (.load n)
  let s := clearRun s n
  let s := { s with
    xfers := s.xfers.filter (fun x => match x.2 with | some y => y.part.val != n | none => false),
    bars := (s.bars.map (fun x => if ownedBar s n x.1 then (x.1, freshBar x.2) else x)).filter (fun x => x.2 != {}),
    sent := s.sent.filter (fun x => x.1 / 65536 != n), received := s.received.filter (fun x => x.1 / 65536 != n),
    held := s.held.filter (fun h => h.part.val != n) }
  let s := modCores (wipeMems s (coresOf s n)) n wipedCore
  modPart s n (fun p => { p with
    st := .empty, image := none, load := none, run := none, runNo := 0, mode := none, stats := [], measurement := 0, hemLost := false })

/-- PARTITION_RESET_COMPLETE (R461, R330): the partition becomes EMPTY; descriptors in progress receive S_RESET_ABORT, the reset's own
OK. -/
def execPartitionResetComplete (part : PartId) (s : State) : Host.Outcome State Fault Refusal :=
  whenAon s fun s =>
    let n := part.val
    match (partAt s n).reset with
    | none => s
    | some x =>
      if s.hemReset.isSome then s
      else
        let s := drainPart s n
        let s := { s with kvJobs := s.kvJobs.filter (fun j => !((partDescs s n []).contains j.desc)) }
        let s := failOps s (fun o => o.source.part.val == n) sResetAbort 0
        let s := (partDescs s n x.descs).foldl (fun s ref => complete s ref sResetAbort 0 0 []) s
        let s := modPart (wipePart s n) n (fun p => { p with reset := none })
        x.descs.foldl (fun s ref => completeOk s ref 0) s

end Sys2Proof.Machine
end

