-- ==== Sys2Proof/Machine/Ports.lean ====
section
/-! DEFINITION. Ports that go down and come up: link down (R307, R308, R334, R349), capabilities (R304, R305, R348), training retried,
and the writes of NALn_CTL (R309). -/

namespace Sys2Proof.Machine

/-! A Nalson port goes down -/

/-- Whether a stream's host station on a side may use either port (R35). DEDUCED (log 34). -/
def eitherStream (s : State) (n k : Nat) (sink : Bool) : Bool :=
  match stationAt s n (xferStation s n k sink) with
  | some st => decide (2 ≤ st.par 2)
  | none => false

/-- Whether a transfer is bound to a Nalson port (R307): a descriptor's with host data through it; a stream's whose host station
names it. DEDUCED (log 37). -/
def boundTo (s : State) (p : NPort) (x : Xfer) : Bool :=
  match x.kind with
  | .copyIn => x.port == p
  | .copyOut => x.port == p
  | .gradFetch => x.port == p
  | .myaWrite _ _ => false
  | .stream n k sink => match stationAt s n.val (xferStation s n.val k sink) with
    | some st => (st.kind == 7 || st.kind == 8) && decide (st.par 2 = p.val)
    | none => false

/-- Ends the transfers bound to a port (R307). -/
def endBound (s : State) (p : NPort) : State :=
  s.xfers.foldl (fun t x => match x.2 with
    | some y => if boundTo s p y then endXfer t x.1 { status := sLinkDown } else t
    | none => t) s

/-- A read of an either-port transfer that was out on a port is asked for afresh. DEDUCED (log 34). -/
def askAgain (s : State) (m : Mrd) : State :=
  match m.owner with
  | .xfer id _ => match tget none s.xfers id with
    | some x => setXfer s id { x with asked := x.moved }
    | none => s
  | _ => s

/-- What becomes of the rings of a port that goes down (R334): enabled ones stop, and every descriptor that is not accepted, read or
not, is abandoned and counted in RING_LOST. DEDUCED (log 34). -/
def stopRings (s : State) (p : NPort) : State :=
  (upFrom 0 64).foldl (fun s i =>
    let r : RingId := ⟨i % 64, Nat.mod_lt _ (by decide)⟩
    if cfgEnabled (ringAt s p r).cfg then
      modRing s p r (fun g => { g with
        stopped := true, avail := 0, descs := g.descs.filter (fun d => d.stage == .accepted),
        lost := g.lost + BitVec.ofNat 64 (g.avail + (g.descs.filter (fun d => d.stage != .accepted)).length) })
    else s) s

/-- The runs whose host-out stations may use either port: what they wrote by the falling port goes on by the other, which a completion then
waits for too (R302, R307). DEDUCED (log 34). -/
def carryOver (s : State) (p : NPort) : State :=
  allParts.foldl (fun s n => match (partAt s n).run, (partAt s n).image with
    | some r, some img =>
      if r.ports.contains p && !(r.ports.contains (otherPort p)) && img.stations.any (fun st => st.kind == 8 && decide (2 ≤ st.par 2)) then
        modPart s n (fun x => { x with run := some { r with ports := r.ports ++ [otherPort p] } })
      else s
    | _, _ => s) s

/-- The fetches of a port that goes down end; a load whose second read is out ends with S_LINK_DOWN (R299, R307).
DEDUCED (log 34); DESIGN CHOICE (log 142). -/
def failFetches (s : State) (p : NPort) : State :=
  s.fetches.foldl (fun s x =>
    if x.2.port = p ∧ x.2.res.isNone = true then
      match x.1 with
      | .load n => (match (partAt s n).load with
        | some l => endLoad s n l { status := sLinkDown }
        | none => dropFetch s x.1)
      | .desc _ => dropFetch s x.1
      | .lifeline => setFetch s x.1 { x.2 with got := [], res := some .portDown }
    else s) s

/-- A Nalson port goes down (R307). DEDUCED (log 34). -/
def nalDown (s : State) (p : NPort) : State :=
  let n := nalAt s p
  let s := modNal s p (fun n => { n with
    lk := { phase := .down, since := s.time, failed := n.lk.failed, reference := n.lk.reference, wire := n.lk.wire,
            peerLevels := n.lk.peerLevels }
    egress := [], either := [], tags := [], waiting := [], closing := false })
  let s := raise (portCount s (.nalson p) 0x30 1) { kind := kNalDown, unit := uNalson, id := p.val }
  let s := linkEvent s p 0
  let s := stopRings s p
  let q := otherPort p
  let s := carryOver s p
  let s := pushTxns s q (n.either.map (fun x => x.2))
  let s := n.either.foldl (fun s x => eitherTake s q x.2) s
  let s := if n.either.isEmpty ∨ nalUp s q = false then s else askRead s q { addr := 0, len := 0, owner := .flush [] }
  let s := failFetches s p
  let s := (n.tags.map (fun x => x.2) ++ n.waiting).foldl (fun s m => match m.owner with
    | .flush after => pushTxns s q after
    | _ => askAgain s m) s
  endBound s p
where
  /-- Numbers a resent write at the port it now leaves by. -/
  eitherTake (s : State) (q : NPort) (t : Txn) : State := if nalUp s q then eitherWrite s q t else s

/-! A Myarn port goes down -/

/-- The packets that wait at a port. -/
def Mya.queued (n : Mya) : List OutPkt := n.v0 ++ n.v1 ++ n.v2

/-- The runs whose stations send by a Myarn port stop (R349). -/
def stopSenders (s : State) (p : MPort) : State :=
  allParts.foldl (fun s n =>
    match (partAt s n).run, (partAt s n).image with
    | some _, some img =>
      match firstIdx (fun st => st.kind == 10 && decide (st.par 1 = p.val)) 0 img.stations with
      | some k => stopRun s n { status := sLinkDown, item := k }
      | none => s
    | _, _ => s) s

/-- Descriptors with packets still to leave by a Myarn port end (R349). DEDUCED (log 37). -/
def endWrites (s : State) (p : MPort) : State :=
  s.xfers.foldl (fun t x => match x.2 with
    | some y => (match y.kind with
      | .myaWrite _ r => if routePort (routeOf r) = p then endXfer t x.1 { status := sLinkDown } else t
      | _ => t)
    | none => t) s

/-- A Myarn port goes down (R349): transit packets that wait for it are dropped, counted at the port they came in by. -/
def myaDown (s : State) (p : MPort) : State :=
  let n := myaAt s p.val
  let s := modMya s p.val (fun n => { n with
    lk := { phase := .down, since := s.time, failed := n.lk.failed, reference := n.lk.reference, wire := n.lk.wire,
            peerLevels := n.lk.peerLevels }
    subst := none, asked := none, v0 := [], v1 := [], v2 := [], stallSince := none, stallSeen := false })
  let s := raise (portCount s (.myarn p) 0x30 1) { kind := kMyaDown, unit := uMyarn, id := p.val }
  let drop := fun (c : Nat) (s : State) (o : OutPkt) => match o.input with
    | some i => returnUnits (portCount s (.myarn i) 0x48 1) o.input c o.pkt
    | none => s
  let s := n.v0.foldl (drop 0) s
  let s := n.v1.foldl (drop 1) s
  let s := n.v2.foldl (drop 2) s
  endWrites (stopSenders s p) p

/-- A port goes down. DEDUCED (log 42). -/
def linkDown (s : State) : Link → State
  | .nalson p => nalDown s p
  | .myarn p => myaDown s p

/-- Sends a DOWN flit and goes down, when the port is not down already. -/
def sendDown (s : State) (l : Link) (cause : Byte) : State :=
  if (lkAt s l).phase = .down then s
  else linkDown (emit s l 2 0 (padTo 240 [4, cause]) id) l

/-! Lanes of Myarn ports (R342, R343) -/

/-- A Myarn lane of the lane map fails (R342, R343): the spare takes over at width 8; with the spare in use the port trains at width 4 on its
good lanes; with fewer than 4 it goes down. DEDUCED (log 45). -/
def failMyaLane (s : State) (port : MPort) (lane : Nat) : State :=
  let l : Link := .myarn port
  let n := myaAt s port.val
  if n.lk.phase = .up ∧ (laneMap s l).contains lane = true ∧ bitAt n.lk.failed lane = false then
    let s := modLk s l (fun k => { k with failed := k.failed ||| (1#9 <<< lane) })
    let failed := (lkAt s l).failed
    if n.spared = 0xF ∧ n.asked = none ∧ n.lk.width = 2 ∧ bitAt failed 8 = false then
      control (modMya s port.val (fun n => { n with asked := some (BitVec.ofNat 4 lane) })) l [5, BitVec.ofNat 8 lane]
    else if (goodLanes l failed).length < 4 then linkDown s l
    else beginFull (beginRetrain s l 1) l
  else s

/-- MYARN_LANE_FAIL (R342, R343). DEDUCED (log 45). -/
def execMyarnLaneFail (port : MPort) (lane : Fin 9) (s : State) : Host.Outcome State Fault Refusal :=
  whenAon s fun s => failMyaLane s port lane.val

/-! Which ports may train -/

/-- Whether a port is disabled but has answers to send first (R309). DEDUCED (log 43). -/
def portCloses (s : State) : Link → Bool
  | .nalson p => (nalAt s p).closing
  | .myarn _ => false

/-- Whether a port has the power and the pins to train: past power-good, its receive checked by one tree at least (R473), PERST_N high (R303, R307, R308, R349, R442), enabled; a port that is
still to send its answers counts as enabled (R309). -/
def mayTrain (s : State) (l : Link) : Bool :=
  linkOn s l && (linkEnabled s l || portCloses s l) && s.pins.perst && !(s.pllLost.contains .serdes) && s.hup.loss != .safe &&
  (match l with
   | .nalson _ => decide (3 ≤ s.boot.phase.toNat) || s.boot.lifeImage
   | .myarn p => decide (5 ≤ s.boot.phase.toNat) && !(s.mesh.poisoned.contains (5, p.val)))

/-- CAP (R304, R305, R348): the peer's levels, width, credits and module; a Myarn peer with the device's own module id takes the port down
(R532). In the full training that follows a retraining the credits stand as they are. DESIGN CHOICE (log 38). -/
def execCap (link : Link) (f : Flit) (s : State) : Host.Outcome State Fault Refusal :=
  whenAon s fun s => receiveControl s link 1 [.training, .full] f fun s payload =>
    let levels := BitVec.ofNat 16 (field payload 1 2)
    if bitAt levels 1 then
      let granted := match link with
        | .nalson _ => [field payload 4 2, field payload 6 2, 0]
        | .myarn _ => [field payload 8 2, field payload 10 2, field payload 12 1]
      let own := match link with
        | .myarn _ => decide (field payload 4 4 = s.moduleId.toNat)
        | .nalson _ => false
      if own then linkDown s link
      else
        let s := control (modLk s link (fun k => { k with
          capOk := true, peerLevels := levels, peerWide := decide (8 ≤ field payload 3 1),
          credits := if k.phase = .training then granted else k.credits })) link [2, 2, 0]
        match link with
        | .nalson p => modNal s p (fun n => { n with peerCredit := BitVec.ofNat 32 (field payload 4 2 + field payload 6 2 * 65536) })
        | .myarn p => modMya s p.val (fun n => { n with peer := BitVec.ofNat 32 (field payload 4 4) })
    else levelMismatch s link levels

/-- DOWN (R304): the peer's port is disabled or reset. -/
def execDown (link : Link) (f : Flit) (s : State) : Host.Outcome State Fault Refusal :=
  whenAon s fun s => receiveControl s link 4 [.training, .retraining, .full, .up] f fun s _ => linkDown s link

/-- Whether a port that is not down must go down (R307): disabled, PERST_N low, full training not done in 50 ms, or not up 100 ms
after a retrain began. DEDUCED (log 42). -/
def mustFall (s : State) (l : Link) : Bool :=
  let k := lkAt s l
  (match k.phase with
   | .down => false
   | .training => !(mayTrain s l) || decide (msTicks 50 ≤ since s k.since)
   | .retraining => !(mayTrain s l) || decide (msTicks 100 ≤ since s k.since)
   | .full => !(mayTrain s l) || decide (msTicks 50 ≤ since s k.fullSince) || decide (msTicks 100 ≤ since s k.since)
   | .up => !(mayTrain s l))

/-- PORT_DOWN (R307). DEDUCED (log 42); DESIGN CHOICE (log 145). -/
def execPortDown (link : Link) (s : State) : Host.Outcome State Fault Refusal :=
  whenAon s fun s => if mustFall s link then linkDown s link else s

/-- TRAINING_RETRY (R306, R307): full training, 100 ms after the port went down, or after a fast retrain that is not done in 1 ms.
DESIGN CHOICE (log 42). -/
def execTrainingRetry (link : Link) (s : State) : Host.Outcome State Fault Refusal :=
  whenAon s fun s =>
    if (lkAt s link).phase = .retraining ∧ msTicks 1 ≤ since s (lkAt s link).since then beginFull s link
    else if (lkAt s link).phase = .down ∧ mayTrain s link = true ∧ msTicks 100 ≤ since s (lkAt s link).since then beginTraining s link
    else s

/-! NALn_CTL (R309) -/

/-- Whether an SCPL has still to leave a port. DEDUCED (log 43). -/
def answersWait (s : State) (p : NPort) : Bool :=
  let n := nalAt s p
  !n.lk.outSlots.isEmpty || n.egress.any (fun t => match t with | .scpl _ _ _ => true | _ => false)

/-- Flits leave a port until its answers have. DEDUCED (log 43). -/
def sendAnswers (s : State) (p : NPort) : Nat → State
  | 0 => s
  | n + 1 => if answersWait s p then sendAnswers (transmit s (.nalson p)) p n else s

/-- A write to NALn_CTL of port n through port a.port: its status, and the state after all but going down. -/
def nalCtl (s : State) (q n : NPort) (v : W32) : Byte × State :=
  if q ≠ n ∧ holdsSem s q = false then (eOwner, s)
  else if v &&& 0xFFFC ≠ 0 then (eReserved, s)
  else if bits v 31 16 = 0 then (eRange, s)
  else if bitAt v 1 ∧ (nalAt s n).lk.phase = .down then (eState, s)
  else
    let was := bitAt (nalAt s n).ctl 0
    let s := modNal s n (fun x => { x with ctl := v &&& 0xFFFF0001 })
    let s := if was ∧ bitAt v 0 = false ∧ mayTrain s (.nalson n) = true then beginTraining s (.nalson n) else s
    (ok, if bitAt v 1 ∧ bitAt v 0 = false then beginRetrain s (.nalson n) 3 else s)

/-- A port that is disabled goes down once its answers have left (R309). -/
def closePort (s : State) (p : NPort) : State :=
  if (nalAt s p).closing && !answersWait s p then sendDown s (.nalson p) 0 else s

/-- FLIT_TRANSMIT. -/
def execFlitTransmit (link : Link) (s : State) : Host.Outcome State Fault Refusal :=
  whenAon s fun s =>
    let s := transmit s link
    match link with
    | .nalson p => closePort s p
    | .myarn _ => s

/-- A write to NALn_CTL with its answer; a port that it disables goes down after the SCPL. -/
def nalCtlWrite (s : State) (a : Access) (n : NPort) (v : W32) : State :=
  let s := setupWrite s a (0x100004 + 0x10000 * n.val) (fun s => nalCtl s a.port n v)
  if bitAt (nalAt s n).ctl 0 then
    if a.port = n then
      let s := sendAnswers s n ((nalAt s n).egress.length + (lkAt s (.nalson n)).control.length + 1024)
      closePort (modNal s n (fun x => { x with closing := (lkAt s (.nalson n)).phase != .down })) n
    else sendDown s (.nalson n) 0
  else s

/-- NALSON_RETRAIN_REQUEST: a write of NALn_CTL. -/
def execNalsonRetrainRequest (a : Access) (n : NPort) (v : W32) (s : State) : Host.Outcome State Fault Refusal :=
  whenAon s fun s => nalCtlWrite s a n v

/-- NALSON_DISABLE: a write of NALn_CTL. DEDUCED (log 43). -/
def execNalsonDisable (a : Access) (n : NPort) (v : W32) (s : State) : Host.Outcome State Fault Refusal :=
  whenAon s fun s => nalCtlWrite s a n v

end Sys2Proof.Machine
end

