-- ==== Sys2Proof/Machine/Packets.lean ====
section
/-! DEFINITION. Myarn packets and streams: routing (R353, R354), streams and their data (R356–R358), announces (R360, R361), and the
descriptors of R359. -/

namespace Sys2Proof.Machine

/-! Routing (R353) -/

/-- What becomes of a packet: dropped with a record kind, forwarded on a port with a segment, or delivered. -/
inductive Routing where
  | drop (kind : Nat)
  | forward (port : MPort) (segment : W64) (relay : BitVec 16)
  | deliver
deriving DecidableEq, Repr

/-- A Myarn port that is enabled and up. -/
def myaUp (s : State) (p : MPort) : Bool :=
  linkOn s (.myarn p) && linkEnabled s (.myarn p) && (lkAt s (.myarn p)).phase == .up

/-- Relay entry e of a port (R354): its segment, its next index, its valid bit. -/
def relayEntry (s : State) (p : MPort) (e : Nat) : W64 × BitVec 16 × Bool :=
  let b := 0x60C000 + 0x10000 * p.val + 16 * e
  let w := reg s (b + 8)
  (join32 (reg s b) (reg s (b + 4)), w.extractLsb' 0 16, bitAt w 16)

/-- The loop of R353 over at most `fuel` relay entries; a longer chain of them never ends, and is no valid route. -/
def routing (s : State) (p : MPort) (dstId : W32) : Nat → W64 → BitVec 16 → Routing
  | 0, _, _ => .drop kRouteInvalid
  | fuel + 1, seg, relay =>
    let i := bits seg 3 0
    if i = 15 then .drop kRouteInvalid
    else
      let h := hop seg i
      if h ≤ 7 then
        let q : MPort := ⟨h % 8, Nat.mod_lt _ (by decide)⟩
        if myaUp s q then .forward q (seg + 1) relay else .drop kNextHopDown
      else if h = 14 then (if dstId = s.moduleId then .deliver else .drop kMisdelivered)
      else if h = 15 then
        let e := relayEntry s p relay.toNat
        if 1023 < relay.toNat ∨ e.2.2 = false then .drop kRelayMiss
        else routing s p dstId fuel (e.1 &&& ~~~(0xF : W64)) e.2.1
      else .drop kRouteInvalid

/-- The channel of a packet type (R357). -/
def channelOf (kind : Byte) : Nat := if kind ≤ 2 then 0 else if kind = 3 then 1 else 2

/-- Drops a packet with its record (R353). -/
def dropPacket (s : State) (port : MPort) (p : Packet) (kind : Nat) : State :=
  let s := raise (portCount s (.myarn port) 0x48 1) { kind, unit := uMyarn, id := port.val }
  returnUnits s (some port) (channelOf p.kind) p

/-- The destination partition that a packet names, when it is set up (R357). -/
def packetPart (s : State) (p : Packet) : Option Nat :=
  let n := bits p.dst 3 0
  if n < 8 ∧ isSetUp s n = true then some n else none

/-- A packet of the type `kind` that arrives at a port: routed, and where it is delivered handed to f with its partition. None from f:
its channel holds it for now. DEDUCED (log 44). -/
def arrivePacket (s : State) (port : MPort) (p : Packet) (kind : Byte) (f : State → Nat → Option State) : State :=
  if p.kind ≠ kind ∨ (lkAt s (.myarn port)).phase ≠ .up ∨ linkOn s (.myarn port) = false then s
  else
    let t := portCount s (.myarn port) 0x68 (p.len.toNat % 8192)
    match routing s port p.dstId 1026 p.segment p.relay with
    | .drop k => dropPacket t port p k
    | .forward q seg relay => queuePacket t q (channelOf kind) ⟨{ p with segment := seg, relay }, some port, none, false⟩
    | .deliver => match packetPart s p with
      | none => dropPacket t port p kPartAbsent
      | some n => match f t n with
        | some u => returnUnits u (some port) (channelOf kind) p
        | none => s

/-! Streams (R356) -/

/-- The key of a stream: partition × 2^16 + stream id. -/
def streamKey (n : Nat) (id : BitVec 16) : Nat := n * 65536 + id.toNat

/-- The received entry of a stream. DEDUCED (log 47). -/
def recvAt (s : State) (key : Nat) : Strm := tget {} s.received key
/-- Changes a received entry. -/
def modRecv (s : State) (key : Nat) (f : Strm → Strm) : State := { s with received := tmod {} s.received key f }

/-- The myarn-in station of a running partition that binds a stream, with the stream of the image it feeds. -/
def boundStation (s : State) (n : Nat) (id : BitVec 16) : Option (Nat × Nat) :=
  match (partAt s n).run, (partAt s n).image with
  | some r, some img =>
    if r.started then
      match firstIdx (fun st => st.kind == 9 && decide (st.par 0 = id.toNat)) 0 img.stations with
      | some k => (firstIdx (fun x => x.src == k) 0 img.streams).map (fun j => (k, j))
      | none => none
    else none
  | _, _ => none

/-- Marks a stream broken with the status its run carries, none where no rule names one; a run whose myarn-in stream breaks
stops (R361). DESIGN CHOICE (log 48). -/
def breakStream (s : State) (key : Nat) (st : Option Byte) : State :=
  if (recvAt s key).broken.isSome then s
  else
    let f := takeFree s
    let v : Byte := match st with | some v => v | none => failure f.1.toNat
    let s := modRecv (match st with | some _ => s | none => f.2) key (fun e => { e with broken := some v })
    match boundStation s (key / 65536) (BitVec.ofNat 16 key) with
    | some (k, _) => stopRun s (key / 65536) { status := sAborted, cause := 5, carried := v.toNat, item := k }
    | none => s

/-! Announces (R360, R361) -/

/-- The key of a held announce's stream. -/
def Held.key (h : Held) : Nat := streamKey h.part.val h.stream

/-- Discards an announce: counted, recorded with its cause, and its stream broken. The cause's code is free.
DESIGN CHOICE (log 48). -/
def discard (s : State) (h : Held) (st : Option Byte) : State :=
  let s := portCount s (.myarn h.port) 0x58 1
  let f := takeFree s
  let s := raise f.2 { kind := kAnnounceDiscarded, unit := uMyarn, id := h.port.val, status := st.getD 0,
                       detail := f.1.toNat % 2 ^ 32 }
  breakStream s h.key st

/-- Why a write over Myarn to a stack range is refused (R207, R506, R160, R223). -/
def myarnWriteBad (s : State) (n a len al : Nat) : Option Byte :=
  match stackBad s a len al with
  | some st => some st
  | none =>
    if inReach s n a len = false then some ePartition
    else match hostWriteBad s a len with
      | some st => some st
      | none => if busyStack s (a - a % 64) false (ceilDiv (a % 64 + len) 64) then some eBusyRange else none

/-- Commits an announce (R360): its value to the stacks, or to the host by the port of its partition. -/
def commitAnnounce (s : State) (h : Held) : State :=
  if h.host then
    let p := portOf s h.part.val
    if nalUp s p then pushTxn s p (.mwr h.target (leBytes h.value.toNat 8)) else discard s h none
  else match myarnWriteBad s h.part.val h.target.toNat 8 8 with
    | some st => discard s h (some st)
    | none => writeStack s h.target.toNat [(h.value, false)]

/-- Takes up the held announces of a stream in arrival order while they commit or are discarded. -/
def settleHeld (s : State) (key : Nat) : Nat → State
  | 0 => s
  | fuel + 1 =>
    match s.held.find? (fun h => h.key == key) with
    | none => s
    | some h =>
      let e := recvAt s key
      let d := (e.count - h.count).toNat
      let t := { s with held := s.held.erase h }
      if e.broken.isSome then settleHeld (discard t h none) key fuel
      else if d = 2 ^ 31 then settleHeld (discard t h (some eSeq)) key fuel
      else if d < 2 ^ 31 then settleHeld (commitAnnounce t h) key fuel
      else s

/-- A packet of a stream reaches its destination: its entry is made on first use, its source must be the recorded one (R356,
R357). DEDUCED (log 47). -/
def enterStream (s : State) (port : MPort) (p : Packet) (n : Nat) (f : State → Nat → Option State) : Option State :=
  let key := streamKey n p.ident
  let gone := fun (s : State) (k : Nat) => raise (portCount s (.myarn port) 0x48 1) { kind := k, unit := uMyarn, id := port.val }
  let e := recvAt s key
  if e = {} ∧ 1024 ≤ s.received.length then some (gone s kTableFull)
  else match e.source with
    | some x =>
      if x = p.srcId then f s key
      else some (settleHeld (breakStream (gone s kSourceConflict) key none) key 257)
    | none => f (modRecv s key (fun e => { e with source := some p.srcId })) key

/-- Adds a packet's bytes to its stream's received count, and tests its announces. -/
def received (s : State) (key : Nat) (p : Packet) : State :=
  settleHeld (modRecv s key (fun e => { e with count := e.count + BitVec.ofNat 32 (p.len.toNat % 8192) })) key 257

/-- The data words of a packet. -/
def packetWords (p : Packet) : List (W64 × Bool) :=
  ((bytesWords (p.data.length / 8) p.data).zipIdx).map (fun x => (x.1.1, p.poison.contains x.2))

/-- SDATA (R357, R358). DEDUCED (log 44). -/
def execSdata (port : MPort) (p : Packet) (s : State) : Host.Outcome State Fault Refusal :=
  whenAon s fun s => arrivePacket s port p 1 fun s n => enterStream s port p n fun s key =>
    match boundStation s n p.ident with
    | none =>
      let s := raise (portCount s (.myarn port) 0x48 1) { kind := kNotBound, unit := uMyarn, id := port.val }
      some (settleHeld (breakStream s key none) key 257)
    | some (_, k) =>
      match bufOf s n k with
      | some b => if b.room < p.data.length then none else some (received (bufPut s n k (packetWords p)) key p)
      | none => none

/-- SWRITE (R357, R361). -/
def execSwrite (port : MPort) (p : Packet) (s : State) : Host.Outcome State Fault Refusal :=
  whenAon s fun s => arrivePacket s port p 2 fun s n => enterStream s port p n fun s key =>
    match myarnWriteBad s n p.arg.toNat (p.len.toNat % 8192) 64 with
    | some st =>
      let s := raise s { kind := kWriteRefused, unit := uMyarn, id := port.val, status := st }
      some (settleHeld (breakStream s key (some st)) key 257)
    | none => some (received (writeStack s p.arg.toNat (packetWords p)) key p)

/-- ANNOUNCE (R360): with 256 announces held, the channel waits. DEDUCED (log 47). -/
def execAnnounce (port : MPort) (p : Packet) (s : State) : Host.Outcome State Fault Refusal :=
  whenAon s fun s => arrivePacket s port p 3 fun s n => enterStream s port p n fun s key =>
    let h : Held := { part := partFin n, stream := p.ident, count := lo32 p.arg, host := bitAt p.arg 32,
                      target := BitVec.ofNat 64 (field p.data 0 8), value := BitVec.ofNat 64 (field p.data 8 8),
                      time := s.time, port }
    let t := settleHeld { s with held := s.held ++ [h] } key 257
    if 256 < t.held.length then none
    else some (if t.held.length = s.held.length + 1 then portCount t (.myarn port) 0x50 1 else t)

/-- ann_ms of a port. -/
def annMs (s : State) (p : MPort) : Nat := bits (reg s (0x600004 + 0x10000 * p.val)) 15 8

/-- ANNOUNCE_HOLD_EXPIRY (R361): the oldest held announce of a stream has waited longer than ann_ms. -/
def execAnnounceHoldExpiry (part : PartId) (stream : BitVec 16) (s : State) : Host.Outcome State Fault Refusal :=
  whenAon s fun s =>
    let key := streamKey part.val stream
    match s.held.find? (fun h => h.key == key) with
    | some h =>
      if timeCounts s = true ∧ msTicks (annMs s h.port) < since s h.time then
        settleHeld (discard { s with held := s.held.erase h } h none) key 257
      else s
    | none => s

/-! Descriptors (R359) -/

/-- The stream id is bound by a running station of the partition. -/
def streamBusy (s : State) (n : Nat) (id : BitVec 16) : Bool :=
  isRunning s n && (match (partAt s n).image with | some img => (boundStreams img).contains id.toNat | none => false)

/-- The route of a descriptor. DEDUCED (log 50). -/
def descRoute (d : Desc) : List W64 := [arg d 3, arg d 4, arg d 5]

/-- What MYA_WRITE and MYA_ANNOUNCE share at acceptance: the route, a binding, room for a sender entry. DEDUCED (log 50). -/
def senderBad (s : State) (d : Desc) (id : BitVec 16) : Option Byte :=
  let key := streamKey (descPart d) id
  if (routeOf (descRoute d)).legal s.variant = false then some eRange
  else if streamBusy s (descPart d) id then some eState
  else if tget {} s.sent key = {} ∧ 1024 ≤ s.sent.length then some eNoResource
  else none

/-- MYA_WRITE. DEDUCED (log 50). -/
def execMyaWrite (port : NPort) (ring : RingId) (s : State) : Host.Outcome State Fault Refusal :=
  whenAon s fun s => withDescriptor s port ring 0x50 fun s ref d =>
    let n := descPart d
    let a := (arg d 0).toNat
    let len := bits (arg d 1) 31 0
    let id := (arg d 1).extractLsb' 32 16
    let key := streamKey n id
    if len % 64 ≠ 0 ∨ (arg d 2).toNat % 64 ≠ 0 then reject s ref eAlign 7 0
    else if len = 0 then reject s ref eRange 7 0
    else match stackBad s a len 64 with
      | some st => reject s ref st 7 0
      | none =>
        if inReach s n a len = false then reject s ref ePartition 7 0
        else match senderBad s d id with
          | some st => reject s ref st 7 0
          | none =>
            if myaUp s (routePort (routeOf (descRoute d))) = false then complete (acceptDesc s ref) ref sLinkDown 0 0 []
            else
              let c := (tget {} s.sent key).count + BitVec.ofNat 32 len
              let s := { s with sent := tmod {} s.sent key (fun e => { e with count := c }) }
              acceptDesc (addXfer s { kind := .myaWrite id (descRoute d), desc := some ref, part := partFin n, src := arg d 0,
                                      dst := arg d 2, len, asked := c.toNat, port }) ref

/-- MYA_ANNOUNCE: it carries the assigned count at its acceptance, and completes once sent. DEDUCED (log 50). -/
def execMyaAnnounce (port : NPort) (ring : RingId) (s : State) : Host.Outcome State Fault Refusal :=
  whenAon s fun s => withDescriptor s port ring 0x51 fun s ref d =>
    let n := descPart d
    let id := (arg d 0).extractLsb' 0 16
    if (arg d 1).toNat % 8 ≠ 0 then reject s ref eAlign 7 0
    else match senderBad s d id with
      | some st => reject s ref st 7 0
      | none =>
        let r := routeOf (descRoute d)
        if myaUp s (routePort r) = false then complete (acceptDesc s ref) ref sLinkDown 0 0 []
        else
          let c := (tget {} s.sent (streamKey n id)).count
          let p := packetOf s r 3 id (BitVec.ofNat 64 (c.toNat + bits (arg d 0) 16 16 * 2 ^ 32)) [(arg d 1, false), (arg d 2, false)]
          let x := xferId s
          let s := addXfer s { kind := .myaWrite id (descRoute d), desc := some ref, part := partFin n, src := 0, dst := 0, len := 0,
                               asked := c.toNat, port }
          acceptDesc (queuePacket s (routePort r) 1 ⟨p, none, some x, false⟩) ref

/-- MYA_STREAM_CLEAR. DEDUCED (log 47, 50). -/
def execMyaStreamClear (port : NPort) (ring : RingId) (s : State) : Host.Outcome State Fault Refusal :=
  whenAon s fun s => withDescriptor s port ring 0x52 fun s ref d =>
    let id := (arg d 0).extractLsb' 0 16
    let key := streamKey (descPart d) id
    if streamBusy s (descPart d) id then reject s ref eState 7 0
    else completeOk { s with sent := terase s.sent key, received := terase s.received key,
                             held := s.held.filter (fun h => h.key != key) } ref 0

end Sys2Proof.Machine
end

