-- ==== Sys2Proof/Machine/Barriers.lean ====
section
/-! DEFINITION. The barrier unit (R363–R369): arrivals of engines and of other modules, releases, time limits. -/

namespace Sys2Proof.Machine

/-! Configuration (R363) -/

/-- The base of barrier k's registers. -/
def barBase (k : Nat) : Nat := 0xB00000 + 0x100 * k
/-- BAR_CFG_k. -/
def barCfg (s : State) (k : Nat) : W32 := reg s (barBase k)
/-- Local arrivals per generation. -/
def barLocal (s : State) (k : Nat) : Nat := bits (barCfg s k) 23 8
/-- How many children a barrier has. -/
def barChildren (s : State) (k : Nat) : Nat := bits (barCfg s k) 7 5
/-- Whether a barrier has a parent. -/
def barParent (s : State) (k : Nat) : Bool := bitAt (barCfg s k) 4
/-- A route as applied. -/
def appliedRoute (s : State) (b : Nat) : Route :=
  ⟨join32 (reg s b) (reg s (b + 4)), join32 (reg s (b + 8)) (reg s (b + 12)), 0⟩
/-- The parent route. -/
def parentRoute (s : State) (k : Nat) : Route := appliedRoute s (barBase k + 0x20)
/-- The route to child c. -/
def childRoute (s : State) (k c : Nat) : Route := appliedRoute s (barBase k + 0x38 + 0x18 * c)
/-- The barrier index at the parent. -/
def parentIndex (s : State) (k : Nat) : Nat := bits (reg s (barBase k + 8)) 7 0
/-- The barrier index at child c. -/
def childIndex (s : State) (k c : Nat) : Nat := bits (reg s (barBase k + 0xC)) (8 * c + 7) (8 * c)

/-- BAR_STATE_k. -/
def barState (b : Bar) : W32 :=
  BitVec.ofNat 32 (min b.loc 65535 + b.children.toNat * 2 ^ 16 + (if b.awaiting then 2 ^ 20 else 0) + (if b.broken then 2 ^ 21 else 0))

/-! Releases (R365, R367) -/

/-- Sends a barrier message on a route; one that cannot leave is dropped (R349). DEDUCED (log 49). -/
def barSend (s : State) (r : Route) (kind : Byte) (index : Nat) (gen : W32) : State :=
  if myaUp s (routePort r) then
    queuePacket s (routePort r) 2 ⟨packetOf s r kind (BitVec.ofNat 16 index) (BitVec.ofNat 64 gen.toNat) [], none, none, false⟩
  else s

/-- The engines of a core that wait for a generation of a barrier go on; a gated core wakes (R112, R364). -/
def freeEngine (s : State) (core e k : Nat) (g : W32) : State :=
  let mine := fun (f : InFlight) => f.until_ == .barrier ⟨k % 256, Nat.mod_lt _ (by decide)⟩ (some g)
  if (engAt (coreAt s core) e).flight.any mine then
    let s := modCore s core (fun c =>
      let c := modEng c e (fun x => { x with
        st := .running, flight := x.flight.map (fun f => if mine f then { f with until_ := .ready } else f) })
      if c.gated && e != 1 then { c with gated := false, waitSince := none } else c)
    drainFlight s core e (engAt (coreAt s core) e).flight.length
  else s

/-- Broadcasts the release of generation g of a barrier to the cores of its partition. -/
def freeEngines (s : State) (k : Nat) (g : W32) : State :=
  (coresOf s (barOwner s k)).foldl (fun s c => (upFrom 0 7).foldl (fun s e => freeEngine s c e k g) (tackMessage s tackL0 c 1)) s

/-- Releases the current generation of a barrier, in the order of R367. -/
def releaseBar (s : State) (k : Nat) : State :=
  let g := (barAt s k).gen
  let s := freeEngines s k g
  let s := (upFrom 0 (barChildren s k)).foldl (fun s c => barSend s (childRoute s k c) 5 (childIndex s k c) g) s
  modBar s k (fun b => { b with
    gen := b.gen + 1, loc := b.nextLoc, children := b.nextChildren, nextLoc := 0, nextChildren := 0, awaiting := false,
    since := b.nextSince, nextSince := none, releases := b.releases + 1 })

/-- Whether a generation is complete (R365). DEDUCED (log 49). -/
def barComplete (s : State) (k : Nat) : Bool :=
  let b := barAt s k
  decide (barLocal s k ≤ b.loc) && (upFrom 0 (barChildren s k)).all (fun c => bitAt b.children c) &&
  decide (0 < barLocal s k + barChildren s k)

/-- A complete barrier releases, or tells its parent and awaits the release. -/
def settleBar (s : State) (k : Nat) : State :=
  let b := barAt s k
  if b.awaiting || b.broken || !barComplete s k then s
  else if barParent s k then
    barSend (modBar s k (fun b => { b with awaiting := true })) (parentRoute s k) 4 (parentIndex s k) b.gen
  else releaseBar s k

/-! Arrivals -/

/-- The barrier that an engine's BAR names while its arrival is not yet acknowledged. DEDUCED (log 49). -/
def arriving (s : State) (core e : Nat) : Option Nat :=
  (engAt (coreAt s core) e).flight.findSome? (fun f => match f.until_ with | .barrier k none => some k.val | _ => none)

/-- BARRIER_ARRIVAL (R364): counted in the current generation, or in the next while the barrier awaits release, and acknowledged. -/
def execBarrierArrival (core : CoreId) (eng : EngId) (s : State) : Host.Outcome State Fault Refusal :=
  whenAon s fun s =>
    match arriving s core.val eng.val with
    | none => s
    | some k =>
      let b := barAt s k
      if b.broken then stopRun s (barOwner s k) { status := sTimeout }
      else
        let g := if b.awaiting then b.gen + 1 else b.gen
        let s := modBar s k (fun b =>
          if b.awaiting then { b with nextLoc := min (b.nextLoc + 1) 65535, nextSince := b.nextSince <|> some s.time }
          else { b with loc := min (b.loc + 1) 65535, since := b.since <|> some s.time })
        let s := modCore s core.val (fun c => modEng c eng.val (fun x => { x with
          flight := x.flight.map (fun f => match f.until_ with
            | .barrier j none => { f with until_ := .barrier j (some g) }
            | _ => f) }))
        settleBar (tackMessage s core.val tackL0 1) k

/-- Drops a barrier message with its record. -/
def barDrop (s : State) (port : MPort) (k kind detail : Nat) : State :=
  raise (portCount s (.myarn port) 0x48 1) { kind, unit := uBarrier, id := k, detail }

/-- ARRIVE (R366). DEDUCED (log 49). -/
def execArrive (port : MPort) (p : Packet) (s : State) : Host.Outcome State Fault Refusal :=
  whenAon s fun s => arrivePacket s port p 4 fun s n =>
    let k := p.ident.toNat % 256
    let b := barAt s k
    let g := lo32 p.arg
    if b.broken then some (portCount s (.myarn port) 0x48 1)
    else if g ≠ b.gen then some (barDrop s port k kBarGeneration g.toNat)
    else if barOwner s k ≠ n then some (barDrop s port k kBarRejected 0)
    else match (upFrom 0 (barChildren s k)).find? (fun c => (childRoute s k c).dstId == p.srcId && !bitAt b.children c) with
      | none => some (barDrop s port k kBarRejected 0)
      | some c => some (settleBar (modBar s k (fun b => { b with
          children := b.children ||| (1#4 <<< c), since := b.since <|> some s.time })) k)

/-- RELEASE (R367). DEDUCED (log 49). -/
def execRelease (port : MPort) (p : Packet) (s : State) : Host.Outcome State Fault Refusal :=
  whenAon s fun s => arrivePacket s port p 5 fun s n =>
    let k := p.ident.toNat % 256
    let b := barAt s k
    let g := lo32 p.arg
    if b.broken then some (portCount s (.myarn port) 0x48 1)
    else if g ≠ b.gen then some (barDrop s port k kBarGeneration g.toNat)
    else if barOwner s k = n ∧ barParent s k = true ∧ (parentRoute s k).dstId = p.srcId ∧ b.awaiting = true then
      some (settleBar (releaseBar s k) k)
    else some (barDrop s port k kBarRejected 0)

/-- BARRIER_TIMEOUT (R368): a generation unreleased for longer than BAR_LIMIT_k after its first counted arrival.
DEDUCED (log 140). -/
def execBarrierTimeout (bar : BarId) (s : State) : Host.Outcome State Fault Refusal :=
  whenAon s fun s =>
    let k := bar.val
    let b := barAt s k
    let limit := bits (reg s (barBase k + 4)) 19 0
    match b.since with
    | some t =>
      if timeCounts s = true ∧ b.broken = false ∧ 0 < limit ∧ 25 * limit < since s t then
        let s := raise (modBar s k (fun b => { b with broken := true }))
          { kind := kBarTimeout, unit := uBarrier, id := k, detail := b.gen.toNat }
        stopRun s (barOwner s k) { status := sTimeout }
      else s
    | none => s

end Sys2Proof.Machine
end

