-- ==== Sys2Proof/Machine/Budget.lean ====
section
/-! DEFINITION. The power budget: contributions to a partition's bubble ratio (R385), the cap in force and the window average (R387),
frame targets and budget ratios (R388–R391), lending (R370, R371). -/

namespace Sys2Proof.Machine

/-! Units: power in mW ÷ 1,000 lcm(1…64), so that every division of R388 and R389 is exact -/

/-- lcm(1…64): the bucket's unit is 1 mW divided by it. DEDUCED (log 100). -/
abbrev bucketUnit : Nat := 1182266884102822267511361600
/-- The fine unit of power: 1 mW divided by it. DEDUCED (log 100). -/
abbrev fine : Nat := 1000 * bucketUnit

/-- How many clusters a partition has; its logical cores are 32 times as many. -/
def clusterCount (s : State) (n : Nat) : Nat := (clusterList s n).length

/-- Whether a partition's run has begun. -/
def started (s : State) (n : Nat) : Bool := match (partAt s n).run with | some r => r.started | none => false

/-- The partitions whose runs have begun. -/
def runningParts (s : State) : List Nat := allParts.filter (started s)

/-- Domain i's record. -/
def domainAt (s : State) (i : Nat) : Domain := tget {} s.power.domains i

/-- The frame power of a partition's cluster domains, in mW. -/
def partPower (s : State) (n : Nat) : Nat := (clusterList s n).foldl (fun a c => a + (domainAt s c).mw.toNat) 0

/-! The cap in force (R387) -/

/-- The selected cap, in W. -/
def capSelected (s : State) : Nat := bits (reg s (0x700000 + 4 * s.power.selected.toNat)) 10 0

/-- C_air (R407, R408), in W. -/
def capAir (s : State) : Nat := if s.therm.lost.isSome then 250 else s.therm.capAir.getD (capCeiling s.variant)

/-- The cap in force C, in W, and which source sets it: 0 select, 1 thermal or airflow, 2 hold-up. -/
def capInForce (s : State) : Nat × Nat :=
  let a := capSelected s
  let b := capAir s
  let x := if b < a then (b, 1) else (a, 0)
  if s.hup.loss ≠ .none ∧ 300 < x.1 then (300, 2) else x

/-- window_s × 1,000 frames. -/
def windowFrames (s : State) : Nat := 1000 * bits (reg s 0x700014) 3 0

/-- Notes the cap in force: a fall replaces every frame of the history (R387). DEDUCED (log 21). -/
def noteCap (s : State) : State :=
  let c := (capInForce s).1
  if c < s.power.capHeld then
    { s with power := { s.power with capHeld := c, hist := [], histFill := (1000 * c, windowFrames s) } }
  else { s with power := { s.power with capHeld := c } }

/-- The history with a frame power in front, no longer than the window. -/
def pushFrame (w p : Nat) (hist : List Nat) (fill : Nat × Nat) : List Nat × (Nat × Nat) :=
  let h := (p :: hist).take w
  (h, (fill.1, min fill.2 (w - h.length)))

/-- The sum of the window's frame powers, in mW; missing frames count as C. -/
def windowSum (s : State) : Nat :=
  let p := s.power
  p.hist.foldl (· + ·) 0 + p.histFill.1 * p.histFill.2 +
  1000 * (capInForce s).1 * (windowFrames s - p.hist.length - p.histFill.2)

/-! Lending (R370) -/

/-- What a partition borrows now, in fine units: the gated cores' shares, divided by logical cores. A core that wakes takes its share
away at once (R371). DEDUCED (log 100, 101). -/
def lentTo (s : State) (n : Nat) : Nat :=
  let p := s.power
  if p.borrow.contains n then
    let total := p.lending.foldl (fun a x => if (coreAt s x.1).gated then a + x.2 else a) (0 : Int)
    total.toNat * clusterCount s n / p.borrow.foldl (fun a m => a + clusterCount s m) 0
  else 0

/-- The divisor of the step estimate d_n = p_n ÷ (64 − b_n). -/
def stepDiv (b : Nat) : Nat := if 56 ≤ b then 8 else 64 - b

/-- Cause 1: the budget ratio less what lending covers. DEDUCED (log 101). -/
def budgetRatio (s : State) (n : Nat) : Nat :=
  let b := tget 0 s.power.budget n
  let lent := lentTo s n
  let p := partPower s n
  if lent = 0 then b else if p = 0 then 0 else b - lent * stepDiv b / (p * fine)

/-! Contributions (R385) -/

/-- The contributions of causes 2 to 7. -/
def otherCauses (s : State) (n : Nat) : List Nat :=
  let p := s.power
  let l := clusterList s n
  [ if tget false p.droopOn n then bits (reg s 0x70001C) 13 8 else 0,
    if l.any (fun c => tget false p.ocOn (c / 16)) then 56 else 0,
    if (upFrom 0 32).any (fun c => tget false p.stagePart (8 * c + n)) then bits (reg s 0x700024) 13 8 else 0,
    if p.trimFail.any (fun t => l.contains (t / 8)) then bits (reg s 0x700028) 5 0 else 0,
    max (tget 0 p.thermal n) (if s.therm.lost.isSome then 56 else 0),
    if s.hup.loss ≠ .none then 56 else 0 ]

/-- The contributions of causes 1 to 7. -/
def contributions (s : State) (n : Nat) : List Nat := budgetRatio s n :: otherCauses s n

/-- The largest of a list. -/
def largest (l : List Nat) : Nat := l.foldl max 0

/-- The bubble ratio of a partition. -/
def bubbleRatio (s : State) (n : Nat) : Nat := largest (contributions s n)

/-- The cause a bubble counts under: the largest contribution, on a tie the lowest number (R386). DEDUCED (log 93). -/
def bubbleCause (s : State) (n : Nat) : Nat :=
  1 + (firstIdx (fun x => x == bubbleRatio s n) 0 (contributions s n)).getD 0

/-- Whether cycle i of a group of 64 is a bubble at ratio b (R384). -/
def isBubble (b i : Nat) : Bool := decide (i % 64 * b / 64 < (i % 64 + 1) * b / 64)

/-! Frame boundaries (R388, R389) -/

/-- What the partitions that run may draw, T − U, in fine units. -/
def frameRoom (s : State) (p bucket : Nat) : Int :=
  let c := 1000 * (capInForce s).1
  let a : Int := windowSum s * (fine / windowFrames s) 
  let t := min (min ((1250 * (capInForce s).1 * fine : Nat) : Int) ((2 * c * fine : Nat) - a)) ((p * fine + 1000 * bucket : Nat) : Int)
  let u := p - (runningParts s).foldl (fun x n => x + partPower s n) 0
  t - (u * fine : Nat)

/-- One partition's step of R389: its new ratio, and the bucket. DEDUCED (log 100). -/
def budgetStep (room : Int) (p b n total bucket : Nat) : Nat × Nat :=
  let share := room.toNat * n
  let drawn := p * fine * total
  if share < drawn then (min 56 (b + ceilDiv ((drawn - share) * stepDiv b) drawn), bucket)
  else
    let most := min 8 b
    let may := min (share - drawn) (1000 * bucket * n)
    let k := if may = 0 then 0 else if p = 0 then most else min most (may * stepDiv b / drawn)
    (b - k, bucket - k * p * (bucketUnit / stepDiv b))

/-- Sets the budget ratios of the partitions, in ascending number. -/
def setBudgets (s : State) (room : Int) (total : Nat) : List Nat → State
  | [] => s
  | n :: l =>
    let p := partPower s n
    let b := tget 0 s.power.budget n
    let beyond := decide (room.toNat * clusterCount s n < p * fine * total)
    let r := budgetStep room p b (clusterCount s n) total s.power.bucket
    let s := { s with power := { s.power with budget := tset 0 s.power.budget n r.1, bucket := r.2 } }
    let s := if b = 56 ∧ beyond = true then
        raise s { kind := kCapUnachievable, unit := uPart, id := n, part := some n, detail := (capInForce s).1 } else s
    setBudgets s room total l

/-- The budget's frame boundary (R387–R391, R410): the frame power p joins the history once the device is released, the bucket fills (and is emptied while the
heating rate is too high), and the ratios move, unless 56 is held. -/
def budgetFrame (s : State) (p : Nat) (hot : Bool) : State :=
  let h := if s.boot.phase = 9 then pushFrame (windowFrames s) p s.power.hist s.power.histFill else ([], (0, 0))
  let s := { s with power := { s.power with hist := h.1, histFill := h.2, pFrame := BitVec.ofNat 32 p } }
  let s := { s with power := { s.power with pWindow := BitVec.ofNat 32 (windowSum s / windowFrames s) } }
  let r := bits (reg s 0x700018) 11 0 * bucketUnit
  let bk := if hot then 0 else min (16 * r) (s.power.bucket + r)
  let room := frameRoom s p bk
  let total := (runningParts s).foldl (fun a n => a + clusterCount s n) 0
  let s := { s with power := { s.power with bucket := bk, allow := if total = 0 then 0 else room.toNat / (32 * total) } }
  match s.power.holding with
  | some f => if f.toNat < (frameNo s).toNat then { s with power := { s.power with holding := none, bucket := 0 } } else s
  | none => setBudgets s room total (runningParts s)

/-- Sets every budget ratio to 56 and holds it through the first complete frame (R391). DEDUCED (log 102). -/
def hold56 (s : State) : State :=
  { s with power := { s.power with
      budget := (runningParts s).foldl (fun t n => tset 0 t n 56) s.power.budget,
      holding := some (frameNo s + 1) } }

end Sys2Proof.Machine
end

