-- ==== Sys2Proof/Machine/Power.lean ====
section
/-! DEFINITION. Events of power delivery: trim regulators (R378, R379), header staging (R380, R381), telemetry (R382), budget select
(R391), droop and over-current (R392, R393), lending (R370). -/

namespace Sys2Proof.Machine

/-! Trim regulators -/

/-- TRIM_REGULATOR_FAIL (R378, R379): opened, recorded, a field defect; a second one of a partition's cluster fences it.
DEDUCED (log 104). -/
def execTrimRegulatorFail (reg : Fin 256) (s : State) : Host.Outcome State Fault Refusal :=
  whenAon s fun s =>
    let c := reg.val / 8
    if s.power.trimFail.contains reg.val ∨ clusterOn s.variant c = false then s
    else
      let second := s.power.trimFail.any (fun t => t / 8 == c)
      let s := { s with power := { s.power with trimFail := s.power.trimFail ++ [reg.val] } }
      let s := addDefect (raise s { kind := kTrimFailed, unit := uTrim, id := reg.val }) kTrimFailed uTrim reg.val 2
      if second ∧ (partOfCluster s c).isSome = true then fenceCluster s c else s

/-! Headers -/

/-- peak_pct. -/
def peakPct (s : State) : Nat := bits (reg s 0x700024) 6 0

/-- A cluster's L2 memories as header turn-on leaves them: zero (R271, R508). DEDUCED (log 104). -/
def fillL2 (s : State) (c : Nat) : State :=
  (clusterCores c).foldl (fun s k => modCore (fillZero s (.basket k)) k wipedCore) s

/-- A stage of a cluster's turn-on runs; the eighth is the last. DEDUCED (log 104). -/
def runStage (s : State) (c : Nat) : State :=
  let h := hdrAt s c
  let s := modHdr s c (fun h => { h with stage := h.stage + 1, last := s.time, turning := decide (h.stage < 7) })
  if h.stage < 7 then s else fillL2 s c

/-- Whether the rail of a cluster's half has risen as far as it will for it (R376). DEDUCED (log 104). -/
def railSettled (s : State) (c : Nat) : Bool := railReady s (c / 16) || railFailed s (c / 16)

/-- HEADER_STAGE (R380): 2 µs after the stage before, or 1 µs after a failed check; a check that fails after 1 ms of waits forces the stages
(R381). DEDUCED (log 104). -/
def execHeaderStage (cluster : ClusterId) (droop : Bool) (neighbourPct : List Nat) (s : State) : Host.Outcome State Fault Refusal :=
  whenAon s fun s =>
    let c := cluster.val
    let h := hdrAt s c
    if h.turning = false ∨ h.forced = true ∨ since s h.last < 50 ∨ railSettled s c = false then s
    else if droop = false ∧ neighbourPct.all (fun p => decide (p < peakPct s)) = true then runStage s c
    else if h.waited < 1000 then
      modHdr s c (fun h => { h with waited := h.waited + 1, last := s.time - 25 })
    else
      let peaks := ((besides c).zip neighbourPct).filter (fun x => decide (peakPct s ≤ x.2))
      let s := peaks.foldl (fun s x => match partOfCluster s x.1 with
        | some n => { s with power := { s.power with stagePart := tset false s.power.stagePart (8 * c + n) true } }
        | none => s) s
      modHdr s c (fun h => { h with forced := true })

/-- HEADER_STAGE_FORCED (R381): the remaining stages unchecked; 2 µs after the last, the contributions are lifted. -/
def execHeaderStageForced (cluster : ClusterId) (s : State) : Host.Outcome State Fault Refusal :=
  whenAon s fun s =>
    let c := cluster.val
    let h := hdrAt s c
    if h.forced = false ∨ since s h.last < 50 then s
    else if h.turning then runStage s c
    else
      let s := { s with power := { s.power with stagePart := s.power.stagePart.filter (fun x => x.1 / 8 != c) } }
      raise (modHdr s c (fun h => { h with forced := false })) { kind := kHeaderForced, unit := uCluster, id := c }

/-! Telemetry -/

/-- Whether two currents differ by more than 10 % of the device's own sum. DEDUCED (log 105). -/
def differ (sum read : Nat) : Bool := decide (sum < 10 * (sum - read)) || decide (sum < 10 * (read - sum))

/-- CURRENT_TELEMETRY_CHECK (R382), once per second: rails whose current reads differ from the device's sums. DEDUCED (log 105). -/
def execCurrentTelemetryCheck (sumMa readMa : List Nat) (s : State) : Host.Outcome State Fault Refusal :=
  whenAon s fun s =>
    ((sumMa.zip readMa).take 6).zipIdx.foldl (fun s x =>
      let a := x.2
      let n := if differ x.1.1 x.1.2 then tget 0 s.power.mismatch a + 1 else 0
      let s := { s with power := { s.power with mismatch := tset 0 s.power.mismatch a (min n 11) } }
      if n = 10 then raise s { kind := kCurrentMismatch, unit := uRail, id := a } else s) s

/-! Budget select -/

/-- BUDGET_SELECT_ACCEPT (R391): a value of the pins stable for 20 µs selects a cap; a lower one forces 56. -/
def execBudgetSelectAccept (v : BitVec 2) (s : State) : Host.Outcome State Fault Refusal :=
  whenAon s fun s =>
    let old := capSelected s
    let s := { s with power := { s.power with pins := v, selected := v } }
    noteCap (if capSelected s < old then hold56 s else s)

/-! Droop and over-current -/

/-- DROOP (R392): a detector of a cluster of a running partition fires. -/
def execDroop (cluster : ClusterId) (s : State) : Host.Outcome State Fault Refusal :=
  whenAon s fun s =>
    match partOfCluster s cluster.val with
    | some n =>
      if started s n then
        { s with power := { s.power with
            droopOn := tset false s.power.droopOn n true, droopUntil := tset 0 s.power.droopUntil n s.time.toNat,
            droopSeen := tmod 0 s.power.droopSeen cluster.val (· + 1) } }
      else s
    | none => s

/-- Wall cycles of the arithmetic clock in a tick: 60 at 1.50 GHz, 58 at 1.45 GHz. DEDUCED (log 102). -/
def tickCycles (s : State) : Nat := if s.therm.bin then 58 else 60

/-- DROOP_HOLD_EXPIRY (R392): droop_hold cycles without a firing. DEDUCED (log 102). -/
def execDroopHoldExpiry (part : PartId) (s : State) : Host.Outcome State Fault Refusal :=
  whenAon s fun s =>
    let n := part.val
    let hold := bits (reg s 0x70001C) 31 16
    if tget false s.power.droopOn n = true ∧ hold ≤ tickCycles s * since s (BitVec.ofNat 64 (tget 0 s.power.droopUntil n)) then
      { s with power := { s.power with droopOn := tset false s.power.droopOn n false } }
    else s

/-- The droop records of a frame (R392): one for each partition, naming the cluster that fired most. DEDUCED (log 102). -/
def droopFrame (s : State) : State :=
  let seen := s.power.droopSeen
  let s := { s with power := { s.power with droopSeen := [] } }
  allParts.foldl (fun s n =>
    let mine := seen.filter (fun x => (clusterList s n).contains x.1)
    match mine with
    | [] => s
    | x :: l =>
      let top := l.foldl (fun a y => if a.2 < y.2 then y else a) x
      raise s { kind := kDroop, unit := uCluster, id := top.1, part := some n, count := mine.foldl (fun a y => a + y.2) 0 }) s

/-- The rail of a half's over-current record. DEDUCED (log 102). -/
def ocReport (half : Fin 2) : Report := { kind := kOverCurrent, unit := uRail, id := half.val }

/-- OVER_CURRENT (R393): one record per frame and half. -/
def execOverCurrent (half : Fin 2) (s : State) : Host.Outcome State Fault Refusal :=
  whenAon s fun s =>
    let s := { s with power := { s.power with
      ocOn := tset false s.power.ocOn half.val true, ocSince := tset none s.power.ocSince half.val (some s.time) } }
    if s.darn.sources.any (fun c => sameSource c (ocReport half)) then s else raise s (ocReport half)

/-- OVER_CURRENT_CLEAR (R393): 100 µs at or below 0.95 × oc_a. DEDUCED (log 102). -/
def execOverCurrentClear (half : Fin 2) (s : State) : Host.Outcome State Fault Refusal :=
  whenAon s fun s =>
    match tget none s.power.ocSince half.val with
    | some t =>
      if 2500 ≤ since s t then
        { s with power := { s.power with
            ocOn := tset false s.power.ocOn half.val false, ocSince := tset none s.power.ocSince half.val none } }
      else s
    | none => s

/-! Lending -/

/-- The gated cores of the running partitions, ascending. -/
def gatedCores (s : State) : List Nat :=
  (s.cores.filter (fun x => x.2.gated && (match partOfCore s x.1 with | some n => started s n | none => false))).map (fun x => x.1)

/-- LENDING_COMPUTE (R370): the gated cores lend their allowance less their measured power; the partitions with a ratio above 0
borrow. The powers measured are those of the gated cores in ascending number. DEDUCED (log 101); DESIGN CHOICE (log 106). -/
def execLendingCompute (gatedMw : List Nat) (s : State) : Host.Outcome State Fault Refusal :=
  whenAon s fun s =>
    let lend := ((gatedCores s).zipIdx).foldl (fun t x =>
      tset 0 t x.1 ((s.power.allow : Int) - ((gatedMw.getD x.2 (Config.gatedMw x.1) * fine : Nat) : Int))) []
    let borrow := (runningParts s).filter (fun n => largest (tget 0 s.power.budget n :: otherCauses s n) != 0)
    let s := { s with power := { s.power with lending := lend, borrow } }
    { s with power := { s.power with
        lentSum := borrow.foldl (fun t n => tmod 0 t n (· + lentTo s n / fine)) s.power.lentSum, lentCount := s.power.lentCount + 1 } }

end Sys2Proof.Machine
end

