-- ==== Sys2Proof/Machine/Mesh.lean ====
section
/-! DEFINITION. The scheduled machinery: routers and Mover entries advancing a partition cycle, slips and bubbles (R173–R186, R383–R386),
and the events of the Seam rings and the Tack network (R190–R192, R199, R201). -/

namespace Sys2Proof.Machine

/-! A router's place in its plan (R176, R177) -/

/-- Step i of a core's plan; none past its steps. -/
def stepAt (s : State) (core i : Nat) : Option PlanStep :=
  let h := planBytes s core 0 16
  if (planAt (coreAt s core)).2 = 0 ∨ field h 4 4 ≤ i then none
  else some (planStepOf (planBytes s core (field h 12 4 + 32 * i) 32))

/-- Takes a router past loop starts and loop ends to its route step, or to its end. -/
def settleRouter (s : State) (core : Nat) : Nat → Router → Router
  | 0, r => r
  | f + 1, r =>
    if r.ended ∨ r.left ≠ 0 then r
    else match stepAt s core r.step with
    | none => { r with ended := true }
    | some t => match t.kind, r.loops with
      | 0, _ => { r with left := t.count }
      | 1, l => settleRouter s core f { r with step := r.step + 1, loops := (r.step + 1, t.count) :: l }
      | 2, (b, k) :: l =>
        if 1 < k then settleRouter s core f { r with step := b, loops := (b, k - 1) :: l }
        else settleRouter s core f { r with step := r.step + 1, loops := l }
      | _, _ => { r with ended := true }

/-- Loops nest at most 2 deep and each body holds a route step, so few steps lie between two route steps. -/
def settled (s : State) (core : Nat) (r : Router) : Router := settleRouter s core 8 r

/-- The router one partition cycle later. -/
def nextCycle (s : State) (core : Nat) (r : Router) : Router :=
  let r := settled s core r
  if r.ended then r
  else if r.left ≤ 1 then { r with left := 0, step := r.step + 1 } else { r with left := r.left - 1 }

/-- The router k partition cycles later. -/
def laterCycle (s : State) (core : Nat) : Nat → Router → Router
  | 0, r => r
  | k + 1, r => laterCycle s core k (nextCycle s core r)

/-- The route step of a core k partition cycles from now; none once the plan has ended. -/
def stepIn (s : State) (core k : Nat) : Option PlanStep :=
  let r := settled s core (laterCycle s core k (coreAt s core).router)
  if r.ended then none else stepAt s core r.step

/-! What a cycle uses (R182, R183) -/

/-- The elements of a list, each once. DEDUCED (log 92). -/
def once : List Nat → List Nat
  | [] => []
  | x :: l => x :: (once l).filter (fun y => y != x)

/-- The send entries a step uses (R175). -/
def PlanStep.sends (t : PlanStep) : List Nat := once (((upFrom 0 5).filter (fun o => t.srcOf o == 6)).map t.sendOf)
/-- The receive entries a step uses. -/
def PlanStep.receives (t : PlanStep) : List Nat := once (((upFrom 0 5).filter t.delivers).map t.recvOf)

/-- The cores of a partition with their partition-relative indices. -/
def coreList (s : State) (n : Nat) : List (Nat × Nat) := (coresOf s n).zipIdx

/-- The words that leave hamper buffers k partition cycles from now, in cycle c (R178): core, delay to its input D, stream. Words delivered
in cycles 0 to 2 leave in cycle 0. DEDUCED (log 92). -/
def departures (s : State) (n c k : Nat) : List (Nat × Nat × Nat) :=
  (if c = 0 then [0, 1, 2, 3] else [3]).flatMap (fun d =>
    (coreList s n).filterMap (fun x => match stepIn s x.1 (k + d) with
      | some t => (dropStream t.dout).map (fun st => (x.2, d, st))
      | none => none))

/-- What a partition cycle uses, each by its cause and key. An entry's key is core × 4,096 + entry; a core in reset never waits (R478). -/
def usesOf (s : State) (n c k : Nat) : List (Nat × Nat) :=
  ((coreList s n).flatMap (fun x => match stepIn s x.1 k with
    | none => []
    | some t =>
      (if (coreAt s x.1).inReset then [] else
        t.sends.map (fun e => (1, x.1 * 4096 + e)) ++ t.receives.map (fun e => (2, x.1 * 4096 + e))) ++
      (match dropStream t.din with | some st => if t.srcOf 4 ≠ 0 then [(4, st)] else [] | none => []))) ++
  (departures s n c k).map (fun x => (3, x.2.2))

/-- How many 64-byte units a use may still take. -/
def unitsLeft (s : State) (n : Nat) (r : Run) (u : Nat × Nat) : Nat :=
  match u.1 with
  | 3 => (match bufOf s n u.2 with | some b => (b.put - b.got) / 64 | none => 0)
  | 4 => (match bufOf s n u.2 with
    | some b => (b.size - (b.put - b.got)) / 64 - (r.flights.filter (fun f => f.stream == some u.2)).length
    | none => 0)
  | _ => (tget [] (coreAt s (u.2 / 4096)).arms (u.2 % 4096)).foldl (fun a x => a + x.left) 0

/-- How often a use stands in a list. -/
def countUse (l : List (Nat × Nat)) (u : Nat × Nat) : Nat := (l.filter (fun x => x == u)).length

/-- The first use of the lowest cause that is not ready, `seen` being reserved. -/
def firstShort (s : State) (n : Nat) (r : Run) : List (Nat × Nat) → List (Nat × Nat) → Option (Nat × Nat)
  | _, [] => none
  | seen, u :: l =>
    let rest := firstShort s n r (u :: seen) l
    if unitsLeft s n r u ≤ countUse seen u then
      (match rest with | some v => if v.1 < u.1 then some v else some u | none => some u)
    else rest

/-- The device ring of a partition-relative row (R187). -/
def ringOf (s : State) (n row : Nat) : Nat :=
  match shapeOf (clustersOf s n) with
  | some (j0, _) => 2 * j0 + row / 2
  | none => 0

/-- The input that a core receives from across the seam. -/
def Place.seamIn (p : Place) : Option Nat := p.seam

/-- The lowest row whose seam port lacks a word due in cycle c, because its ring replays (R191). -/
def seamShort (s : State) (n : Nat) (r : Run) (c : Nat) : Option Nat :=
  ((r.flights.filter (fun f => f.due == c && f.stream.isNone && (placeIn s n f.core).seamIn == some f.port &&
      decide (0 < tget 0 s.mesh.replay (ringOf s n (placeIn s n f.core).row)))).map (fun f => (placeIn s n f.core).row)).foldl
    (fun a x => match a with | none => some x | some y => some (min x y)) none

/-- What a use of causes 1 and 2 names: core × 65,536 + entry; of 3 and 4: the stream. -/
def whoOf (u : Nat × Nat) : Nat := if u.1 ≤ 2 then u.2 / 4096 * 65536 + u.2 % 4096 else u.2

/-- The slip tree decides the next partition cycle that it has not (R182). DEDUCED (log 91). -/
def decideAhead (s : State) (n : Nat) (r : Run) : Ahead :=
  let k := (r.ahead.filter (fun a => a.cause == 0)).length
  let c := r.cycle + k
  let u := usesOf s n c k
  match firstShort s n r (r.ahead.flatMap (fun a => a.uses)) u, seamShort s n r c with
  | some x, _ => { cause := x.1, who := whoOf x }
  | none, some row => { cause := 5, who := row }
  | none, none => { uses := u }

/-- Decides until k more decisions stand. DEDUCED (log 91). -/
def lookAhead (s : State) (n : Nat) : Nat → Run → Run
  | 0, r => r
  | k + 1, r => lookAhead s n k { r with ahead := r.ahead ++ [decideAhead s n r] }

/-- The decisions after a cycle that a hold or a bubble took: the first slip among them falls into it and does not count (R183, R184); a
partition cycle that is ready waits. DEDUCED (log 91). -/
def dropSlip : List Ahead → List Ahead
  | [] => []
  | a :: l => if a.cause = 0 then a :: dropSlip l else l

/-! Words -/

/-- A word with every codeword poisoned. -/
def poisonBeat (b : Beat) : Beat := b.map (fun x => (x.1, true))
/-- A word of zero with valid check bits. -/
def zeroBeat : Beat := List.replicate 8 (0, false)

/-- The current arm of an entry moves on by 64 bytes (R175). -/
def stepArm (s : State) (core e : Nat) : State :=
  modCore s core (fun c => { c with arms := tmod [] c.arms e (fun l => match l with
    | a :: t => if a.left ≤ 1 then t else { a with addr := a.addr + 64, left := a.left - 1 } :: t
    | [] => []) })

/-- The memory an arm names. -/
def armMem (core : Nat) (a : Arm) : MemId := if a.slice then .slice core else .basket core

/-- Words of an arm that cross the core's vertical channel, when it names the slice (R273). -/
def channelCount (s : State) (a : Arm) (b : Beat) : State := if a.slice then countPoison s 0 b else s

/-- The next 64 bytes of a send entry; a core in reset sends poison (R460). DEDUCED (log 92). -/
def takeBeat (s : State) (n core e : Nat) : Beat × State :=
  if (coreAt s core).inReset then (poisonBeat zeroBeat, modPart s n (fun p => { p with poisoned := p.poisoned + 1 }))
  else match tget [] (coreAt s core).arms e with
  | a :: _ =>
    let r := readWords s (armMem core a) (a.addr / 8) 8
    (r.1, stepArm (channelCount r.2 a r.1) core e)
  | [] => (zeroBeat, s)

/-- The words of a list of send entries. DEDUCED (log 92). -/
def takeBeats (s : State) (n core : Nat) : List Nat → List (Nat × Beat) × State
  | [] => ([], s)
  | e :: l =>
    let a := takeBeat s n core e
    let r := takeBeats a.2 n core l
    ((e, a.1) :: r.1, r.2)

/-- The cluster of a core and the drop of its router (R178). -/
def dropOf (core : Nat) : Nat × Nat := (clusterOf core, 2 * (core / 32 % 4) + (core % 8 - 3))

/-- Whether words through a core's drop are poison: the drop's decoder has failed, or its cluster is fenced (R478). -/
def dropPoisons (s : State) (core : Nat) : Bool :=
  s.mesh.poisoned.contains (1, (dropOf core).1 * 8 + (dropOf core).2) ||
  ((coreAt s core).inReset && s.units.fenced.contains (clusterOf core))

/-- The neighbour that output o leads to: its partition-relative index, its input, the delay (R173, R188). -/
def neighbour (p : Place) (i o : Nat) : Nat × Nat × Nat :=
  let d := if p.seam = some o then 32 else 2
  match o with
  | 0 => (i - p.cols, 2, d)
  | 1 => (i + 1, 3, d)
  | 2 => (i + p.cols, 0, d)
  | _ => (i - 1, 1, d)

/-- Whether a word on output o of a core arrives as poison (R172, R192). DEDUCED (log 127). -/
def linkPoisons (s : State) (n core : Nat) (p : Place) (o : Nat) : Bool :=
  s.mesh.poisoned.contains (0, core * 8 + o) ||
  (p.seam == some o && s.mesh.poisoned.contains (2, ringOf s n p.row))

/-- The codewords of a word on output o of a core that an uncorrectable error strikes (R172). -/
def struck (bad : List LinkWord) (core o : Nat) : List Nat :=
  (bad.filter (fun x => x.core.val == core && x.out.val == o)).map (fun x => x.word.val)

/-- The class of the carrier at output o of a core, in the order of R275; input D is that of a drop. -/
def carrierOf (p : Place) (o : Nat) : Nat := if 4 ≤ o then 2 else if p.seam = some o then 3 else 1

/-- The flight of a word that leaves output o of a core in cycle c, if it leads anywhere. -/
def sendOn (s : State) (n c core i : Nat) (p : Place) (t : PlanStep) (o : Nat) (b : Beat) : Option Flight :=
  if o = 4 then (dropStream t.din).map (fun st =>
    { due := c + 3, core := i, port := 4, stream := some st, beat := if dropPoisons s core then poisonBeat b else b })
  else if !(p.faces o) then none
  else
    let x := neighbour p i o
    some { due := c + x.2.2, core := x.1, port := x.2.1, stream := none, beat := if linkPoisons s n core p o then poisonBeat b else b }

/-- Writes the word of an input to a receive entry, or 64 bytes of zero when none came; a core in reset absorbs it
(R177, R460); a word from a fenced cluster's drop is counted where it leaves its buffer. DEDUCED (log 96). -/
def deliver (s : State) (n core e port : Nat) (b : Option Beat) : State :=
  if (coreAt s core).inReset then
    (if port = 4 ∧ s.units.fenced.contains (clusterOf core) = true then s
     else modPart s n (fun p => { p with absorb := p.absorb + 1 }))
  else match tget [] (coreAt s core).arms e with
  | a :: _ => writeWords (channelCount s a (b.getD zeroBeat)) (armMem core a) (a.addr / 8) (b.getD zeroBeat)
  | [] => s

/-- The words that leave a core, output by output, each over its carrier (R172, R273). A Seam ring's uncorrectable words are
UNCORRECTABLE_RING_WORD's. -/
def leave (s : State) (n c core i : Nat) (p : Place) (t : PlanStep) (bad : List LinkWord) (word : Nat → Option Beat) :
    List Nat → List Flight × State
  | [] => ([], s)
  | o :: l =>
    match (word o).bind (sendOn s n c core i p t o) with
    | none => leave s n c core i p t bad word l
    | some f =>
      let y := crossWords s (carrierOf p o) (core * 8 + o) (if p.seam = some o then [] else struck bad core o) f.beat
      let r := leave y.2 n c core i p t bad word l
      ({ f with beat := y.1 } :: r.1, r.2)

/-- One core's part of a partition cycle: its inputs `inp`, its sends and receives; answers the words that leave it.
DEDUCED (log 92). -/
def moveCore (s : State) (n c core i : Nat) (t : PlanStep) (bad : List LinkWord) (inp : Nat → Option Beat) : List Flight × State :=
  let p := placeIn s n i
  let m := takeBeats s n core t.sends
  let s := m.2
  let word := fun (o : Nat) => match t.srcOf o with
    | 0 => none
    | 6 => m.1.lookup (t.sendOf o)
    | k => inp (k - 1)
  let out := leave s n c core i p t bad word (upFrom 0 5)
  let s := out.2
  let s := ((upFrom 0 5).filter t.delivers).foldl (fun s x => deliver s n core (t.recvOf x) x (inp x)) s
  (out.1, if (coreAt s core).inReset then s else t.receives.foldl (fun s e => stepArm s core e) s)

/-- The input words of a core: those due now, and through a fenced cluster's drop a word that is absorbed (R478). -/
def inputOf (s : State) (core i : Nat) (due : List Flight) (port : Nat) : Option Beat :=
  ((due.find? (fun f => f.stream.isNone && f.core == i && f.port == port)).map (fun f => f.beat)).map (fun b =>
    if port = 4 ∧ dropPoisons s core = true then poisonBeat b else b)

/-- The step that a core's router takes up is read from the slice (R174, R272): the 32 bytes of step i. DEDUCED (log 75). -/
def readStep (s : State) (core i : Nat) : State :=
  let h := planBytes s core 0 16
  if i < field h 4 4 then (readMem s (.slice core) ((planAt (coreAt s core)).1 + field h 12 4 + 32 * i) 32).2 else s

/-- Every core's part of a partition cycle, in ascending index. -/
def moveCores (s : State) (n c : Nat) (bad : List LinkWord) (due : List Flight) : List (Nat × Nat) → List Flight × State
  | [] => ([], s)
  | (core, i) :: l =>
    let a := match stepIn s core 0 with
      | some t => moveCore s n c core i t bad (inputOf s core i due)
      | none => ([], s)
    let old := (coreAt a.2 core).router
    let new := nextCycle a.2 core old
    let s := modCore (if new.step = old.step then a.2 else readStep a.2 core new.step) core (fun k => { k with router := new })
    let r := moveCores s n c bad due l
    (a.1 ++ r.1, r.2)

/-- The words leaving hamper buffers in cycle c, each over its drop (R172, R273). -/
def depart (s : State) (n c : Nat) (bad : List LinkWord) : List (Nat × Nat × Nat) → List Flight × State
  | [] => ([], s)
  | (i, d, st) :: l =>
    let a := bufGet s n st 8
    let core := (coresOf s n).getD i 0
    let y := crossWords a.2 2 (core * 8 + 5) (struck bad core 5) a.1
    let r := depart y.2 n c bad l
    ({ due := c + d, core := i, port := 4, stream := none, beat := y.1 } :: r.1, r.2)

/-- Changes the run of a partition. -/
def modRun (s : State) (n : Nat) (f : Run → Run) : State := modPart s n (fun p => { p with run := p.run.map f })

/-- The partition advances one partition cycle (R177, R178). -/
def advance (s : State) (n : Nat) (r : Run) (bad : List LinkWord) : State :=
  let c := r.cycle
  let s := (r.flights.filter (fun f => f.due == c)).foldl (fun s f => match f.stream with
    | some st => bufPut s n st f.beat
    | none => s) s
  let d := depart s n c bad (departures s n c 0)
  let s := d.2
  let flights := r.flights ++ d.1
  let gone := (d.1.filter (fun f => match (coresOf s n)[f.core]? with
    | some core => (coreAt s core).inReset && s.units.fenced.contains (clusterOf core)
    | none => false)).length
  let s := modPart s n (fun p => { p with absorb := p.absorb + BitVec.ofNat 64 gone })
  let m := moveCores s n c bad (flights.filter (fun f => f.due == c)) (coreList s n)
  modRun m.2 n (fun r => { r with cycle := c + 1, flights := flights.filter (fun f => f.due != c) ++ m.1 })

/-! Slips and bubbles -/

/-- Adds 1 at place i of a list. -/
def bump : List Nat → Nat → List Nat
  | [], _ => []
  | x :: l, 0 => (x + 1) :: l
  | x :: l, i + 1 => x :: bump l i

/-- The time of this cycle does not count for the watchdogs of a partition's cores (R113). DEDUCED (log 58). -/
def exclude (s : State) (n : Nat) : State := modCores s n (fun c => { c with excluded := c.excluded + 3480 / tickCycles s })

/-- Whether every engine of a core that has not ended waits at a barrier (R113). -/
def allAtBarrier (c : Core) : Bool :=
  (upFrom 0 7).all (fun e => (engAt c e).st == .ended || (engAt c e).st == .waitBarrier) &&
  (upFrom 0 7).any (fun e => (engAt c e).st == .waitBarrier)

/-- A bubble (R383, R386). DEDUCED (log 58, 93). -/
def bubbleCycle (s : State) (n cause : Nat) : State :=
  exclude (modPart s n (fun p => { p with
    bubbles := { p.bubbles with run := p.bubbles.run + 1, causes := bump p.bubbles.causes (cause - 1), total := p.bubbles.total + 1 } })) n

/-- A hold (R183, R185). DEDUCED (log 58, 93). -/
def holdCycle (s : State) (n : Nat) : State :=
  exclude (modPart s n (fun p => { p with slips := { p.slips with hold := p.slips.hold + 1, cHold := p.slips.cHold + 1, unbroken := 0 } })) n

/-- A data slip (R183, R185). An unbroken run that began in an earlier frame counts whole toward f_max_run. DEDUCED (log 93). -/
def slipCycle (s : State) (n cause who : Nat) : State :=
  exclude (modPart s n (fun p =>
    let k := p.slips.unbroken + 1
    { p with slips := { p.slips with
        slip := p.slips.slip + 1, cSlip := p.slips.cSlip + 1, causes := bump p.slips.causes (cause - 1), unbroken := k,
        maxRun := max p.slips.maxRun k, lastCause := cause, lastWho := who } })) n

/-- The hold that applies, lowest cause first (R183). DEDUCED (log 93). -/
def holding (s : State) (n : Nat) (r : Run) : Bool :=
  s.sparings.any (fun x => match x.part with | some m => m.val == n | none => false) || s.hemReset.isSome ||
  s.hup.loss == .safe || r.stop.isSome

/-- The watchdogs of cores whose engines all wait at barriers stand still. -/
def barrierTime (s : State) (n : Nat) : State :=
  modCores s n (fun c => if allAtBarrier c then { c with excluded := c.excluded + 3480 / tickCycles s } else c)

/-- The wall-cycle counts of a cycle: gated cores (R115), rings that replay. DEDUCED (log 91). -/
def wallCounts (s : State) (n : Nat) : State :=
  let s := modCores s n (fun c => if c.gated then { c with cnt := tmod 0 c.cnt 0x120 (· + 1) } else c)
  { s with mesh := { s.mesh with replay := (s.mesh.replay.map (fun x => (x.1, x.2 - 1))).filter (fun x => x.2 != 0) } }

/-- The bubble a cycle takes: the ratio decided 4 cycles before and the cause it was decided for (R384, R386). DEDUCED (log 91). -/
def appliedBubble (s : State) (n : Nat) (r : Run) : Nat × Nat := r.lag.getLast?.getD (bubbleRatio s n, bubbleCause s n)

/-- The run after one more wall cycle: the slip tree has decided 8 cycles ahead (R182), the bubble tree 4 (R384). -/
def wallCycle (s : State) (n : Nat) (r : Run) : Run :=
  lookAhead s n (9 - r.ahead.length) { r with wall := r.wall + 1, lag := ((bubbleRatio s n, bubbleCause s n) :: r.lag).take 4 }

/-- PARTITION_CYCLE: one wall cycle of a partition whose cores have started (R181–R184, R383–R386); `bad` names the codewords that become
uncorrectable on a link or a drop (R172). DESIGN CHOICE (log 9); DEDUCED (log 91). -/
def execPartitionCycle (part : PartId) (bad : List LinkWord) (s : State) : Host.Outcome State Fault Refusal :=
  whenAon s fun s =>
    let n := part.val
    match (partAt s n).run with
    | none => s
    | some r =>
      if r.started = false then s
      else
        let applied := appliedBubble s n r
        let s := wallCounts s n
        let r' := wallCycle s n r
        let paused := modRun s n (fun _ => { r' with ahead := dropSlip r'.ahead })
        if s.hup.loss == .ride && s.hemReset.isNone then bubbleCycle paused n 7
        else if isBubble applied.1 r.wall then bubbleCycle paused n applied.2
        else if holding s n r then holdCycle paused n
        else match r'.ahead with
          | [] => s
          | a :: l =>
            let s := modRun s n (fun _ => { r' with ahead := l })
            if a.cause ≠ 0 then slipCycle s n a.cause a.who
            else advance (barrierTime (modPart s n (fun p => { p with slips := { p.slips with unbroken := 0 } })) n) n r' bad

/-- Wall cycles in a microsecond. -/
def usCycles (s : State) : Nat := if s.therm.bin then 1450 else 1500

/-- SLIP_LIMIT (R186, R546): data slips unbroken for longer than slip_limit end the run. -/
def execSlipLimit (part : PartId) (s : State) : Host.Outcome State Fault Refusal :=
  whenAon s fun s =>
    let n := part.val
    let x := (partAt s n).slips
    if runLive s n = true ∧ bits (reg s (0xA04010 + 0x40 * n)) 31 20 * usCycles s < x.unbroken then
      let core := x.lastCause ≤ 2
      stopRun (raise s { kind := kSlipLimit, unit := if core then uCore else uPart, id := if core then x.lastWho / 65536 else n,
                         part := some n, status := sSlipLimit, detail := x.lastCause + x.lastWho % 4096 * 16 })
        n { status := sSlipLimit }
    else s

/-- The slip records of a frame (R185, R186): latched, with a record of a partition beyond its budget. -/
def slipFrame (s : State) : State :=
  allParts.foldl (fun s n =>
    let x := (partAt s n).slips
    let beyond := decide (bits (reg s (0xA04010 + 0x40 * n)) 19 0 < x.slip)
    let w := fun (k : Nat) => BitVec.ofNat 32 (min k 0xFFFFFFFF)
    let s := modPart s n (fun p => { p with slips := { x with
        slip := 0, hold := 0, causes := [0, 0, 0, 0, 0], maxRun := 0,
        fSlip := w x.slip, fHold := w x.hold, fCauses := x.causes.map w, fMaxRun := w x.maxRun,
        cOver := if beyond then x.cOver + 1 else x.cOver, frame := s.frames - 1 } })
    if beyond then
      raise s { kind := kSlipBudget, unit := uPart, id := n, part := some n,
                detail := 1 + (firstIdx (fun y => y == largest x.causes) 0 x.causes).getD 0 }
    else s) s

/-! The Seam rings (R190–R192) -/

/-- The partition that a ring serves (R187). DESIGN CHOICE (log 94). -/
def ringPart (s : State) (k : Nat) : Option Nat :=
  allParts.find? (fun n => match shapeOf (clustersOf s n) with
    | some (j0, _, h, ww, we) => ww != 0 && we != 0 && decide (2 * j0 ≤ k) && decide (k < 2 * j0 + 2 * h)
    | none => false)

/-- Whether ring 8 may take a ring's traffic. -/
def spareRing (s : State) : Bool := s.units.ring8.isNone && !s.units.ring8Gone

/-- Moves a ring onto ring 8, with the record and the defect (R190). -/
def replaceRing (s : State) (k : Nat) : State :=
  addDefect (raise { s with units := { s.units with ring8 := some k } } { kind := kSeamReplaced, unit := uRing, id := k })
    kSeamReplaced uRing k 2

/-- Notes a ring that a run start must not use any more (R192). DEDUCED (log 95). -/
def failRing (s : State) (k : Nat) : State :=
  if s.units.ringsFailed.contains k then s
  else { s with units := { s.units with ringsFailed := s.units.ringsFailed ++ [k] } }

/-- SEAM_RING_REPLACED (R190, R192): a wire reached steer_count; with no spare the ring goes on under correction.
DEDUCED (log 95). -/
def execSeamRingReplaced (ring : Fin 8) (s : State) : Host.Outcome State Fault Refusal :=
  whenAon s fun s =>
    if spareRing s then replaceRing s ring.val else failRing s ring.val

/-- A ring's words are poison from now on: no spare is left (R192). DEDUCED (log 95). -/
def poisonRing (s : State) (k : Nat) : State :=
  let s := if s.mesh.poisoned.contains (2, k) then s else { s with mesh := { s.mesh with poisoned := s.mesh.poisoned ++ [(2, k)] } }
  raise (failRing s k) { kind := kSeamFailed, unit := uRing, id := k }

/-- Begins the replay of a ring's slots: how many cycles it takes, up to 64, the manual leaves open (R191).
DESIGN CHOICE (log 94). -/
def beginReplay (s : State) (k : Nat) : State :=
  let r := takeFree s
  if (ringPart s k).isSome then
    { r.2 with mesh := { r.2.mesh with replay := tset 0 r.2.mesh.replay k (r.1.toNat % 65) } }
  else r.2

/-- UNCORRECTABLE_RING_WORD (R191, R192). DEDUCED (log 95). -/
def execUncorrectableRingWord (ring : Fin 9) (_east : Bool) (_slot : Fin 64) (s : State) : Host.Outcome State Fault Refusal :=
  whenAon s fun s =>
    let s := noteLink s 3 ring.val
    let k := ring.val
    if k = 8 then
      let s := { s with units := { s.units with ring8Gone := true } }
      match s.units.ring8 with
      | some j => if s.mesh.poisoned.contains (2, j) then s else poisonRing s j
      | none => addDefect s kSeamFailed uRing 8 2
    else if s.units.ring8 = some k then (if s.units.ring8Gone then s else beginReplay s k)
    else if spareRing s then beginReplay (replaceRing s k) k
    else if s.mesh.poisoned.contains (2, k) then s
    else poisonRing s k

/-! Tack (R199, R201) -/

/-- TACK_MESSAGE_LOST (R199): the destination sees a gap in the sequence and goes on after it. DEDUCED (log 96). -/
def execTackMessageLost (src dst : BitVec 16) (chan : Fin 2) (s : State) : Host.Outcome State Fault Refusal :=
  whenAon s fun s =>
    raise (tackMessage s src.toNat dst.toNat chan.val) { kind := kTackLost, unit := uDevice, detail := src.toNat + dst.toNat * 65536 }

/-- TACK_REQUEST_TIMEOUT (R199): no response has come to a request within 1 ms: it ends with S_TIMEOUT, a port's register access by the
answer to it, and is reported. DEDUCED (log 96). -/
def execTackRequestTimeout (src dst : BitVec 16) (chan : Fin 2) (read : Option Access) (s : State) : Host.Outcome State Fault Refusal :=
  whenAon s fun s =>
    let s := tackMessage s src.toNat dst.toNat chan.val
    let s := match read with | some a => answer s a sTimeout 0 | none => s
    raise s { kind := kTackLost, unit := uDevice, status := sTimeout, detail := src.toNat + dst.toNat * 65536 }

/-- TACK_SEAM_CHANNEL_FAILED (R201): the flit lanes fail (in mode 0), or the sideband, which fences the Seam rings. -/
def execTackSeamChannelFailed (sideband : Bool) (s : State) : Host.Outcome State Fault Refusal :=
  whenAon s fun s =>
    if sideband then
      if s.mesh.sidebandFailed then s
      else
        let s := raise { s with mesh := { s.mesh with sidebandFailed := true } } { kind := kTackSeam, unit := uDevice }
        let s := { (upFrom 0 8).foldl failRing s with units := { ((upFrom 0 8).foldl failRing s).units with ring8Gone := true } }
        (allParts.filter (fun n => match shapeOf (clustersOf s n) with
          | some (_, _, _, ww, we) => ww != 0 && we != 0
          | none => false)).foldl (fun s n => stopRun s n { status := sLinkDown }) s
    else if tackMode s ∨ s.mesh.channelFailed then s
    else raise { s with mesh := { s.mesh with channelFailed := true } } { kind := kTackSeam, unit := uDevice }

end Sys2Proof.Machine
end

