-- ==== Sys2Proof/Machine/Press.lean ====
section
/-! DEFINITION. Pressing the fold (R337, R338) and what the registers it applies do at the press instant (R157, R208, R237, R283, R363,
R372, R376, R380, R391, R508, R521). -/

namespace Sys2Proof.Machine

/-! Clusters given and taken (R380, R508, R521) -/

/-- A cluster leaves its partition: headers off, slices cleared. DEDUCED (log 27). -/
def releaseCluster (s : State) (c : Nat) : State :=
  (clusterCores c).foldl (fun s k => fillZero s (.slice k)) (turnOff s c)

/-- The clusters in the first set and not in the second. -/
def lessClusters (a b : W32) : List Nat := (upFrom 0 32).filter (fun c => bitAt a c && !bitAt b c)

/-- A partition that is set up has its records zeroed (R185, R386, R469). -/
def setUpPart (s : State) (n : Nat) : State :=
  modPart s n (fun p => { p with slips := {}, bubbles := {}, absorb := 0, poisoned := 0 })

/-- Partition n's clusters changed from `old` to `new`, `first` taking those away, else giving the others. DEDUCED (log 27). -/
def moveClusters (s : State) (n : Nat) (old new : W32) (first : Bool) : State :=
  if first then (lessClusters old new).foldl releaseCluster s
  else
    let s := (lessClusters new old).foldl turnOn s
    if old = 0 ∧ new ≠ 0 then setUpPart s n else s

/-! The other registers -/

/-- A Myarn port whose enable changed (R372). -/
def enableMya (s : State) (old : State) (p : MPort) : State :=
  let o := 0x600004 + 0x10000 * p.val
  let was := bitAt (reg old o) 0
  let is := bitAt (reg s o) 0
  if was ∧ is = false then sendDown s (.myarn p) 0
  else if was = false ∧ is ∧ mayTrain s (.myarn p) = true then beginTraining s (.myarn p)
  else s

/-- The barriers whose registers a list of offsets names. -/
def barsIn (l : List Nat) : List Nat :=
  once ((l.filter (fun o => decide (0xB00000 ≤ o) && decide (o < 0xB10000))).map (fun o => o / 0x100 % 0x100))

/-- A change of the selected cap acts as a pin change to it (R391). -/
def pressCap (s : State) (old : State) : State :=
  let a := capSelected old
  let b := capSelected s
  if a = b then s else noteCap (if b < a then hold56 s else s)

/-- Test flags cleared disarm the flip-mask (R283). -/
def pressTest (s : State) (old : State) : State :=
  allParts.foldl (fun s n => if testMode old n && !testMode s n then disarm s n else s) s

/-! The pace of the patrol scrub (R276, R277) -/

/-- The number of a memory class. -/
def scrubNo : ScrubClass → Nat
  | .slice => 0
  | .basket => 1
  | .hamper => 2
  | .stack => 3

/-- The logical cores whose memories the patrol reads. -/
def scrubCores (s : State) : List Nat := (upFrom 0 1024).filter (coreOn s.variant)
/-- Words of a bank group, and of a site. -/
abbrev groupWordCount : Nat := 41943040
/-- Words of a site. -/
abbrev siteWords : Nat := 256 * groupWordCount

/-- The words of a class. -/
def scrubTotal (s : State) : ScrubClass → Nat
  | .slice => (scrubCores s).length * 262144
  | .basket => (scrubCores s).length * 32768
  | .hamper => 8388608
  | .stack => (liveSites s).length * siteWords

/-- The period of a class, in ticks; 0: its patrol is off. -/
def scrubPeriod (s : State) : ScrubClass → Nat
  | .stack => bits (reg s 0x800F00) 23 16 * 90000000000
  | _ => bits (reg s 0x800F00) 10 0 * 1500000000

/-- A new period: the pass goes on from its place at the new pace. DEDUCED (log 125). -/
def pressScrub (s : State) (old : State) : State :=
  [ScrubClass.slice, .basket, .hamper, .stack].foldl (fun s c =>
    if scrubPeriod s c = scrubPeriod old c then s
    else { s with scrub := tmod {} s.scrub (scrubNo c) (fun x =>
      { x with begun := s.time - BitVec.ofNat 64 (x.pos * scrubPeriod s c / scrubTotal s c) }) }) s

/-- Zeroes every KV region (R237). DEDUCED (log 27). -/
def zeroKv (s : State) : State :=
  ((upFrom 0 1024).filter (fun u => nbuOn s.variant u && (stkAt s (u / 256)).trained)).foldl (fun s u =>
    modNbu (zeroStack s (localAddr u (kvBase s)) ((localSize s - kvBase s) / 8)) u (fun n => { n with rows := [] })) s

/-- The memory fills of a press: the stacks when the stripe changes, the KV regions when the log changes, the parameter block table when
its place changes. DEDUCED (log 27). -/
def pressFills (s : State) (old : State) : State :=
  let s := if changes old s 0x300108 then { s with stack := {}, deferred := [] } else s
  let s := if changes old s 0x500304 then zeroKv s else s
  if changes old s 0xA05000 || changes old s 0xA05004 then zeroStack s (pbtBase s) (8 * pbtCount s) else s

/-- The fold is applied, at one instant, and emptied (R338). DEDUCED (log 27). -/
def applyFold (old : State) : State :=
  let offs := old.fold.words.map (fun x => x.1)
  let t := laid old
  let s := { t with fold := { t.fold with words := [], waiting := none } }
  let moved := allParts.any (fun n => clustersOf old n != clustersOf s n)
  let s := allParts.foldl (fun s n => moveClusters s n (clustersOf old n) (clustersOf s n) true) s
  let s := allParts.foldl (fun s n => moveClusters s n (clustersOf old n) (clustersOf s n) false) s
  let s := if moved || changes old s 0x700020 then retarget s true else s
  let s := ([0, 1, 2, 3, 4, 5, 6, 7] : List MPort).foldl (fun s p => enableMya s old p) s
  let s := (barsIn offs).foldl (fun s k => modBar s k freshBar) s
  pressFills (pressScrub (pressTest (pressCap s old) old) old) old

/-- A press: its checks, and the fold applied when they pass. DEDUCED (log 27). -/
def press (s : State) : Byte × State :=
  if s.fold.words.isEmpty then (ok, { s with fold := { s.fold with waiting := none } })
  else
    let r := foldChecks s
    if r.1 = ok then (ok, applyFold r.2) else (r.1, { r.2 with fold := { r.2.fold with waiting := none } })

/-- A write of FOLD_PRESS (R337, R338): at once, or at the next frame boundary, with its answer then. DEDUCED (log 26). -/
def pressWrite (s : State) (a : Access) (v : W32) : State :=
  let waits := released s && a.other == 0 && holdsSem s a.port && decide (v &&& 0xFFFFFFFC = 0) && bitAt v 0 && bitAt v 1 &&
    s.fold.waiting.isNone && !s.fold.words.isEmpty
  if waits then
    let s := modNal s a.port (fun n => { n with latch := n.latch.written 0x20004 })
    { s with fold := { s.fold with waiting := some a, asked := s.time } }
  else setupWrite s a 0x20004 (fun s => foldCtl s a.port v 0xFFFFFFFC true press)

/-- FOLD_PRESS: a write of that register. -/
def execFoldPress (a : Access) (v : W32) (s : State) : Host.Outcome State Fault Refusal :=
  whenAon s fun s => pressWrite s a v

/-- FOLD_PRESS_AT_BOUNDARY (R338): the waiting press, at the boundary of the frame it was asked in. -/
def execFoldPressAtBoundary (s : State) : Host.Outcome State Fault Refusal :=
  whenAon s fun s =>
    match s.fold.waiting with
    | none => s
    | some a =>
      if s.fold.asked / 25000 = frameNo s then s
      else
        let r := press s
        pressAnswer r.2 a r.1

end Sys2Proof.Machine
end

