-- ==== Sys2Proof/Machine/Thermal.lean ====
section
/-! DEFINITION. Temperature, airflow and ageing (R395–R417): sensors and control temperatures, limits and thermal halts, fans, airflow,
the margin review. -/

namespace Sys2Proof.Machine

/-! Sensors (R395, R396) -/

/-- Changes the Lehr's thermal state. -/
def modTherm (s : State) (f : Therm → Therm) : State := { s with therm := f s.therm }
/-- Sensor i. -/
def sensorAt (s : State) (i : Nat) : Sensor := tget {} s.therm.sensor i
/-- Changes sensor i. -/
def modSensor (s : State) (i : Nat) (f : Sensor → Sensor) : State :=
  modTherm s (fun t => { t with sensor := tmod {} t.sensor i f })
/-- The cluster of a sensor. -/
def sensorCluster (i : Nat) : Nat := if i < 256 then i / 8 else if i < 320 then (i - 256) / 2 else i - 320
/-- The layer of a sensor: 2, 1 or 0. -/
def sensorLayer (i : Nat) : Nat := if i < 256 then 2 else if i < 320 then 1 else 0
/-- The sensors of a cluster in a layer. -/
def layerSensors (layer c : Nat) : List Nat :=
  match layer with | 2 => upFrom (8 * c) 8 | 1 => upFrom (256 + 2 * c) 2 | _ => [320 + c]
/-- A sensor's reading, in 1/16 °C. -/
def readingOf (s : State) (i : Nat) : Int := (sensorAt s i).reading.toInt
/-- The enabled clusters. -/
def enabledClusters (s : State) : List Nat := (upFrom 0 32).filter (clusterOn s.variant)
/-- The largest of a list of temperatures. -/
def hottest : List Int → Option Int
  | [] => none
  | x :: l => match hottest l with | some y => some (max x y) | none => some x
/-- The sensors of a list that are not faulty. -/
def good (s : State) (l : List Nat) : List Nat := l.filter (fun i => !(sensorAt s i).faulty)

/-- A sensor becomes faulty (R396). -/
def faultySensor (s : State) (i : Nat) : State :=
  if (sensorAt s i).faulty then s
  else
    addDefect (raise (modSensor s i (fun x => { x with faulty := true, off := none, back := none }))
      { kind := kSensorFaulty, unit := uSensor, id := i }) kSensorFaulty uSensor i 2

/-- A reading of a sensor, or none. -/
def takeReading (s : State) (i : Nat) (v : Option (BitVec 16)) : State :=
  match v with
  | some x =>
    let s := modSensor s i (fun y => { y with reading := x, missing := none })
    if x.toInt < -640 ∨ 2400 < x.toInt then faultySensor s i else s
  | none =>
    let t := (sensorAt s i).missing.getD s.time
    let s := modSensor s i (fun y => { y with missing := some t })
    if msTicks 1 ≤ since s t then faultySensor s i else s

/-! Control temperatures (R397, R398) -/

/-- The hottest reading beside a cluster in a layer, plus 5 K. DEDUCED (log 108). -/
def fromBeside (s : State) (layer c : Nat) : Int :=
  let l := ((besides c).filter (clusterOn s.variant)).flatMap (fun k => good s (layerSensors layer k))
  (hottest (l.map (readingOf s))).getD (Config.noNeighbour (layer * 32 + c)).toInt + 80

/-- The control temperature of a cluster in L2 or L0. -/
def controlOuter (s : State) (layer c : Nat) : Int :=
  (hottest ((good s (layerSensors layer c)).map (readingOf s))).getD (fromBeside s layer c)

/-- T1(c), rounded down; n is the line accesses per second of the cluster's slices. -/
def estimate (s : State) (c n : Nat) : Int :=
  let p0 : Int := (domainAt s 33).mw.toNat
  let p1 : Int := 32 * Config.eAcc * n + Config.ps0 * 1000000000
  let up := (controlOuter s 2 c * 2000000000000000 + Config.theta21 * (p0 * 1000000000 + p1)) / 2000000000000000
  let down := (controlOuter s 0 c * 2000000 - Config.theta10 * p0) / 2000000
  max up down

/-- T1(c) as last computed. DEDUCED (log 108). -/
def t1Of (s : State) (c : Nat) : Int := (tget 0 s.therm.l1est c).toInt

/-- The control temperature of a cluster in a layer. -/
def controlTemp (s : State) (layer c : Nat) : Int :=
  if layer = 1 then (hottest (t1Of s c :: (good s (layerSensors 1 c)).map (readingOf s))).getD 0 else controlOuter s layer c

/-- The temperature of a stack, in 1/16 °C (R209). -/
def stackTemp (s : State) (n : Nat) : Int := 16 * (stkAt s n).temp.toNat

/-! Flags (R396, R399) -/

/-- Puts a number at its place in a rising list. -/
def insertInt (x : Int) : List Int → List Int
  | [] => [x]
  | y :: l => if x ≤ y then x :: y :: l else y :: insertInt x l
/-- Sorts a list. -/
def sortInts : List Int → List Int
  | [] => []
  | x :: l => insertInt x (sortInts l)
/-- Twice the median of a list; none when it is empty. DEDUCED (log 108). -/
def median2 (l : List Int) : Option Int :=
  let t := sortInts l
  let n := l.length
  if n = 0 then none else some (t.getD (n / 2) 0 + t.getD ((n - 1) / 2) 0)

/-- Whether a sensor deviates now: from the median of its comparison set by more than 15 K, or in L1 below the estimate by more than
8 K. -/
def deviates (s : State) (i : Nat) : Bool :=
  let c := sensorCluster i
  let r := readingOf s i
  match sensorLayer i with
  | 1 => decide (r + 128 < t1Of s c)
  | k =>
    let l := if k = 2 then (good s (layerSensors 2 c)).filter (fun j => j != i)
      else good s (((besides c).filter (clusterOn s.variant)).map (fun b => 320 + b))
    match median2 (l.map (readingOf s)) with
    | some m => decide (480 < 2 * r - m) || decide (480 < m - 2 * r)
    | none => false

/-- Notes since when a sensor deviates, or is back. -/
def noteDeviation (s : State) (i : Nat) : State :=
  let d := deviates s i
  modSensor s i (fun x =>
    if x.faulty then x
    else if d then { x with off := some (x.off.getD s.time), back := none } else { x with off := none, back := some (x.back.getD s.time) })

/-- SENSOR_FLAG (R396, R399): more than 50 ms of deviation. -/
def execSensorFlag (i : Fin 352) (s : State) : Host.Outcome State Fault Refusal :=
  whenAon s fun s =>
    let x := sensorAt s i.val
    match x.off with
    | some t =>
      if msTicks 50 < since s t ∧ x.faulty = false ∧ x.flagged = false then
        raise (modSensor s i.val (fun x => { x with flagged := true })) { kind := kSensorImplausible, unit := uSensor, id := i.val }
      else s
    | none => s

/-- SENSOR_FLAG_CLEAR: 10 s back within the limit. -/
def execSensorFlagClear (i : Fin 352) (s : State) : Host.Outcome State Fault Refusal :=
  whenAon s fun s =>
    match (sensorAt s i.val).back with
    | some t => if msTicks 10000 ≤ since s t then modSensor s i.val (fun x => { x with flagged := false }) else s
    | none => s

/-! Limits (R400, R401) -/

/-- The limit of a layer, in 1/16 °C. -/
def limitOf (layer : Nat) : Int := if layer = 2 then 1600 else 1520
/-- The critical value of a layer. -/
def criticalOf (layer : Nat) : Int := if layer = 2 then 1760 else 1680

/-- The clusters whose temperature in a layer counts for partition n. -/
def countsFor (s : State) (n layer : Nat) : List Nat :=
  clusterList s n ++ (if layer = 0 then (enabledClusters s).filter (fun c => (partOfCluster s c).isNone) else [])

/-- The least headroom of partition n, in 1/16 K. -/
def headroom (s : State) (n : Nat) : Option Int :=
  let die := [2, 1, 0].flatMap (fun layer => (countsFor s n layer).map (fun c => controlTemp s layer c - limitOf layer))
  let dram := (liveSites s).map (fun k => stackTemp s k - 1520)
  (hottest (die ++ dram)).map (fun x => -x)

/-- The thermal contribution for a headroom. -/
def thermalRatio (h : Int) : Nat := if 80 ≤ h then 0 else min 56 (8 * ((80 - h + 15) / 16).toNat)

/-- Sets the thermal contributions. -/
def setThermal (s : State) : State :=
  { s with power := { s.power with thermal := allParts.foldl (fun t n =>
      tset 0 t n (if running s n then match headroom s n with | some h => thermalRatio h | none => 0 else 0)) s.power.thermal } }

/-- The layers and clusters of partition n at their critical value. -/
def criticalIn (s : State) (n : Nat) : List (Nat × Nat) :=
  [2, 1, 0].flatMap (fun layer =>
    ((countsFor s n layer).filter (fun c => decide (criticalOf layer ≤ controlTemp s layer c))).map (fun c => (layer, c)))

/-- The sensor a control temperature is reported under: the hottest that is not faulty, else the first. -/
def hotSensor (s : State) (layer c : Nat) : Nat :=
  let l := good s (layerSensors layer c)
  ((l.find? (fun i => l.all (fun j => decide (readingOf s j ≤ readingOf s i)))).getD ((layerSensors layer c).getD 0 0))

/-- Headers of a partition off. -/
def darken (s : State) (n : Nat) : State := retarget ((clusterList s n).foldl turnOff s) true

/-- A thermal halt of partition n (R401). DEDUCED (log 107). -/
def haltPart (s : State) (n : Nat) : State :=
  let s := modPart (beginReset s n []) n (fun p => { p with thermalHalt := true })
  modTherm (darken s n) (fun t => { t with cool := tset none t.cool n none })

/-- Thermal halts of the partitions that a critical temperature counts for; one record for each layer and cluster that caused one.
DEDUCED (log 107). -/
def thermalHalts (s : State) : State :=
  let hit := allParts.filter (fun n => running s n && !(partAt s n).thermalHalt && !(criticalIn s n).isEmpty)
  let why := (hit.flatMap (criticalIn s)).foldl (fun l x => if l.contains x then l else l ++ [x]) []
  let s := hit.foldl haltPart s
  why.foldl (fun s x => raise s { kind := kThermalHalt, unit := uSensor, id := hotSensor s x.1 x.2, detail := x.1 }) s

/-- Whether a halted partition has cooled: 10 K below the limit in every layer over its clusters. -/
def cooled (s : State) (n : Nat) : Bool :=
  [2, 1, 0].all (fun layer => (clusterList s n).all (fun c => decide (controlTemp s layer c + 160 ≤ limitOf layer)))

/-- Notes since when halted partitions are cool. -/
def noteCool (s : State) : State :=
  modTherm s (fun t => { t with cool := allParts.foldl (fun l n =>
    tset none l n (if (partAt s n).thermalHalt && cooled s n then some ((tget none t.cool n).getD s.time) else none)) t.cool })

/-- THERMAL_HALT_RELEASE (R401): 10 s cool; loads are taken again, and the headers turn on. DEDUCED (log 107). -/
def execThermalHaltRelease (part : PartId) (s : State) : Host.Outcome State Fault Refusal :=
  whenAon s fun s =>
    let n := part.val
    match (partAt s n).thermalHalt, tget none s.therm.cool n with
    | true, some t =>
      if msTicks 10000 ≤ since s t ∧ (partAt s n).reset.isNone = true then
        let s := modTherm (modPart s n (fun p => { p with thermalHalt := false })) (fun t => { t with cool := tset none t.cool n none })
        retarget ((clusterList s n).foldl turnOn s) true
      else s
    | _, _ => s

/-! Rates (R410) -/

/-- The hottest L2 control temperature. -/
def hotL2 (s : State) : Option Int := hottest ((enabledClusters s).map (controlTemp s 2))

/-- How much the hottest L2 control temperature rose over the last second; none before a second has been sampled. -/
def heating (s : State) : Option Int :=
  match s.therm.t2hist with
  | now :: l => (l[9999]?).map (fun before => now - before)
  | [] => none

/-- Whole degrees of a temperature, not below 0 and not above 255. -/
def degrees (t : Option Int) : Nat := min 255 ((t.getD 0) / 16).toNat

/-- LEHR_THERM_HOT. -/
def hotWord (s : State) : W32 :=
  let l := enabledClusters s
  let m := fun (layer : Nat) => degrees (hottest (l.map (controlTemp s layer)))
  BitVec.ofNat 32 (m 2 + 256 * m 1 + 65536 * m 0 + 2 ^ 24 * degrees (hottest ((liveSites s).map (stackTemp s))))

/-- THERMAL_SAMPLE (R395–R401): readings of all sensors, and the line accesses per second of each cluster. DEDUCED (log 108). -/
def execThermalSample (reads : SensorReads) (lines : List Nat) (s : State) : Host.Outcome State Fault Refusal :=
  whenAon s fun s =>
    let on := (upFrom 0 352).filter (fun i => clusterOn s.variant (sensorCluster i))
    let s := on.foldl (fun s i => takeReading s i (reads.getD i none)) s
    let s := (enabledClusters s).foldl (fun s c => modTherm s (fun t => { t with
      l1est := tset 0 t.l1est c (BitVec.ofInt 16 (estimate s c (lines.getD c 0))) })) s
    let s := on.foldl noteDeviation s
    let s := modTherm s (fun t => { t with
      hot := hotWord s, t2hist := (((hotL2 s).toList) ++ t.t2hist).take 10001 })
    noteCool (thermalHalts (setThermal s))

/-- THERMTRIP (R402): a comparator asserts THERMTRIP_N, and the Gaffer appends a trip entry. DEDUCED (log 108). -/
def execThermtrip (i : Fin 352) (s : State) : Host.Outcome State Fault Refusal :=
  whenAon s fun s =>
    if clusterOn s.variant (sensorCluster i.val) then
      { modTherm s (fun t => { t with tripped := true }) with
        boot := { s.boot with trips := s.boot.trips ++ [⟨BitVec.ofNat 16 i.val, (sensorAt s i.val).reading, s.time⟩] } }
    else s

/-! Fans and inlet (R403–R405, R411) -/

/-- fan_target, in °C. -/
def fanTarget (s : State) : Nat := bits (reg s 0x700104) 7 0
/-- fan_min as a duty. -/
def fanMin (s : State) : Nat := ceilDiv (255 * bits (reg s 0x700104) 15 8) 100
/-- inlet_max, in °C. -/
def inletMax (s : State) : Nat := bits (reg s 0x700104) 23 16
/-- Fan channel f. -/
def fanAt (s : State) (f : Nat) : Fan := tget {} s.therm.fan f

/-- The airflow is lost (R408). -/
def loseAir (s : State) (why : Loss) : State :=
  if s.therm.lost.isSome then s
  else
    noteCap (raise (modTherm s (fun t => { t with lost := some why, lostFine := none, duty := 255 })) { kind := kAirLost, unit := uDevice })

/-- What the tachs show of a channel, against the median speed of the other channels. -/
def takeTach (s : State) (rpm idle : List Nat) (f : Nat) : State :=
  let r := rpm.getD f 0
  let m2 := (median2 ((((upFrom 0 6).filter (fun k => k != f)).map (fun k => ((rpm.getD k 0 : Nat) : Int))))).getD 0
  let slow := decide (((10 * r : Nat) : Int) < m2)
  modTherm s (fun t => { t with fan := tmod {} t.fan f (fun x =>
    let fine := if slow then none else some (x.fine.getD s.time)
    { rpm := BitVec.ofNat 16 (min r 65535), zero := decide (100 ≤ idle.getD f 0),
      slow := if slow ∧ fanMin s ≤ t.duty.toNat then some (x.slow.getD s.time) else none, fine,
      failed := x.failed && (match fine with | some u => decide (since s u < msTicks 10000) | none => true) }) })

/-- TACH_CHECK (R403, R405, R408), every 10 ms: how long each channel has had no pulse, in ms, and its speed. -/
def execTachCheck (idleMs rpm : List Nat) (s : State) : Host.Outcome State Fault Refusal :=
  whenAon s fun s =>
    let s := (upFrom 0 6).foldl (fun s f => takeTach s rpm idleMs f) s
    let silent := ((upFrom 0 6).filter (fun f => (fanAt s f).zero)).length
    match s.therm.lost with
    | none => if 2 ≤ silent then loseAir s .tach else s
    | some .tach => modTherm s (fun t => { t with lostFine := if silent < 2 then some (t.lostFine.getD s.time) else none })
    | some (.theta _) => s

/-- FAN_FAILED (R405): 2 s below 20 % of the median. -/
def execFanFailed (f : Fin 6) (s : State) : Host.Outcome State Fault Refusal :=
  whenAon s fun s =>
    match (fanAt s f.val).slow with
    | some t =>
      if msTicks 2000 ≤ since s t ∧ (fanAt s f.val).failed = false then
        raise (modTherm s (fun x => { x with fan := tmod {} x.fan f.val (fun y => { y with failed := true }) }))
          { kind := kFanFailed, unit := uFan, id := f.val }
      else s
    | none => s

/-- T_in as the Lehr uses it, in 1/16 °C. -/
def inletOf (s : State) : Int := if s.therm.inletSubst then 16 * inletMax s else s.therm.inlet.toInt

/-- INLET_READ (R403), every 100 ms. DEDUCED (log 110). -/
def execInletRead (t : Option (BitVec 16)) (s : State) : Host.Outcome State Fault Refusal :=
  whenAon s fun s =>
    match t with
    | none =>
      let m := s.therm.inletMiss.getD s.time
      let s := modTherm s (fun x => { x with inletOk := false, inletMiss := some m })
      if msTicks 1000 ≤ since s m ∧ s.therm.inletSubst = false then
        raise (modTherm s (fun x => { x with inletSubst := true })) { kind := kInletUnreadable, unit := uDevice }
      else s
    | some v =>
      let s := modTherm s (fun x => { x with inlet := v, inletOk := true, inletMiss := none, inletSubst := false })
      let again := match s.therm.inletOverAt with | some u => decide (msTicks 60000 ≤ since s u) | none => true
      if ((16 * inletMax s : Nat) : Int) < v.toInt ∧ again = true then
        raise (modTherm s (fun x => { x with inletOverAt := some s.time })) { kind := kInletOver, unit := uDevice, detail := v.toNat }
      else s

/-- Whether the cool-down rule applies (R411). -/
def coolingFast (s : State) : Bool :=
  [2, 1, 0].all (fun layer => (enabledClusters s).all (fun c => decide (controlTemp s layer c + 80 ≤ limitOf layer))) &&
  (liveSites s).all (fun k => decide (stackTemp s k + 80 ≤ 1520)) &&
  (match heating s with | some d => decide (d < -64) | none => false)

/-- The duty from the hottest L2 control temperature of the lit clusters (R404). -/
def nextDuty (s : State) : Nat :=
  let d := s.therm.duty.toNat
  let target : Int := 16 * fanTarget s
  let want := if coolingFast s then d - 4
    else match hottest (((enabledClusters s).filter (lit s)).map (controlTemp s 2)) with
    | some t =>
      if target < t then d + ((2 * (t - target) + 15) / 16).toNat
      else if t < target - 32 then d - 1 else d
    | none => d
  min 255 (max (fanMin s) want)

/-- FAN_DUTY_UPDATE (R404, R409, R411), every 100 ms. -/
def execFanDutyUpdate (s : State) : Host.Outcome State Fault Refusal :=
  whenAon s fun s => modTherm s (fun t => { t with duty := if t.lost.isSome then 255 else BitVec.ofNat 8 (nextDuty s) })

/-! Airflow (R406–R409) -/

/-- θ_1s in 0.1 mK/W, rounded down, for a mean power of at least 200 W. DEDUCED (log 109). -/
def theta1s (s : State) (t2m16 : Int) (powerMw : Nat) : Option Int :=
  if powerMw < 200000 then none else some ((t2m16 - inletOf s) * 625000 / powerMw - Config.thetaJs.toNat)

/-- (d ÷ 255)^0.8 in 1/65,536, rounded down: the largest k with (k ÷ 65,536)^5 at most (d ÷ 255)^4 (R406). DEDUCED (log 109). -/
def dutyFactor (d : Nat) : Nat :=
  (upFrom 0 17).foldl (fun k i =>
    let m := k + 2 ^ (16 - i)
    if m ^ 5 * 255 ^ 4 ≤ 65536 ^ 5 * d ^ 4 then m else k) 0

/-- Whether the duty has not fallen over a list of seconds, newest first. -/
def notFallen : List (Option Int × Nat) → Bool
  | a :: b :: l => decide (b.2 ≤ a.2) && notFallen (b :: l)
  | _ => true

/-- Whether θ has jumped in the last 10 s (R408): its value before. -/
def thetaJump (l : List (Option Int × Nat)) : Option Int :=
  match l with
  | (some now, _) :: _ => match l[10]? with
    | some (some before, _) => if 3 * before < 2 * now ∧ notFallen (l.take 11) = true then some before else none
    | _ => none
  | _ => none

/-- AIRFLOW_SECOND (R406, R408–R411), once per second: T2m in 1/16 °C and the mean frame power. DEDUCED (log 109). -/
def execAirflowSecond (t2m16 : Int) (powerMw : Nat) (s : State) : Host.Outcome State Fault Refusal :=
  whenAon s fun s =>
    let d := s.therm.duty.toNat
    let v := theta1s s t2m16 powerMw
    let norm := v.map (fun x => x * (dutyFactor d : Int) / 65536)
    let steep := match heating s with | some x => decide (64 < x) || decide (x < -64) | none => false
    let s := modTherm s (fun t => { t with
      theta1 := ((v, d) :: t.theta1).take 11, thetaN := (norm :: t.thetaN).take 600,
      rampExc := if steep then t.rampExc + 1 else t.rampExc })
    match s.therm.lost with
    | none => (match thetaJump s.therm.theta1 with | some b => loseAir s (.theta b) | none => s)
    | some (.theta b) =>
      let fine := match v with | some x => decide (10 * x ≤ 11 * b) | none => false
      modTherm s (fun t => { t with lostFine := if fine then some (t.lostFine.getD s.time) else none })
    | some .tach => s

/-- The 10-minute mean of θ_norm, rounded down. DEDUCED (log 109). -/
def thetaMean (s : State) : Option Int :=
  let l := s.therm.thetaN.filterMap id
  if l.length < 60 then none else some (l.foldl (· + ·) 0 / l.length)

/-- C_air for a mean, and the state after a free value was taken where the manual states none (a sum of resistances not above zero).
DEDUCED (log 109). -/
def airCap (s : State) (m : Int) : Nat × State :=
  let r := m + Config.thetaJs.toNat
  if r ≤ 0 then let f := takeFree s; (f.1.toNat % 2048, f.2)
  else (max 250 ((1520 - inletOf s) * 625 / r).toNat, s)

/-- The degraded state (R407). -/
def degrade (s : State) (m : Int) : State :=
  let base : Int := bits (reg s 0x700108) 15 0
  if base = 0 then modTherm s (fun t => { t with degraded := false })
  else if s.therm.degraded = false ∧ 125 * base < 100 * m then
    raise (modTherm s (fun t => { t with degraded := true })) { kind := kAirDegraded, unit := uDevice }
  else if 100 * m ≤ 115 * base then modTherm s (fun t => { t with degraded := false })
  else s

/-- AIRFLOW_CAP_UPDATE (R407), every 10 s. -/
def execAirflowCapUpdate (s : State) : Host.Outcome State Fault Refusal :=
  whenAon s fun s =>
    match thetaMean s with
    | none => noteCap (modTherm s (fun t => { t with capAir := none }))
    | some m =>
      let a := airCap s m
      let cur := s.therm.capAir.getD (capCeiling s.variant)
      let s := if a.1 < cur ∨ cur + 10 ≤ a.1 then modTherm a.2 (fun t => { t with capAir := some a.1 }) else a.2
      noteCap (degrade s m)

/-- AIRFLOW_LOST_EXIT (R409): 10 s fine. -/
def execAirflowLostExit (s : State) : Host.Outcome State Fault Refusal :=
  whenAon s fun s =>
    match s.therm.lost, s.therm.lostFine with
    | some _, some t =>
      if msTicks 10000 ≤ since s t then
        noteCap { modTherm s (fun t => { t with lost := none, lostFine := none }) with power := { s.power with bucket := 0 } }
      else s
    | _, _ => s

/-! The margin review (R414–R416) -/

/-- Ticks in 24 h. -/
abbrev dayTicks : Nat := 2160000000000
/-- Frames in 720 h. -/
abbrev reviewFrames : Nat := 2592000000

/-- Twice the median of the last 24 h of a monitor's normalised periods, as far as it exceeds twice the fused baseline (R415). -/
def excess (s : State) (m : Nat) : Int :=
  match median2 (((tget [] s.therm.monHist m).filter (fun x => decide (since s x.1 ≤ dayTicks))).map (fun x => (x.2.toNat : Int))) with
  | some v => v - 2 * Config.baseline m
  | none => 0

/-- The slowdown of monitor m, in 0.01 %, rounded down. -/
def slowdown (s : State) (m : Nat) : Int := excess s m * 5000 / Config.baseline m

/-- The guard that the slowdown of monitor m needs, in steps of 5 mV. DEDUCED (log 110). -/
def guardFor (s : State) (m : Nat) : Nat :=
  if 0 < excess s m then ceilDiv (10 * Config.kv * (excess s m).toNat) (Config.baseline m) + 1 else 0

/-- A guard after a review: its new value, whether the bin drops, whether the margin is exhausted. DEDUCED (log 110). -/
def guardStep (bin : Bool) (old : BitVec 4) (need : Nat) : BitVec 4 × Bool × Bool :=
  if need ≤ 10 then (if old.toNat < need then BitVec.ofNat 4 need else old, false, false)
  else if bin then (old, false, true) else (10, true, false)

/-- The monitors of the domains: clusters 0–31, slice, Hem. -/
def domainMonitors (k : Nat) : List Nat :=
  if k < 32 then [k, 32 + k / 2] else if k = 32 then upFrom 32 24 else upFrom 56 8

/-- The guard of a domain. -/
def guardOf (t : Therm) (k : Nat) : BitVec 4 := if k < 32 then tget 0 t.guard k else if k = 32 then t.sliceGuard else t.hemGuard
/-- Sets the guard of a domain. -/
def setGuard (t : Therm) (k : Nat) (v : BitVec 4) : Therm :=
  if k < 32 then { t with guard := tset 0 t.guard k v } else if k = 32 then { t with sliceGuard := v } else { t with hemGuard := v }

/-- Sensor flags at a review (R399). -/
def reviewSensor (s : State) (i : Nat) : State :=
  let x := sensorAt s i
  if x.faulty then s
  else if x.flagged then
    let s := modSensor s i (fun y => { y with reviews := y.reviews + 1 })
    if x.reviews = 2 then faultySensor s i else s
  else modSensor s i (fun y => { y with reviews := 0 })

/-- A margin review; a pack test falls due at it (R423). DEDUCED (log 110). -/
def review (s : State) : State :=
  let s := { s with hup := { s.hup with testDue := some s.time } }
  let slow := (upFrom 0 64).map (fun m => if m < 32 ∧ clusterOn s.variant m = false then (0 : Int) else slowdown s m)
  let need := fun (k : Nat) => largest ((domainMonitors k).map (guardFor s))
  let doms := (enabledClusters s) ++ [32, 33]
  let steps := doms.map (fun k => (k, guardStep s.therm.bin (guardOf s.therm k) (need k)))
  let drop := steps.any (fun x => x.2.2.1)
  let gone := steps.any (fun x => x.2.2.2)
  let s := modTherm s (fun t => steps.foldl (fun t x => setGuard t x.1 x.2.1) { t with
    monS := (slow.zipIdx).foldl (fun l x => tset 0 l x.2 (BitVec.ofInt 16 x.1)) t.monS,
    dropPending := t.dropPending || drop, exhausted := t.exhausted || gone,
    powered := 0, reviewing := none, reviewNo := t.reviewNo + 1, reviews := if t.reviews = 65535 then t.reviews else t.reviews + 1 })
  let s := [2, 3, 4].foldl (fun s a => avsWant s a (railWant s a)) s
  let s := ((upFrom 0 352).filter (fun i => clusterOn s.variant (sensorCluster i))).foldl reviewSensor s
  let s := if drop then raise s { kind := kBinReduced, unit := uDevice } else s
  let s := if gone then raise s { kind := kMarginExhausted, unit := uDevice } else s
  raise s { kind := kMarginReview, unit := uDevice, detail := (BitVec.ofInt 32 ((hottest slow).getD 0)).toNat }

/-- MARGIN_REVIEW (R415, R416): when 720 h of powered time are over, or review_now has asked for it. DEDUCED (log 110). -/
def execMarginReview (s : State) : Host.Outcome State Fault Refusal :=
  whenAon s fun s => if s.therm.reviewing.isSome = true ∨ reviewFrames ≤ s.therm.powered then review s else s

/-- A write of LEHR_AGE_CTL (R415, R417). -/
def ageCtl (s : State) (v : W32) : Byte × State :=
  if v &&& 0xFFFFFFFE ≠ 0 then (eReserved, s)
  else if !bitAt v 0 then (ok, s)
  else if s.therm.reviewing.isSome then (eState, s)
  else (ok, modTherm s (fun t => { t with reviewing := some s.time }))

/-- REVIEW_NOW: a write of LEHR_AGE_CTL. DEDUCED (log 110). -/
def execReviewNow (a : Access) (v : W32) (s : State) : Host.Outcome State Fault Refusal :=
  whenAon s fun s => setupWrite s a 0x700174 (fun s => ageCtl s v)

end Sys2Proof.Machine
end

