-- ==== Sys2Proof/Machine/Frame.lean ====
section
/-! DEFINITION. Frame boundaries (R8, R9): what latches, what is measured, what is decided there; wire steering (R171, R172), delay codes of
crossings (R22, R23). -/

namespace Sys2Proof.Machine

/-! Latches -/

/-- A frame counter as it latches: it stops at 0xFFFF_FFFF. -/
def frameWord (k : Nat) : W32 := BitVec.ofNat 32 (min k 0xFFFFFFFF)

/-- The numeric statistics records latch (R82, R83). -/
def statFrame (s : State) : State :=
  { s with parts := s.parts.map (fun x => (x.1, { x.2 with stats := (x.2.stats.map (fun y => (y.1, { y.2 with
      run := [0, 0, 0, 0, 0, 0, 0, 0], latched := y.2.run.map frameWord, frame := s.frames - 1 }))) })) }

/-- The bubble records latch (R386): bubbles, budget and applied ratio, the causes, the mean power lent. DEDUCED (log 99). -/
def bubbleFrame (s : State) : State :=
  let s := allParts.foldl (fun s n =>
    let lent := if s.power.lentCount = 0 then 0 else tget 0 s.power.lentSum n / s.power.lentCount
    let ratio := if started s n then budgetRatio s n + 256 * bubbleRatio s n else 0
    modPart s n (fun p => { p with bubbles := { p.bubbles with
      run := 0, causes := [0, 0, 0, 0, 0, 0, 0, 0], frame := s.frames - 1,
      latched := [frameWord p.bubbles.run, BitVec.ofNat 32 ratio] ++ (p.bubbles.causes.take 7).map frameWord ++ [frameWord lent] } })) s
  { s with power := { s.power with lentSum := [], lentCount := 0 } }

/-- Whether a domain's unit is there (R382). -/
def domainOn (s : State) (i : Nat) : Bool :=
  if i < 32 then clusterOn s.variant i else if 34 ≤ i ∧ i < 42 then (sitesOf s.variant).contains (i - 34) else decide (i < 45)

/-- The domain records latch what was measured. -/
def domainFrame (s : State) (l : List DomainSample) : State :=
  ((l.take 48).zipIdx).foldl (fun s x =>
    if domainOn s x.2 then
      { s with power := { s.power with domains := tmod {} s.power.domains x.2 (fun d =>
          { ma := frameWord x.1.ma, peakMa := frameWord x.1.peakMa, mv := BitVec.ofNat 16 x.1.mv, mw := frameWord x.1.mw,
            uj := d.uj + BitVec.ofNat 64 x.1.uj, frame := s.frames - 1 }) } }
    else s) s

/-- The frame power p, in mW (R382). -/
def framePower (s : State) : Nat := (upFrom 0 48).foldl (fun a i => a + (domainAt s i).mw.toNat) 0

/-- The occupancy of the gather logs latches (R257). -/
def kvFrame (s : State) : State :=
  let full := fun (k : Nat) => (s.nbus.filter (fun x => x.1 / 256 == k && !x.2.rows.isEmpty)).foldl
    (fun a x => max a ((ringState s x.1).2.2 * 1024 / logUnits s)) 0
  { s with kvFull := false, kv := (pyrrelOf s.variant).foldl (fun t k => tmod {} t k (fun x =>
      { x with occ := frameWord x.runOcc, runOcc := full k, frame := s.frames - 1 })) s.kv }

/-! Wires (R171, R172) -/

/-- The wires of a carrier in one direction (R168, R170): data wires, codewords per cycle, wires of a steering group (none in a Seam ring),
spare wires. -/
structure CarrierForm where
  wires : Nat
  codewords : Nat
  group : Nat
  spares : Nat
deriving DecidableEq, Repr

/-- The carriers by class, in the order of R275. The slice command path's two spares serve 20 bonds each. DEDUCED (log 98). -/
def carrierForm (cls : Nat) : CarrierForm :=
  match cls with
  | 0 => ⟨2304, 32, 72, 32⟩
  | 1 => ⟨576, 8, 72, 8⟩
  | 2 => ⟨576, 8, 72, 8⟩
  | 3 => ⟨1152, 16, 0, 0⟩
  | 4 => ⟨72, 1, 9, 8⟩
  | _ => ⟨40, 1, 20, 2⟩

/-- The wire that carries a bit of a codeword (R169, R170): wire j carries codeword j mod n, bit j ÷ n. The command path carries data bits 0 to
31 and the check bits. DEDUCED (log 98). -/
def wireOf (cls codeword bit : Nat) : Nat :=
  if cls = 5 then (if bit < 64 then bit else bit - 32) else bit * (carrierForm cls).codewords + codeword

/-- The steering group of a wire, which one spare serves (R169, R170). DEDUCED (log 98). -/
def steerGroup (cls wire : Nat) : Nat := wire / (carrierForm cls).group

/-- The corrections of one wire over the frame. A ring's wire is left to SEAM_RING_REPLACED (R190). DEDUCED (log 98). -/
def steerWire (s : State) (w : WireCount) : State :=
  let cls := w.cls.val
  let s := modEcc s (6000 + cls) (fun i => { i with corrected := i.corrected + BitVec.ofNat 64 w.count })
  let wire := wireOf cls w.codeword w.bit
  if w.count < steerCount s ∨ cls = 3 ∨ (carrierForm cls).wires ≤ wire then s
  else
    let g := (cls, w.unit, w.dir, steerGroup cls wire)
    let rep : Report := { kind := kWireSteered, unit := uCarrier, id := cls, detail := wire + w.dir * 2 ^ 12 + w.unit * 2 ^ 13 }
    if s.mesh.spares.contains g then
      let s := raise s { rep with kind := kSpareExhausted }
      if cls = 0 then spareCore s kSpareExhausted w.unit else s
    else raise { s with mesh := { s.mesh with spares := s.mesh.spares ++ [g] } } rep

/-! Lanes (R287, R342) -/

/-- ser_limit of a link. -/
def serLimit (s : State) : Link → Nat
  | .nalson p => bits (nalAt s p).ctl 31 16
  | .myarn p => bits (reg s (0x600004 + 0x10000 * p.val)) 31 16

/-- The corrected symbols of one lane over the frame; 3 frames in a row over the limit fail it. DEDUCED (log 98). -/
def laneFrame (s : State) (l : Link) (lane count : Nat) : State :=
  let above := fun (t : Tab Nat) => if serLimit s l < count then tget 0 t lane + 1 else 0
  match l with
  | .nalson p =>
    let k := above (nalAt s p).serOver
    let s := modNal s p (fun n => { n with serOver := tset 0 n.serOver lane (if 3 ≤ k then 0 else k) })
    if 3 ≤ k then failNalLane s p lane else s
  | .myarn p =>
    let k := above (myaAt s p.val).serOver
    let s := modMya s p.val (fun n => { n with serOver := tset 0 n.serOver lane (if 3 ≤ k then 0 else k) })
    if 3 ≤ k then failMyaLane s p lane else s

/-- The corrected symbols of every lane of a port over the frame: those of the codewords that came with its flits, and those of codewords that
no command brings. DEDUCED (log 98). -/
def lanesFrame (symbols : List (Link × Nat × Nat)) (s : State) (l : Link) : State :=
  let own := (lkAt s l).syms
  let rest := fun (lane : Nat) => symbols.foldl (fun a x => if x.1 = l ∧ x.2.1 = lane then a + x.2.2 else a) 0
  let s := modLk s l (fun k => { k with syms := [] })
  (goodLanes l 0).foldl (fun s lane =>
    laneFrame (portCount s l (0x80 + 8 * lane) (rest lane)) l lane (own.getD lane 0 + rest lane)) s

/-! Stack temperatures and monitors (R209, R414) -/

/-- A stack's temperature readout. -/
def stackFrame (s : State) (n : Nat) (t : Option Byte) : State :=
  match t with
  | some b => modStk s n (fun k => { k with
      temp := b, readable := true, double := if 85 < b.toNat then true else if b.toNat ≤ 83 then false else k.double })
  | none => raise (modStk s n (fun k => { k with readable := false, double := true })) { kind := kTempUnreadable, unit := uSite, id := n }

/-- A monitor's normalised period, with its timestamp (R414); samples of more than 24 h before are of no more use (R415).
DEDUCED (log 110). -/
def monitorFrame (s : State) (m : Nat) (v : W32) : State :=
  modTherm s (fun t => { t with
    mon := tset 0 t.mon m v, monHist := tmod [] t.monHist m (fun l => (s.time, v) :: l.filter (fun x => decide (since s x.1 ≤ dayTicks))),
    monCal := if tget 0 t.monCal m = 0 then tset 0 t.monCal m v else t.monCal })

/-! Crossings (R18–R23) -/

/-- A crossing group's code. -/
def crossAt (s : State) (g : Crossing) : Cross := (s.crossings.lookup g).getD {}
/-- Sets a crossing group's code. -/
def setCross (s : State) (g : Crossing) (x : Cross) : State :=
  { s with crossings := (s.crossings.filter (fun y => y.1 != g)) ++ [(g, x)] }
/-- The centre of a window of codes, rounded down when it is even. -/
def centreOf (first len : Nat) : BitVec 6 := BitVec.ofNat 6 (first + (len - 1) / 2)
/-- The widest contiguous run of error-free codes, first code and length, from the errors counted at codes k on; `first` and `len` are the
run that goes on, `best` the widest so far. Of runs of one width it is the lowest. DEDUCED (log 97). -/
def widestRun (k first len : Nat) (best : Nat × Nat) : List Nat → Nat × Nat
  | [] => if best.2 < len then (first, len) else best
  | e :: l =>
    if e = 0 then widestRun (k + 1) (if len = 0 then k else first) (len + 1) best l
    else widestRun (k + 1) 0 0 (if best.2 < len then (first, len) else best) l
/-- The window that a sweep of the 64 codes finds (R20). DEDUCED (log 97). -/
def windowOf (errors : List Nat) : Nat × Nat := widestRun 0 0 0 (0, 0) (errors.take 64)
/-- One step of each operating code toward its centre. -/
def stepCodes (s : State) : State :=
  { s with crossings := s.crossings.map (fun y => (y.1, { y.2 with code :=
      if y.2.code.toNat < y.2.centre.toNat then y.2.code + 1
      else if y.2.centre.toNat < y.2.code.toNat then y.2.code - 1 else y.2.code })) }

/-- The cluster of a crossing group, if it is one of a cluster's. DEDUCED (log 97). -/
def crossCluster : Crossing → Option Nat
  | .channel p _ => some (physCluster p.val)
  | .drop c _ _ => some c.val
  | .tackPath c _ => some c.val
  | .seam _ _ _ => none

/-- Whether the period of the cluster's monitor, its L2 replica, has moved by more than 1 % since the group's last calibration.
DEDUCED (log 97). -/
def aged (s : State) (g : Crossing) : Bool :=
  match crossCluster g with
  | some c =>
    let ref := ((crossAt s g).cal.getD (tget 0 s.therm.monCal c)).toNat
    let now := (tget 0 s.therm.mon c).toNat
    decide (ref < 100 * (now - ref)) || decide (ref < 100 * (ref - now))
  | none => false

/-- The unit a crossing group is reported under, and its direction. DEDUCED (log 98). -/
def crossUnit : Crossing → Nat × Nat × Nat
  | .channel p up => (uPhys, p.val, one up)
  | .drop c d up => (uCluster, c.val, 2 * d.val + one up)
  | .tackPath c up => (uCluster, c.val, 16 + one up)
  | .seam h r k => (uRing, k.val, 16 * h.val + r.val)

/-- RETUNE_MEASUREMENT (R22, R23): a sweep of the replica lane, with the errors counted at each code, after an ageing change or at a
margin review. DEDUCED (log 97). -/
def execRetuneMeasurement (g : Crossing) (errors : List Nat) (s : State) : Host.Outcome State Fault Refusal :=
  whenAon s fun s =>
    let x := crossAt s g
    if aged s g = false ∧ x.seen = s.therm.reviewNo ∧ s.therm.reviewing.isNone = true then s
    else
      let cal := match crossCluster g with | some c => some (tget 0 s.therm.mon c) | none => none
      let w := windowOf errors
      let s := setCross s g { x with cal, seen := s.therm.reviewNo, centre := if w.2 = 0 then x.centre else centreOf w.1 w.2 }
      let u := crossUnit g
      if w.2 < 4 then raise s { kind := kMarginLow, unit := u.1, id := u.2.1, detail := u.2.2 } else s

/-! The boundary -/

/-- FRAME_BOUNDARY (R8, R9). DEDUCED (log 99). -/
def execFrameBoundary (f : FrameInputs) (s : State) : Host.Outcome State Fault Refusal :=
  whenAon s fun s =>
    let k := s.frames + 1
    let s := { s with time := if s.time.toNat < (25000 * k).toNat then 25000 * k else s.time, frames := k }
    let s := kvFrame (bubbleFrame (slipFrame (statFrame (droopFrame (darnFrame s)))))
    let s := domainFrame s f.domains
    let s := f.wires.foldl steerWire s
    let s := (allLinks.filter (linkOn s)).foldl (lanesFrame f.symbols) s
    let s := (liveSites s).foldl (fun s n => stackFrame s n (f.stackTemp.getD n none)) s
    let s := ((f.monitors.take 64).zipIdx).foldl (fun s x =>
      if x.2 < 32 ∧ clusterOn s.variant x.2 = false then s else monitorFrame s x.2 x.1) s
    let s := modTherm (stepCodes s) (fun t => { t with powered := t.powered + 1 })
    budgetFrame s (framePower s) (match heating s with | some d => decide (64 < d) | none => false)

end Sys2Proof.Machine
end

