-- ==== Sys2Proof/Machine/Rot.lean ====
section
/-! DEFINITION. The root of trust: signed objects (R488–R493), the rollback counter (R494, R495), measurements, certificates and reports
(R496–R500), tokens and the JTAG port (R501–R503). -/

namespace Sys2Proof.Machine

/-! Signed objects -/

/-- The bytes of a digest, in output order (R488). -/
def digestBytes (d : BitVec 384) : List Byte := leBytes d.toNat 48
/-- The digest that 48 bytes hold. -/
def digestOf (b : List Byte) : BitVec 384 := BitVec.ofNat 384 (leNat (b.take 48))
/-- The key digest of a modulus and a public key (R490). -/
def keyDigestOf (rsa slh : List Byte) : BitVec 384 := Config.sha384 (rsa ++ slh)

/-! Keys of the layers (R489) -/

/-- A key or a digest as the 128-byte key of HMAC-SHA-384. -/
def hmacKey (k : List Byte) : List Byte := padTo 128 (if k.length ≤ 128 then k else digestBytes (Config.sha384 k))
/-- H(k, m): HMAC-SHA-384 (R489). DESIGN CHOICE (log 73). -/
def hmac384 (k m : List Byte) : BitVec 384 :=
  let inner := Config.sha384 ((hmacKey k).map (· ^^^ 0x36) ++ m)
  Config.sha384 ((hmacKey k).map (· ^^^ 0x5C) ++ digestBytes inner)
/-- "YK1 DEVID". -/
def devidLabel : List Byte := [0x59, 0x4B, 0x31, 0x20, 0x44, 0x45, 0x56, 0x49, 0x44]
/-- "YK1 CDI". -/
def cdiLabel : List Byte := [0x59, 0x4B, 0x31, 0x20, 0x43, 0x44, 0x49]
/-- "YK1 ALIAS". -/
def aliasLabel : List Byte := [0x59, 0x4B, 0x31, 0x20, 0x41, 0x4C, 0x49, 0x41, 0x53]
/-- "SLH". -/
def slhLabel : List Byte := [0x53, 0x4C, 0x48]
/-- The bytes of the unique device secret. -/
def udsBytes : List Byte := leBytes Config.uds.toNat 32
/-- The seed of the DeviceID layer. -/
def devidSeed : BitVec 384 := hmac384 udsBytes devidLabel
/-- The CDI of M0, M1 and the counter, the counter in the 4 bytes a certificate holds it in. DESIGN CHOICE (log 73). -/
def cdi (m1 : BitVec 384) (counter : Nat) : BitVec 384 :=
  hmac384 udsBytes (cdiLabel ++ digestBytes Config.bootRomDigest ++ digestBytes m1 ++ leBytes counter 4)
/-- The seed of the alias layer. -/
def aliasSeed (m1 : BitVec 384) (counter : Nat) : BitVec 384 := hmac384 (digestBytes (cdi m1 counter)) aliasLabel
/-- SK.seed, SK.prf and PK.seed of a layer, one after another: bytes 0–47 of H(seed, "SLH"). -/
def slhSeeds (seed : BitVec 384) : List Byte := digestBytes (hmac384 (digestBytes seed) slhLabel)
/-- The RSA modulus, then the SLH-DSA public key, of a layer. DESIGN CHOICE (log 73). -/
def layerKeys (seed : BitVec 384) : List Byte :=
  padTo 384 (Config.rsaModulus seed) ++ padTo 32 (Config.slhPublic (slhSeeds seed))
/-- The two signatures of a layer's keys over the same bytes. DESIGN CHOICE (log 73). -/
def layerSign (seed : BitVec 384) (msg : List Byte) : List Byte :=
  padTo 384 (Config.rsaSign seed msg) ++ padTo 7856 (Config.slhSign (slhSeeds seed) msg)
/-- The device id: the key digest of the DeviceID key pair. -/
def deviceId : BitVec 384 := Config.sha384 (layerKeys devidSeed)

/-! Slots -/

/-- Whether slot k of class c is revoked. -/
def slotRevoked (s : State) (c k : Nat) : Bool := bitAt s.rot.revoked (2 * c + k)

/-- The slot of class c under which an object verifies (R491): its keys, its signed bytes, its two signatures. -/
def verifies (s : State) (c : Nat) (rsa slh msg rsaSig slhSig : List Byte) : Option Nat :=
  if Config.rsaVerify rsa msg rsaSig && Config.slhVerify slh msg slhSig then
    [0, 1].find? (fun k => !(slotRevoked s c k) && Config.keyDigest c k == keyDigestOf rsa slh)
  else none

/-- The root of trust changed. -/
def modRot (s : State) (f : Rot → Rot) : State := { s with rot := f s.rot }
/-- Takes a random value (R502, R505). DESIGN CHOICE (log 5). -/
def draw (s : State) : BitVec 256 × State := (Config.random s.rot.draws, modRot s (fun r => { r with draws := r.draws + 1 }))
/-- A new nonce: at every start and after every token check (R502). -/
def newNonce (s : State) : State := let d := draw s; modRot d.2 (fun r => { r with nonce := d.1 })

/-! Firmware images (R492, R493) -/

/-- The fields of a firmware image's header. -/
def fwLength (b : List Byte) : Nat := field b 4 4
/-- signed_len. DEDUCED (log 120). -/
def fwSigned (b : List Byte) : Nat := field b 8 4
/-- svn. -/
def fwSvn (b : List Byte) : Nat := field b 12 4
/-- The microcode image of core (0) or NBU (1). -/
def fwMicrocode (b : List Byte) (k : Nat) : List Byte := slice b (field b (24 + 8 * k) 4) (field b (28 + 8 * k) 4)

/-- The checks of R493 and R445 on an image: the slot that verified it. -/
def fwSlot (s : State) (b : List Byte) : Option Nat :=
  let n := fwSigned b
  let shape := field b 0 4 == 0x57464B59 && within (fwLength b) 4096 67108864 && fwLength b == n + 8704 && n % 64 == 0 &&
    decide (64 ≤ n) && decide (fwLength b ≤ b.length) && (slice b 41 23).all (fun x => x == 0) &&
    (slice b (n + 8656) 48).all (fun x => x == 0)
  if shape && decide (fwSvn b ≤ 64) && decide (s.rot.counter ≤ fwSvn b) then
    verifies s 0 (slice b n 384) (slice b (n + 384) 32) (b.take n) (slice b (n + 416) 384) (slice b (n + 800) 7856)
  else none

/-- SVN_COMMIT (R495). DEDUCED (log 122). -/
def execSvnCommit (port : NPort) (ring : RingId) (s : State) : Host.Outcome State Fault Refusal :=
  whenAon s fun s => withDescriptor s port ring 0x62 fun s ref _ =>
    if !(holdsSem s port) then reject s ref eOwner 1 0
    else if s.fwUpdate.isSome then reject s ref eState 2 0
    else
      let own : BitVec 8 := BitVec.ofNat 8 (2 ^ s.rot.slot)
      let s := modRot s (fun r => { r with
        counter := max r.counter r.svn.toNat,
        revoked := r.revoked ||| (BitVec.ofNat 8 (field s.boot.image 40 1) &&& ~~~own) })
      completeOk s ref (BitVec.ofNat 64 s.rot.counter)

/-! Certificates (R497, R498) -/

/-- M1 of the running image. -/
def m1 (s : State) : BitVec 384 := tget 0 s.rot.meas 1

/-- The seed of the running start's alias keys. -/
def aliasNow (s : State) : BitVec 384 := aliasSeed (m1 s) s.rot.aliasCounter
/-- Bytes 0–575 of a certificate (R497). -/
def certBody (kind : Nat) (issuer : BitVec 384) (m0m1 : List Byte) (counter : Nat) (keys : List Byte) : List Byte :=
  leBytes 0x54434B59 4 ++ leBytes kind 4 ++ digestBytes issuer ++ m0m1 ++ leBytes counter 4 ++ zeros 4 ++ keys
/-- The DeviceID certificate, signed at manufacture. -/
def deviceCert : List Byte :=
  certBody 1 Config.makerDigest (zeros 96) 0 (layerKeys devidSeed) ++ padTo 384 Config.makerSignature.1 ++
  padTo 7856 Config.makerSignature.2
/-- The alias certificate of this start, signed by the DeviceID keys. -/
def aliasCert (s : State) : List Byte :=
  let body := certBody 2 deviceId (digestBytes Config.bootRomDigest ++ digestBytes (m1 s)) s.rot.aliasCounter (layerKeys (aliasNow s))
  body ++ layerSign devidSeed body

/-- What CERT_READ writes. -/
def certificates (s : State) : List Byte := deviceCert ++ aliasCert s

/-- The check of a host buffer (R498). DEDUCED (log 121). -/
def bufferBad (d : Desc) (need : Nat) : Option (Byte × Nat) :=
  if (arg d 0).toNat % 64 ≠ 0 then some (eAlign, 1)
  else if bits (arg d 1) 31 0 < need then some (eRange, 2)
  else none

/-- CERT_READ. -/
def execCertRead (port : NPort) (ring : RingId) (s : State) : Host.Outcome State Fault Refusal :=
  whenAon s fun s => withDescriptor s port ring 0x61 fun s ref d =>
    match bufferBad d 17632 with
    | some (st, o) => reject s ref st o 0
    | none => completeOk (sendHost s port (arg d 0) 6 (certificates s)) ref 17632

/-! Reports (R499, R500) -/

/-- Whether two partitions share reach (R507). -/
def reachShared (s : State) (n : Nat) : Bool :=
  allParts.any (fun m => m != n && (reachWindows s n).any (fun w => (reachWindows s m).any (meets w)))

/-- A partition's code in a report. -/
def partCode (p : Part) : Nat := match p.st with | .empty => 0 | .loading => 1 | .ready => 2 | .running => 3

/-- The entry of partition n. -/
def reportEntry (s : State) (n : Nat) : List Byte :=
  let p := partAt s n
  let tag := match p.load, p.image with | some l, _ => l.image.tag | none, some i => i.tag | none, none => 0
  digestBytes p.measurement ++ leBytes tag.toNat 8 ++ leBytes (partCode p) 1 ++
  leBytes (one (reachShared s n) + 2 * one (testMode s n)) 1 ++ zeros 6

/-- Bytes 0–831 of a report. -/
def reportBytes (s : State) (mask : Nat) (nonce : List Byte) : List Byte :=
  let flags := one s.rot.jtag + 2 * one s.rot.scan + 4 * one (s.boot.lifeImage && !s.boot.restored)
  leBytes 0x54414B59 4 ++ leBytes (1 + 256 * mask + 65536 * flags) 4 ++ leBytes s.time.toNat 8 ++ nonce ++
  digestBytes deviceId ++ leBytes s.rot.counter 4 ++ leBytes s.rot.svn.toNat 4 ++ leBytes s.boot.startCount.toNat 4 ++ zeros 20 ++
  digestBytes Config.bootRomDigest ++ digestBytes (m1 s) ++ digestBytes (tget 0 s.rot.meas 2) ++ digestBytes (tget 0 s.rot.meas 3) ++
  allParts.flatMap (fun n => if mask / 2 ^ n % 2 = 1 then reportEntry s n else zeros 64)

/-- ATTEST: the report's contents are taken at its acceptance. DEDUCED (log 121). -/
def execAttest (port : NPort) (ring : RingId) (s : State) : Host.Outcome State Fault Refusal :=
  whenAon s fun s => withDescriptor s port ring 0x60 fun s ref d =>
    let mask := bits (arg d 1) 39 32
    match bufferBad d 9072 with
    | some (st, o) => reject s ref st o 0
    | none => match allParts.find? (fun n => mask / 2 ^ n % 2 == 1 && portOf s n != port) with
      | some n => reject s ref ePartition 3 n
      | none =>
        if s.rot.scan then reject s ref eState 4 0
        else if 4 ≤ s.rot.queue.length then reject s ref eNoResource 5 0
        else
          let nonce := (upFrom 2 4).flatMap (fun i => leBytes (arg d i).toNat 8)
          acceptDesc (modRot s (fun r => { r with
            queue := r.queue ++ [{ desc := ref, addr := arg d 0, report := reportBytes s mask nonce, time := s.time }] })) ref

/-- ATTEST_REPORT_SIGNED: the oldest report is signed and written. -/
def execAttestReportSigned (s : State) : Host.Outcome State Fault Refusal :=
  whenAon s fun s =>
    match s.rot.queue with
    | [] => s
    | a :: l =>
      let s := modRot s (fun r => { r with queue := l })
      completeOk (sendHost s a.desc.port a.addr 4 (a.report ++ layerSign (aliasNow s) a.report)) a.desc 9072

/-! Tokens (R501–R503) -/

/-- Whether a token of a kind passes: its signer's class is the kind. -/
def tokenOk (s : State) (kind : Nat) (b : List Byte) : Bool :=
  let scope := field b 5 1
  field b 0 4 == 0x4B544B59 && field b 4 1 == kind && (slice b 6 2).all (fun x => x == 0) && (slice b 88 40).all (fun x => x == 0) &&
  (if kind = 1 then decide (0 < scope) && decide (scope < 4) else scope == 0) &&
  digestOf (b.drop 8) == deviceId && field b 56 32 == s.rot.nonce.toNat &&
  (verifies s kind (slice b 128 384) (slice b 512 32) (b.take 544) (slice b 544 384) (slice b 928 7856)).isSome

/-- The length of a token. -/
abbrev tokenLength : Nat := 8784

/-- DEBUG_UNLOCK. DEDUCED (log 121). -/
def execDebugUnlock (port : NPort) (ring : RingId) (s : State) : Host.Outcome State Fault Refusal :=
  whenAon s fun s => withDescriptor s port ring 0x63 fun s ref d =>
    if (arg d 0).toNat % 64 ≠ 0 then reject s ref eAlign 1 0
    else if s.rot.failed = 3 then reject s ref eState 2 0
    else if bits (arg d 1) 15 0 ≠ tokenLength then reject s ref eRange 3 0
    else withRead s ref (arg d 0) tokenLength fun s b =>
        let pass := tokenOk s 1 b
        let s := newNonce s
        if pass then
          completeOk (modRot s (fun r => { r with
            jtag := r.jtag || decide (field b 5 1 % 2 = 1), scan := r.scan || decide (2 ≤ field b 5 1),
            ready := r.ready && decide (field b 5 1 < 2) })) ref 0
        else reject (modRot s (fun r => { r with failed := r.failed + 1 })) ref eAuth 4 0

/-- JTAG_INSTRUCTION (R503): an instruction that is not unlocked acts as BYPASS. -/
def execJtagInstruction (i : JtagInstr) (s : State) : Host.Outcome State Fault Refusal :=
  whenAon s fun s => modRot s (fun r => { r with jtagIr := match i with
    | .idcode => .idcode
    | .bypass => .bypass
    | .boundary => if r.jtag then .boundary else .bypass
    | .internal => if r.scan then .internal else .bypass })

end Sys2Proof.Machine
end

