-- ==== Sys2Proof/Machine/Boot.lean ====
section
/-! DEFINITION. Start-up (R439–R458), lifeline loads and flash updates (R446, R447), the defect list's clear (R467), Hem and device resets
(R441, R459–R466, R543), the Gaffer's watchdog (R475), clock monitors (R474) and the alert (R486). -/

namespace Sys2Proof.Machine

/-! What lasts (R437, R448, R464) -/

/-- What the Cullet store, the flash and the fuses keep of the boot state. DEDUCED (log 118). -/
def keptBoot (b : Boot) : Boot :=
  { list := b.list, startCount := b.startCount, clearPending := b.clearPending, anomaly := b.anomaly, strikes := b.strikes,
    trips := b.trips, flash := b.flash, fuseBad := b.fuseBad }

/-- The ageing state of the Cullet store. DEDUCED (log 118). -/
def keptTherm (t : Therm) : Therm :=
  { guard := t.guard, sliceGuard := t.sliceGuard, hemGuard := t.hemGuard, bin := t.bin, dropPending := t.dropPending,
    exhausted := t.exhausted, reviews := t.reviews, powered := t.powered }

/-- The fuses of the root of trust, and its draws. DEDUCED (log 118). -/
def keptRot (r : Rot) : Rot := { counter := r.counter, revoked := r.revoked, draws := r.draws }

/-- What lasts without VDD_AON: Cullet store, flash, fuses. -/
def withoutPower (s : State) : State :=
  { variant := s.variant, aon := false, boot := keptBoot s.boot, therm := keptTherm s.therm, rot := keptRot s.rot,
    hup := { store := s.hup.store, slot0 := s.hup.slot0, slot1 := s.hup.slot1 }, free := s.free, pending := s.pending }

/-- What lasts through a device reset: that, and the always-on domain. DEDUCED (log 118). -/
def withoutFast (s : State) : State :=
  { variant := s.variant, time := s.time, frames := s.frames, pins := s.pins, boot := keptBoot s.boot, therm := s.therm,
    rot := keptRot s.rot, hup := s.hup, darn := s.darn, ecc := s.ecc, moduleId := s.moduleId, fwVersion := s.fwVersion,
    nal := (s.nal.map (fun x => (x.1, { cnt := x.2.cnt, lk := { wire := x.2.lk.wire } }))).filter (fun x => x.2 != {}),
    rings := (s.rings.map (fun x => (x.1, { done := x.2.done, dblRej := x.2.dblRej, lost := x.2.lost }))).filter (fun x => x.2 != {}),
    mya := (s.mya.map (fun x => (x.1, { cnt := x.2.cnt }))).filter (fun x => x.2 != {}),
    power := { avs := s.power.avs, selected := s.power.selected, pins := s.power.pins },
    oscLost := s.oscLost, free := s.free, pending := s.pending }

/-! Steps 1 to 3 (R442) -/

/-- Changes the boot state. -/
def modBoot (s : State) (f : Boot → Boot) : State := { s with boot := f s.boot }

/-- A firmware image that verified in slot k becomes the running one (R493, R496, R518). DEDUCED (log 120). -/
def adopt (s : State) (img : List Byte) (k : Nat) : State :=
  let s := modRot s (fun r => { r with
    svn := BitVec.ofNat 7 (fwSvn img), slot := k, meas := tset 0 r.meas 1 (Config.sha384 (img.take (fwSigned img))) })
  modBoot { s with fwVersion := BitVec.ofNat 64 (field img 16 8) } (fun b => { b with image := img.take (fwLength img) })

/-- Whether the defect list has an entry for a unit. -/
def listed (s : State) (u : Nat × Nat) : Bool :=
  s.boot.list.any (fun e => e.unit == BitVec.ofNat 8 u.1 && e.id == BitVec.ofNat 32 u.2)

/-- Whether the variant enables a unit of R450. -/
def unitOn (v : Variant) (u : Nat × Nat) : Bool :=
  match u.1 with
  | 1 => decide (u.2 < 1152) && clusterOn v (physCluster u.2)
  | 2 => clusterOn v u.2
  | 3 => nbuOn v u.2
  | 4 => decide (u.2 < 9)
  | 5 => decide (u.2 < 256) && clusterOn v (u.2 / 8)
  | 6 => decide (u.2 < 352) && clusterOn v (sensorCluster u.2)
  | 8 => decide (u.2 < 64)
  | 9 => (sitesOf v).contains (u.2 / 2)
  | _ => false

/-- Step 3: the start is counted, a pending clear applied, fuse-bad units without an entry appended, straps sampled, the ageing state
reloaded; a pending drop of the frequency bin takes effect (R416). DESIGN CHOICE (log 7). -/
def readStore (s : State) : State :=
  let s := modBoot s (fun b => { b with startCount := b.startCount + 1 })
  let s := if s.boot.clearPending then modBoot s (fun b => { b with list := [], strikes := [], clearPending := false }) else s
  let s := (s.boot.fuseBad.filter (unitOn s.variant)).foldl (fun s u => if listed s u then s else addDefect s 0 u.1 u.2 0) s
  let s := { s with moduleId := BitVec.ofNat 32 (s.pins.brd.toNat * 65536 + s.pins.chain.toNat) }
  let s := if s.therm.dropPending then modTherm s (fun t => { t with bin := true, dropPending := false }) else s
  let s := if s.boot.cause = 3 then raise s { kind := kGaffer } else s
  modBoot s (fun b => { b with phase := 1 })

/-- Steps 1 to 3 from the flash; while the oscillator is lost, step 1 waits (R474). DESIGN CHOICE (log 3); DEDUCED (log 116). -/
def bootRom (s : State) : State :=
  if s.oscLost then s
  else
    let s := noteCap (newNonce { s with hup := { s.hup with en := !s.hup.test } })
    match fwSlot s s.boot.flash with
    | some k => readStore (adopt s s.boot.flash k)
    | none => modBoot s (fun b => { b with flashBad := true, phase := 1 })

/-- VDD_AON_UP (R439): the always-on domain starts. DESIGN CHOICE (log 3); DEDUCED (log 11, 116). -/
def execVddAonUp (b : BootInputs) (s : State) : Host.Outcome State Fault Refusal :=
  .next (
    if s.aon && s.boot.phase != 0 then s
    else
      let s := withoutPower s
      let s := { s with
        aon := true, pins := { brd := b.brdId, chain := b.chainPos },
        boot := { s.boot with flash := b.flash.getD s.boot.flash, fuseBad := b.fuseBad },
        power := { selected := b.budgetSel, pins := b.budgetSel }, hup := { s.hup with st := .authenticating } }
      bootRom s)

/-- VDD_AON_LOSS: everything volatile is gone; nothing acts until VDD_AON comes up again. DEDUCED (log 11). -/
def execVddAonLoss (s : State) : Host.Outcome State Fault Refusal := .next (withoutPower s)

/-! Steps 4 to 8 -/

/-- The unit that a crossing group's failed calibration marks bad (R21). -/
def crossingUnit : Crossing → Nat × Nat
  | .channel p _ => (uPhys, p.val)
  | .drop c _ _ => (uCluster, c.val)
  | .tackPath c _ => (uCluster, c.val)
  | .seam _ _ k => (uRing, k.val)

/-- The units that fail at this start, with their crossings' failures (R21, R454). DEDUCED (log 117). -/
def failures (s : State) (r : StartResults) : List (Nat × Nat) :=
  (((r.sweeps.filter (fun w => decide ((windowOf w.2).2 < 8))).map (fun w => crossingUnit w.1)) ++ r.failed).filter (unitOn s.variant)

/-- Records a unit that failed its test (R452): fuse-bad ones have their entry; a new entry's record kind is that of the report that R230
or R378 makes, else it is not stated and free. DEDUCED (log 117). -/
def noteFailure (s : State) (u : Nat × Nat) : State :=
  let s := if u.1 = uTrim then raise s { kind := kTrimFailed, unit := uTrim, id := u.2 } else s
  if s.boot.fuseBad.contains u then s
  else if u.1 = uTrim then addDefect s kTrimFailed u.1 u.2 1
  else if u.1 = uNbu then addDefect s kNbuFenced u.1 u.2 1
  else
    let k := takeFree s
    addDefect k.2 (k.1.toNat % 65536) u.1 u.2 1

/-- A fuse-bad unit that passes its test (R453). The values of the two reads are free. DEDUCED (log 117). -/
def anomaly (s : State) (u : Nat × Nat) : State :=
  let k := takeFree s
  let s := raise k.2 { kind := kFuseAnomaly, unit := u.1, id := u.2, detail := k.1.toNat }
  modBoot s (fun b => { b with anomaly := b.anomaly + 1 })

/-- A soft defect (R457, R458): its strike; the third one's entry. DEDUCED (log 117). -/
def strike (s : State) (unit id key : Nat) : State :=
  let k := (tget 0 s.boot.strikes key).toNat
  let s := modBoot s (fun b => { b with strikes := tset 0 b.strikes key (BitVec.ofNat 8 (min 3 (k + 1))) })
  if k = 2 then addDefect (raise s { kind := kMicrocode, unit, id }) kMicrocode unit id 1 else s

/-- Core and NBU microcode that never loads on some targets (R456–R458). DEDUCED (log 117). -/
def loadMicrocode (s : State) (cores nbus : List Nat) : State :=
  let keys := cores ++ nbus.map (fun u => 1152 + u)
  let s := modBoot s (fun b => { b with
    strikes := b.strikes.filter (fun x => x.2 == 3 || keys.contains x.1), softCores := cores.length, softNbus := nbus.length })
  let s := cores.foldl (fun s p => strike s uPhys p p) s
  let s := nbus.foldl (fun s u => strike s uNbu u (1152 + u)) s
  modRot s (fun r => { r with
    meas := tset 0 (tset 0 r.meas 2 (Config.sha384 (fwMicrocode s.boot.image 0))) 3 (Config.sha384 (fwMicrocode s.boot.image 1)) })

/-- The ids of the bad units of a kind: listed, fuse-bad, or failed at this start. -/
def badIds (s : State) (now : List (Nat × Nat)) (kind : Nat) : List Nat :=
  once ((s.boot.list.filter (fun e => e.unit.toNat == kind)).map (fun e => e.id.toNat) ++
    ((s.boot.fuseBad ++ now).filter (fun u => u.1 == kind && unitOn s.variant u)).map (fun u => u.2))

/-- Cluster rows by their bad positions (R25, R28): one position is skipped; two fence the cluster. -/
def layRows (s : State) (bad : List Nat) : State :=
  bad.foldl (fun s p =>
    let k := rowKey p
    let mine := bad.filter (fun q => rowKey q == k)
    if mine.length = 1 then
      (if (physPlace p).2.2.2 = 8 then { s with units := { s.units with spareGone := s.units.spareGone ++ [k] } }
       else { s with units := { s.units with skip := tset 8 s.units.skip k (physPlace p).2.2.2 } })
    else if s.units.fenced.contains (physCluster p) then s
    else { s with units := { s.units with fenced := s.units.fenced ++ [physCluster p] } }) s

/-- Fences a cluster at start-up. -/
def startFence (s : State) (c : Nat) : State :=
  if s.units.fenced.contains c then s else { s with units := { s.units with fenced := s.units.fenced ++ [c] } }

/-- The consequences of the bad units (R450). -/
def reconcile (s : State) (now : List (Nat × Nat)) (softCores softNbus : List Nat) : State :=
  let ids := badIds s now
  let s := layRows s (once (ids 1 ++ softCores))
  let s := (ids 2).foldl startFence s
  let s := (once (ids 3 ++ softNbus)).foldl (fun s u =>
    raise (modNbu s u (fun n => { n with fenced := true })) { kind := kNbuFenced, unit := uNbu, id := u }) s
  let rings := (ids 4).filter (fun k => k != 8)
  let gone := (ids 4).contains 8
  let s := { s with units := { s.units with
    ring8Gone := gone, ring8 := if gone then none else rings.head?, ringsFailed := if gone then rings else rings.drop 1,
    hamperOut := ids 8 } }
  let trims := ids 5
  let s := { s with power := { s.power with trimFail := trims } }
  let s := (once (trims.map (fun t => t / 8))).foldl (fun s c =>
    if 2 ≤ (trims.filter (fun t => t / 8 == c)).length then startFence s c else s) s
  let s := (ids 6).foldl (fun s i => modSensor s i (fun x => { x with faulty := true })) s
  (ids 9).foldl (fun s d => modStk s (d / 2) (fun k => { k with
    secondDecoder := k.secondDecoder || d % 2 == 0, dead := (ids 9).contains (d / 2 * 2) && (ids 9).contains (d / 2 * 2 + 1) })) s

/-- Ports that are down and may train begin to. -/
def trainPorts (s : State) (l : List Link) : State :=
  l.foldl (fun s k => if (lkAt s k).phase = .down ∧ mayTrain s k = true then beginTraining s k else s) s

/-- Rail targets written and read back (R375, R376), crossings at their centres (R20), sites trained (R454). DEDUCED (log 116). -/
def stepFour (s : State) (r : StartResults) : State :=
  let s := (upFrom 0 6).foldl avsStart s
  let s := r.rails.foldl (fun s x => avsReadback s x.1.val x.2.1 x.2.2) s
  let s := r.sweeps.foldl (fun s x =>
    let w := windowOf x.2
    if w.2 = 0 then s else setCross s x.1 { crossAt s x.1 with code := centreOf w.1 w.2, centre := centreOf w.1 w.2 }) s
  let s := modTherm s (fun t => { t with monCal := t.mon, reviewNo := 0 })
  (sitesOf s.variant).foldl (fun s n =>
    if r.sitesTrained.contains n then modStk s n (fun k => { k with trained := true })
    else raise s { kind := kStackPort, unit := uSite, id := n }) s

/-- The patrols of a start begin. -/
def beginPatrols (s : State) : State :=
  { s with scrub := (upFrom 0 4).foldl (fun t k => tset {} t k { begun := s.time }) s.scrub }

/-- The device is released; a lifeline image is to be written to the flash (R446). DEDUCED (log 116). -/
def release (s : State) : State :=
  let s := modRot (beginPatrols s) (fun r => { r with ready := true, aliasCounter := r.counter })
  let s := if s.boot.lifeImage then
      modBoot { s with fwUpdate := some { desc := none, image := s.boot.image } } (fun b => { b with flash := [] })
    else s
  trainPorts (modBoot { s with power := { s.power with hist := [], histFill := (0, 0) } } (fun b => { b with phase := 9 })) allLinks

/-- POWER_GOOD (R441, R442): step 4 to release; with no image to run, the lifeline wait (R446). DEDUCED (log 116). -/
def execPowerGood (r : StartResults) (s : State) : Host.Outcome State Fault Refusal :=
  whenAon s fun s =>
    if s.boot.phase ≠ 1 ∨ s.oscLost = true ∨ s.hup.loss ≠ .none then s
    else
      let s := { s with pins := { s.pins with perst := true, perstLow := none } }
      if s.boot.flashBad && !s.boot.lifeImage then
        trainPorts (modBoot s (fun b => { b with phase := 3 })) [.nalson 0, .nalson 1]
      else
        let s := stepFour (modBoot s (fun b => { b with phase := 5 })) r
        let now := failures s r
        let s := now.foldl noteFailure s
        let s := ((s.boot.fuseBad.filter (unitOn s.variant)).filter (fun u => !(now.contains u))).foldl anomaly s
        let cores := r.microcodeCore.filter (fun p => unitOn s.variant (1, p))
        let nbus := r.microcodeNbu.filter (nbuOn s.variant)
        let s := loadMicrocode s cores nbus
        release (reconcile s now cores nbus)

/-! Lifeline load (R446) -/

/-- LIFELINE_NOTICE: once per second. -/
def execLifelineNotice (s : State) : Host.Outcome State Fault Refusal :=
  whenAon s fun s =>
    let due := match s.boot.noticed with | some t => decide (msTicks 1000 ≤ since s t) | none => true
    if s.boot.phase = 3 ∧ due = true then
      raise (modBoot s (fun b => { b with noticed := some s.time })) { kind := kLifeline }
    else s

/-- A write of a lifeline register: served in phase 3 alone (R443, R516). -/
def lifeWrite (s : State) (a : Access) (off : Nat) (f : State → Byte × State) : State :=
  if a.other ≠ 0 then answer s a eReserved 0
  else
    let s := modNal s a.port (fun n => { n with latch := n.latch.written off })
    if s.boot.phase = 3 then
      let r := f s
      answer r.2 a r.1 0
    else answer s a eState 0

/-- A write of DEF_LIFE_GO through a port. -/
def lifeGo (s : State) (p : NPort) (v : W32) : Byte × State :=
  if v &&& 0xFFFFFFFE ≠ 0 then (eReserved, s)
  else if bitAt v 0 then
    (ok, beginFetch (modBoot s (fun b => { b with phase := 4, lifeLoad := some p })) .lifeline p s.boot.lifeAddr s.boot.lifeLen.toNat)
  else (ok, s)

/-- LIFE_GO: a write of DEF_LIFE_GO. -/
def execLifeGo (a : Access) (v : W32) (s : State) : Host.Outcome State Fault Refusal :=
  whenAon s fun s => lifeWrite s a 0xC0002C (fun s => lifeGo s a.port v)

/-- LIFELINE_LOAD_COMPLETE: the image is in the hamper and verified, or the wait goes on. -/
def execLifelineLoadComplete (s : State) : Host.Outcome State Fault Refusal :=
  whenAon s fun s =>
    if s.boot.phase ≠ 4 then s
    else
      fetched s .lifeline (s.boot.lifeLoad.getD 0) s.boot.lifeAddr s.boot.lifeLen.toNat fun s img =>
      let back := fun (st : Byte) => modBoot s (fun b => { b with phase := 3, lifeStatus := st, lifeLoad := none })
      match readFailure img with
      | some st => back st
      | none =>
        let b := readData img
        match fwSlot s b with
        | none => back eAuth
        | some k =>
          readStore (modBoot (adopt s b k) (fun b => { b with lifeImage := true, lifeStatus := ok, lifeLoad := none }))

/-! Firmware updates (R447) -/

/-- FW_UPDATE: the slot is erased once the image has passed its checks. DEDUCED (log 120). -/
def execFwUpdate (port : NPort) (ring : RingId) (s : State) : Host.Outcome State Fault Refusal :=
  whenAon s fun s => withDescriptor s port ring 0x70 fun s ref d =>
    let n := bits (arg d 1) 31 0
    if !(holdsSem s port) then reject s ref eOwner 1 0
    else if s.fwUpdate.isSome then reject s ref eState 2 0
    else if (arg d 0).toNat % 64 ≠ 0 ∨ n % 64 ≠ 0 then reject s ref eAlign 3 0
    else if !(within n 4096 67108864) then reject s ref eRange 4 0
    else withRead s ref (arg d 0) n fun s b =>
        if (fwSlot s b).isNone then reject s ref eAuth 5 0
        else acceptDesc (modBoot { s with fwUpdate := some { desc := some ref, image := b } } (fun b => { b with flash := [] })) ref

/-- FW_UPDATE_COMPLETE: the image reads back whole, or mismatches twice from an offset on. DEDUCED (log 120). -/
def execFwUpdateComplete (firstMismatch : Option Nat) (s : State) : Host.Outcome State Fault Refusal :=
  whenAon s fun s =>
    match s.fwUpdate with
    | none => s
    | some u =>
      let s := { s with fwUpdate := none }
      match firstMismatch with
      | none =>
        let s := modBoot s (fun b => { b with flash := u.image, restored := b.restored || u.desc.isNone })
        (match u.desc with | some ref => completeOk s ref 0 | none => s)
      | some k =>
        let s := raise s { kind := kFlashFailed }
        (match u.desc with
         | some ref => complete s ref sAborted (endDetail { status := sAborted, item := k }) 0 []
         | none => s)

/-- DEFECT_CLEAR (R467). DEDUCED (log 121). -/
def execDefectClear (port : NPort) (ring : RingId) (s : State) : Host.Outcome State Fault Refusal :=
  whenAon s fun s => withDescriptor s port ring 0x71 fun s ref d =>
    if !(holdsSem s port) then reject s ref eOwner 1 0
    else if bits (arg d 1) 15 0 ≠ tokenLength then reject s ref eRange 2 0
    else withRead s ref (arg d 0) tokenLength fun s b =>
        let pass := tokenOk s 2 b
        let s := newNonce s
        if pass then completeOk (modBoot s (fun b => { b with clearPending := true })) ref 0 else reject s ref eAuth 3 0

/-! Hem resets (R462, R463) -/

/-- Every ring asks for the descriptors that wait to be read. DEDUCED (log 29). -/
def resumeReads (s : State) : State :=
  bothPorts.foldl (fun s p => (upFrom 0 64).foldl (fun s k =>
    let r : RingId := ⟨k % 64, Nat.mod_lt _ (by decide)⟩
    readDescs s p r (ringAt s p r).avail) s) s

/-- Marks the run of a partition as having lost an access. DEDUCED (log 123). -/
def loseHem (s : State) (n : Nat) : State := modPart s n (fun p => { p with hemLost := true })

/-- Whether a transfer has an access in flight that the reset loses is not stated: free. DEDUCED (log 123). -/
def loseXfers (s : State) : State :=
  s.xfers.foldl (fun t x => match x.2 with
    | none => t
    | some y =>
      let k := takeFree t
      if bitAt k.1 0 then
        (match y.kind with
         | .stream n _ _ => loseHem k.2 n.val
         | _ => endXfer k.2 x.1 { status := sResetAbort })
      else k.2) s

/-- Whether a load has a read in flight that the reset loses is not stated: free. DEDUCED (log 123). -/
def loseLoads (s : State) : State :=
  allParts.foldl (fun s n =>
    if (partAt s n).load.isNone then s
    else
      let k := takeFree s
      modPart k.2 n (fun p => { p with load := p.load.map (fun l => { l with lost := l.lost || bitAt k.1 0 }) })) s

/-- A Hem reset begins: operations are torn, loads and transfers lose what is in flight, the links retrain. DEDUCED (log 123). -/
def beginHemReset (s : State) (desc : Option DescRef) : State :=
  let s := { s with hemReset := some { desc, begun := s.time } }
  let torn := s.nbus.flatMap (fun x => x.2.ops.map (fun o => o.source.part.val))
  let s := failOps s (fun _ => true) sResetAbort 0
  let s := torn.foldl (fun s n => if (partAt s n).run.isSome then loseHem s n else s) s
  allLinks.foldl (fun s l => beginRetrain s l 3) (loseXfers (loseLoads s))

/-- HEM_RESET: by descriptor, or by the Gaffer; one that falls into another is absorbed (R465). DEDUCED (log 123). -/
def execHemReset (request : Option (NPort × RingId)) (s : State) : Host.Outcome State Fault Refusal :=
  whenAon s fun s =>
    if s.hemReset.isSome then s
    else match request with
    | none => beginHemReset s none
    | some (p, r) => withDescriptor s p r 0x72 fun s ref _ =>
      if !(holdsSem s p) then reject s ref eOwner 1 0 else beginHemReset (acceptDesc s ref) (some ref)

/-- HEM_RESET_RESUME: partitions go on, but for those that lost an access; partition resets that waited begin. DEDUCED (log 123). -/
def execHemResetResume (s : State) : Host.Outcome State Fault Refusal :=
  whenAon s fun s =>
    match s.hemReset with
    | none => s
    | some h =>
      let s := { s with hemReset := none }
      let s := allParts.foldl (fun s n =>
        let p := partAt s n
        let s := modPart s n (fun p => { p with hemLost := false, resetQueued := none })
        let s := if p.hemLost then stopRun s n { status := sResetAbort } else s
        match p.resetQueued with
        | some refs => beginReset s n refs
        | none => s) s
      let s := match h.desc with | some ref => completeOk s ref (BitVec.ofNat 64 (since s h.begun / 25)) | none => s
      resumeReads s

/-! Device resets (R441, R464, R475) -/

/-- A device reset and the start-up that follows: DOWN on both Nalson ports, the fast domains cleared, steps 2 and 3.
DEDUCED (log 118). -/
def deviceReset (s : State) (cause : Nat) : State :=
  let s := sendDown (sendDown s (.nalson 0) 1) (.nalson 1) 1
  bootRom (modBoot (withoutFast s) (fun b => { b with cause := BitVec.ofNat 4 cause }))

/-- DEVICE_RESET: its completion; the reset follows. -/
def execDeviceReset (port : NPort) (ring : RingId) (s : State) : Host.Outcome State Fault Refusal :=
  whenAon s fun s => withDescriptor s port ring 0x73 fun s ref _ =>
    if !(holdsSem s port) then reject s ref eOwner 1 0
    else completeOk { s with devReset := some (s.time, 2) } ref 0

/-- DEVICE_RESET_DELAY_END: 1 ms later. -/
def execDeviceResetDelayEnd (s : State) : Host.Outcome State Fault Refusal :=
  whenAon s fun s => match s.devReset with
    | some (t, cause) => if msTicks 1 ≤ since s t then deviceReset s cause.toNat else s
    | none => s

/-- PERST_N_FALL (R308, R441): both Nalson ports go down. -/
def execPerstNFall (s : State) : Host.Outcome State Fault Refusal :=
  whenAon s fun s =>
    if s.pins.perst then
      let s := { s with pins := { s.pins with perst := false, perstLow := some s.time } }
      allLinks.foldl (fun s l => sendDown s l 1) s
    else s

/-- PERST_N_RESET (R441): low for 100 µs; during a power loss the reset is deferred (R543). -/
def execPerstNReset (s : State) : Host.Outcome State Fault Refusal :=
  whenAon s fun s => match s.pins.perstLow with
    | some t =>
      if since s t < 2500 then s
      else
        let s := { s with pins := { s.pins with perstLow := none } }
        if s.hup.loss = .none then deviceReset s 1 else { s with hup := { s.hup with perstDeferred := true } }
    | none => s

/-- PERST_N_RISE (R303): the Nalson ports train. -/
def execPerstNRise (s : State) : Host.Outcome State Fault Refusal :=
  whenAon s fun s =>
    trainPorts { s with pins := { s.pins with perst := true, perstLow := none } } allLinks

/-- GAFFER_WATCHDOG (R475). -/
def execGafferWatchdog (s : State) : Host.Outcome State Fault Refusal := whenAon s fun s => deviceReset s 3

/-! Clocks (R474) -/

/-- The unit id of a clock. -/
def clockNo : ClockId → Nat
  | .halfW => 0
  | .halfE => 1
  | .nbu => 2
  | .serdes => 3
  | .osc => 4

/-- The partitions with a cluster in a half. -/
def partsIn (s : State) (h : Nat) : List Nat := allParts.filter (fun n => (clusterList s n).any (fun c => c / 16 == h))

/-- The running operations end (R228); the runs of the stations whose they were stop. DEDUCED (log 124). -/
def endOperations (s : State) (st : Byte) : State :=
  let runs := s.nbus.flatMap (fun x => (x.2.ops.filter (fun o => o.started)).filterMap (fun o => match o.source with
    | .station n _ _ => some n.val
    | _ => none))
  runs.foldl (fun s n => stopRun s n { status := st }) (failOps s (fun o => o.started) st 0)

/-- What the loss of a clock leads to. The cause that a reset for the oscillator leaves in DEF_BOOT_STATUS is not stated: free.
DESIGN CHOICE (log 119); DEDUCED (log 124). -/
def loseClock (s : State) (c : ClockId) : State :=
  let lost := { s with pllLost := s.pllLost ++ [c] }
  match c with
  | .halfW => (partsIn s 0).foldl (fun s n => beginReset s n []) lost
  | .halfE => (partsIn s 1).foldl (fun s n => beginReset s n []) lost
  | .nbu => endOperations lost sResetAbort
  | .serdes => allLinks.foldl (fun s l => if (lkAt s l).phase = .down then s else linkDown s l) lost
  | .osc =>
    let k := takeFree s
    deviceReset { k.2 with oscLost := true } (k.1.toNat % 5)

/-- CLOCK_LOST. -/
def execClockLost (c : ClockId) (s : State) : Host.Outcome State Fault Refusal :=
  whenAon s fun s =>
    if s.pllLost.contains c || (c == .osc && s.oscLost) then s
    else loseClock (raise s { kind := kClockLost, unit := uClock, id := clockNo c }) c

/-- A relock that took longer than 1 ms. DEDUCED (log 124). -/
def lateRelock (s : State) (c : ClockId) : State :=
  match c with
  | .halfW => (partsIn s 0).foldl (fun s n => modPart s n (fun p => { p with noStart := true })) s
  | .halfE => (partsIn s 1).foldl (fun s n => modPart s n (fun p => { p with noStart := true })) s
  | .nbu =>
    let us := (upFrom 0 1024).filter (fun u => nbuOn s.variant u && !(nbuFenced s u))
    let s := us.foldl (fun s u => raise (modNbu s u (fun n => { n with fenced := true, ops := n.ops.map Op.toBuddy }))
      { kind := kNbuFenced, unit := uNbu, id := u }) s
    s.nbus.foldl (fun s x => abandonOps s x.1 x.2.ops.length) s
  | _ => s

/-- PLL_RELOCK. -/
def execPllRelock (c : ClockId) (inTime : Bool) (s : State) : Host.Outcome State Fault Refusal :=
  whenAon s fun s =>
    if s.pllLost.contains c then
      let s := { s with pllLost := s.pllLost.filter (fun x => x != c) }
      let s := if !inTime then lateRelock s c else if c = .nbu then s.nbus.foldl (fun s x => nextTurn s x.1) s else s
      if c = .serdes then trainPorts s allLinks else s
    else s

/-- OSCILLATOR_BACK_IN_RANGE: start-up goes on from step 1. DESIGN CHOICE (log 119). -/
def execOscillatorBackInRange (s : State) : Host.Outcome State Fault Refusal :=
  whenAon s fun s => if s.oscLost then bootRom { s with oscLost := false } else s

/-! The alert (R486) -/

/-- A write of DARN_ALERT. -/
def alertWrite (s : State) (v : W32) : Byte × State :=
  if v &&& 0xFFFFFFFE ≠ 0 then (eReserved, s)
  else (ok, if bitAt v 0 then { s with darn := { s.darn with pending := false } } else s)

/-- ALERT_PENDING_CLEAR. -/
def execAlertPendingClear (a : Access) (v : W32) (s : State) : Host.Outcome State Fault Refusal :=
  whenAon s fun s => setupWrite s a 0x800030 (fun s => alertWrite s v)

end Sys2Proof.Machine
end

