-- ==== Sys2Proof/Machine/Holdup.lean ====
section
/-! DEFINITION. The hold-up pack and power loss (R418–R437, R504, R505, R542): authentication, polls, tests, the window and the guarantee,
ride-through, the last will. -/

namespace Sys2Proof.Machine

/-- Changes the hold-up state. -/
def modHup (s : State) (f : Hup → Hup) : State := { s with hup := f s.hup }

/-! The quantities of R424 -/

/-- HUP_CTL, HUP_BOARD and HUP_VCFG as in use: held through a power loss (R438). -/
def hupRegs (s : State) : W32 × W32 × W32 := s.hup.regsHeld.getD (reg s 0x780004, reg s 0x780008, reg s 0x78000C)
/-- eff_pct. -/
def effPct (s : State) : Nat := bits (hupRegs s).1 23 16
/-- margin_pct. -/
def marginPct (s : State) : Nat := bits (hupRegs s).1 15 8
/-- ride_ms. -/
def rideMs (s : State) : Nat := bits (hupRegs s).1 6 0
/-- v_min, in 0.1 V. -/
def vMin (s : State) : Nat := bits (hupRegs s).2.2 9 0
/-- r_test, in 0.1 Ω. -/
def rTest (s : State) : Nat := bits (hupRegs s).2.2 21 10
/-- div. -/
def senseDiv (s : State) : Nat := bits (hupRegs s).2.2 28 22
/-- P_rt × eff_pct, in W × %. -/
def rideDraw (s : State) : Nat := 30000 + bits (hupRegs s).2.1 9 0 * effPct s
/-- P_lw × eff_pct. -/
def willDraw (s : State) : Nat := 18000 + bits (hupRegs s).2.1 9 0 * effPct s
/-- V_cut, in mV. DEDUCED (log 111). -/
def vCut (s : State) : Nat := 100 * vMin s + s.hup.esr.toNat * rideDraw s / (effPct s * vMin s)
/-- E(V), in mJ. DEDUCED (log 111). -/
def energy (s : State) (mv : Nat) : Nat :=
  if mv < vCut s then 0 else s.hup.cap.toNat * (mv * mv - vCut s * vCut s) / 2000000000
/-- E_now − M − E_lw, in mJ × 100 × eff_pct. -/
def spare (s : State) : Int :=
  (100 * effPct s * s.hup.enow.toNat : Nat) -
    (effPct s * marginPct s * s.hup.efull.toNat + 100 * (25 * willDraw s + 1000 * effPct s) : Nat)
/-- The pack's voltage, in mV, from HUP_VSENSE in µV. DEDUCED (log 111). -/
def packMv (s : State) (uv : Nat) : Nat := uv * senseDiv s / 1000

/-! The pack's state -/

/-- Whether the pack is authenticated. -/
def authentic (s : State) : Bool := s.hup.st == .charging || s.hup.st == .ready || s.hup.st == .testing

/-- A report about the pack. -/
def packReport (s : State) (kind : Nat) : State := raise s { kind, unit := uPack }

/-- Charging or ready: ready once tested and at 0.99 × V_chg or above. DEDUCED (log 112). -/
def settlePack (s : State) : State :=
  if s.hup.st = .charging ∨ s.hup.st = .ready then
    modHup s (fun h => { h with
      st := if h.vchg ≠ 0 ∧ 99 * (10 * h.vchg.toNat) ≤ 100 * h.mv then .ready else .charging })
  else s

/-- The guarantee and the window (R426, R427); each change of the guarantee is reported; w is frozen through a power loss.
DEDUCED (log 111). -/
def guaranteeNow (s : State) : State :=
  let g := authentic s && decide (0 ≤ spare s)
  let w := if g then min (1000 * rideMs s) (10 * spare s / rideDraw s).toNat else 0
  let s := if g = s.hup.guarantee then s else packReport s (if g then kGuaranteeHeld else kGuaranteeGone)
  modHup s (fun h => { h with guarantee := g, window := if h.loss = .none then BitVec.ofNat 17 w else h.window })

/-- HUP_TEST falls and HUP_EN rises. -/
def endTest (s : State) : State :=
  modHup s (fun h => { h with
    test := false, en := true, testSince := none, st := if h.st = .testing then .charging else h.st })

/-- The pack is open (R422). -/
def packOpen (s : State) : State :=
  if s.hup.st = .open_ then s
  else
    let s := modHup (if s.hup.test then endTest s else s) (fun h => { h with st := .open_, challenge := none, low := none })
    guaranteeNow (packReport s kPackOpen)

/-- The counters of the present pack go to the Cullet store. DEDUCED (log 112). -/
def storeCounters (s : State) : State :=
  modHup s (fun h => { h with store := (h.store.filter (fun x => x.1 != h.serial)) ++ [(h.serial, h.cnt)] })

/-- What a sample of the voltage does: the resting value, charge cycles and throughput (R425), E_now, the pack open below v_min. -/
def sample (s : State) (mv : Nat) : State :=
  let h := s.hup
  let rests := decide (100 * (mv - h.restMv) ≤ h.restMv) && decide (100 * (h.restMv - mv) ≤ h.restMv)
  let e := energy s mv
  let up := h.cycleLow && decide (99 * (10 * h.vchg.toNat) < 100 * mv)
  let s := modHup s (fun h => { h with
    mv, enow := BitVec.ofNat 32 e, restMv := if rests then h.restMv else mv, restSince := if rests then h.restSince else s.time,
    cycleLow := if up then false else h.cycleLow || decide (10 * mv < 9 * (10 * h.vchg.toNat)),
    cnt := { h.cnt with cycles := if up then h.cnt.cycles + 1 else h.cnt.cycles,
                        thru := h.cnt.thru + BitVec.ofNat 64 (h.enow.toNat - e) },
    low := if mv < 100 * vMin s then some (h.low.getD s.time) else none })
  match s.hup.low with
  | some t => if msTicks 1 ≤ since s t then packOpen s else s
  | none => s

/-! Authentication (R421, R504, R505) -/

/-- Authentication begins anew. -/
def beginAuth (s : State) : State := modHup s (fun h => { h with st := .authenticating, challenge := none, retryAt := none })

/-- The record or the response has failed: tried again in 10 min. -/
def authFailed (s : State) : State :=
  packReport (modHup s (fun h => { h with
    st := .unauthenticated, challenge := none, retryAt := some (s.time + BitVec.ofNat 64 (msTicks 600000)) })) kPackUnauth

/-- Whether authentication may be tried: it is under way, or its retry is due. -/
def authDue (s : State) : Bool :=
  (s.hup.st == .authenticating && s.hup.challenge.isNone) ||
  (s.hup.st == .unauthenticated && (match s.hup.retryAt with | some t => decide (t.toNat ≤ s.time.toNat) | none => true))

/-- PACK_AUTHENTICATION: the identity record is read; one that verifies in class 3 is challenged. DEDUCED (log 122). -/
def execPackAuthentication (record : List Byte) (s : State) : Host.Outcome State Fault Refusal :=
  whenAon s fun s =>
    if authDue s = false then s
    else
      let b := record.take 12288
      let s := modHup s (fun h => { h with record := b, st := .authenticating })
      if (verifies s 3 (slice b 448 384) (slice b 832 32) (b.take 864) (slice b 864 384) (slice b 1248 7856)).isSome then
        let c := draw s
        modHup c.2 (fun h => { h with challenge := some c.1, authSince := s.time })
      else authFailed s

/-- PACK_CHALLENGE_RESPONSE: the pack's signature, within 2 s. A test falls due at every authentication. -/
def execPackChallengeResponse (signature : List Byte) (s : State) : Host.Outcome State Fault Refusal :=
  whenAon s fun s =>
    match s.hup.challenge with
    | none => s
    | some c =>
      let b := s.hup.record
      let msg := leBytes c.toNat 32 ++ digestBytes (Config.sha384 (b.take 864))
      if since s s.hup.authSince ≤ msTicks 2000 ∧ Config.rsaVerify (slice b 32 384) msg signature = true then
        let serial := slice b 4 16
        guaranteeNow (modHup s (fun h => { h with
          st := .charging, challenge := none, retryAt := none, serial, cnt := (h.store.lookup serial).getD {},
          testDue := some s.time, testTry := none }))
      else authFailed s

/-- PACK_POLL (R422): every 100 ms. -/
def execPackPoll (p : PackPoll) (s : State) : Host.Outcome State Fault Refusal :=
  whenAon s fun s =>
    let s := if s.hup.challenge.isSome && decide (msTicks 2000 < since s s.hup.authSince) then authFailed s else s
    let mv := packMv s p.uv
    if p.answered then
      let s := sample (modHup s (fun h => { h with missed := 0 })) mv
      let new := p.serial != s.hup.serial
      let first := s.hup.serial.isEmpty
      let s := if new then modHup (storeCounters s) (fun h => { h with serial := p.serial, cnt := (h.store.lookup p.serial).getD {} }) else s
      if s.hup.st = .open_ then (if 100 * vMin s ≤ mv then beginAuth s else s)
      else if new ∧ (first = false ∨ s.hup.st ≠ .authenticating) then guaranteeNow (beginAuth (if s.hup.test then endTest s else s))
      else s
    else
      let s := modHup s (fun h => { h with missed := min 10 (h.missed + 1) })
      if s.hup.missed = 10 then packOpen s else s

/-! The test (R423, R424) -/

/-- Whether a test may start. DEDUCED (log 112). -/
def testReady (s : State) : Bool :=
  (s.hup.st == .charging || s.hup.st == .ready) && s.hup.loss == .none && decide (msTicks 10000 ≤ since s s.hup.restSince)

/-- PACK_TEST: a test that is due starts, or is tried again in a minute; after an hour it is deferred. -/
def execPackTest (uv : Nat) (s : State) : Host.Outcome State Fault Refusal :=
  whenAon s fun s =>
    let wait := match s.hup.testTry with | some t => decide (since s t < msTicks 60000) | none => false
    match s.hup.testDue with
    | none => s
    | some t =>
      if s.hup.test || wait then s
      else
        let s := sample s (packMv s uv)
        if testReady s then
          modHup s (fun h => { h with st := .testing, en := false, test := true, testSince := some s.time, testMv := packMv s uv })
        else if msTicks 3600000 ≤ since s t then
          packReport (modHup s (fun h => { h with testDue := none, testTry := none })) kTestDeferred
        else modHup s (fun h => { h with testTry := some s.time })

/-- The ESR of a test, in 0.1 mΩ, from V_chg and V_10 in µV; none where the formula gives no value. DEDUCED (log 111). -/
def testEsr (s : State) (chg v10 : Nat) : Option Nat := if v10 = 0 ∨ chg < v10 then none else some ((chg - v10) * rTest s * 1000 / v10)
/-- The capacitance of a test, in µF, from V_10, V_100 in µV and the integral of V in µV·µs; none where the formula gives no value.
DEDUCED (log 111). -/
def testCap (s : State) (v10 v100 i : Nat) : Option Nat := if v10 ≤ v100 then none else some (10 * i / (rTest s * (v10 - v100)))

/-- PACK_TEST_END: 100 ms after the load connects. A quantity for which the formula gives no value is free. -/
def execPackTestEnd (v10uv v100uv integral : Nat) (s : State) : Host.Outcome State Fault Refusal :=
  whenAon s fun s =>
    match s.hup.testSince with
    | none => s
    | some t =>
      if since s t < msTicks 100 then s
      else
        let d := senseDiv s
        let a := takeFree s
        let b := takeFree a.2
        let esr := (testEsr s (1000 * s.hup.testMv) (v10uv * d)).getD a.1.toNat
        let cap := (testCap s (v10uv * d) (v100uv * d) (integral * d)).getD b.1.toNat
        let s := modHup (endTest b.2) (fun h => { h with
          esr := BitVec.ofNat 16 esr, cap := BitVec.ofNat 32 cap, vchg := BitVec.ofNat 16 (h.testMv / 10), measTime := s.time,
          testDue := none, testTry := none })
        let s := modHup s (fun h => { h with efull := BitVec.ofNat 32 (energy s s.hup.testMv) })
        let eol := decide (s.hup.efull.toNat < 32000)
        let s := modHup s (fun h => { h with endOfLife := eol })
        let s := if eol then packReport s kPackEol else s
        let rated := field s.hup.record 20 2
        let v := s.hup.vchg.toNat
        let s := if rated < 20 * (v - rated) ∨ rated < 20 * (rated - v) then packReport s kPackVoltage else s
        guaranteeNow (settlePack s)

/-- A write of HUP_TEST_CTL (R438). -/
def testCtl (s : State) (v : W32) : Byte × State :=
  if v &&& 0xFFFFFFFE ≠ 0 then (eReserved, s)
  else if s.hup.test || s.hup.loss != .none then (eState, s)
  else if bitAt v 0 then (ok, modHup s (fun h => { h with testDue := some s.time, testTry := none }))
  else (ok, s)

/-- TEST_NOW. -/
def execTestNow (a : Access) (v : W32) (s : State) : Host.Outcome State Fault Refusal :=
  whenAon s fun s => setupWrite s a 0x780050 (fun s => testCtl s v)

/-- WINDOW_RECOMPUTE (R426, R427): every 1 ms. -/
def execWindowRecompute (uv : Nat) (s : State) : Host.Outcome State Fault Refusal :=
  whenAon s fun s => guaranteeNow (settlePack (sample s (packMv s uv)))

/-- PACK_COUNTER_UPDATE (R425): every hour. -/
def execPackCounterUpdate (s : State) : Host.Outcome State Fault Refusal := whenAon s storeCounters

/-! Power loss (R428–R433, R542) -/

/-- A power loss is accepted. `tripped`: a rail has left its window. DEDUCED (log 112). -/
def acceptLoss (s : State) (tripped : Bool) : State :=
  let s := if s.hup.test then modHup (endTest s) (fun h => { h with testTry := some s.time }) else s
  let no := tripped || !s.hup.guarantee
  let regs := hupRegs s
  let s := storeCounters (modHup s (fun h => { h with
    loss := .ride, tFail := s.time, frozen := if no then 0 else h.window.toNat, noWindow := no, starting := s.boot.phase != 9,
    regsHeld := some regs, returned := none, perstDeferred := false, cnt := { h.cnt with events := h.cnt.events + 1 } }))
  packReport (noteCap s) kPowerLoss

/-- POWER_LOSS_ACCEPT: PWRFAIL_N low for 200 ns. -/
def execPowerLossAccept (s : State) : Host.Outcome State Fault Refusal :=
  whenAon s fun s =>
    let s := { s with pins := { s.pins with pwrfail := false } }
    if s.hup.loss = .none then acceptLoss s false else modHup s (fun h => { h with returned := none })

/-- RAIL_OUT_OF_WINDOW (R542): a rail other than VDD_AON, the eleventh of R373, while PWRFAIL_N is high. DEDUCED (log 115). -/
def execRailOutOfWindow (rail : Fin 11) (s : State) : Host.Outcome State Fault Refusal :=
  whenAon s fun s => if rail.val = 10 ∨ s.pins.pwrfail = false ∨ s.hup.loss ≠ .none then s else acceptLoss s true

/-- The instant, since acceptance, at which ride-through ends by w: it begins 10 µs after acceptance. In ticks. -/
def rideEnd (s : State) : Nat := 25 * (10 + s.hup.frozen)

/-- The time that passed does not count for the limits of R430. DEDUCED (log 113). -/
def shiftTimers (s : State) (d : W64) : State :=
  { s with
    cores := s.cores.map (fun x => (x.1, { x.2 with progress := x.2.progress + d })),
    nbus := s.nbus.map (fun x => (x.1, { x.2 with ops := x.2.ops.map (fun o => if o.started then { o with start := o.start + d } else o) })),
    bars := s.bars.map (fun x => (x.1, { x.2 with since := x.2.since.map (· + d), nextSince := x.2.nextSince.map (· + d) })),
    held := s.held.map (fun h => { h with time := h.time + d }),
    nal := s.nal.map (fun x => (x.1, { x.2 with tags := x.2.tags.map (fun t => (t.1, { t.2 with issued := t.2.issued + d })) })) }

/-- The end of a power loss: a PERST_N still low takes its deferred effect (R543). -/
def afterLoss (s : State) : State :=
  let due := s.hup.perstDeferred && !s.pins.perst
  let s := modHup s (fun h => { h with perstDeferred := false })
  if due then deviceReset s 1 else s

/-- MAINS_RETURN (R428, R431): PWRFAIL_N high for 1 ms. After ride-through has ended nothing resumes. DEDUCED (log 113). -/
def execMainsReturn (s : State) : Host.Outcome State Fault Refusal :=
  whenAon s fun s =>
    let s := { s with pins := { s.pins with pwrfail := true } }
    match s.hup.loss with
    | .none => s
    | .safe => modHup s (fun h => { h with returned := some (s.time - 25000) })
    | .ride =>
      let d := since s s.hup.tFail
      if rideEnd s ≤ d then s
      else
        let s := modHup s (fun h => { h with loss := .none, regsHeld := none, cnt := { h.cnt with rides := h.cnt.rides + 1 } })
        let s := hold56 (shiftTimers s (BitVec.ofNat 64 d))
        let s := noteCap { s with power := { s.power with bucket := 0 } }
        let s := raise s { kind := kPowerRestored, unit := uPack, detail := d / 25 }
        afterLoss (resumeReads s)

/-! The last will (R432–R435) -/

/-- Whether a is later than b (R11). -/
def laterSeq (a b : W32) : Bool := decide (a ≠ b) && decide ((a - b).toNat < 2 ^ 31)

/-- Whether slot 1 holds the newest record; and the newest record (R436). -/
def newestWill (h : Hup) : Bool × Option LastWill :=
  match h.slot0, h.slot1 with
  | some a, some b => if laterSeq b.seq a.seq then (true, some b) else (false, some a)
  | some a, none => (false, some a)
  | none, some b => (true, some b)
  | none, none => (true, none)

/-- Section 1 (R435). -/
def packSection (h : Hup) : List Byte :=
  padTo 16 h.serial ++ leBytes h.cnt.cycles.toNat 8 ++ leBytes h.cnt.thru.toNat 8 ++ leBytes h.cnt.events.toNat 8 ++
  leBytes h.cnt.rides.toNat 8 ++ leBytes h.cap.toNat 4 ++ leBytes h.esr.toNat 2 ++ leBytes h.vchg.toNat 2 ++ leBytes h.efull.toNat 4 ++ zeros 4

/-- What sections 2 to 5 hold; their layout is not stated. DESIGN CHOICE (log 114). -/
def willContent (s : State) (id : Nat) : List Nat :=
  match id with
  | 2 => allParts.flatMap (fun n =>
      let p := partAt s n
      let r := (p.ran.getLast?).getD (0, 0)
      [partCode p, (match p.image with | some i => i.tag.toNat | none => 0), p.runNo.toNat, r.1, r.2.toNat])
  | 3 => (bothPorts.flatMap (fun p => (upFrom 0 64).flatMap (fun k =>
      let g := ringAt s p ⟨k % 64, Nat.mod_lt _ (by decide)⟩
      [g.nextK % cfgEntries g.cfg, g.lastDbl.toNat, g.prod.toNat, g.done.toNat, g.lost.toNat]))) ++
      bothPorts.map (fun p => (errAt s p).prod.toNat)
  | 4 => (s.parts.flatMap (fun x =>
      (x.2.stats.flatMap (fun y => y.1 :: y.2.latched.map (fun w => w.toNat))) ++
      ([x.2.slips.fSlip, x.2.slips.fHold] ++ x.2.slips.fCauses ++ [x.2.slips.fMaxRun] ++ x.2.bubbles.latched).map (fun w => w.toNat))) ++
      s.power.domains.flatMap (fun x => [x.1, x.2.ma.toNat, x.2.peakMa.toNat, x.2.mv.toNat, x.2.mw.toNat])
  | _ => (s.ecc.flatMap (fun x => [x.1, x.2.corrected.toNat, x.2.uncorrectable.toNat, x.2.poisonRead.toNat, x.2.evicted.toNat])) ++
      (s.nal.flatMap (fun x => x.2.cnt.map (fun y => y.2.toNat))) ++ (s.mya.flatMap (fun x => x.2.cnt.map (fun y => y.2.toNat)))

/-- A section's bytes. Every field defect is in the list already, so section 6 is empty. DESIGN CHOICE (log 114). -/
def willSection (s : State) (id : Nat) : List Byte :=
  match id with
  | 1 => packSection s.hup
  | 6 => []
  | 7 => (upFrom 0 1024).flatMap (fun i => recBytes (tget {} s.darn.log i))
  | k => Config.lastWill k (willContent s k)

/-- The directory of sections from an offset. DESIGN CHOICE (log 114). -/
def willDirectory (now : W64) : Nat → List (Nat × List Byte) → List Byte
  | _, [] => []
  | o, (id, b) :: l => leBytes id 4 ++ leBytes o 4 ++ leBytes b.length 4 ++ leBytes (lo32 now).toNat 4 ++ willDirectory now (o + b.length) l

/-- A record's header with its crc and commit fields as given (R434). -/
def willHeader (s : State) (seq : W32) (byEnergy : Bool) (sections length : Nat) (crc commit : W32) : List Byte :=
  let h := s.hup
  leBytes 0x574C4B59 4 ++ leBytes seq.toNat 4 ++ leBytes h.tFail.toNat 8 ++ leBytes h.frozen 4 ++
  leBytes (if h.starting then 2 else one h.noWindow) 1 ++ leBytes (one byEnergy) 1 ++ leBytes sections 2 ++ leBytes length 4 ++
  leBytes crc.toNat 4 ++ zeros 28 ++ leBytes commit.toNat 4

/-- The last-will record. DESIGN CHOICE (log 114). -/
def willRecord (s : State) (byEnergy : Bool) : LastWill :=
  let seq := match (newestWill s.hup).2 with | some w => w.seq + 1 | none => 1
  let ids := if s.hup.starting then [1, 6, 7] else [1, 2, 3, 4, 5, 6, 7]
  let secs := ids.map (fun k => (k, willSection s k))
  let body := secs.flatMap (fun x => x.2)
  let n := 64 + 16 * ids.length + body.length
  let dir := willDirectory s.time (64 + 16 * ids.length) secs
  let crc := crc32c (willHeader s seq byEnergy ids.length n 0 0 ++ dir ++ body)
  ⟨seq, willHeader s seq byEnergy ids.length n crc (seq ^^^ 0xA5A5A5A5) ++ dir ++ body⟩

/-- The last will: headers off, every SerDes idle, the record into the slot that does not hold the newest, PWR_SAFE.
DESIGN CHOICE (log 114). -/
def lastWill (s : State) (byEnergy : Bool) : State :=
  let s := storeCounters s
  let w := willRecord s byEnergy
  let toZero := (newestWill s.hup).1
  let s := retarget ((upFrom 0 32).foldl turnOff s) true
  let s := allLinks.foldl (fun s l => modLk s l (fun k => { phase := .down, since := s.time, failed := k.failed, reference := k.reference })) s
  modHup s (fun h => { h with
    loss := .safe, pwrSafe := true, returned := if s.pins.pwrfail then some s.time else none,
    slot0 := if toZero then some w else h.slot0, slot1 := if toZero then h.slot1 else some w })

/-- RIDE_THROUGH_END (R431): w has elapsed, or E_now − M has fallen to E_lw. -/
def execRideThroughEnd (s : State) : Host.Outcome State Fault Refusal :=
  whenAon s fun s =>
    let time := decide (rideEnd s ≤ since s s.hup.tFail)
    if s.hup.loss = .ride ∧ (time || decide (spare s ≤ 0)) = true then afterLoss (lastWill s (!time)) else s

/-- PWR_SAFE_RESET (R432): PWRFAIL_N has stayed high for 100 ms while PWR_SAFE is high. -/
def execPwrSafeReset (s : State) : Host.Outcome State Fault Refusal :=
  whenAon s fun s => match s.hup.returned with
    | some t =>
      if s.hup.pwrSafe ∧ s.pins.pwrfail = true ∧ msTicks 100 ≤ since s t then
        deviceReset (modHup s (fun h => { h with pwrSafe := false, loss := .none, regsHeld := none, returned := none })) 4
      else s
    | none => s

/-- LW_FETCH (R466): the newest record, or the other slot's. -/
def execLwFetch (port : NPort) (ring : RingId) (s : State) : Host.Outcome State Fault Refusal :=
  whenAon s fun s => withDescriptor s port ring 0x74 fun s ref d =>
    let one_ := (newestWill s.hup).1
    let rec_ := if one_ != bitAt (arg d 1) 32 then s.hup.slot1 else s.hup.slot0
    if !(holdsSem s port) then reject s ref eOwner 1 0
    else match rec_ with
      | none => reject s ref eState 2 0
      | some w =>
        if bits (arg d 1) 31 0 < w.bytes.length then reject s ref eRange 3 0
        else completeOk (sendHost s port (arg d 0) (w.bytes.length + 1) w.bytes) ref (BitVec.ofNat 64 w.bytes.length)

end Sys2Proof.Machine
end

