-- ==== Sys2Proof/Machine/Nbu.lean ====
section
/-! DEFINITION. Near-bank units at work: refresh (R210), operations accepted, finished, ended (R213, R215, R218, R227–R229), fences
(R230, R231), invocations of nbu stations (R221), ordinary accesses (R223–R225). -/

namespace Sys2Proof.Machine

/-! Refresh (R210) -/

/-- The key of a bank. -/
def bankKey (u bank : Nat) : Nat := 16 * u + bank
/-- The banks of an NBU that owe a refresh, with their counts. -/
def owedBanks (s : State) (u : Nat) : List (Nat × Nat) :=
  (upFrom 0 16).filterMap (fun b => let x := tget {} s.banks (bankKey u b); if x.owed then some (b, x.count) else none)

/-- The owed refresh with the highest count, of the lowest bank. DEDUCED (log 83). -/
def mostOwed : List (Nat × Nat) → Option (Nat × Nat)
  | [] => none
  | x :: l => match mostOwed l with
    | none => some x
    | some y => if x.2 < y.2 then some y else some x

/-- A bank is refreshed. DEDUCED (log 83). -/
def refreshed (s : State) (u bank : Nat) : State := { s with banks := terase s.banks (bankKey u bank) }

/-- A refresh that was postponed 4 times is forced. DEDUCED (log 83). -/
def forceRefresh (s : State) (u bank : Nat) : State :=
  modStk (refreshed s u bank) (u / 256) (fun k => { k with forced := k.forced + 1 })

/-- A row boundary (R210): the owed refresh with the highest count is forced when it was postponed 4 times; else its bank is yielded
when it is not among those of the next 4 rows. DEDUCED (log 83). -/
def rowBoundary (s : State) (u : Nat) (nextBanks : List Nat) : State :=
  match mostOwed (owedBanks s u) with
  | some y =>
    if 4 ≤ y.2 then forceRefresh s u y.1
    else if (nextBanks.take 4).contains y.1 then s
    else refreshed s u y.1
  | none => s

/-- REFRESH_DUE: a bank's refresh interval has passed. With nothing running it is refreshed at once; else it is owed and the row boundary
weighs it, with a count of 4 the next one. A refresh is postponed 4 times at the most (R204). DEDUCED (log 83). -/
def execRefreshDue (site : SiteId) (bg : Fin 256) (bank : Fin 16) (nextBanks : List Nat) (s : State) :
    Host.Outcome State Fault Refusal :=
  whenAon s fun s =>
    let u := 256 * site.val + bg.val
    if !((liveSites s).contains site.val) then s
    else if !(nbuRuns s u) then refreshed s u bank.val
    else
      let s := if 4 ≤ (tget {} s.banks (bankKey u bank.val)).count then forceRefresh s u bank.val else s
      let x := tget {} s.banks (bankKey u bank.val)
      let s := { s with banks := tset {} s.banks (bankKey u bank.val) { owed := true, count := if x.owed then x.count + 1 else 0 } }
      let s := if x.owed then modStk s site.val (fun k => { k with postponed := k.postponed + 1 }) else s
      if x.owed ∧ 4 ≤ x.count + 1 then s else rowBoundary s u nextBanks

/-- FORCED_REFRESH: at the next row boundary a refresh postponed 4 times is yielded. -/
def execForcedRefresh (nbu : NbuId) (s : State) : Host.Outcome State Fault Refusal :=
  whenAon s fun s =>
    match mostOwed (owedBanks s nbu.val) with
    | some y =>
      if 4 ≤ y.2 then forceRefresh s nbu.val y.1 else s
    | none => s

/-! Acceptance (R215, R218) -/

/-! Programs (R220) -/

/-- A record with its loop's strides added i times. DEDUCED (log 81). -/
def strided (w : List W32) (i : Nat) (sIn sOut : Int) : List W32 :=
  let add := fun (x : W32) (d : Int) => x + BitVec.ofInt 32 (Int.ofNat i * d)
  (w.set 1 (add (w.getD 1 0) sIn)).set 3 (add (w.getD 3 0) sOut)

/-- The k-th record that a program runs from word i, or none at END. DEDUCED (log 81). -/
def nthRecord (b : List Byte) (i k : Nat) : Nat → Option (List W32)
  | 0 => none
  | fuel + 1 =>
    match progPart b i with
    | .record w => if k = 0 then some w else nthRecord b (i + 4) (k - 1) fuel
    | .loop n count sIn sOut =>
      let m := n / 4
      if k < m * count then
        match progPart b (i + 1 + 4 * (k % m)) with
        | .record w => some (strided w (k / m) sIn sOut)
        | _ => none
      else nthRecord b (i + 1 + n) (k - m * count) fuel
    | _ => none

/-- The k-th record of an NBU's program. -/
def programRecord (s : State) (u k : Nat) : Option (List W32) := nthRecord (nbuAt s u).program 1 k 1024

/-- Changes an invocation. -/
def modInvoke (s : State) (n k : Nat) (f : Invoke → Invoke) : State :=
  { s with invokes := s.invokes.map (fun v => if v.part.val = n ∧ v.station = k then f v else v) }

/-- The invocation record of a station. -/
def invokeOf (s : State) (n k : Nat) : Option Invoke := s.invokes.find? (fun v => v.part.val == n && v.station == k)

/-- The first invocation that has a record for an NBU. -/
def waitingInvoke (s : State) (u : Nat) : Option (Invoke × List W32) :=
  s.invokes.findSome? (fun v =>
    if v.running && runLive s v.part.val then
      (v.left.find? (fun x => x.1 == u)).bind (fun x => (programRecord s u x.2).map (fun w => (v, w)))
    else none)

/-- A station's next record is accepted into a free slot; check 6 alone can fail, and ends the run (R218). -/
def acceptStation (s : State) (u : Nat) : State :=
  match freeSlot s u, waitingInvoke s u with
  | some slot, some (v, w) =>
    if rangesBad s w then stopRun s v.part.val { status := sAborted, cause := 5, carried := eRange.toNat, item := v.station }
    else
      let s := modInvoke s v.part.val v.station (fun v => { v with
        left := v.left.map (fun x => if x.1 = u then (u, x.2 + 1) else x) })
      acceptOp s u { words := w, source := .station v.part v.station v.number, slot, vscale := v.scale }
  | _, _ => s

/-- Accepts up to n records of stations. -/
def acceptStations (s : State) (u : Nat) : Nat → State
  | 0 => s
  | n + 1 => acceptStations (acceptStation s u) u n

/-! Descriptors (R218, R228) -/

/-- NBU_OP. An operation that a repair of its bank group holds waits (R226). DEDUCED (log 33); DESIGN CHOICE (log 85). -/
def execNbuOp (port : NPort) (ring : RingId) (s : State) : Host.Outcome State Fault Refusal :=
  whenAon s fun s => withDescriptor s port ring 0x18 fun s ref d =>
    let u := (arg d 0).toNat
    if !(nbuOn s.variant u && !(nbuFenced s u)) then reject s ref eState 1 0
    else if nbuOwner s u ≠ descPart d then reject s ref ePartition 2 0
    else if (arg d 1).toNat % 64 ≠ 0 then reject s ref eAlign 7 0
    else withRead s ref (arg d 1) 64 fun s record =>
      let w := recordWords record
      match recordBad w with
      | some (st, k) => reject s ref st k 0
      | none =>
        if rangesBad s w then reject s ref eRange 6 0
        else if s.repairs.any (fun r => r.nbu == u) then s
        else match freeSlot s u with
        | none => reject s ref eNoResource 7 0
        | some slot =>
          let s := modPart s (descPart d) (fun p => { p with operated := p.operated ++ [(port.val * 64 + ring.val, d.seq)] })
          acceptOp (acceptDesc s ref) u { words := w, source := .desc ref (partFin (descPart d)) d.seq, slot }

/-- The accepted operation of a descriptor: NBU and place. -/
def opOfDesc (s : State) (port : NPort) (ring : Nat) (seq : W32) (n : Nat) : Option (Nat × Nat) :=
  s.nbus.findSome? (fun x => (firstIdx (fun o => match o.source with
    | .desc r m q => r.port == port && r.ring.val == ring && q == seq && m.val == n
    | _ => false) 0 x.2.ops).map (fun i => (x.1, i)))

/-- NBU_ABORT (R228). The NBU stops at its next row boundary, which is taken to be at once. DEDUCED (log 33). -/
def execNbuAbort (port : NPort) (ring : RingId) (s : State) : Host.Outcome State Fault Refusal :=
  whenAon s fun s => withDescriptor s port ring 0x19 fun s ref d =>
    let seq := BitVec.ofNat 32 (bits (arg d 0) 31 0)
    let rg := bits (arg d 0) 37 32
    match opOfDesc s port rg seq (descPart d) with
    | some (u, i) => completeOk (failOp (acceptDesc s ref) u i sAborted (endDetail { status := sAborted, cause := 3 })) ref 0
    | none =>
      if (partAt s (descPart d)).operated.contains (port.val * 64 + rg, seq) then complete s ref sAbortLate 0 0 []
      else reject s ref eRange 7 0

/-! Operations that run -/

/-- The operation at the head of an NBU makes its writes (R227); a tile whose trailer does not fit (R43) and poison consumed (R268) are
reported. DEDUCED (log 76). -/
def finishWrites (s : State) (u : Nat) (o : Op) : State :=
  let r := runOp s u o
  let s := putStores r.2 u r.1.stores
  let n := o.source.part.val
  let s := if r.1.trailer then
      raise s { kind := kTrailer, unit := uNbu, id := u, part := some n, station := o.source.workOf, status := sPoison,
                detail := match o.source.workOf with | some k => streamOf s n k .activation | none => 0 }
    else s
  let s := if !r.1.poison then s
    else match o.owner, o.source with
    | none, .station _ k _ => consumePoison s n (some k)
    | none, .log _ k => if o.begun.isSome && o.begun == runBegun s n then consumePoison s n (some k) else reportPoison s n o.source.workOf
    | _, _ => reportPoison s n none
  let s := modNbu s u (fun x => { x with ops := match x.ops with | o :: l => { o with finished := some r.1.status } :: l | [] => [] })
  idleQueue { s with banks := s.banks.filter (fun x => x.1 / 16 != u) } u

/-- EVENT_SUMMARY_POLL (R213): the port reads which of a pseudo-channel's 4 NBUs have finished every write of the operation they run, as
they have once its time is past (R219). DEDUCED (log 76). -/
def execEventSummaryPoll (site : SiteId) (pseudo : Fin 64) (s : State) : Host.Outcome State Fault Refusal :=
  whenAon s fun s =>
    (upFrom 0 4).foldl (fun s k =>
      let u := 256 * site.val + pseudo.val + 64 * k
      if !(nbuOn s.variant u) || !(hemWorks s) then s
      else match (nbuAt s u).ops with
        | o :: _ => if o.started && o.finished.isNone && decide (opTime s u o ≤ 40 * since s o.start) then finishWrites s u o else s
        | [] => s) s

/-- NBU_OP_TIMEOUT (R229). DEDUCED (log 82). -/
def execNbuOpTimeout (nbu : NbuId) (s : State) : Host.Outcome State Fault Refusal :=
  whenAon s fun s =>
    let u := nbu.val
    match (nbuAt s u).ops with
    | o :: _ =>
      if o.started && timeCounts s && decide (msTicks (opLimit s) < since s o.start) then
        let s := failOp s u 0 sTimeout 0
        match o.source with
        | .station n _ _ => stopRun s n.val { status := sTimeout }
        | _ => s
      else s
    | [] => s

/-! Fences (R230, R231) -/

/-- Fences an NBU: recorded, reported; its accepted operations begin again on its buddy, or end when that is fenced too, as do those it
ran as a buddy. DEDUCED (log 82). -/
def fenceNbu (s : State) (rec u : Nat) : State :=
  if nbuFenced s u || !(nbuOn s.variant u) then s
  else
    let v := buddyOf u
    let s := modNbu s u (fun n => { n with fenced := true, ops := n.ops.map Op.toBuddy })
    let s := raise (addDefect s rec uNbu u 2) { kind := kNbuFenced, unit := uNbu, id := u }
    if nbuFenced s v then
      let s := abandonOps s u (nbuAt s u).ops.length
      abandonOps s v (nbuAt s v).ops.length
    else nextTurn s u

/-- NBU_FENCE. -/
def execNbuFence (nbu : NbuId) (s : State) : Host.Outcome State Fault Refusal := whenAon s fun s => fenceNbu s kNbuFenced nbu.val

/-! Invocations (R221) -/

/-- Writes bytes into an NBU's vector buffer from offset `off`; what lies beyond its 80 KiB is not written. -/
def putVec (x : Nbu) (off : Nat) (l : List (Byte × Bool)) : Nbu :=
  let l := l.take (81920 - off)
  { x with vbuf := putBytes x.vbuf off (l.map (fun b => b.1)),
           vbad := x.vbad.filter (fun w => !(within w (off / 8) ((off + l.length) / 8 - 1))) ++
             ((l.zipIdx).filter (fun b => b.1.2)).map (fun b => (off + b.2) / 8) }

/-- The raw element code of a tile at (r, c); an element of an escaped block has no place in the vector buffer: free. -/
def Tile.rawCode (t : Tile) (r c : Nat) : Nat :=
  let b := 2 * r + c / 32
  if t.kind = 1 ∧ t.escaped b then Config.escVector (t.byte (escOffset t.tag t.kind + 32 * popBelow t.escMap b + c % 32))
  else
    let i := r * rowBytes t.tag + c * rowBytes t.tag / 64
    if t.tag = 2 ∨ t.tag = 3 then t.byte i / 16 ^ (c % 2) % 16 else t.byte i

/-- Tiles of a stream that stand one after the other. -/
def tilesOf (x : Stream) (l : List (W64 × Bool)) : List Tile :=
  let n := kcSize x.fmt x.kc / 8
  (upFrom 0 (l.length / n)).map (fun i =>
    let w := (l.drop (i * n)).take n
    ⟨x.fmt, kcKind x.kc, kcCode x.kc, wordBytes w, poisonIndex w⟩)

/-- A tile that is consumed as poison whole. -/
def Tile.spoilt (t : Tile) : Tile := { t with bad := upFrom 0 (t.size / 8) }

/-- The tiles of one group as they are consumed: a tile with another tensor scale than the first counts as a trailer mismatch; whether any
does. -/
def groupTiles (l : List Tile) : List Tile × Bool :=
  let sc := match l with | t :: _ => t.tensorScale | [] => 0x3F800000
  let odd := fun (t : Tile) => !t.trailerBad && (!t.trailerOk || t.tensorScale != sc)
  (l.map (fun t => if odd t then t.spoilt else t), l.any odd)

/-- The vector data of a group of tiles: the valid rows' elements, then from the next 64-byte boundary their block scales.
DESIGN CHOICE (log 78). -/
def vectorData (x : Stream) (l : List Tile) (rows : Nat) : List (Byte × Bool) :=
  let es := (upFrom 0 rows).flatMap (fun r => l.flatMap (fun t => (upFrom 0 64).map (fun c => (t.rawCode r c, (t.elem r c).2))))
  let elems := if x.fmt = 2 ∨ x.fmt = 3 then
      (upFrom 0 (es.length / 2)).map (fun i =>
        let a := es.getD (2 * i) (0, false)
        let b := es.getD (2 * i + 1) (0, false)
        (BitVec.ofNat 8 (a.1 + 16 * b.1), a.2 || b.2))
    else es.map (fun e => (BitVec.ofNat 8 e.1, e.2))
  if kcKind x.kc = 0 then elems
  else
    elems ++ (zeros (ceilDiv elems.length 64 * 64 - elems.length)).map (fun b => (b, false)) ++
    (upFrom 0 rows).flatMap (fun r => l.flatMap (fun t => [0, 1].map (fun h =>
      let i := 64 * rowBytes x.fmt + 2 * r + h
      (BitVec.ofNat 8 (t.byte i), t.allBad || t.badAt i))))

/-- Tiles that have come for a station: those of the stream's hamper buffer, else those the command brings; up to `need` words.
DEDUCED (log 81). -/
def takeTiles (s : State) (n k : Nat) (need : Nat) (given : List (W64 × Bool)) : List (W64 × Bool) × State :=
  match (partAt s n).image with
  | none => ([], s)
  | some img =>
    match firstIdx (fun x => x.dst == k) 0 img.streams with
    | none => ([], s)
    | some i =>
      match img.streams[i]? with
      | none => ([], s)
      | some x =>
        let size := kcSize x.fmt x.kc
        match bufOf s n i with
        | some b => bufGet s n i (min need ((b.put - b.got) / size * (size / 8)))
        | none => (given.take need, s)

/-- Whether the Hem has still output of a hamper stream of a station in hand. -/
def outputWaits (s : State) (n k : Nat) : Bool :=
  match (partAt s n).image with
  | some img => (img.streams.zipIdx).any (fun x => x.1.src == k && x.1.route == 2 && s.hemOut.any (fun y => y.1 == n * 65536 + x.2))
  | none => false

/-- NBU_INVOCATION_START: the Hem collects the group's tiles and, when they are in, writes the vectors into every NBU of the binding, which
run their programs. DEDUCED (log 81). -/
def execNbuInvocationStart (part : PartId) (station : Nat) (tiles : List (W64 × Bool)) (s : State) :
    Host.Outcome State Fault Refusal :=
  whenAon s fun s =>
    let n := part.val
    match (partAt s n).image, stationAt s n station, invokeOf s n station with
    | some img, some st, some v =>
      if st.kind ≠ 12 ∨ rOp st.p = 0x11 ∨ v.running = true ∨ invocationsOf img station ≤ v.number ∨ outputWaits s n station = true ∨
          !(runLive s n) ∨ !(hemWorks s) then s
      else
      let t := inTiles (stationProg img station)
      match inputs img station with
      | [] =>
        let s := modInvoke s n station (fun v => { v with running := true, left := (upFrom st.b0 st.b1).map (fun u => (u, 0)) })
        (upFrom st.b0 st.b1).foldl (fun s u => acceptStations s u 16) s
      | x :: _ =>
        let need := t * (kcSize x.fmt x.kc / 8)
        let r := takeTiles s n station (need - v.words.length) tiles
        let words := v.words ++ r.1
        if words.length < need then modInvoke r.2 n station (fun v => { v with words })
        else
          let g := groupTiles (tilesOf x words)
          let s := if g.2 then raise r.2 { kind := kTrailer, unit := uPart, id := n, part := some n, station := some station,
                                           status := sPoison, detail := streamOf s n station .activation } else r.2
          let first := g.1.getD 0 ⟨x.fmt, 0, 0, [], []⟩
          let data := vectorData x g.1 (min 64 first.validRows)
          let us := upFrom st.b0 st.b1
          let s := if t = 0 then s else us.foldl (fun s u => modNbu s u (fun y => putVec y 0 data)) s
          let s := modInvoke s n station (fun v => { v with
            running := true, words := [], scale := if t = 0 then 0x3F800000 else first.tensorScale, left := us.map (fun u => (u, 0)) })
          us.foldl (fun s u => acceptStations s u 16) s
    | _, _, _ => s

/-- Gives a stream's words to the Hem for delivery. DEDUCED (log 90). -/
def hemPut (s : State) (n k : Nat) (l : List (W64 × Bool)) : State :=
  { s with hemOut := tmod [] s.hemOut (n * 65536 + k) (fun x => x ++ l) }

/-- The Hem moves a tile of a stream that goes through the hamper into its buffer, when it has room. DEDUCED (log 90). -/
def hemDrain (s : State) (n k : Nat) (x : Stream) : State :=
  let size := kcSize x.fmt x.kc
  match bufOf s n k with
  | some b =>
    let l := tget [] s.hemOut (n * 65536 + k)
    if b.room < size ∨ l.length < size / 8 then s
    else bufPut { s with hemOut := tset [] s.hemOut (n * 65536 + k) (l.drop (size / 8)) } n k (l.take (size / 8))
  | none => s

/-- Delivers words on every output stream of a station. DEDUCED (log 90). -/
def deliverOut (s : State) (n k : Nat) (img : Image) (l : List (W64 × Bool)) : State :=
  (img.streams.zipIdx).foldl (fun s x => if x.1.src = k then hemDrain (hemPut s n x.2 l) n x.2 x.1 else s) s

/-- Whether an NBU has reached END of its program in an invocation. -/
def reachedEnd (s : State) (v : Invoke) (x : Nat × Nat) : Bool :=
  (programRecord s x.1 x.2).isNone &&
  (nbuAt s x.1).ops.all (fun o => match o.source with | .station m k _ => m != v.part || k != v.station | _ => true)

/-- NBU_INVOCATION_END: output in hand moves on; once every NBU of the binding has reached END, the Hem reads its carrier tiles and delivers
them. -/
def execNbuInvocationEnd (part : PartId) (station : Nat) (s : State) : Host.Outcome State Fault Refusal :=
  whenAon s fun s =>
    let n := part.val
    match (partAt s n).image, invokeOf s n station with
    | some img, some v =>
      if !(hemWorks s) then s
      else
      let s := (img.streams.zipIdx).foldl (fun s x => if x.1.src = station then hemDrain s n x.2 x.1 else s) s
      if !v.running || !(runLive s n) || !(v.left.all (reachedEnd s v)) || (s.decodes.any (fun d => d.part == part && d.station == station))
      then s
      else
        let r := v.left.foldl (fun (a : List (W64 × Bool) × State) x =>
          let b := (nbuAt a.2 x.1).program
          let y := readLocal a.2 x.1 (64 * outOff b) (1032 * outTiles b)
          (a.1 ++ y.1, y.2)) ([], s)
        let s := modInvoke r.2 n station (fun v => { v with running := false, number := v.number + 1, left := [] })
        deliverOut s n station img r.1
    | _, _ => s

/-! Ordinary accesses (R223–R225) -/

/-- The 64-byte accesses that an access is made of. DEDUCED (log 84). -/
def splitAccess (a : StackAccess) : List StackAccess :=
  (upFrom 0 (a.len / 64)).map (fun i => { a with
    addr := a.addr + BitVec.ofNat 40 (64 * i), len := 64, data := (a.data.drop (64 * i)).take 64 })

/-- One 64-byte access: held on a busy output range, served at once where nothing runs, else queued for the next row boundary.
DEDUCED (log 84). -/
def placeAccess (s : State) (a : StackAccess) : State :=
  let u := (stackPlace s a.addr.toNat).1
  if !a.write && busyStack s a.addr.toNat true 1 then modNbu s u (fun n => { n with held := n.held ++ [a] })
  else if !(nbuRuns s u) && (nbuAt s u).queue.isEmpty then serveAccess s a
  else modNbu s u (fun n => { n with queue := n.queue ++ [a] })

/-- ORDINARY_ACCESS: a stack access that is not by an NBU. A write that meets a busy range is refused whole; a station's ends its run. -/
def execOrdinaryAccess (a : StackAccess) (s : State) : Host.Outcome State Fault Refusal :=
  whenAon s fun s =>
    if (stackBad s a.addr.toNat a.len 64).isSome || !(hemWorks s) then s
    else if a.write && busyStack s a.addr.toNat false (a.len / 64) then
      (match a.station with
       | some (n, k) =>
         stopRun (raise s { kind := kBusyRange, unit := uNbu, id := (stackPlace s a.addr.toNat).1, part := some n.val, station := some k,
                            status := eBusyRange }) n.val { status := sAborted, cause := 5, carried := eBusyRange.toNat, item := k }
       | none => s)
    else (splitAccess a).foldl placeAccess s

/-- INTERLEAVE_SERVICE (R210, R224): at a row boundary an owed refresh is weighed and the 16 accesses of the interleave queue are served in arrival order; those that waited
in the port enter it. DEDUCED (log 83, 84). -/
def execInterleaveService (nbu : NbuId) (nextBanks : List Nat) (s : State) : Host.Outcome State Fault Refusal :=
  whenAon s fun s =>
    serveQueue (if nbuRuns s nbu.val then rowBoundary s nbu.val nextBanks else s) nbu.val 16

end Sys2Proof.Machine
end

