-- ==== Sys2Proof/Machine/Kv.lean ====
section
/-! DEFINITION. The KV machinery: pages committed (R248–R250), rows appended (R243–R247, R251, R258), decode invocations (R252–R255), KV
descriptors (R248), and completion points (R227). -/

namespace Sys2Proof.Machine

/-! Appending (R243–R247) -/

/-- How an append ends. -/
inductive Appended where
  | done | wait (room : Bool) | fail (status : Byte)
deriving DecidableEq, Repr

/-- A token's K or V in the page format (R244): element bytes and scale bytes with their poison, counts, and the generator after it.
DEDUCED (log 87). -/
def packToken (tag : Nat) (stoch : Bool) (vals : List Acc) (gen : W64) :
    List (Byte × Bool) × List (Byte × Bool) × Census × W64 :=
  let f : OutForm := ⟨tag, if tag = 0 then 0 else 1, stoch, none⟩
  (upFrom 0 (vals.length / 32)).foldl (fun a j =>
    let r := outBlock f j 0 ((vals.drop (32 * j)).take 32) a.2.2.2
    let bytes := packCodes tag r.1.codes
    let bad := fun (i : Nat) => if tag = 0 then r.1.poison.getD i false else r.1.poison.any id
    (a.1 ++ bytes.zipIdx.map (fun x => (x.1, bad x.2)),
     a.2.1 ++ (if tag = 0 then [] else [(BitVec.ofNat 8 r.1.scale, r.1.poison.any id)]),
     a.2.2.1.add (blkCensus r.1 false), r.2.2)) ([], [], {}, gen)

/-- Reserves room in a gather log and writes a row (R245, R246): ring state, then the row. DESIGN CHOICE (log 86). -/
def writeRow (s : State) (u units : Nat) (r : LogRow) (bytes : List (Byte × Bool)) : Nat × State :=
  let s := readTable s (localAddr u (kvBase s)) 16
  let x := ringState s u
  let pad := if logUnits s < x.1 + units then logUnits s - x.1 else 0
  let at_ := if pad = 0 then x.1 else 0
  let s := setRing s u ((at_ + units) % logUnits s) x.2.1 (x.2.2 + pad + units)
  let s := if pad = 0 then s else zeroStack s (localAddr u (logBase s + 64 * x.1)) (8 * pad)
  let s := modNbu s u (fun n => { n with
    rows := n.rows ++ (if pad = 0 then [] else [{ r with off := x.1, units := pad, table := none }]) ++ [{ r with off := at_, units }] })
  (logBase s / 64 + at_, writeStack s (localAddr u (logBase s + 64 * at_)) (flagWords (8 * units) bytes))

/-- Whether a log has room for a row, with the pad it needs (R258). -/
def logRoomFor (s : State) (u units : Nat) : Bool :=
  let x := ringState s u
  let pad := if logUnits s < x.1 + units then logUnits s - x.1 else 0
  decide (x.2.2 + pad + units ≤ logUnits s)

/-- The highest occupancy of a site's logs in 1/1,024 of U (R257). DEDUCED (log 87). -/
def noteOcc (s : State) (u : Nat) : State :=
  let o := (ringState s u).2.2 * 1024 / logUnits s
  modKv s (u / 256) (fun k => { k with runOcc := max k.runOcc o })

/-- What an append works for: partition, station, its entry, block table and batch row's sequence. -/
structure AppendJob where
  part : PartId
  station : Nat
  st : Station
  table : BlockTable
  seq : Nat
deriving DecidableEq, Repr

/-- The values of head j of a tile row: K, then V. -/
def headValues (st : Station) (tiles : List Tile) (r j : Nat) : List Acc × List Acc :=
  let d := st.par 1
  let val := fun (c : Nat) => match tiles[c / 64]? with | some t => t.value r (c % 64) | none => {}
  ((upFrom (j * d) d).map val, (upFrom ((st.par 5 + j) * d) d).map val)

/-- The bytes of a log row (R245): header, K, V. -/
def rowBytesOf (job : AppendJob) (j pos : Nat) (body : List (Byte × Bool)) : List (Byte × Bool) :=
  ((leBytes job.seq 4 ++ leBytes (job.st.par 2) 2 ++ leBytes (job.st.par 4 + j) 1 ++ [1] ++ leBytes pos 4 ++ zeros 4).map
    (fun b => (b, false))) ++ body

/-- Pairs of place and bytes, as single bytes to store. -/
def byteStores (base : Nat) (l : List ((Nat × Nat) × List (Byte × Bool))) : Stores :=
  l.flatMap (fun x => x.2.zipIdx.map (fun b => (base + x.1.1 + b.2, [b.1.1], b.1.2)))

/-- A head's key and value packed for the cache, keys and values with their scales, with what they count (R82, R244). -/
def packHead (s : State) (job : AppendJob) (tiles : List Tile) (r j : Nat) : List (List (Byte × Bool)) × State :=
  let v := headValues job.st tiles r j
  let tag := job.table.fmt
  let stoch := job.st.stoch && tag == 2
  let f := if stoch then takeFree s else (0, s)
  let k := packToken tag stoch v.1 f.1
  let w := packToken tag stoch v.2 k.2.2.2
  let c := k.2.2.1.add w.2.2.1
  let s := addStats f.2 job.part.val job.station [c.sat, c.flush, c.nonfinite, 0, 0, 0, 0, 0]
  ([k.1, k.2.1, w.1, w.2.1],
   if (v.1 ++ v.2).any (fun y => y.p) then consumePoison s job.part.val (some job.station) else s)

/-- A token stored straight into its page (R244, mode 1): its places, the page entry, the tail entry at `a`. -/
def storeDirect (s : State) (t : BlockTable) (a pa : Nat) (x : Tail) (p : Page) (parts : List (List (Byte × Bool))) : State :=
  let s := putStores s p.nbu (byteStores p.base ((tokenPlaces t.fmt t.d x.inPage).zip parts))
  let s := setPage s pa ⟨(p.word &&& ~~~(BitVec.ofNat 64 (0x1FF * 2 ^ 30))) ||| BitVec.ofNat 64 ((p.tokens + 1) % 512 * 2 ^ 30)⟩ false
  setTail (modKv s (p.nbu / 256) (fun k => { k with direct := k.direct + 1 })) a
    { x with inPage := x.inPage + 1, held := x.held + 1, active := 1 }

/-- A token stored as a row of its NBU's gather log (R245, R246): the row, the pending list and the tail entry at `a`. -/
def storeLogged (s : State) (job : AppendJob) (j u a : Nat) (x : Tail) (parts : List (List (Byte × Bool))) : State :=
  let y := writeRow s u job.table.rowUnits ⟨0, 0, some (BitVec.ofNat 64 job.table.base), job.part, job.station⟩
    (rowBytesOf job j x.held parts.flatten)
  let s := modKv (setPlist y.2 a x.pending y.1) (u / 256) (fun k => { k with append := k.append + 1 })
  noteOcc (setTail s a { x with inPage := x.inPage + 1, held := x.held + 1, pending := x.pending + 1, active := 1 }) u

/-- A token is stored; a page that is now full is committed (R248). -/
def storeToken (s : State) (job : AppendJob) (j a pa : Nat) (x : Tail) (p : Page) (parts : List (List (Byte × Bool))) : State :=
  let t := job.table
  let direct := job.st.par 3 == 1
  let s := if direct then storeDirect s t a pa x p parts else storeLogged s job j p.nbu a x parts
  let s := if x.inPage + 1 = 256 then
      commitPage s ⟨BitVec.ofNat 64 t.base, job.seq, job.st.par 2, job.st.par 4 + j, job.part, job.station, none,
        runBegun s job.part.val⟩
    else s
  if direct then s else checkLog s p.nbu job.part job.station (runBegun s job.part.val)

/-- One append (R244): sequence and head of one batch row. DEDUCED (log 87). -/
def appendOne (s : State) (job : AppendJob) (tiles : List Tile) (r j : Nat) : Appended × State :=
  let t := job.table
  let layer := job.st.par 2
  let head := job.st.par 4 + j
  let a := t.tail job.seq layer head
  let x := tailAt s a
  let pa := t.page job.seq layer head x.open_
  let p := pageAt s pa
  let u := p.nbu
  let direct := job.st.par 3 == 1
  let busyAt := fun (l : List (Nat × Nat)) => l.any (fun y => busyLinear s u (stripeGib s * 2 ^ 22 + p.base + y.1) y.2 false)
  let failed := fun (st : Byte) (s : State) => (Appended.fail st, s)
  let poison := fun (s : State) => (Appended.fail sPoison, consumePoison s job.part.val (some job.station))
  let s := readTable s a 16
  if peekBad s a 16 then poison s
  else if x.open_ = t.maxPages then (.fail eNoResource, s)
  else if x.inPage = 256 then (.wait false, s)
  else
  let s := readTable s pa 8
  if peekBad s pa 8 then poison s
  else if !p.allocated then failed eNoResource s
  else if !(p.legal s t.pageLen) then failed eRange s
  else if direct ∧ 0 < x.pending then failed eState s
  else if direct ∧ busyAt (tokenPlaces t.fmt t.d x.inPage) = true then (.wait false, s)
  else if !direct && peekBad s (localAddr u (kvBase s)) 16 then poison (readTable s (localAddr u (kvBase s)) 16)
  else if !direct && !(logRoomFor s u t.rowUnits) then (.wait true, s)
  else
    let v := packHead s job tiles r j
    (.done, storeToken v.2 job j a pa x p v.1)

/-- The append state of a station. -/
def appendOf (s : State) (n k : Nat) : Option Append := s.appends.find? (fun a => a.part.val == n && a.station == k)

/-- Changes it. -/
def modAppend (s : State) (n k : Nat) (f : Append → Append) : State :=
  { s with appends := s.appends.map (fun a => if a.part.val = n ∧ a.station = k then f a else a) }

/-- The words of a row group of a gather-append station. -/
def groupWords (st : Station) (x : Stream) : Nat := ceilDiv (2 * st.par 5 * st.par 1) 64 * (kcSize x.fmt x.kc / 8)

/-- An append that waits for log room is counted once, and reported once a frame (R258). -/
def noteFull (s : State) (n k u : Nat) (waits : Bool) : State :=
  if waits then s
  else
    let s := modKv s (u / 256) (fun k => { k with wait := k.wait + 1 })
    if s.kvFull then s
    else raise { s with kvFull := true } { kind := kLogFull, unit := uNbu, id := u, part := some n, station := some k }

/-- The NBU of the open page of a job's head. -/
def openNbu (s : State) (job : AppendJob) (j : Nat) : Nat :=
  let t := job.table
  let x := tailAt s (t.tail job.seq (job.st.par 2) (job.st.par 4 + j))
  (pageAt s (t.page job.seq (job.st.par 2) (job.st.par 4 + j) x.open_)).nbu

/-- The appends of one batch row, from the head where they stand. -/
def appendHeads (s : State) (job : AppendJob) (tiles : List Tile) (r : Nat) : Nat → State
  | 0 => s
  | fuel + 1 =>
    let n := job.part.val
    match appendOf s n job.station with
    | none => s
    | some a =>
      if job.st.par 5 ≤ a.head then modAppend s n job.station (fun a => { a with head := 0, row := a.row + 1, waiting := false })
      else
        match appendOne s job tiles r a.head with
        | (.done, s) => appendHeads (modAppend s n job.station (fun a => { a with head := a.head + 1, waiting := false })) job tiles r fuel
        | (.wait room, s) =>
          let s := if room then noteFull s n job.station (openNbu s job a.head) a.waiting else s
          modAppend s n job.station (fun a => { a with waiting := a.waiting || room })
        | (.fail st, s) =>
          stopRun (raise s { kind := kAppendFailed, unit := uPart, id := n, part := some n, station := some job.station, status := st,
                             detail := job.seq }) n { status := sAborted, cause := 5, carried := st.toNat, item := job.station }

/-- The block table and batch map of a run's binding slot, as held since its start (R242). -/
def heldTable (r : Run) (slot : Nat) : Option (BlockTable × List Byte) :=
  (r.tables.find? (fun x => x.1 == slot)).map (fun x => (tableOf (slotIn r.slots slot).a.toNat x.2.1, x.2.2))

/-- The sequence of a batch row; none for a row without one. -/
def mapRow (map : List Byte) (b : Nat) : Option Nat :=
  let x := field map (4 * b) 4
  if x = 0xFFFFFFFF then none else some x

/-- The next batch row of a row group whose tiles are in, once its block table is known: a row group is over when its valid rows are
appended; a row with no sequence is passed. `fresh` says that the tiles have just come in. -/
def appendRow (s : State) (n k : Nat) (st : Station) (a : Append) (x : Stream) (words : List (W64 × Bool)) (fresh : Bool)
    (t : BlockTable) (map : List Byte) : State :=
  let tiles := tilesOf x words
  let s := if fresh && tiles.any (fun t => !t.trailerBad && !t.trailerOk) then
      raise s { kind := kTrailer, unit := uPart, id := n, part := some n, station := some k, status := sPoison,
                detail := streamOf s n k .activation } else s
  let rows := min 64 (tiles.getD 0 ⟨x.fmt, 0, 0, [], []⟩).validRows
  let next := fun (s : State) => modAppend s n k (fun a => { a with
    words := [], row := 0, head := 0, group := a.group + 1 })
  let b := 64 * a.group + a.row
  if rows ≤ a.row then next s
  else
    let rep := fun (st' : Byte) =>
      ({ kind := kAppendFailed, unit := uPart, id := n, part := some n, station := some k, status := st',
         detail := 0xFFFFFFFF } : Report)
    let fail := fun (st' : Byte) =>
      stopRun (raise s (rep st')) n { status := sAborted, cause := 5, carried := st'.toNat, item := k }
    let s' := if t.mapRows ≤ b then fail eRange
      else match mapRow map b with
      | none => modAppend s n k (fun a => { a with row := a.row + 1, head := 0 })
      | some q =>
        if t.nSeq ≤ q then fail eRange
        else appendHeads s ⟨partFin n, k, st, t, q⟩ tiles a.row (st.par 5 + 1)
    match appendOf s' n k with
    | some a' => if rows ≤ a'.row then next s' else s'
    | none => s'

/-- The next batch row of a gather-append station: the tiles of the row group are collected from the hamper buffer, then its rows are
appended in ascending order. -/
def appendStep (s : State) (n k : Nat) : State :=
  match (partAt s n).run, stationAt s n k, appendOf s n k, streamsOf s n k false with
  | some run, some st, some a, x :: _ =>
    if !(runLive s n) || !(hemWorks s) then s
    else
      let need := groupWords st x
      let r := if a.words.length < need then takeTiles s n k (need - a.words.length) [] else ([], s)
      let words := a.words ++ r.1
      let s := modAppend r.2 n k (fun a => { a with words })
      if words.length < need then s
      else match heldTable run (st.par 0) with
      | none => s
      | some (t, map) => appendRow s n k st a x words (!r.1.isEmpty) t map
  | _, _, _, _ => s

/-- KV_APPEND. DEDUCED (log 87). -/
def execKvAppend (part : PartId) (station : Nat) (s : State) : Host.Outcome State Fault Refusal :=
  whenAon s fun s => appendStep s part.val station

/-- KV_APPEND_LOG_ROOM: an append that waited for room goes on. -/
def execKvAppendLogRoom (part : PartId) (station : Nat) (s : State) : Host.Outcome State Fault Refusal :=
  whenAon s fun s =>
    match appendOf s part.val station with
    | some a => if a.waiting then appendStep s part.val station else s
    | none => s

/-- Appends rows while they go on: up to `fuel` rows. -/
def appendAllRows (s : State) (n k : Nat) : Nat → State
  | 0 => s
  | fuel + 1 =>
    let s' := appendStep s n k
    match appendOf s n k, appendOf s' n k with
    | some a, some b => if a.row = b.row ∧ a.group = b.group then s' else appendAllRows s' n k fuel
    | _, _ => s'

/-! Decode (R252–R255) -/

/-- Tokens of one (sequence, layer, head) in one bank group: pages (base, tokens), log rows (byte offsets). -/
structure TokenGroup where
  nbu : Nat
  pages : List (Nat × Nat) := []
  rows : List Nat := []
deriving DecidableEq, Repr

/-- The tokens that a page below the open one holds: those of its commit in flight, else those committed. -/
def pageTokens (s : State) (pa : Nat) (p : Page) : Nat :=
  match (nbuAt s p.nbu).ops.find? (fun o => o.commit == some (BitVec.ofNat 64 pa)) with
  | some o => rw o.words 5
  | none => p.tokens

/-- Puts tokens into the group of their NBU. -/
def putGroup (l : List TokenGroup) (u : Nat) (f : TokenGroup → TokenGroup) : List TokenGroup :=
  if l.any (fun g => g.nbu == u) then l.map (fun g => if g.nbu = u then f g else g) else l ++ [f { nbu := u }]

/-- The ranges of a block table that hold the tokens of (sequence, layer, head): the tail record, the page entries up to the open one, the
plist's pending entries. -/
def tokenTables (s : State) (t : BlockTable) (q layer head : Nat) : List (Nat × Nat) :=
  let a := t.tail q layer head
  let x := tailAt s a
  (a, 16) :: (upFrom 0 (min (x.open_ + 1) t.maxPages)).map (fun i => (t.page q layer head i, 8)) ++ [(a + 64, 4 * x.pending)]

/-- The tokens of (sequence, layer, head) by bank group, ascending, and whether any page of it is lost (R253). DEDUCED (log 89). -/
def findTokens (s : State) (t : BlockTable) (q layer head : Nat) : List TokenGroup × Bool :=
  let x := tailAt s (t.tail q layer head)
  let full := (upFrom 0 (min x.open_ t.maxPages)).map (fun i => t.page q layer head i)
  let l := full.foldl (fun l pa =>
    let p := pageAt s pa
    let k := pageTokens s pa p
    if k = 0 then l else putGroup l p.nbu (fun g => { g with pages := g.pages ++ [(p.base, k)] })) []
  let op := pageAt s (t.page q layer head x.open_)
  let l := if t.maxPages ≤ x.open_ ∨ op.tokens = 0 then l
    else putGroup l op.nbu (fun g => { g with pages := g.pages ++ [(op.base, op.tokens)] })
  let rows := (upFrom 0 x.pending).map (fun i => 64 * plistAt s (t.tail q layer head) i)
  let l := if rows.isEmpty then l else putGroup l op.nbu (fun g => { g with rows := g.rows ++ rows })
  (l.mergeSort (fun a b => decide (a.nbu ≤ b.nbu)), full.any (fun pa => (pageAt s pa).lost))

/-- What a decode station works with: its image entry, its partner and the partner's table and map. -/
structure DecodeJob where
  st : Station
  partner : Station
  partnerId : Nat
  table : BlockTable
  map : List Byte
  spread : Nat
deriving DecidableEq, Repr

/-- The job of a decode station in a run. -/
def decodeJob (s : State) (n k : Nat) : Option DecodeJob :=
  match (partAt s n).image, (partAt s n).run, stationAt s n k with
  | some img, some run, some st =>
    match inputs img k, (outputs img k).findSome? (fun y => (img.stations[y.dst]?).map (fun c => (y.dst, c))) with
    | x :: _, some (ci, c) =>
      match firstIdx (fun y => y.src == x.src && (match img.stations[y.dst]? with | some p => p.kind == 11 | none => false)) 0 img.streams with
      | some si =>
        match img.streams[si]? with
        | some sm =>
          (match img.stations[sm.dst]? with
           | some p => (heldTable run (p.par 0)).map (fun h =>
               ⟨st, p, sm.dst, h.1, h.2, c.par 2 / max 1 (inputs img ci).length⟩)
           | none => none)
        | none => none
      | none => none
    | _, _ => none
  | _, _, _ => none

/-- Query heads of a decode job. -/
def DecodeJob.heads (j : DecodeJob) : Nat := rw j.st.p 5 * j.partner.par 5

/-- The query vectors of KV head `head` in row r of query tiles: FP8 codes with their poison. -/
def queryBytes (j : DecodeJob) (tiles : List Tile) (r head : Nat) : List (Byte × Bool) :=
  let n := rw j.st.p 5 * j.partner.par 1
  (upFrom (head * n) n).map (fun c => match tiles[c / 64]? with
    | some t => (BitVec.ofNat 8 (t.rawCode r (c % 64)), (t.elem r (c % 64)).2)
    | none => (0, false))

/-- The ATTN_DECODE record of a token group over a slot area (R253). -/
def attnWords (s : State) (j : DecodeJob) (g : TokenGroup) (slot : Nat) : List W32 :=
  let b := slotArea s slot
  let gh := rw j.st.p 5
  let d := rw j.st.p 6
  ([0x11 + rTag j.st.p * 2 ^ 16, b / 64, ceilDiv (8 * g.pages.length) 64, (b + 0x8400) / 64, 129 * ceilDiv (gh * (2 + d)) 2048,
    gh, d, b / 64, g.pages.length, (b + 0x8000) / 64, g.rows.length, rw j.st.p 11, 4096 * slot] ++ List.replicate 3 0).map
    (BitVec.ofNat 32)

/-- Changes a decode invocation. -/
def modDecode (s : State) (n k : Nat) (f : Decode → Decode) : State :=
  { s with decodes := s.decodes.map (fun d => if d.part.val = n ∧ d.station = k then f d else d) }

/-- Changes the piece of a decode invocation. -/
def modPiece (s : State) (n k row head u : Nat) (f : Piece → Piece) : State :=
  modDecode s n k (fun d => { d with pieces := d.pieces.map (fun p =>
    if p.row = row ∧ p.head = head ∧ p.nbu = u then f p else p) })

/-- Issues a piece of a decode invocation when a slot of its NBU is free: lists, query vectors, operation (R253).
DEDUCED (log 89). -/
def tryPiece (s : State) (n k : Nat) (dec : Decode) (p : Piece) : State :=
  match decodeJob s n k, freeSlot s p.nbu, streamsOf s n k false with
  | some j, some slot, x :: _ =>
    match mapRow j.map (64 * dec.number + p.row) with
    | none => s
    | some q =>
      let g := ((findTokens s j.table q (j.partner.par 2) (j.partner.par 4 + p.head)).1.find? (fun g => g.nbu == p.nbu)).getD { nbu := p.nbu }
      let tiles := (groupTiles (tilesOf x dec.tiles)).1
      let b := slotArea s slot
      let s := pokeStack s (localAddr p.nbu b)
        (g.pages.flatMap (fun e => leBytes (e.1 / 64 + e.2 * 2 ^ 22) 8))
      let s := putList4 s p.nbu (b + 0x8000) (g.rows.map (fun o => (o / 64, false)))
      let s := modNbu s p.nbu (fun y => putVec y (4096 * slot) (queryBytes j tiles p.row p.head))
      let s := modKv s (p.nbu / 256) (fun c => { c with decode := c.decode + 1 })
      let s := modPiece s n k p.row p.head p.nbu (fun p => { p with issued := true })
      acceptOp s p.nbu { words := attnWords s j g slot, source := .station (partFin n) k dec.number, slot,
                         vscale := (tiles.getD 0 ⟨0, 0, 0, [], []⟩).tensorScale, piece := some (p.row, p.head) }
  | _, _, _ => s

/-- The neutral partial (R254). -/
def neutralPartial (d : Nat) : List Acc := ⟨f32inf true, false⟩ :: List.replicate (1 + d) {}

/-- The partials of query head h of a row (R255): those of the operations in ascending NBU, then neutral ones; poisoned where the row and
head is. -/
def headPartials (j : DecodeJob) (dec : Decode) (row h : Nat) : List Acc :=
  let d := rw j.st.p 6
  let g := rw j.st.p 5
  let ps := (dec.pieces.filter (fun p => p.row == row && p.head == h / g)).map (fun p => (p.vals.drop (h % g * (2 + d))).take (2 + d))
  let l := (ps ++ List.replicate (j.spread - ps.length) (neutralPartial d)).flatten
  if dec.bad.contains (row, h / g) then l.map (fun a => { a with p := true }) else l

/-- The words of carrier tiles over a list of values, the last filled up with zero (R152, R255). -/
def carrierWords (vals : List Acc) : List (W64 × Bool) :=
  (upFrom 0 (ceilDiv vals.length 2048)).flatMap (fun k =>
    (upFrom 0 1024).map (fun i =>
      let a := vals.getD (2048 * k + 2 * i) {}
      let b := vals.getD (2048 * k + 2 * i + 1) {}
      (join32 a.v b.v, a.p || b.p)) ++ bytesWords 8 (trailerBytes 6 0 0 0 64 64 0x3F800000))

/-- Delivers the partials of a decode invocation whose operations have all reached their completion points. -/
def deliverDecode (s : State) (n k : Nat) : State :=
  match s.decodes.find? (fun d => d.part.val == n && d.station == k), decodeJob s n k, (partAt s n).image with
  | some dec, some j, some img =>
    if dec.pieces.all (fun p => p.done) && runLive s n then
      let vals := (upFrom 0 dec.rows).flatMap (fun r => (upFrom 0 j.heads).flatMap (headPartials j dec r))
      let s := { s with decodes := s.decodes.filter (fun d => !(d.part.val == n && d.station == k)) }
      let s := modInvoke s n k (fun v => { v with running := false, number := v.number + 1 })
      deliverOut s n k img (carrierWords vals)
    else s
  | _, _, _ => s

/-- The pieces of a (row, head), or the kind of record for one that is delivered as poison (R255), as is one whose table words are
poisoned (R268). DEDUCED (log 89). -/
def planPieces (s : State) (j : DecodeJob) (q row head : Nat) : List Piece × Option Nat :=
  let f := findTokens s j.table q (j.partner.par 2) (j.partner.par 4 + head)
  if (tokenTables s j.table q (j.partner.par 2) (j.partner.par 4 + head)).any (fun x => peekBad s x.1 x.2) then
    ([], some kPoisonConsumed)
  else if f.2 then ([], some kPageLost)
  else if f.1.any (fun g => !(decide (j.st.b0 ≤ g.nbu) && decide (g.nbu < j.st.b0 + j.st.b1))) then ([], some kPageUnreachable)
  else if j.spread < f.1.length then ([], some kKvSpread)
  else (f.1.map (fun g => { row, head, nbu := g.nbu }), none)

/-- Begins a decode invocation over its query tiles. DEDUCED (log 89). -/
def beginDecode (s : State) (n k : Nat) (j : DecodeJob) (x : Stream) (number : Nat) (words : List (W64 × Bool)) : State :=
  let g := groupTiles (tilesOf x words)
  let s := if g.2 then raise s { kind := kTrailer, unit := uPart, id := n, part := some n, station := some k, status := sPoison,
                                 detail := streamOf s n k .activation } else s
  let rows := min 64 (g.1.getD 0 ⟨x.fmt, 0, 0, [], []⟩).validRows
  let keys := (upFrom 0 rows).flatMap (fun r => (upFrom 0 (j.partner.par 5)).map (fun h => (r, h)))
  let plans := keys.filterMap (fun y => (mapRow j.map (64 * number + y.1)).map (fun q => (y, planPieces s j q y.1 y.2)))
  let s := keys.foldl (fun s y => match mapRow j.map (64 * number + y.1) with
    | some q => (tokenTables s j.table q (j.partner.par 2) (j.partner.par 4 + y.2)).foldl (fun s x => readTable s x.1 x.2) s
    | none => s) s
  let s := plans.foldl (fun s y => match y.2.2 with
    | some kd => if kd = kPoisonConsumed then consumePoison s n (some k) else raise s { kind := kd, unit := uPart, id := n, part := some n, station := some k }
    | none => s) s
  let dec : Decode := { part := partFin n, station := k, number, rows, tiles := words, pieces := plans.flatMap (fun y => y.2.1),
                        bad := (plans.filter (fun y => y.2.2.isSome)).map (fun y => y.1) }
  let s := { modInvoke s n k (fun v => { v with running := true, words := [], due := none }) with decodes := s.decodes ++ [dec] }
  deliverDecode (dec.pieces.foldl (fun s p => tryPiece s n k dec p) s) n k

/-- As the first query tile of an invocation comes: the row groups of the partner any of whose tiles have reached the hamper are those whose
appends are completed before its lists are built (R253). DEDUCED (log 89). -/
def noteDue (s : State) (n k partner : Nat) : State :=
  let s := appendAllRows s n partner 65536
  match appendOf s n partner with
  | some a => modInvoke s n k (fun v => { v with due := some (if a.words.isEmpty then a.group else a.group + 1) })
  | none => s

/-- DECODE_INVOCATION (R253): the query tiles are collected; every append whose tiles have come is completed first; then the lists are
built and the operations issued. -/
def execDecodeInvocation (part : PartId) (station : Nat) (tiles : List (W64 × Bool)) (s : State) :
    Host.Outcome State Fault Refusal :=
  whenAon s fun s =>
    let n := part.val
    match decodeJob s n station, (partAt s n).image, invokeOf s n station, streamsOf s n station false with
    | some j, some img, some v, x :: _ =>
      if rOp j.st.p ≠ 0x11 ∨ v.running = true ∨ invocationsOf img station ≤ v.number ∨ outputWaits s n station = true ∨
          !(runLive s n) ∨ !(hemWorks s) then s
      else
        let need := inTiles (stationProg img station) * (kcSize x.fmt x.kc / 8)
        let r := takeTiles s n station (need - v.words.length) tiles
        let words := v.words ++ r.1
        let s := modInvoke r.2 n station (fun v => { v with words })
        let s := if v.words.isEmpty && !words.isEmpty then noteDue s n station j.partnerId else s
        if words.length < need then s
        else
          let s := appendAllRows s n j.partnerId 65536
          match appendOf s n j.partnerId, invokeOf s n station with
          | some a, some w =>
            if decide (a.group < w.due.getD 0) || !(runLive s n) then s else beginDecode s n station j x v.number words
          | _, _ => s
    | _, _, _, _ => s

/-! Acceptance and completion points (R215, R227) -/

/-- The waiting page of an NBU that can be committed. DEDUCED (log 88). -/
def acceptCommit (s : State) (u : Nat) : Option State :=
  (s.commits.find? (fun c => commitNbu s c == u)).bind (fun c =>
    tryCommit { s with commits := s.commits.filter (fun d => d != c) } c)

/-- The first piece of a decode invocation that waits for a slot of an NBU. -/
def waitingPiece (s : State) (u : Nat) : Option (Decode × Piece) :=
  s.decodes.findSome? (fun d =>
    if runLive s d.part.val then (d.pieces.find? (fun p => p.nbu == u && !p.issued)).map (fun p => (d, p)) else none)

/-- NBU_OP_ACCEPT: a waiting operation is written into a free slot: a commit, then a decode operation, then a station's record.
DEDUCED (log 84). -/
def execNbuOpAccept (nbu : NbuId) (s : State) : Host.Outcome State Fault Refusal :=
  whenAon s fun s =>
    let u := nbu.val
    if !(hemWorks s) then s
    else match acceptCommit s u with
    | some t => settleJobs t
    | none => match waitingPiece s u with
      | some (d, p) => tryPiece s d.part.val d.station d p
      | none => acceptStation s u

/-- The output of a decode operation at its completion point (R255). DEDUCED (log 89). -/
def takePiece (s : State) (u n k : Nat) (o : Op) (row head : Nat) : State :=
  let r := readCarriers s u (64 * rw o.words 3) (rw o.words 5 * (2 + rw o.words 6))
  deliverDecode (modPiece r.2 n k row head u (fun p => { p with done := true, vals := r.1 })) n k

/-- The completion point of the operation at the head of an NBU. -/
def completeOp (s : State) (u : Nat) (o : Op) (status : Byte) : State :=
  let s := removeOp s u 0 status false
  match o.source with
  | .desc ref _ _ => complete s ref status (if status = eRange then rejDetail 6 7 0 else 0) 0 []
  | .log _ _ => commitEnds s u o status
  | .station n k _ =>
    let s := if status = eRange then stopRun s n.val { status := sAborted, cause := 5, carried := eRange.toNat, item := k } else s
    match o.piece with
    | some (row, head) => takePiece s u n.val k o row head
    | none => s

/-- NBU_OP_COMPLETION (R227): the Hem queues the completion record of an operation that the event summary shows finished. -/
def execNbuOpCompletion (nbu : NbuId) (s : State) : Host.Outcome State Fault Refusal :=
  whenAon s fun s =>
    match (nbuAt s nbu.val).ops with
    | o :: _ =>
      (match o.finished with
       | some st => completeOp s nbu.val o st
       | none => s)
    | [] => s

/-! KV descriptors (R248) -/

/-- Whether a RUNNING partition binds a block table region. -/
def regionBound (s : State) (a : Nat) : Bool :=
  allParts.any (fun n => match (partAt s n).run, (partAt s n).image with
    | some r, some img => img.stations.any (fun st => st.kind == 11 &&
        meets ((slotIn r.slots (st.par 0)).a.toNat, (slotIn r.slots (st.par 0)).b.toNat) (a, 64))
    | _, _ => false)

/-- The checks that KV_COMMIT and KV_RELEASE share, then k over the block table and the sequences. DEDUCED (log 32, 88). -/
def withSequences (s : State) (ref : DescRef) (d : Desc) (k : State → BlockTable → List Nat → State) : State :=
  let a := (arg d 0).toNat
  let n := bits (arg d 2) 16 0
  if n = 0 ∨ 65536 < n then reject s ref eRange 7 0
  else if (arg d 1).toNat % 8 ≠ 0 then reject s ref eAlign 7 0
  else match stackBad s a 64 64 with
  | some st => reject s ref st 7 0
  | none =>
    if !(inReach s (descPart d) a 64) then reject s ref ePartition 7 0
    else if regionBound s a then reject s ref eState 7 0
    else withRead s ref (arg d 1) (4 * n) fun s list =>
      withTables s ref (descPart d) [(a, 64)] fun s =>
      if !(headerOk a (stackEnd s a - a) (peekStack s a 64)) then reject s ref eRange 7 0
      else
        let t := tableAt s a
        let ids := listWords list n
        match ids.find? (fun q => decide (t.nSeq ≤ q)) with
        | some q => reject s ref eRange 7 q
        | none => k s t ids

/-- The (sequence, layer, head) of a list of sequences. -/
def keysOf (t : BlockTable) (ids : List Nat) : List (Nat × Nat × Nat) :=
  ids.flatMap (fun q => (upFrom 0 t.layers).flatMap (fun l => (upFrom 0 t.heads).map (fun h => (q, l, h))))

/-- KV_COMMIT: the open pages of the named sequences are committed; it completes when the last of them is. DEDUCED (log 88). -/
def execKvCommit (port : NPort) (ring : RingId) (s : State) : Host.Outcome State Fault Refusal :=
  whenAon s fun s => withDescriptor s port ring 0x20 fun s ref d =>
    withSequences s ref d fun s t ids =>
      let s := { acceptDesc s ref with kvJobs := s.kvJobs ++ [{ desc := ref }] }
      settleJobs ((keysOf t ids).foldl (fun s k =>
        if (tailAt s (t.tail k.1 k.2.1 k.2.2)).inPage = 0 then s
        else commitPage s ⟨BitVec.ofNat 64 t.base, k.1, k.2.1, k.2.2, partFin (descPart d), 0xFFFF, some ref, none⟩) s)

/-- KV_RELEASE: the tail records of the named sequences become zero, so that their pending rows are dead; the tails advance.
DEDUCED (log 88). -/
def execKvRelease (port : NPort) (ring : RingId) (s : State) : Host.Outcome State Fault Refusal :=
  whenAon s fun s => withDescriptor s port ring 0x21 fun s ref d =>
    withSequences s ref d fun s t ids =>
      let s := (keysOf t ids).foldl (fun s k => zeroStack s (t.tail k.1 k.2.1 k.2.2) 136) s
      let s := { s with commits := s.commits.filter (fun c => !(c.table == BitVec.ofNat 64 t.base && ids.contains c.seq)) }
      let s := s.nbus.foldl (fun s x => checkLog s x.1 (partFin (descPart d)) 0xFFFF none) s
      completeOk (settleJobs s) ref 0

end Sys2Proof.Machine
end

