-- ==== Sys2Proof/Machine/Scrub.lean ====
section
/-! DEFINITION. Memory integrity at work: the patrol scrub (R276–R278), post-package repair (R279, R280), checker tests (R281, R473),
the flip-mask (R283) and the split write (R284). -/

namespace Sys2Proof.Machine

/-! The patrol (R276, R277) -/

/-- The word that the patrol of a class reads at place `pos` of its pass. DEDUCED (log 125). -/
def scrubPlace (s : State) (c : ScrubClass) (pos : Nat) : Option (MemId × Nat) :=
  match c with
  | .slice => ((scrubCores s)[pos / 262144]?).map (fun k => (.slice k, pos % 262144))
  | .basket => ((scrubCores s)[pos / 32768]?).map (fun k => (.basket k, pos % 32768))
  | .hamper => some (.hamper, pos)
  | .stack => ((liveSites s)[pos / siteWords]?).map (fun n =>
      (.stack, (n * 256 + pos % siteWords / groupWordCount) * 2 ^ 26 + pos % groupWordCount))

/-- The state of a class's patrol. -/
def scrubAt (s : State) (c : ScrubClass) : Scrub := tget {} s.scrub (scrubNo c)
/-- Changes it. -/
def modScrub (s : State) (c : ScrubClass) (f : Scrub → Scrub) : State := { s with scrub := tmod {} s.scrub (scrubNo c) f }

/-- The patrol after its next word: a finished pass begins anew at its time, or now where it was behind. DEDUCED (log 125). -/
def scrubNext (s : State) (c : ScrubClass) (x : Scrub) : Scrub :=
  if x.pos + 1 < scrubTotal s c then { x with pos := x.pos + 1 }
  else { pos := 0, begun := if x.behind then s.time else x.begun + BitVec.ofNat 64 (scrubPeriod s c), behind := false }

/-- Whether a word lies in the output range of an operation (R223). -/
def outputBusy (s : State) (id : MemId) (w : Nat) : Bool :=
  id == .stack && busyLinear s (8 * w / 2 ^ 29) (8 * w % 2 ^ 29) 8 true

/-- PATROL_SCRUB_READ: the next word of a class, when the pace has come to it. A read of a busy output range is held.
DEDUCED (log 125). -/
def execPatrolScrubRead (cls : ScrubClass) (s : State) : Host.Outcome State Fault Refusal :=
  whenAon s fun s =>
    let x := scrubAt s cls
    let p := scrubPeriod s cls
    if p = 0 ∨ portsServe s = false ∨ since s x.begun * scrubTotal s cls < x.pos * p then s
    else match scrubPlace s cls x.pos with
      | none => s
      | some (id, w) =>
        if outputBusy s id w then s
        else modScrub (readWord s id w).2 cls (scrubNext s cls)

/-- SCRUB_BEHIND: a pass has not finished within its period. -/
def execScrubBehind (cls : ScrubClass) (s : State) : Host.Outcome State Fault Refusal :=
  whenAon s fun s =>
    let x := scrubAt s cls
    let p := scrubPeriod s cls
    if p = 0 ∨ since s x.begun < p ∨ x.behind = true then s
    else raise (modScrub s cls (fun x => { x with behind := true })) { kind := kScrubBehind, detail := scrubNo cls }

/-! SCRUB_RANGE (R278) -/

/-- The words of a stack range through their decoders: how many are corrected, uncorrectable, poisoned. -/
def scrubWords (s : State) (a : Nat) : Nat → Nat × Nat × Nat → (Nat × Nat × Nat) × State
  | 0, c => (c, s)
  | n + 1, c =>
    let w := stackWord s a
    let x := rawWord s.stack w
    let c := if (stkAt s (eccKey s .stack w - 5000)).dead then (c.1, c.2.1 + 1, c.2.2)
      else match classify (syndrome x.1 x.2) with
      | .clean => c
      | .corrected _ => (c.1 + 1, c.2)
      | .uncorrectable => (c.1, c.2.1 + 1, c.2.2)
      | .poison => (c.1, c.2.1, c.2.2 + 1)
    scrubWords (readWord s .stack w).2 (a + 8) n c

/-- SCRUB_RANGE: the range of R207; held while it meets a busy output range (R223). DEDUCED (log 30). -/
def execScrubRange (port : NPort) (ring : RingId) (s : State) : Host.Outcome State Fault Refusal :=
  whenAon s fun s => withDescriptor s port ring 0x28 fun s ref d =>
    let a := (arg d 0).toNat
    let n := bits (arg d 1) 31 0
    match stackBad s a n 64 with
    | some st => reject s ref st 7 0
    | none =>
      if busyStack s a true (n / 64) then s
      else
        let r := scrubWords s a (n / 8) (0, 0, 0)
        complete r.2 ref ok (BitVec.ofNat 64 (min r.1.1 0xFFFFFF + min r.1.2.1 0xFFFFFF * 2 ^ 24 + min r.1.2.2 0xFFFF * 2 ^ 48)) 0 []

/-! Repair (R280) -/

/-- PPR: a row to be repaired; it waits for its bank group. DEDUCED (log 30, 126). -/
def execPpr (port : NPort) (ring : RingId) (s : State) : Host.Outcome State Fault Refusal :=
  whenAon s fun s => withDescriptor s port ring 0x29 fun s ref d =>
    let x := arg d 0
    let hard := bitAt x 32
    if !((liveSites s).contains (bits x 3 0)) || decide (20480 ≤ bits x 30 16) then reject s ref eRange 7 0
    else if hard ∧ allParts.any (isRunning s) = true then reject s ref eState 7 0
    else acceptDesc { s with repairs := s.repairs ++ [⟨ref, bits x 3 0 * 256 + bits x 11 4, bits x 15 12, bits x 30 16, hard⟩] } ref

/-- The first word of a repair's row. -/
def Repair.word (r : Repair) : Nat := (r.nbu * 2 ^ 29 + r.row * 2 ^ 14 + r.bank * 2 ^ 10) / 8
/-- The row as a log address names it (R273). -/
def Repair.logRow (r : Repair) : Nat := r.row + r.bank * 2 ^ 15 + r.nbu % 256 * 2 ^ 19 + r.nbu / 256 * 2 ^ 27
/-- The id of the row in the defect list (R450). -/
def Repair.id (r : Repair) : Nat := r.nbu / 256 + r.nbu % 256 * 2 ^ 4 + r.bank * 2 ^ 12 + r.row * 2 ^ 16

/-- The row read with correction and written back with the class of each word kept; its log entries go.
DESIGN CHOICE (log 85); DEDUCED (log 126). -/
def applyRepair (s : State) (r : Repair) : State :=
  let x := readWords s .stack r.word 128
  let s := writeWords x.2 .stack r.word x.1
  let s := modEcc s (5000 + r.nbu / 256) (fun i => { i with log := i.log.filter (fun e => e.addr.toNat / 1024 != r.logRow) })
  if r.hard then s else addDefect s kRepairCandidate uRow r.id 2

/-- PPR_APPLY: the bank group has no accepted operation; its oldest repair is applied, or fails for want of a spare row.
DEDUCED (log 126). -/
def execPprApply (site : SiteId) (bg : Fin 256) (spareLeft : Bool) (s : State) : Host.Outcome State Fault Refusal :=
  whenAon s fun s =>
    let u := site.val * 256 + bg.val
    match s.repairs.find? (fun r => r.nbu == u) with
    | none => s
    | some r =>
      if !(nbuAt s u).ops.isEmpty || !(portsServe s) then s
      else
        let t := { s with repairs := s.repairs.filter (fun y => y.desc != r.desc) }
        if spareLeft then completeOk (applyRepair t r) r.desc 0 else complete t r.desc eNoResource 0 0 []

/-! Checker tests (R281, R473) -/

/-- The unit a checker fault is reported under: kind, id, detail. -/
def decoderUnit (s : State) : Decoder → Nat × Nat × Nat
  | .slice p => (uPhys, p.val, 0)
  | .basket p => (uPhys, p.val, 0)
  | .channel p => (uPhys, p.val, 0)
  | .seamRing k => (uRing, k.val, 0)
  | .hamperBank b => (uHamper, b.val, 0)
  | .stackPort n => (uDecoder, 2 * n.val + one (stkAt s n.val).secondDecoder, 0)
  | .stitchLink c d => (uCore, c.val, d.val)
  | .hemDrop c d => (uCluster, c.val, d.val)
  | .tackLink c d => (uCluster, c.val, d.val)
  | .tackSeam => (uDevice, 0, 0)
  | .accumulator p => (uPhys, p.val, 0)
  | .vectorBuffer p => (uPhys, p.val, 0)
  | .mangle e => (uDevice, 0, e.val)
  | .myarnReceive p => (uMyarn, p.val, 0)
  | .nbu u => (uNbu, u.val, 0)

/-- Words of a carrier are poison from now on. DEDUCED (log 127). -/
def poisonCarrier (s : State) (c k : Nat) : State :=
  if s.mesh.poisoned.contains (c, k) then s else { s with mesh := { s.mesh with poisoned := s.mesh.poisoned ++ [(c, k)] } }

/-- The Tack seam channel's flit lanes fail (R201). DEDUCED (log 127). -/
def failTackSeam (s : State) : State :=
  if tackMode s ∨ s.mesh.channelFailed then s
  else raise { s with mesh := { s.mesh with channelFailed := true } } { kind := kTackSeam, unit := uDevice }

/-- A Myarn receive stops: its port goes down, and the writes by it end with S_POISON (R473). DEDUCED (log 127). -/
def stopMyarn (s : State) (p : MPort) : State :=
  let s := s.xfers.foldl (fun t x => match x.2 with
    | some y => (match y.kind with
      | .myaWrite _ r => if routePort (routeOf r) = p then endXfer t x.1 { status := sPoison } else t
      | _ => t)
    | none => t) s
  myaDown s p

/-- What the loss of a decoder leads to; `second` says that its other tree has failed before (R281, R473). DEDUCED (log 95, 127). -/
def loseDecoder (s : State) (d : Decoder) (second : Bool) : State :=
  match d with
  | .slice p => spareCore s kCheckerFault p.val
  | .basket p => spareCore s kCheckerFault p.val
  | .channel p => spareCore s kCheckerFault p.val
  | .seamRing k =>
    if k.val = 8 then
      let s := addDefect { s with units := { s.units with ring8Gone := true } } kCheckerFault uRing 8 2
      match s.units.ring8 with
      | some j => failRing s j
      | none => s
    else if s.units.ring8 = some k.val then s
    else if spareRing s then replaceRing s k.val else failRing s k.val
  | .hamperBank b =>
    if s.units.hamperOut.contains b.val ∨ s.units.hamperNext.contains b.val then s
    else addDefect { s with units := { s.units with hamperNext := s.units.hamperNext ++ [b.val] } } kCheckerFault uHamper b.val 2
  | .stackPort n =>
    let k := stkAt s n.val
    let s := addDefect s kCheckerFault uDecoder (2 * n.val + one k.secondDecoder) 2
    let other := s.boot.list.any (fun e => e.unit == 9 && e.id == BitVec.ofNat 32 (2 * n.val + 1))
    modStk s n.val (fun k => { k with secondDecoder := true, dead := k.secondDecoder || other })
  | .stitchLink c d => if second then poisonCarrier s 0 (c.val * 8 + d.val) else s
  | .hemDrop c d => if second then poisonCarrier s 1 (c.val * 8 + d.val) else s
  | .tackLink c d => if second then poisonCarrier s 3 (c.val * 8 + d.val) else s
  | .tackSeam => if second then failTackSeam s else s
  | .accumulator p => if second then spareCore s kCheckerFault p.val else s
  | .vectorBuffer p => if second then spareCore s kCheckerFault p.val else s
  | .mangle e =>
    if second then
      poisonCarrier (s.xfers.foldl (fun t x => if x.1 % 64 = e.val then endXfer t x.1 { status := sPoison } else t) s) 4 e.val
    else s
  | .myarnReceive p => if second then poisonCarrier (stopMyarn s p) 5 p.val else s
  | .nbu u => if second then fenceNbu s kCheckerFault u.val else s

/-- A checker fault: the record, the failed tree, its consequence. DEDUCED (log 127). -/
def checkerFault (s : State) (d : Decoder) : State :=
  let u := decoderUnit s d
  let second := s.mesh.trees.contains d
  let s := raise s { kind := kCheckerFault, unit := u.1, id := u.2.1, detail := u.2.2 }
  let s := if second then s else { s with mesh := { s.mesh with trees := s.mesh.trees ++ [d] } }
  loseDecoder s d second

/-- CHECKER_TEST: at every second frame boundary the trees exchange roles and the idle ones are tested; `wrong` names the decoders
whose tree classified wrongly. -/
def execCheckerTest (wrong : List Decoder) (s : State) : Host.Outcome State Fault Refusal :=
  whenAon s fun s =>
    if (s.frames - s.mesh.lastTest).toNat < 2 then s
    else
      let s := { s with mesh := { s.mesh with role := !s.mesh.role, bitPos := (s.mesh.bitPos + 1) % 72, lastTest := s.frames } }
      wrong.foldl checkerFault s

/-! The flip-mask (R283) -/

/-- The bytes of the flip-mask's memory. -/
def flipSize (t : W32) : Nat := match bits t 1 0 with | 0 => 0x200000 | 1 => 0x40000 | _ => 0x4000000

/-- Whether the flip-mask may be armed: hamper that is free or in a buffer of a test-mode partition; a slice or basket in no
partition, or in one that is in test mode. -/
def flipPermitted (s : State) : Bool :=
  if bits s.ecct.target 1 0 = 2 then
    (hamperFree s).contains (bits s.ecct.addr 25 0 / 4096) || allParts.any (fun n => flipIn s n && testMode s n)
  else allParts.all (fun n => !(flipIn s n) || testMode s n)

/-- Arms the flip-mask. -/
def armFlip (s : State) : Byte × State :=
  let e := s.ecct
  if flipSize e.target ≤ bits e.addr 25 0 then (eRange, s)
  else if e.maskLo = 0 ∧ e.maskHi = 0 ∧ e.maskChk = 0 then (eRange, s)
  else if !(flipPermitted s) then (ePartition, s)
  else (ok, { s with ecct := { e with armed := true } })

/-! The split write (R284) -/

/-- The stack address of the split registers. -/
def splitAddr (s : State) : Nat := s.ecct.splitLo.toNat + bits s.ecct.splitHi 7 0 * 2 ^ 32

/-- Whether the word may be reached: some test-mode partition may write it, and no other partition is running. DEDUCED (log 128). -/
def splitPermitted (s : State) (a : Nat) : Bool :=
  allParts.any (fun n => isSetUp s n && testMode s n && inReach s n a 8) && allParts.all (fun n => testMode s n || !(isRunning s n))

/-- Whether the word lies in a table, a parameter copy or a KV region. DEDUCED (log 128). -/
def splitKept (s : State) (a : Nat) : Bool :=
  let w := (a, 8)
  inKvRegion s a 8 || meets w (pbTable s) ||
  (validPbs s).any (fun id => let e := pbAt s id; meets w (e.copy0, e.copyLen) || meets w (e.copy1, e.copyLen)) ||
  allParts.any (fun n => match (partAt s n).run, (partAt s n).image with
    | some r, some img => img.stations.any (fun st => st.kind == 11 &&
        meets ((slotIn r.slots (st.par 0)).a.toNat, (slotIn r.slots (st.par 0)).b.toNat) w)
    | _, _ => false)

/-- Starts a split operation. DEDUCED (log 128). -/
def splitGo (s : State) (read : Bool) : Byte × State :=
  let a := splitAddr s
  if !(stackLegal s a) then (eRange, s)
  else if !(splitPermitted s a) then (ePartition, s)
  else if splitKept s a then (eState, s)
  else if busyStack s (a / 64 * 64) false 1 then (eBusyRange, s)
  else
    let w := stackWord s a
    if read then
      let x := rawWord s.stack w
      (ok, { s with ecct := { s.ecct with dataLo := lo32 x.1, dataHi := hi32 x.1, check := BitVec.ofNat 32 x.2.toNat } })
    else (ok, setMem s .stack (putWord s.stack w (join32 s.ecct.dataLo s.ecct.dataHi) (BitVec.ofNat 8 (bits s.ecct.check 7 0))))

/-! Writes of the ECCT block -/

/-- The reserved bits of an ECCT register; none where the block has no register. -/
def ecctReserved (off : Nat) : Option W32 :=
  match off with
  | 0x900000 => some 0xFFFF000C
  | 0x900008 => some 0xFC000000
  | 0x900010 => some 0
  | 0x900014 => some 0
  | 0x900018 => some 0xFFFFFF00
  | 0x90001C => some 0xFFFFFFF8
  | 0x900100 => some 0
  | 0x900104 => some 0xFFFFFF00
  | 0x900108 => some 0
  | 0x90010C => some 0
  | 0x900110 => some 0xFFFFFF00
  | 0x900114 => some 0xFFFFFFFC
  | _ => none

/-- A field of an ECCT register out of its range or alignment; a physical core of the variant's clusters alone is in range (R5). -/
def ecctBad (t : Variant) (off : Nat) (v : W32) : Option Byte :=
  match off with
  | 0x900000 =>
    let there := decide (bits v 15 4 < 1152) && clusterOn t (physCluster (bits v 15 4))
    if bits v 1 0 = 3 ∨ (bits v 1 0 < 2 ∧ there = false) then some eRange else none
  | 0x900008 => if bits v 2 0 = 0 then none else some eAlign
  | 0x900100 => if bits v 2 0 = 0 then none else some eAlign
  | _ => none

/-- A write that passes its checks, and is not turned away as armed. DEDUCED (log 22). -/
def ecctTake (s : State) (off : Nat) (v : W32) : Byte × State :=
  let put := fun (f : Ecct → Ecct) => (ok, { s with ecct := f s.ecct })
  match off with
  | 0x900000 => put (fun e => { e with target := v })
  | 0x900008 => put (fun e => { e with addr := v })
  | 0x900010 => put (fun e => { e with maskLo := v })
  | 0x900014 => put (fun e => { e with maskHi := v })
  | 0x900018 => put (fun e => { e with maskChk := v })
  | 0x90001C =>
    let r := if bitAt v 0 then armFlip s else (ok, s)
    if r.1 = ok ∧ bitAt v 2 = true then (ok, { r.2 with ecct := { r.2.ecct with done := false } }) else r
  | 0x900100 => put (fun e => { e with splitLo := v })
  | 0x900104 => put (fun e => { e with splitHi := v })
  | 0x900108 => put (fun e => { e with dataLo := v })
  | 0x90010C => put (fun e => { e with dataHi := v })
  | 0x900110 => put (fun e => { e with check := v })
  | _ =>
    let r := if bitAt v 0 then splitGo s (bitAt v 1) else (ok, s)
    if r.1 = ok then (ok, { r.2 with ecct := { r.2.ecct with op := bitAt v 1 } }) else r

/-- A write of the ECCT block by a port (R283, R284, R513, R516). -/
def ecctWrite (s : State) (p : NPort) (off : Nat) (v : W32) : Byte × State :=
  match ecctReserved off with
  | none => (eRange, s)
  | some rsv =>
    if !(holdsSem s p) then (eOwner, s)
    else if v &&& rsv ≠ 0 then (eReserved, s)
    else match ecctBad s.variant off v with
      | some st => (st, s)
      | none => if s.ecct.armed ∧ off < 0x900100 then (eState, s) else ecctTake s off v

/-- FLIP_ARM: a write of ECCT_FLIP_ARM. -/
def execFlipArm (a : Access) (v : W32) (s : State) : Host.Outcome State Fault Refusal :=
  whenAon s fun s => setupWrite s a 0x90001C (fun s => ecctWrite s a.port 0x90001C v)

/-- FLIP_DONE_CLEAR: a write of ECCT_FLIP_ARM. -/
def execFlipDoneClear (a : Access) (v : W32) (s : State) : Host.Outcome State Fault Refusal :=
  whenAon s fun s => setupWrite s a 0x90001C (fun s => ecctWrite s a.port 0x90001C v)

/-- SPLIT_RAW_WRITE: a write of ECCT_SPLIT_GO. -/
def execSplitRawWrite (a : Access) (v : W32) (s : State) : Host.Outcome State Fault Refusal :=
  whenAon s fun s => setupWrite s a 0x900114 (fun s => ecctWrite s a.port 0x900114 v)

/-- SPLIT_RAW_READ: a write of ECCT_SPLIT_GO. -/
def execSplitRawRead (a : Access) (v : W32) (s : State) : Host.Outcome State Fault Refusal :=
  whenAon s fun s => setupWrite s a 0x900114 (fun s => ecctWrite s a.port 0x900114 v)

end Sys2Proof.Machine
end

