-- ==== Sys2Proof/Machine/Regmap.lean ====
section
/-! DEFINITION. The set-up register map (R511–R524): what every offset reads as, the high-word latch (R298), writes of the registers that
are not staged (R513, R514, R516), SRD and SWR (R297), and the management port (R533). -/

namespace Sys2Proof.Machine

/-! Masks of units -/

/-- The bits of a list of unit numbers. -/
def unitBits (l : List Nat) : Nat := l.foldl (fun a k => a ||| 2 ^ k) 0
/-- A field of four bits for each of eight units from k on. DEDUCED (log 24). -/
def nibbles (k : Nat) (f : Nat → Nat) : W32 := BitVec.ofNat 32 ((upFrom 0 8).foldl (fun a j => a + f (k + j) % 16 * 16 ^ j) 0)

/-! IDENT (R518, R519) -/

/-- The logical cores in use. DESIGN CHOICE (log 16). -/
def coresInUse (s : State) : Nat := 32 * ((enabledClusters s).filter (fun c => !s.units.fenced.contains c)).length
/-- The NBUs in use. DESIGN CHOICE (log 16). -/
def nbusInUse (s : State) : Nat :=
  ((upFrom 0 1024).filter (fun u => nbuOn s.variant u && (stkAt s (u / 256)).trained && !(nbuAt s u).fenced)).length
/-- The arithmetic clock, in MHz (R416). DESIGN CHOICE (log 16). -/
def coreMhz (s : State) : Nat := if s.therm.bin then 1450 else 1500
/-- The NBU clock, in MHz. DESIGN CHOICE (log 16). -/
abbrev nbuMhz : Nat := 1000
/-- The sites trained at this start. DESIGN CHOICE (log 16). -/
def sitesUp (s : State) : Nat := (liveSites s).length

/-- The IDENT registers of 4 bytes. Counts and clocks are written during start-up, the figures from its step 3 on.
DESIGN CHOICE (log 16). -/
def identWord (s : State) (o : Nat) : Nat :=
  let up := released s
  let on := s.boot.phase != 0
  match o with
  | 0x00 => variantCode s.variant + 256
  | 0x04 => 2
  | 0x08 => unitBits (enabledClusters s)
  | 0x0C => unitBits s.units.fenced
  | 0x10 => unitBits (sitesOf s.variant) + unitBits (pyrrelOf s.variant) * 2 ^ 8 + (2 ^ myarnPorts s.variant - 1) * 2 ^ 12 + 3 * 2 ^ 20
  | 0x14 => unitBits (liveSites s)
  | 0x18 => if up then coresInUse s + nbusInUse s * 2 ^ 11 else 0
  | 0x1C => if up then coreMhz s + nbuMhz * 2 ^ 12 else 0
  | 0x20 => capCeiling s.variant
  | 0x24 => if on then coresInUse s * 12288 * coreMhz s / 1000 else 0
  | 0x28 => if on then coresInUse s * 4096 * coreMhz s / 1000 else 0
  | 0x2C => if on then nbusInUse s * 512 * nbuMhz / 1000 else 0
  | 0x30 => if on then 80 * sitesUp s + 2560 * sitesUp s * 2 ^ 16 else 0
  | 0x40 => s.moduleId.toNat
  | _ => 0

/-! Links, rings -/

/-- A Nalson port. -/
def nalPort (n : Nat) : NPort := ⟨n % 2, Nat.mod_lt _ (by decide)⟩

/-- NALn registers of 4 bytes (R309). DEDUCED (log 20). -/
def nalWord (s : State) (n : NPort) (o : Nat) : Nat :=
  let x := nalAt s n
  let up := nalUp s n
  match o with
  | 0x0 => x.lk.peerLevels.toNat * 2 ^ 16 + (if up then x.lk.level.toNat * 2 ^ 12 + x.lk.width.toNat else 0) + x.lk.failed.toNat % 256 * 16
  | 0x4 => (x.ctl &&& 0xFFFF0001).toNat
  | 0x8 => x.peerCredit.toNat
  | 0xC => x.rtt.toNat % 65536
  | _ => 0

/-- RING registers of 4 bytes (R311, R335). -/
def ringWord (s : State) (p : NPort) (o : Nat) : Nat :=
  if o < 0x1000 then
    let g := ringAt s p ⟨o / 0x40 % 64, Nat.mod_lt _ (by decide)⟩
    match o % 0x40 with
    | 0x10 => g.cfg.toNat
    | 0x14 => g.seq0.toNat
    | 0x18 => g.nextK % cfgEntries g.cfg * 2 ^ 16 + one g.stopped * 2 + one (cfgEnabled g.cfg)
    | 0x1C => g.lastDbl.toNat
    | _ => 0
  else
    let e := errAt s p
    match o with
    | 0x1008 => e.cfg.toNat
    | 0x100C => e.prod.toNat
    | 0x1010 => e.cons.toNat
    | _ => 0

/-- The 64-bit RING registers. -/
def ringWide (s : State) (p : NPort) (o : Nat) : Option W64 :=
  if o < 0x1000 then
    let g := ringAt s p ⟨o / 0x40 % 64, Nat.mod_lt _ (by decide)⟩
    match o % 0x40 with
    | 0x00 => some g.dbase
    | 0x08 => some g.cbase
    | 0x20 => some g.done
    | 0x28 => some g.dblRej
    | 0x30 => some g.lost
    | _ => none
  else match o with
  | 0x1000 => some (errAt s p).base
  | 0x1018 => some (errAt s p).drop
  | _ => none

/-- The code of a Myarn port's state in MYAn_STATUS (R372). DEDUCED (log 20). -/
def myaState (s : State) (p : MPort) : Nat :=
  match (myaAt s p.val).lk.phase with
  | .up => 2
  | .down => if released s && linkEnabled s (.myarn p) then 3 else 0
  | _ => 1

/-- MYAn registers of 4 bytes (R372). DEDUCED (log 20). -/
def myaWord (s : State) (p : MPort) (o : Nat) : Nat :=
  let x := myaAt s p.val
  let up := x.lk.phase == .up
  match o with
  | 0x0 => myaState s p + (if up then x.lk.width.toNat * 4 + x.lk.level.toNat * 2 ^ 6 else 0) + x.spared.toNat * 2 ^ 10 +
      x.lk.failed.toNat * 2 ^ 14
  | 0x8 => x.peer.toNat
  | 0xC => x.rtt.toNat % 65536
  | _ => 0

/-! Memory integrity (R273, R275) -/

/-- The 32 bytes of counters of an instance. -/
def eccBlock (i : EccInst) : List Byte :=
  leBytes i.corrected.toNat 8 ++ leBytes i.uncorrectable.toNat 8 ++ leBytes i.poisonRead.toNat 8 ++ leBytes i.evicted.toNat 8

/-- The 32 bytes of a log entry. -/
def eccEntry (e : EccLog) : List Byte :=
  leBytes e.addr.toNat 8 ++ [e.syndrome, BitVec.ofNat 8 (1 + 2 * one e.candidate), 0, 0] ++ leBytes e.count.toNat 4 ++
  leBytes e.first.toNat 8 ++ leBytes e.last.toNat 8

/-- The counters and then the entries of an instance, at an offset in its window. -/
def eccWindow (i : EccInst) (o : Nat) : List Byte × Nat × List Nat :=
  if o < 32 then (eccBlock i, o, [0, 8, 16, 24])
  else match i.log[(o - 32) / 32]? with
    | some e => (eccEntry e, o % 32, [0, 16, 24])
    | none => ([], o, [])

/-! Records (R83, R185, R382, R386, R449, R227) -/

/-- The 32-bit values of a list, as bytes. -/
def wordsBytes (l : List W32) : List Byte := l.flatMap (fun x => leBytes x.toNat 4)
/-- The 64-bit values of a list, as bytes. -/
def widesBytes (l : List W64) : List Byte := l.flatMap (fun x => leBytes x.toNat 8)

/-- The numeric statistics record. -/
def statRecord (x : Stat) : List Byte := wordsBytes x.latched ++ widesBytes x.total ++ leBytes x.frame.toNat 8
/-- The slip statistics record. -/
def slipRecord (x : Slips) : List Byte :=
  wordsBytes ([x.fSlip, x.fHold] ++ x.fCauses ++ [x.fMaxRun]) ++ widesBytes [x.cSlip, x.cHold, x.cOver, x.frame]
/-- A domain record. -/
def domainRecord (x : Domain) : List Byte :=
  wordsBytes [x.ma, x.peakMa] ++ leBytes x.mv.toNat 2 ++ zeros 2 ++ wordsBytes [x.mw] ++ widesBytes [x.uj, x.frame]
/-- A defect list entry. -/
def defectRecord (x : DefEntry) : List Byte :=
  leBytes x.kind.toNat 2 ++ [x.unit, BitVec.ofNat 8 (x.src.toNat + 128)] ++ wordsBytes [x.id] ++ widesBytes [x.firstTs] ++
  wordsBytes [x.firstStart, 0, x.lastStart, x.count]
/-- An operation log entry. DESIGN CHOICE (log 17). -/
def opRecord (x : OpLog) : List Byte :=
  [x.source, x.status, x.flags, x.op] ++ wordsBytes [x.seq] ++ widesBytes [x.start, x.done] ++ wordsBytes [x.tornOff, x.tornLen]

/-- The bubble statistics record (R386), of the values its frame latched: bubbles, both ratios, seven causes, mW lent. -/
def bubbleRecord (x : Bubbles) : List Byte :=
  wordsBytes ((upFrom 0 10).map (fun i => x.latched.getD i 0)) ++ widesBytes [x.total, 0, x.frame]

/-! Windows: the bytes of the record at an offset, the offset in it, and its 64-bit fields -/

/-- The DARN windows (R275, R487). -/
def darnWindow (s : State) (off : Nat) : Option (List Byte × Nat × List Nat) :=
  if 0x808000 ≤ off ∧ off < 0x810000 then
    let i := (off - 0x808000) / 32
    some (recBytes (tget {} s.darn.log i), off % 32, [8])
  else if 0x810000 ≤ off ∧ off < 0x8100C0 then some (eccBlock (eccAt s (6000 + off % 0x10000 / 32)), off % 32, [0, 8, 16, 24])
  else if 0x820000 ≤ off ∧ off < 0x828000 then some (eccWindow (eccAt s (4000 + off % 0x10000 / 0x200)) (off % 0x200))
  else if 0x830000 ≤ off ∧ off < 0x834000 then some (eccWindow (eccAt s (5000 + off % 0x10000 / 0x800)) (off % 0x800))
  else if 0x840000 ≤ off ∧ off < 0x8D0000 then
    let p := (off - 0x840000) / 0x200
    let o := off % 0x200
    some (if o < 0xA0 then eccWindow (eccAt s p) o
      else if o < 0x140 then eccWindow (eccAt s (2000 + p)) (o - 0xA0) else ([], 0, []))
  else none

/-- A page of a logical core, without its counters (R115). DESIGN CHOICE (log 18). -/
def coreBytes (c : Core) (o : Nat) : List Byte × Nat × List Nat :=
  if o < 0x80 then ((upFrom 0 32).flatMap (fun p => leBytes (tget 0 c.peg p).toNat 2), o - 0x40, [])
  else (((upFrom 0 7).flatMap (fun e => leBytes (c.haltPc.getD e 0).toNat 4)), o - 0x210, [])

/-- The measurements M0 to M3 (R496). -/
def measurement (s : State) (m : Nat) : BitVec 384 := if m = 0 then Config.bootRomDigest else tget 0 s.rot.meas m

/-- The window at an offset, as the port whose PART_STAT_SEL is `sel` sees it; none where the offset is a register or nothing. -/
def window (s : State) (sel off : Nat) : Option (List Byte × Nat × List Nat) :=
  let o := off % 0x10000
  if 0x508000 ≤ off ∧ off < 0x548000 then
    let x := (off - 0x508000) / 0x100
    some (match (nbuAt s x).log[off % 0x100 / 0x40]? with
      | some e => if nbuOn s.variant x then (opRecord e, off % 0x40, [8, 16]) else ([], 0, [])
      | none => ([], 0, []))
  else if 0x710000 ≤ off ∧ off < 0x710600 then
    some (if domainOn s (o / 32) then (domainRecord (tget {} s.power.domains (o / 32)), o % 32, [16, 24]) else ([], 0, []))
  else if 0x711000 ≤ off ∧ off < 0x711200 then
    some (bubbleRecord (partAt s ((o - 0x1000) / 0x40)).bubbles, o % 0x40, [40, 56])
  else if 0x781000 ≤ off ∧ off < 0x784000 then some (s.hup.record, o - 0x1000, [])
  else if 0x800000 ≤ off ∧ off < 0x900000 then darnWindow s off
  else if 0xA06000 ≤ off ∧ off < 0xA06400 then some (slipRecord (partAt s ((o - 0x6000) / 0x80)).slips, o % 0x80, [32, 40, 48, 56])
  else if 0xA80000 ≤ off ∧ off < 0xAA0000 then
    let k := (off - 0xA80000) / 0x80
    let p := partAt s sel
    some (match p.image with
      | some img => if k < img.stations.length ∧ p.st ≠ .empty then
          (statRecord (tget {} p.stats k), off % 0x80, [32, 40, 48, 56, 64, 72, 80, 88, 96]) else ([], 0, [])
      | none => ([], 0, []))
  else if 0xC40000 ≤ off ∧ off < 0xC80000 then
    some (match s.boot.list[(off - 0xC40000) / 32]? with
      | some e => (defectRecord e, off % 32, [8])
      | none => ([], 0, []))
  else if 0xD00020 ≤ off ∧ off < 0xD00040 then some (leBytes s.rot.nonce.toNat 32, off - 0xD00020, [])
  else if 0xD00040 ≤ off ∧ off < 0xD00070 then some (digestBytes deviceId, off - 0xD00040, [])
  else if 0xD00100 ≤ off ∧ off < 0xD00200 then some (digestBytes (measurement s ((o - 0x100) / 0x40)), o % 0x40, [])
  else if 0xD00200 ≤ off ∧ off < 0xD00400 then some (digestBytes (partAt s ((o - 0x200) / 0x40)).measurement, o % 0x40, [])
  else if 0x1000000 ≤ off ∧ off < 0x1400000 then
    let c := (off - 0x1000000) / 0x1000
    let q := off % 0x1000
    if (0x40 ≤ q ∧ q < 0x80) ∨ (0x210 ≤ q ∧ q < 0x230) then
      some (if coreOn s.variant c then coreBytes (coreAt s c) q else ([], 0, []))
    else none
  else none

/-! 64-bit registers -/

/-- The 64-bit register at an offset. -/
def wide (s : State) (off : Nat) : Option W64 :=
  let o := off % 0x10000
  match off / 0x10000 with
  | 0x00 => if o = 0x38 then some s.fwVersion else none
  | 0x01 => if o = 0x10 then some s.sem.breaks else none
  | 0x02 => if o = 0x18 then some s.fold.detail else none
  | 0x10 => if o % 8 = 0 ∧ ((0x10 ≤ o ∧ o < 0x48) ∨ (0x80 ≤ o ∧ o < 0xC0)) then some (tget 0 (nalAt s 0).cnt o) else none
  | 0x11 => if o % 8 = 0 ∧ ((0x10 ≤ o ∧ o < 0x48) ∨ (0x80 ≤ o ∧ o < 0xC0)) then some (tget 0 (nalAt s 1).cnt o) else none
  | 0x20 => ringWide s 0 o
  | 0x21 => ringWide s 1 o
  | 0x30 => if o = 0x118 then some (BitVec.ofNat 64 (unitBits s.units.hamperOut)) else none
  | 0x50 =>
    let x := tget {} s.kv ((o - 0x400) / 0x40)
    if 0x400 ≤ o ∧ o < 0x500 ∧ (pyrrelOf s.variant).contains ((o - 0x400) / 0x40) = true then
      match o % 0x40 with
      | 0x00 => some x.append
      | 0x08 => some x.direct
      | 0x10 => some x.full
      | 0x18 => some x.short
      | 0x20 => some x.decode
      | 0x28 => some x.wait
      | 0x38 => some x.frame
      | _ => none
    else none
  | 0x70 => if o = 0x120 then some s.therm.rampExc else none
  | 0x72 =>
    let m := (o - 0x1000) / 8
    if 0x1000 ≤ o ∧ o < 0x1200 ∧ o % 8 = 0 ∧ (clusterOn s.variant m = true ∨ 32 ≤ m) then
      some (BitVec.ofNat 64 ((tget 0 s.therm.mon m).toNat + (tget 0 s.therm.monS m).toNat * 2 ^ 32))
    else none
  | 0x78 => match o with
    | 0x28 => some s.hup.cnt.cycles
    | 0x30 => some s.hup.cnt.thru
    | 0x38 => some s.hup.cnt.events
    | 0x40 => some s.hup.cnt.rides
    | 0x48 => some s.hup.measTime
    | _ => none
  | 0x80 => match o with
    | 0x10 => some s.darn.records
    | 0x18 => some s.darn.coalesced
    | 0x20 => some s.darn.stormFrames
    | 0x28 => some s.darn.overflow
    | _ => none
  | 0xA0 =>
    if o < 0x100 then
      let p := partAt s (o / 0x20)
      if o % 0x20 = 0x08 then some (match p.image with | some i => if p.st = .empty then 0 else i.tag | none => 0)
      else if o % 0x20 = 0x10 then some p.runNo else none
    else if 0x4000 ≤ o ∧ o < 0x4200 then
      let p := partAt s ((o - 0x4000) / 0x40)
      if o % 0x40 = 0x18 then some p.absorb else if o % 0x40 = 0x20 then some p.poisoned else none
    else none
  | 0xB0 => if o % 0x100 = 0x18 then some (barAt s (o / 0x100)).releases else none
  | 0xC0 => match o with
    | 0x10 => some s.boot.anomaly
    | 0x20 => some s.boot.lifeAddr
    | _ => none
  | b =>
    if (sitesOf s.variant).contains (b - 0x40) ∧ 0x40 ≤ b then
      match o with
      | 0x08 => some (stkAt s (b - 0x40)).postponed
      | 0x10 => some (stkAt s (b - 0x40)).forced
      | _ => none
    else if 0x60 ≤ b ∧ b < 0x60 + myarnPorts s.variant then
      (if o % 8 = 0 ∧ ((0x10 ≤ o ∧ o < 0x70) ∨ (0x80 ≤ o ∧ o < 0xC8)) then some (tget 0 (myaAt s (b - 0x60)).cnt o) else none)
    else if 0x100 ≤ b ∧ b < 0x140 ∧ coreOn s.variant ((off - 0x1000000) / 0x1000) = true then
      (if [0x100, 0x108, 0x110, 0x118, 0x120, 0x128].contains (off % 0x1000) then
        some (tget 0 (coreAt s ((off - 0x1000000) / 0x1000)).cnt (off % 0x1000)) else none)
    else none

/-! 32-bit registers -/

/-- The LEHR registers that are read only (R394, R417). DESIGN CHOICE (log 19); DEDUCED (log 21). -/
def lehrWord (s : State) (o : Nat) : Nat :=
  let t := s.therm
  let on := clusterOn s.variant
  if 0x40 ≤ o ∧ o < 0x60 then
    unitBits ((s.power.trimFail.filter (fun r => r / 32 == (o - 0x40) / 4)).map (fun r => r % 32))
  else if 0x60 ≤ o ∧ o < 0x78 then
    let a := tget {} s.power.avs ((o - 0x60) / 4)
    a.target.toNat + a.readback.toNat * 2 ^ 16 + one a.fault * 2 ^ 31
  else if 0x130 ≤ o ∧ o < 0x148 then t.duty.toNat + (tget {} t.fan ((o - 0x130) / 4)).rpm.toNat * 2 ^ 16
  else if 0x150 ≤ o ∧ o < 0x160 then
    (nibbles (8 * ((o - 0x150) / 4)) (fun c => if on c then (Config.grade c).toNat else 0)).toNat
  else if 0x160 ≤ o ∧ o < 0x170 then (nibbles (8 * ((o - 0x160) / 4)) (fun c => if on c then (tget 0 t.guard c).toNat else 0)).toNat
  else if 0x180 ≤ o ∧ o < 0x1C0 then (Config.vf ((o - 0x180) / 4) &&& 0x03FF03FF).toNat
  else match o with
  | 0x10 =>
    if s.power.capHeld = 0 then 0
    else (capInForce s).1 + s.power.selected.toNat * 2 ^ 12 + s.power.pins.toNat * 2 ^ 14 + (capInForce s).2 * 2 ^ 16
  | 0x80 => s.power.pFrame.toNat
  | 0x84 => s.power.pWindow.toNat
  | 0x100 => t.hot.toNat
  | 0x10C => Config.thetaJs.toNat
  | 0x110 =>
    let m := thetaMean s
    let code := if t.lost.isSome then 2 else if m.isNone then 3 else one t.degraded
    (BitVec.ofInt 16 (m.getD 0)).toNat + code * 2 ^ 16 +
      unitBits ((upFrom 0 6).filter (fun f => (tget {} t.fan f).failed)) * 2 ^ 18
  | 0x114 => capAir s
  | 0x118 => t.inlet.toNat + one t.inletOk * 2 ^ 16
  | 0x170 => t.sliceGuard.toNat + t.hemGuard.toNat * 16 + one t.bin * 2 ^ 8 + one t.dropPending * 2 ^ 9 + one t.exhausted * 2 ^ 10 +
      t.reviews.toNat * 2 ^ 16
  | 0x178 => 720 - t.powered / 3600000
  | _ => 0

/-- The sensor registers (R417). -/
def sensorWord (s : State) (o : Nat) : Nat :=
  if o < 0x580 then
    (if clusterOn s.variant (sensorCluster (o / 4)) then
      let x := tget {} s.therm.sensor (o / 4)
      x.reading.toNat + one x.flagged * 2 ^ 16 + one x.faulty * 2 ^ 17 + x.reviews.toNat * 2 ^ 18
     else 0)
  else if 0x800 ≤ o ∧ o < 0x880 then
    (if clusterOn s.variant ((o - 0x800) / 4) then (tget 0 s.therm.l1est ((o - 0x800) / 4)).toNat else 0)
  else 0

/-- The HUP registers that are read only (R438). DEDUCED (log 24). -/
def hupWord (s : State) (o : Nat) : Nat :=
  let h := s.hup
  match o with
  | 0x00 =>
    (match h.st with | .open_ => 0 | .authenticating => 1 | .unauthenticated => 2 | .charging => 3 | .ready => 4 | .testing => 5) +
      one h.guarantee * 8 + one h.endOfLife * 16 + one (h.loss != .none) * 32
  | 0x10 => h.cap.toNat
  | 0x14 => h.esr.toNat + h.vchg.toNat * 2 ^ 16
  | 0x18 => h.efull.toNat
  | 0x1C => h.enow.toNat
  | 0x20 => h.window.toNat
  | _ => 0

/-- The ECCT registers (R283, R284). DEDUCED (log 22). -/
def ecctWord (s : State) (o : Nat) : Nat :=
  let e := s.ecct
  match o with
  | 0x000 => e.target.toNat
  | 0x008 => e.addr.toNat
  | 0x010 => e.maskLo.toNat
  | 0x014 => e.maskHi.toNat
  | 0x018 => e.maskChk.toNat
  | 0x01C => one e.armed * 2 + one e.done * 4
  | 0x100 => e.splitLo.toNat
  | 0x104 => e.splitHi.toNat
  | 0x108 => e.dataLo.toNat
  | 0x10C => e.dataHi.toNat
  | 0x110 => e.check.toNat
  | 0x114 => one e.op * 2
  | _ => 0

/-- PART_STATE_n (R520, R521). -/
def partStateWord (s : State) (n : Nat) : Nat :=
  let p := partAt s n
  (match p.st with | .empty => 0 | .loading => 1 | .ready => 2 | .running => 3) + one (isSetUp s n) * 4 + one p.thermalHalt * 8 +
  (match shapeOf (clustersOf s n) with
   | some (_, _, h, ww, we) => h * 2 ^ 4 + ww * 2 ^ 8 + we * 2 ^ 12
   | none => 0)

/-- BAR_GEN_k and BAR_STATE_k (R363). -/
def barWord (s : State) (k o : Nat) : Nat :=
  let b := barAt s k
  match o with
  | 0x10 => b.gen.toNat
  | 0x14 => min b.loc 65535 + b.children.toNat * 2 ^ 16 + one b.awaiting * 2 ^ 20 + one b.broken * 2 ^ 21
  | _ => 0

/-- The DEF registers of 4 bytes (R468). -/
def defWord (s : State) (o : Nat) : Nat :=
  let b := s.boot
  match o with
  | 0x00 => b.phase.toNat + b.cause.toNat * 16 + one b.flashBad * 2 ^ 8 + one b.restored * 2 ^ 9 + b.lifeStatus.toNat * 2 ^ 16
  | 0x04 => b.startCount.toNat
  | 0x08 => b.list.length % 2 ^ 14 + one (decide (8192 ≤ b.list.length)) * 2 ^ 16 + one b.clearPending * 2 ^ 17
  | 0x18 => b.softCores % 2 ^ 11 + b.softNbus % 2 ^ 11 * 2 ^ 11
  | 0x28 => b.lifeLen.toNat
  | _ => 0

/-- The ROT registers of 4 bytes that are read only (R510). -/
def rotWord (s : State) (o : Nat) : Nat :=
  let r := s.rot
  match o with
  | 0x0 => one r.ready + one r.jtag * 2 + one r.scan * 4 + r.failed.toNat * 8 + r.slot % 2 * 2 ^ 8
  | 0x4 => r.counter % 128 + r.svn.toNat * 2 ^ 8
  | 0x8 => r.revoked.toNat
  | _ => 0

/-- The 32-bit register at an offset that is not staged, as the port whose PART_STAT_SEL is `sel` reads it; zero where there is none. -/
def narrow (s : State) (sel off : Nat) : Nat :=
  let o := off % 0x10000
  match off / 0x10000 with
  | 0x00 => identWord s o
  | 0x01 => if o = 0x4 then (semWord s).toNat else 0
  | 0x02 => if o = 0x10 then s.fold.words.length % 1024 + one s.fold.frozen * 2 ^ 16 + one s.fold.waiting.isSome * 2 ^ 17 else 0
  | 0x10 => nalWord s 0 o
  | 0x11 => nalWord s 1 o
  | 0x20 => ringWord s 0 o
  | 0x21 => ringWord s 1 o
  | 0x30 => if o = 0x110 then 4 * (hamperFree s).length % 2 ^ 17 else 0
  | 0x50 =>
    if 0x200 ≤ o ∧ o < 0x280 then unitBits ((upFrom 0 32).filter (fun j => (nbuAt s (32 * ((o - 0x200) / 4) + j)).fenced))
    else if 0x400 ≤ o ∧ o < 0x500 ∧ o % 0x40 = 0x30 ∧ (pyrrelOf s.variant).contains ((o - 0x400) / 0x40) = true then
      (tget {} s.kv ((o - 0x400) / 0x40)).occ.toNat
    else 0
  | 0x70 => lehrWord s o
  | 0x72 => sensorWord s o
  | 0x78 => hupWord s o
  | 0x80 => match o with
    | 0x04 => one s.darn.storm
    | 0x08 => s.darn.head.toNat
    | 0x0C => s.darn.seq.toNat
    | 0x30 => one s.darn.pending
    | _ => 0
  | 0x90 => ecctWord s o
  | 0xA0 => if o < 0x100 ∧ o % 0x20 = 4 then partStateWord s (o / 0x20) else if o = 0x7000 then sel else 0
  | 0xB0 => barWord s (o / 0x100) (o % 0x100)
  | 0xC0 => defWord s o
  | 0xD0 => rotWord s o
  | b =>
    if 0x40 ≤ b ∧ o = 0 ∧ (sitesOf s.variant).contains (b - 0x40) then
      let k := stkAt s (b - 0x40)
      one k.trained + k.temp.toNat * 2 ^ 8 + one k.double * 2 ^ 16 + one k.readable * 2 ^ 17
    else if 0x60 ≤ b ∧ b < 0x60 + myarnPorts s.variant then myaWord s ⟨(b - 0x60) % 8, Nat.mod_lt _ (by decide)⟩ o
    else if 0x100 ≤ b ∧ b < 0x140 ∧ coreOn s.variant ((off - 0x1000000) / 0x1000) = true then
      let c := coreAt s ((off - 0x1000000) / 0x1000)
      (match off % 0x1000 with
       | 0x0 => (engStates c).toNat
       | 0x200 => c.haltState.toNat
       | _ => 0)
    else 0

/-! Reads -/

/-- The word at an offset, and the high word that reading it latches where it is the low word of 64 bits (R298).
DESIGN CHOICE (log 18). -/
def regRead (s : State) (sel off : Nat) : W32 × Option W32 :=
  match window s sel off with
  | some (b, o, l) =>
    (BitVec.ofNat 32 (field b o 4), if l.contains o then some (BitVec.ofNat 32 (field b (o + 4) 4)) else none)
  | none =>
    match wide s off with
    | some x => (lo32 x, some (hi32 x))
    | none => match (if off % 8 = 4 then wide s (off - 4) else none) with
      | some x => (hi32 x, none)
      | none => (if (stagedAt s.variant off).isSome then reg s off else BitVec.ofNat 32 (narrow s sel off), none)

/-- A read through a port with latch l: the word, and the latch left. DEDUCED (log 13, 14). -/
def latchedRead (s : State) (l : Latch) (off : Nat) : W32 × Latch :=
  match (match l.read with | some (o, v) => if o = off then some v else none | none => none) with
  | some v => (v, { l with read := none })
  | none =>
    let r := regRead s l.statSel.toNat off
    (r.1, { l with read := r.2.map (fun v => (off + 4, v)) })

/-- Whether an offset may be read through a Nalson port before release (R443): IDENT and DEF. -/
def earlyBlock (off : Nat) : Bool := decide (off < 0x10000) || decide (0xC00000 ≤ off ∧ off < 0xD00000)

/-- Whether an offset may be read through the management port before release (R533). DESIGN CHOICE (log 23). -/
def earlyMgmt (off : Nat) : Bool := earlyBlock off || decide (0x700000 ≤ off ∧ off < 0x900000)

/-- SRD (R297, R298, R512): a read of a register; that of GAF_SEM claims it. DEDUCED (log 13, 14). -/
def execSrd (a : Access) (body : W64) (s : State) : Host.Outcome State Fault Refusal :=
  whenAon s fun s =>
    let off := bits body 27 0
    if off % 4 ≠ 0 then answer s a eAlign 0
    else if bits body 63 28 ≠ 0 ∨ a.other ≠ 0 then answer s a eReserved 0
    else if off = 0x10000 then
      let s := modNal s a.port (fun n => { n with latch := { n.latch with read := none } })
      if released s then
        let s := claimSem s a.port
        answer s a ok (semWord s)
      else answer s a eState 0
    else if !(released s) && !(earlyBlock off) then
      answer (modNal s a.port (fun n => { n with latch := { n.latch with read := none } })) a eState 0
    else
      let s := tackRead s off
      if tackLost s off then answer s a sLinkDown 0
      else
        let r := latchedRead s (nalAt s a.port).latch off
        answer (modNal s a.port (fun n => { n with latch := r.2 })) a ok r.1

/-! Writes -/

/-- A write of one half of a 64-bit register at `base` through a port (R514): its low word is held, its high word applies both.
DEDUCED (log 15). -/
def writeHalf (s : State) (p : NPort) (base off : Nat) (now : W64) (v : W32) (lowBad : Option Byte) (busy : Bool)
    (put : W64 → State → State) : Byte × State :=
  if off = base then
    match lowBad with
    | some st => (st, s)
    | none =>
      if busy then (eState, s)
      else (ok, modNal s p (fun n => { n with latch := { n.latch with write := some (base, v) } }))
  else if busy then (eState, s)
  else
    let low := match (nalAt s p).latch.write with | some (o, x) => if o = base then x else lo32 now | none => lo32 now
    (ok, put (join32 low v) (modNal s p (fun n => { n with latch := { n.latch with write := none } })))

/-- The alignment of a ring base (R311). -/
def baseBad (v : W32) : Option Byte := if bits v 11 0 = 0 then none else some eAlign

/-- A write of a RING register of port p through port q (R311, R312, R335). DEDUCED (log 24). -/
def ringRegWrite (s : State) (q p : NPort) (off : Nat) (v : W32) : Byte × State :=
  let o := off % 0x10000
  if o < 0x1000 then
    let r : RingId := ⟨o / 0x40 % 64, Nat.mod_lt _ (by decide)⟩
    let g := ringAt s p r
    let b := off - o % 0x40
    if o % 0x40 < 0x10 ∧ q ≠ p then (eOwner, s)
    else match o % 0x40 with
    | 0x00 => writeHalf s q b off g.dbase v (baseBad v) (cfgEnabled g.cfg) id'
    | 0x04 => writeHalf s q b off g.dbase v none (cfgEnabled g.cfg) (fun x s => modRing s p r (fun g => { g with dbase := x }))
    | 0x08 => writeHalf s q (b + 8) off g.cbase v (baseBad v) (cfgEnabled g.cfg) id'
    | 0x0C => writeHalf s q (b + 8) off g.cbase v none (cfgEnabled g.cfg) (fun x s => modRing s p r (fun g => { g with cbase := x }))
    | 0x10 => ringCfgWrite s q p r v
    | 0x14 =>
      if q ≠ p then (eOwner, s)
      else if cfgEnabled g.cfg then (eState, s)
      else (ok, modRing s p r (fun g => { g with seq0 := v }))
    | _ => (eRange, s)
  else
    let e := errAt s p
    match o with
    | 0x1000 => if q ≠ p then (eOwner, s) else writeHalf s q off off e.base v (baseBad v) (cfgEnabled e.cfg) id'
    | 0x1004 =>
      if q ≠ p then (eOwner, s)
      else writeHalf s q (off - 4) off e.base v none (cfgEnabled e.cfg) (fun x s => modErr s p (fun e => { e with base := x }))
    | 0x1008 => errCfgWrite s q p v
    | 0x1010 =>
      if q ≠ p then (eOwner, s)
      else if bits v 31 16 ≠ 0 then (eReserved, s)
      else if cfgEntries e.cfg ≤ v.toNat then (eRange, s)
      else (ok, modErr s p (fun e => { e with cons := BitVec.ofNat 16 v.toNat }))
    | _ => (eRange, s)
where
  /-- A low word changes nothing when it is written. -/
  id' (_ : W64) (s : State) : State := s

/-- The checks of a value for PART_STAT_SEL (R520). -/
def selBad (v : W32) : Option Byte :=
  if bits v 31 4 ≠ 0 then some eReserved else inRange (bits v 3 0) 0 7

/-- A write of PART_STAT_SEL through a Nalson port: its own copy (R516). -/
def selWrite (s : State) (p : NPort) (v : W32) : Byte × State :=
  match selBad v with
  | some st => (st, s)
  | none => (ok, modNal s p (fun n => { n with latch := { n.latch with statSel := BitVec.ofNat 4 (bits v 3 0) } }))

/-- A write of a register after release, but for those whose answer comes another way (NALn_CTL, FOLD_PRESS, the lifeline's). -/
def regWrite (s : State) (p : NPort) (off : Nat) (v : W32) : Byte × State :=
  if (stagedAt s.variant off).isSome then foldWrite s p off v
  else if 0x200000 ≤ off ∧ off < 0x220000 then ringRegWrite s p (nalPort (off / 0x10000)) off v
  else if 0x900000 ≤ off ∧ off < 0xA00000 then ecctWrite s p off v
  else match off with
  | 0x10008 => semCtl s p v
  | 0x20000 => foldCtl s p v 0xFFFFFFFE false foldChecks
  | 0x20008 => foldCtl s p v 0xFFFFFFFE true freezeFold
  | 0x2000C => foldCtl s p v 0xFFFFFFFE true discardFold
  | 0x700174 => ageCtl s v
  | 0x780050 => testCtl s v
  | 0x800030 => alertWrite s v
  | 0xA07000 => selWrite s p v
  | _ => (eRange, s)

/-- A write of a lifeline register in phase 3 (R446, R468). -/
def lifeReg (s : State) (p : NPort) (off : Nat) (v : W32) : Byte × State :=
  match off with
  | 0xC00020 => writeHalf s p off off s.boot.lifeAddr v (if bits v 5 0 = 0 then none else some eAlign) false (fun _ s => s)
  | 0xC00024 => writeHalf s p 0xC00020 off s.boot.lifeAddr v none false (fun x s => modBoot s (fun b => { b with lifeAddr := x }))
  | 0xC00028 => if within v.toNat 4096 67108864 then (ok, modBoot s (fun b => { b with lifeLen := v })) else (eRange, s)
  | _ => lifeGo s p v

/-- SWR (R297, R513). DEDUCED (log 13). -/
def execSwr (a : Access) (body : W64) (s : State) : Host.Outcome State Fault Refusal :=
  whenAon s fun s =>
    let off := bits body 27 0
    let v := hi32 body
    if off % 4 ≠ 0 then answer s a eAlign 0
    else if bits body 31 28 ≠ 0 ∨ a.other ≠ 0 then answer s a eReserved 0
    else if off = 0x100004 ∨ off = 0x110004 then nalCtlWrite s a (nalPort (off / 0x10000)) v
    else if off = 0x20004 then pressWrite s a v
    else if off = 0xC00020 ∨ off = 0xC00024 ∨ off = 0xC00028 ∨ off = 0xC0002C then lifeWrite s a off (fun s => lifeReg s a.port off v)
    else setupWrite s a off (fun s => regWrite s a.port off v)

/-! The management port (R533) -/

/-- What the next private read of the management port returns after a read: data, then the status. DESIGN CHOICE (log 23). -/
def mgmtAnswer (s : State) (data : W32) (st : Byte) : State := { s with mgmtOut := leBytes data.toNat 4 ++ [st] }

/-- MGT_READ: offset in bits 27 to 0, bit 31 zero. GAF_SEM is read as GAF_SEM_PEEK. DESIGN CHOICE (log 23). -/
def execMgtRead (word : W32) (s : State) : Host.Outcome State Fault Refusal :=
  whenAon s fun s =>
    let off := if bits word 27 0 = 0x10000 then 0x10004 else bits word 27 0
    let drop := { s with mgmt := { s.mgmt with read := none } }
    if off % 4 ≠ 0 then mgmtAnswer s 0 eAlign
    else if bits word 31 28 ≠ 0 then mgmtAnswer s 0 eReserved
    else if !(released s) && !(earlyMgmt off) then mgmtAnswer drop 0 eState
    else
      let s := tackRead s off
      if tackLost s off then mgmtAnswer s 0 sLinkDown
      else
        let r := latchedRead s s.mgmt off
        mgmtAnswer { s with mgmt := r.2 } r.1 ok

/-- Whether a register that is not staged has a writable field. DESIGN CHOICE (log 23). -/
def writable (off : Nat) : Bool :=
  let o := off % 0x10000
  if 0x200000 ≤ off ∧ off < 0x220000 then
    (decide (o < 0x1000) && decide (o % 0x40 < 0x18)) || [0x1000, 0x1004, 0x1008, 0x1010].contains o
  else if 0x900000 ≤ off ∧ off < 0xA00000 then (ecctReserved off).isSome
  else [0x10008, 0x20000, 0x20004, 0x20008, 0x2000C, 0x100004, 0x110004, 0x700174, 0x780050, 0x800030, 0xA07000, 0xC00020, 0xC00024,
    0xC00028, 0xC0002C].contains off

/-- The status of a write through the management port and the state after it: only DARN_ALERT and its PART_STAT_SEL are its own.
DESIGN CHOICE (log 23). -/
def mgmtWrite (s : State) (off : Nat) (v : W32) : Byte × State :=
  if !(released s) && !(earlyMgmt off) then (eState, s)
  else if !((stagedAt s.variant off).isSome || writable off) then (eRange, s)
  else if off = 0x800030 then alertWrite s v
  else if off = 0xA07000 then
    match selBad v with
    | some st => (st, s)
    | none => (ok, { s with mgmt := { s.mgmt with statSel := BitVec.ofNat 4 (bits v 3 0) } })
  else (eOwner, s)

/-- MGT_WRITE: offset in bits 27 to 0, bit 31 set. DESIGN CHOICE (log 23). -/
def execMgtWrite (word : W32) (v : W32) (s : State) : Host.Outcome State Fault Refusal :=
  whenAon s fun s =>
    let off := bits word 27 0
    if off % 4 ≠ 0 then { s with mgmtOut := [eAlign] }
    else if bits word 30 28 ≠ 0 ∨ bitAt word 31 = false then { s with mgmtOut := [eReserved] }
    else
      let s := { s with mgmt := s.mgmt.written off }
      let r := mgmtWrite s off v
      { r.2 with mgmtOut := [r.1] }

end Sys2Proof.Machine
end

