-- ==== Sys2Proof/Machine/Vector.lean ====
section
/-! DEFINITION. The Needle path (R107, R133), the Rinse unit (R134, R135), the row-append rule (R136) and the residue checks
(R471). -/

namespace Sys2Proof.Machine

/-- The record of a residue mismatch (R471). -/
def residueMismatch (s : State) (core : Nat) : State :=
  raise s { kind := kResidue, unit := uCore, id := core, part := partOfCore s core }

/-- A pass or instruction under the residue check (R471): a mismatch discards its results and executes it again; a second one is an
arithmetic fault, after which it is executed anew on the spare (R106). The effect is told whether its results are poisoned. -/
def underResidue (core e : Nat) (fault : ResidueFault) (effect : Bool → State → IWord → State) (s : State) (w : IWord) : State :=
  match fault with
  | .clean => effect false s w
  | .once => effect false (residueMismatch s core) w
  | .twice => holdRedo (residueMismatch (residueMismatch s core) core) core { eng := e, word := w }
  | .unresolved => holdRedo (residueMismatch (residueMismatch s core) core) core { eng := e, word := w, bad := true }

/-- The re-execution of a pass or instruction on the spare: when its check mismatches again its results are poisoned (R471, R106). -/
def residueRedo (core : Nat) (r : Redo) (effect : Bool → State → IWord → State) (s : State) : State :=
  if r.bad then faultUnresolved (effect true (residueMismatch s core) r.word) core else effect false s r.word

/-! The row-append rule (R136) -/

/-- The output form of a tile at a basket address: its threshold is the one that was in force when its first block was converted
(R86). -/
def tileForm (s : State) (core addr : Nat) (begins : Bool) (f : OutForm) : OutForm × State :=
  match f.esc with
  | none => (f, s)
  | some t =>
    if begins then (f, modCore s core (fun c => { c with esc := tset 0 c.esc addr t }))
    else
      let old := tget 0 (coreAt s core).esc addr
      ({ f with esc := some (if old = 0 then t else old) }, s)

/-- Whether the trailer of an output tile fits what is appended from block 2 × rows on (R136): its format, its capacity, its valid rows. -/
def appendFits (t : Tile) (f : OutForm) (rows : Nat) : Bool :=
  !t.trailerBad && t.trailer 4 1 == f.tag + 16 * kcKind f.kc && t.trailer 5 1 == kcCode f.kc && t.validRows == rows

/-- Appends to the trailer of an output tile (R136): the escapes and valid_rows. -/
def appendTrailer (s : State) (core addr : Nat) (f : OutForm) (count map rows : Nat) : State :=
  let a := addr + kcSize f.tag f.kc - 64
  let s := writeBytes s (.basket core) (a + 6) (leBytes count 1) false
  let s := writeBytes s (.basket core) (a + 8) (leBytes map 16) false
  writeBytes s (.basket core) (a + 24) (leBytes rows 1) false

/-- The trailer after rows up to `rows` are written: afresh with the first, else appended (R136). -/
def rowTrailer (s : State) (core addr : Nat) (f : OutForm) (begins : Bool) (count map rows : Nat) : State :=
  if begins then
    writeBytes s (.basket core) (addr + kcSize f.tag f.kc - 64) (trailerBytes f.tag f.kc count map rows 64 0x3F800000) false
  else appendTrailer s core addr f count map rows

/-- Writes rows r0 to r0 + n − 1 of an output tile: the trailer afresh for r0 = 0, else appended to one that fits; a trailer that
does not fit makes the rows poisoned, with a record. Answers the blocks written. -/
def appendRows (s : State) (core e : Nat) (f : OutForm) (addr r0 : Nat) (rows : List (Option (List Acc))) :
    State × List OutBlk :=
  let t := readTile s (.basket core) addr f.tag f.kc
  let begins := r0 == 0
  let agrees := begins || appendFits t.1 f r0
  let s := if begins then s else if agrees then t.2 else trailerMismatch t.2 core e .output
  let g := tileForm s core addr begins f
  let rows := if agrees then rows
    else rows.map (fun r => some ((r.getD (List.replicate 64 {})).map (fun a => { a with p := true })))
  let have_ := if begins || !agrees then 0 else t.1.trailer 6 1
  let r := outRows g.1 r0 (capOf (kcCode f.kc) - have_) rows (coreAt g.2 core).gen
  let s := modCore g.2 core (fun c => { c with gen := r.2.2 })
  let s := writePieces s (.basket core) addr ((numberEsc have_ r.1).flatMap (fun x => blkBytes f.tag (kcKind f.kc) x.1 x.2))
  let s := if agrees then
      rowTrailer s core addr f begins (have_ + (r.1.filter (fun o => o.escaped)).length)
        ((if begins then 0 else t.1.escMap) + mapOf r.1) (r0 + rows.length)
    else s
  let s := countCensus s core e r.2.1
  (if r.1.any (fun o => o.poison.any id) then coreConsumes s core e else s, r.1)

/-! Needle path (engine 5) -/

/-- The checks of NDL.LV. -/
def lvCheck (_ : State) (c : Core) (x : Eng) (w : IWord) : Option Byte :=
  let v := sub (iImm w) 3 0
  let k := sub (iImm w) 10 4
  checks [(onlyBits w [(11, 8), (47, 42), (67, 48), (87, 68), (92, 88), (118, 108)], eReserved),
    (kcOk (iTa w) (sub (iZ w) 4 0) && iTa w != 6 && iTa w != 4, eRange),
    (decide (1 ≤ v) && decide (v ≤ 8) && decide (1 ≤ k) && decide (k ≤ 64) && decide (sub (iMod w) 5 0 + v ≤ 64), eRange),
    ((upFrom 0 k).all (fun t => fits (effAddr c x (iX w) + Int.ofNat (64 * t * iY w))
      (kcSize (iTa w) (sub (iZ w) 4 0)) basketEnd), eRange)]

/-- NDL.LV. -/
def execNdlLv (core : CoreId) (s : State) : Host.Outcome State Fault Refusal :=
  whenAon s fun s =>
    issue s core.val 5 1
      lvCheck
      (fun s w =>
        let c := coreAt s core.val
        let k := sub (iImm w) 10 4
        let r := readTiles s (.basket core.val) (iTa w) (sub (iZ w) 4 0)
          ((upFrom 0 k).map (fun t => effAddr c (engAt c 5) (iX w) + Int.ofNat (64 * t * iY w)))
        let s := noteTrailers r.2 core.val 5 .activation r.1
        let s := if (oneScale r.1).isNone then trailerMismatch s core.val 5 .activation else s
        let vecs := (upFrom (sub (iMod w) 5 0) (sub (iImm w) 3 0)).map (fun row =>
          r.1.flatMap (fun t => [t.blk row 0, t.blk row 1]))
        let s := if vecs.any (fun l => l.any (fun b => b.poison)) then coreConsumes s core.val 5 else s
        issuedData (modCore s core.val (fun c => { c with needle := { c.needle with
          vecs, tag := iTa w, scale := oneScale r.1, loaded := true } })) core.val 5 w {})

/-- Weight tiles of an NDL.MV: (j, t) at x + j × N-stride + t × K-stride. -/
def mvAddrs (c : Core) (x : Eng) (w : IWord) (k : Nat) : List Int :=
  (upFrom 0 (sub (iImm w) 5 0)).flatMap (fun j => (upFrom 0 k).map (fun t =>
    effAddr c x (iX w) + Int.ofNat (64 * (j * iY w + t * sub (iImm w) 19 12))))

/-- K tiles the vectors were loaded over. -/
def loadedTiles (c : Core) : Nat := (c.needle.vecs.headD []).length / 2

/-- The checks of NDL.MV (R133). -/
def mvCheck (_ : State) (c : Core) (x : Eng) (w : IWord) : Option Byte :=
  let nt := sub (iImm w) 5 0
  checks [(onlyBits w [(15, 12), (67, 48), (87, 68), (92, 88), (127, 108)], eReserved),
  (kcOk (iTb w) (sub (iZ w) 4 0) && iTb w != 6, eRange),
  (decide (1 ≤ nt) && decide (nt ≤ 32) && decide (sub (iImm w) 11 7 + nt ≤ 32), eRange),
  (c.needle.loaded, eState),
  ((mvAddrs c x w (loadedTiles c)).all (fun a => fits a (kcSize (iTb w) (sub (iZ w) 4 0)) sliceEnd), eRange)]

/-- Accumulates column tile j of an NDL.MV for one vector (R107, R72). -/
def mvColumn (acc : Tab Acc) (key : Nat) (accumulate bad : Bool) (v col : List Blk) : Tab Acc :=
  let old : Acc := if accumulate then tget {} acc key else {}
  tset {} acc key ⟨dotInto old.v v col, old.p || bad || v.any (fun b => b.poison) || col.any (fun b => b.poison)⟩

/-- Accumulates the columns of an NDL.MV for one vector (R107, R131): nt column tiles of k tiles along K, into groups from g on; t is the
tensor-scale product. Answers whether the recorded product differs. -/
def mvVector (tiles : List Tile) (k nt g : Nat) (accumulate bad : Bool) (t : W32) (a : Needle) (v : List Blk) (row : Nat) : Needle × Bool :=
  let differs := accumulate && (match tget none a.tscale row with | some u => u != t | none => false)
  let keepT := accumulate && (tget none a.tscale row).isSome
  let acc := (upFrom 0 (64 * nt)).foldl (fun acc n =>
    let col := (upFrom 0 k).flatMap (fun t =>
      [(tileAt tiles (n / 64 * k + t)).blk (n % 64) 0, (tileAt tiles (n / 64 * k + t)).blk (n % 64) 1])
    mvColumn acc (row * 2048 + g * 64 + n) accumulate (bad || differs) v col) a.acc
  ({ a with acc, tscale := if keepT then a.tscale else tset none a.tscale row (some t) }, differs)

/-- The effect of NDL.MV; `bad` poisons its results. -/
def mvEffect (core : Nat) (bad : Bool) (s : State) (w : IWord) : State :=
  let c := coreAt s core
  let k := loadedTiles c
  let r := readTiles s (.slice core) (iTb w) (sub (iZ w) 4 0) (mvAddrs c (engAt c 5) w k)
  let s := noteTrailers r.2 core 5 .weight r.1
  let ws := oneScale r.1
  let s := if ws.isNone then trailerMismatch s core 5 .weight else s
  let t := f32of ((c.needle.scale.getD .nan).mul (ws.getD .nan))
  let bad := bad || ws.isNone || c.needle.scale.isNone
  let out := (c.needle.vecs.zipIdx).foldl (fun (a : Needle × Bool) v =>
    let y := mvVector r.1 k (sub (iImm w) 5 0) (sub (iImm w) 11 7) (sub (iImm w) 6 6 == 1) bad t a.1 v.1 v.2
    (y.1, a.2 || y.2)) (c.needle, false)
  let s := modCore s core (fun c => { c with needle := out.1 })
  let s := if out.2 then trailerMismatch s core 5 .activation else s
  let s := if bad || c.needle.vecs.any (fun l => l.any (fun b => b.poison)) ||
      r.1.any (fun t => t.allBad || !t.bad.isEmpty) then coreConsumes s core 5 else s
  issuedData s core 5 w {}

/-- NDL.MV. -/
def execNdlMv (core : CoreId) (fault : ResidueFault) (s : State) : Host.Outcome State Fault Refusal :=
  whenAon s fun s => issue s core.val 5 2 mvCheck (underResidue core.val 5 fault (mvEffect core.val))

/-- The checks of NDL.DRN. -/
def ndlDrnCheck (_ : State) (c : Core) (x : Eng) (w : IWord) : Option Byte :=
  let n := sub (iImm w) 12 9
  checks [(onlyBits w [(15, 12), (47, 46), (67, 48), (92, 88), (126, 108)], eReserved),
    (outOk w (sub (iZ w) 4 0), eRange),
    (decide (1 ≤ n) && decide (n ≤ 8) && decide (sub (iImm w) 8 5 + n ≤ 8) && decide (sub (iImm w) 18 13 + n ≤ 64), eRange),
    (fits (effAddr c x (iX w)) (kcSize (iTb w) (sub (iZ w) 4 0)) basketEnd, eRange)]

/-- NDL.DRN. -/
def execNdlDrn (core : CoreId) (s : State) : Host.Outcome State Fault Refusal :=
  whenAon s fun s =>
    issue s core.val 5 3
      ndlDrnCheck
      (fun s w =>
        let c := coreAt s core.val
        let g := sub (iImm w) 4 0
        let rows := (upFrom (sub (iImm w) 8 5) (sub (iImm w) 12 9)).map (fun v =>
          match tget none c.needle.tscale v with
          | some t => some ((upFrom 0 64).map (fun n =>
              let a : Acc := tget {} c.needle.acc (v * 2048 + g * 64 + n)
              (⟨f32mul a.v t, a.p⟩ : Acc)))
          | none => none)
        let f := outForm s core.val w (sub (iZ w) 4 0)
        let r0 := sub (iImm w) 18 13
        let a := (effAddr c (engAt c 5) (iX w)).toNat
        let r := appendRows s core.val 5 f a r0 rows
        issuedData (noteTile r.1 core.val 5 f a (r0 == 0) r.2 rows) core.val 5 w {})

/-! Rinse unit (engine 6) -/

/-- A vector register as 64 lanes. -/
def vreg (c : Core) (v : Nat) : List Acc := (upFrom (64 * v) 64).map (fun i => tget {} c.rinse.reg i)

/-- Writes a vector register from lane i on. -/
def putLanes (t : Tab Acc) (i : Nat) : List Acc → Tab Acc
  | [] => t
  | x :: l => putLanes (tset {} t i x) (i + 1) l

/-- Writes a vector register. -/
def setVreg (s : State) (core v : Nat) (l : List Acc) : State :=
  modCore s core (fun c => { c with rinse := { c.rinse with reg := putLanes c.rinse.reg (64 * v) l } })

/-- The checks of RNS.LD. -/
def rnsLdCheck (_ : State) (c : Core) (x : Eng) (w : IWord) : Option Byte :=
  checks [(onlyBits w [(11, 8), (67, 48), (72, 68), (97, 93), (113, 108)], eReserved),
    (kcOk (iTa w) (sub (iZ w) 9 5), eRange),
    (fits (effAddr c x (iX w)) (kcSize (iTa w) (sub (iZ w) 9 5)) basketEnd, eRange)]

/-- RNS.LD. -/
def execRnsLd (core : CoreId) (s : State) : Host.Outcome State Fault Refusal :=
  whenAon s fun s =>
    issue s core.val 6 1
      rnsLdCheck
      (fun s w =>
        let c := coreAt s core.val
        let t := readTile s (.basket core.val) (effAddr c (engAt c 6) (iX w)).toNat (iTa w) (sub (iZ w) 9 5)
        let s := noteTrailers t.2 core.val 6 .activation [t.1]
        let row := t.1.row (sub (iImm w) 5 0)
        let s := if row.any (fun a => a.p) then coreConsumes s core.val 6 else s
        issuedData (setVreg s core.val (iY w) row) core.val 6 w {})

/-- The checks of RNS.ST. -/
def rnsStCheck (_ : State) (c : Core) (x : Eng) (w : IWord) : Option Byte :=
  checks [(onlyBits w [(15, 12), (47, 46), (67, 48), (72, 68), (97, 93), (113, 108)], eReserved),
    (outOk w (sub (iZ w) 9 5), eRange),
    (fits (effAddr c x (iX w)) (kcSize (iTb w) (sub (iZ w) 9 5)) basketEnd, eRange)]

/-- RNS.ST. -/
def execRnsSt (core : CoreId) (s : State) : Host.Outcome State Fault Refusal :=
  whenAon s fun s =>
    issue s core.val 6 2
      rnsStCheck
      (fun s w =>
        let c := coreAt s core.val
        issuedData (appendRows s core.val 6 (outForm s core.val w (sub (iZ w) 9 5)) (effAddr c (engAt c 6) (iX w)).toNat
          (sub (iImm w) 5 0) [some (vreg c (iY w))]).1 core.val 6 w {})

/-- Which of vs1, vs2 and the old vd a vector operation reads. -/
def laneReads (op : Nat) : Bool × Bool × Bool :=
  if op = 4 ∨ op = 8 then (true, true, true)
  else if op ≤ 7 then (true, true, false) else (true, false, false)

/-- The checks of a vector operation (R134, R135): the lane is for BCAST alone. -/
def vectorCheck (_ : State) (_ : Core) (_ : Eng) (w : IWord) : Option Byte :=
  let op := sub (iMod w) 5 0
  let known := (decide (1 ≤ op) && decide (op ≤ 9)) || (decide (0x10 ≤ op) && decide (op ≤ 0x15))
  checks [(onlyBits w ([(47, 42), (52, 48), (72, 68), (92, 88)] ++ (if op = 9 then [(113, 108)] else [])), eReserved), (known, eRange)]

/-- The effect of a vector operation (R135): BCAST copies one lane; `bad` poisons its results. -/
def vectorEffect (core : Nat) (bad : Bool) (s : State) (w : IWord) : State :=
  let c := coreAt s core
  let op := sub (iMod w) 5 0
  let a := vreg c (iY w)
  let rd := laneReads op
  let out := if op = 9 then List.replicate 64 (a.getD (sub (iImm w) 5 0) {})
    else (a.zip ((vreg c (iZ w)).zip (vreg c (iX w)))).map (fun x => (⟨laneOp op x.1.v x.2.1.v x.2.2.v,
      x.1.p || (rd.2.1 && x.2.1.p) || (rd.2.2 && x.2.2.p)⟩ : Acc))
  let out := if bad then out.map (fun x => { x with p := true }) else out
  let s := if out.any (fun x => x.p) then coreConsumes s core 6 else s
  issuedData (setVreg s core (iX w) out) core 6 w {}

/-- RNS vector operations (R135). -/
def execRnsVectorOp (core : CoreId) (fault : ResidueFault) (s : State) : Host.Outcome State Fault Refusal :=
  whenAon s fun s => issue s core.val 6 3 vectorCheck (underResidue core.val 6 fault (vectorEffect core.val))

/-- The check of RNS.LAY. -/
def rnsLayCheck (_ : State) (_ : Core) (_ : Eng) (w : IWord) : Option Byte :=
  checks [(onlyBits w [(67, 48), (87, 68)], eReserved)]

/-- RNS.LAY. -/
def execRnsLay (core : CoreId) (s : State) : Host.Outcome State Fault Refusal :=
  whenAon s fun s =>
    issue s core.val 6 5 rnsLayCheck
      (fun s w => issued (modCore s core.val (fun c => { c with rinse := { c.rinse with src := iX w, dst := iY w } }))
        core.val 6 w {} true)

/-! Row operations -/

/-- The values of a row in ascending lane then element order (R109): lane by lane, in each lane tile by tile. -/
def laneOrder (rows : List (List Acc)) (valid : List Nat) : List Acc :=
  (upFrom 0 64).flatMap (fun l => ((rows.zip valid).filter (fun r => decide (l < r.2))).map (fun r => r.1.getD l {}))

/-- The sum of a list in FP32, in order. DEDUCED (log 62). -/
def f32sum (l : List W32) : W32 := l.foldl f32add 0

/-- The largest of a list (R135); by MAX, so a NaN leaves it free. -/
def f32maxOf : List W32 → W32
  | [] => f32inf true
  | x :: l => l.foldl (fun a b => minMax 6 a b) x

/-- n as FP32. -/
def f32nat (n : Nat) : W32 := f32of (.fin false n 0)

/-- mean(l) as the Rinse unit's sum times its reciprocal of n (R109: its component operations). DEDUCED (log 62). -/
def f32mean (l : List W32) : W32 := f32mul (f32sum l) (laneOp 0x12 (f32nat l.length) 0 0)

/-- 1 ÷ √(v + ε). -/
def invSqrt (v eps : W32) : W32 := laneOp 0x13 (f32add v eps) 0 0

/-- The statistics of a row for a row code: LNORM mean and 1 ÷ √(var + ε); RMSN 1 ÷ √(mean(x²) + ε); SMAX maximum and
1 ÷ Σ. DEDUCED (log 64). -/
def rowStats (op : Nat) (l : List W32) (eps : W32) : W32 × W32 :=
  if op = 0x30 then
    let mu := f32mean l
    (mu, invSqrt (f32mean (l.map (fun x => f32mul (f32sub x mu) (f32sub x mu)))) eps)
  else if op = 0x31 then (0, invSqrt (f32mean (l.map (fun x => f32mul x x))) eps)
  else
    let m := f32maxOf l
    (m, laneOp 0x12 (f32sum (l.map (fun x => laneOp 0x10 (f32sub x m) 0 0))) 0 0)

/-- One value of a row code's output. DEDUCED (log 64). -/
def rowOut (op : Nat) (st : W32 × W32) (x : W32) : W32 :=
  if op = 0x30 then f32mul (f32sub x st.1) st.2
  else if op = 0x31 then f32mul x st.2
  else f32mul (laneOp 0x10 (f32sub x st.1) 0 0) st.2

/-- The source tiles of a row instruction. -/
def rowSrc (c : Core) (x : Eng) (w : IWord) : List Int :=
  (upFrom 0 (sub (iImm w) 10 0)).map (fun u => effAddr c x (iX w) + Int.ofNat (64 * u * c.rinse.src))
/-- The destination tiles of a row instruction. -/
def rowDst (c : Core) (x : Eng) (w : IWord) : List Int :=
  (upFrom 0 (sub (iImm w) 10 0)).map (fun u => effAddr c x (iY w) + Int.ofNat (64 * u * c.rinse.dst))

/-- Whether a row code reduces into a register. -/
def reduces (op : Nat) : Bool := decide (op < 0x30)

/-- The checks of a row instruction (R134, R135). -/
def rowCheck (_ : State) (c : Core) (x : Eng) (w : IWord) : Option Byte :=
  let op := sub (iMod w) 5 0
  let u := sub (iImm w) 10 0
  let known := [0x20, 0x21, 0x22, 0x30, 0x31, 0x32].contains op
  checks [(onlyBits w ([(11, 8), (47, 42), (67, 48), (97, 93), (124, 108)] ++
    (if known && reduces op then [(72, 68)] else [(15, 12), (87, 68), (102, 98)]) ++
    (if op = 0x30 ∨ op = 0x31 ∨ !known then [(92, 88)] else [])), eReserved),
  (known && kcOk (iTa w) (sub (iZ w) 9 5) && (reduces op || kcOk (iTb w) (sub (iZ w) 14 10)), eRange),
  (decide (1 ≤ u) && decide (u ≤ 1024), eRange),
  ((rowSrc c x w).all (fun a => fits a (kcSize (iTa w) (sub (iZ w) 9 5)) basketEnd) &&
    (reduces op || (rowDst c x w).all (fun a => fits a (kcSize (iTb w) (sub (iZ w) 14 10)) basketEnd)), eRange)]

/-- Appends one row to each destination tile. -/
def appendAll (s : State) (core : Nat) (f : OutForm) (row : Nat) : List Int → List (List Acc) → State
  | a :: l, r :: rs => appendAll (appendRows s core 6 f a.toNat row [some r]).1 core f row l rs
  | _, _ => s

/-- The output form of a row code 0x30 to 0x32: its instruction names the tag and the KC, the flags of the core's Rinse-unit station
the rounding and the escapes (R77, R79, R82). DEDUCED (log 64). -/
def rowForm (s : State) (core tag kc : Nat) : OutForm :=
  match partOfCore s core with
  | none => ⟨tag, kc, false, none⟩
  | some n => match (stationFor s n core 6).bind (fun k => (partAt s n).image.bind (fun img => img.stations[k]?)) with
    | some x => ⟨tag, kc, x.stoch && decide (tag ≤ 5), if x.esc && (tag == 2 || tag == 4) then some (escLog s core) else none⟩
    | none => ⟨tag, kc, false, none⟩

/-- A row instruction's effect: source rows, statistics over the valid columns, register lane or destination rows; `bad` poisons its
results. DEDUCED (log 64). -/
def rowEffect (core : Nat) (bad : Bool) (s : State) (w : IWord) : State :=
  let c := coreAt s core
  let x := engAt c 6
  let op := sub (iMod w) 5 0
  let row := sub (iImm w) 16 11
  let t := readTiles s (.basket core) (iTa w) (sub (iZ w) 9 5) (rowSrc c x w)
  let s := noteTrailers t.2 core 6 .activation t.1
  let rows := t.1.map (fun t => t.row row)
  let valid := t.1.map (fun t => t.validCols)
  let l := laneOrder rows valid
  let eps : Acc := if op = 0x30 ∨ op = 0x31 then tget {} c.rinse.reg (64 * sub (iZ w) 4 0) else {}
  let bad := bad || l.any (fun a => a.p) || eps.p
  let vs := l.map (fun a => a.v)
  let s := if bad then coreConsumes s core 6 else s
  let s := if reduces op then
      let v := if op = 0x20 then f32sum vs else if op = 0x21 then f32maxOf vs else f32sum (vs.map (fun x => f32mul x x))
      modCore s core (fun c => { c with rinse := { c.rinse with
        reg := tset {} c.rinse.reg (64 * sub (iY w) 4 0 + row) ⟨v, bad⟩ } })
    else
      let st := rowStats op vs eps.v
      appendAll s core (rowForm s core (iTb w) (sub (iZ w) 14 10)) row (rowDst c x w)
        (rows.map (fun r => r.map (fun a => (⟨rowOut op st a.v, bad || a.p⟩ : Acc))))
  issuedData s core 6 w {}

end Sys2Proof.Machine
end

