-- ==== Sys2Proof/Machine/Rows.lean ====
section
/-! DEFINITION. The row operations of the Rinse unit (RNS_ROW_OP): row instructions (R134, R135), the merges of a combine station
(R256) and the rows of a fused-backward station (R153–R156). -/

namespace Sys2Proof.Machine

/-- The output form of a station, by its first output stream and its flags. -/
def stationForm (s : State) (core : Nat) (st : Station) (x : Stream) : OutForm :=
  ⟨x.fmt, x.kc, st.stoch, if st.esc then some (escLog s core) else none⟩

/-- Whether the Rinse unit of a core may work for a station: its run goes on and the station covers it. -/
def rinseFor (s : State) (core st kind : Nat) : Option (Nat × Station) :=
  match partOfCore s core with
  | some n =>
    if runLive s n && !(coreAt s core).inReset && !(coreAt s core).gated && s.hup.loss == .none then
      match stationAt s n st with
      | some x => if x.kind = kind ∧ covers x (relWidth s n) (relOf s n core) = true then some (n, x) else none
      | none => none
    else none
  | none => none

/-- n FP32 values of a basket from byte address a, each with the poison of its word. -/
def readVals (s : State) (core a : Nat) : Nat → List Acc × State
  | 0 => ([], s)
  | n + 1 =>
    let x := readMem s (.basket core) a 4
    let r := readVals x.2 core (a + 4) n
    (⟨BitVec.ofNat 32 (leNat x.1.1), x.1.2⟩ :: r.1, r.2)

/-- n values of carrier tiles (R152) that stand one after the other from address a, from value i. -/
def readCarrier (s : State) (core a i : Nat) : Nat → List Acc × State
  | 0 => ([], s)
  | n + 1 =>
    let x := readVals s core (a + i / 2048 * 8256 + 4 * (i % 2048)) 1
    let r := readCarrier x.2 core a (i + 1) n
    (x.1 ++ r.1, r.2)

/-! Combine (R256) -/

/-- Merges the partials (m, l, o) of a head: O ÷ L for each of d elements. -/
def mergePartials (d : Nat) (l : List (List W32)) : List W32 :=
  let m := (l.map (fun p => p.getD 0 0)).foldl f32larger (f32inf true)
  let w := l.map (fun p => laneOp 0x10 (f32sub (p.getD 0 0) m) 0 0)
  let sum := fun (i : Nat) => f32sum ((l.zip w).map (fun x => f32mul (x.1.getD i 0) x.2))
  let big := sum 1
  if m = f32inf true ∨ (f32val big).isZero = true then List.replicate d 0
  else (upFrom 0 d).map (fun e => f32div (sum (2 + e)) big)

/-- Writes half h (32 elements) of row `row` of an output tile, as the row-append rule writes rows (R136): the first half of row 0
begins the trailer, the first half of a later row appends it, a second half keeps it. -/
def appendHalf (s : State) (core : Nat) (f : OutForm) (addr row h : Nat) (l : List Acc) : State :=
  let t := readTile s (.basket core) addr f.tag f.kc
  let begins := row == 0 && h == 0
  let agrees := begins || appendFits t.1 f (row + h)
  let s := if begins then s else if agrees then t.2 else trailerMismatch t.2 core 6 .output
  let g := tileForm s core addr begins f
  let l := if agrees then l else l.map (fun a => { a with p := true })
  let have_ := if begins || !agrees then 0 else t.1.trailer 6 1
  let r := outBlock g.1 (2 * row + h) (capOf (kcCode f.kc) - have_) l (coreAt g.2 core).gen
  let s := modCore g.2 core (fun c => { c with gen := r.2.2 })
  let s := writePieces s (.basket core) addr (blkBytes f.tag (kcKind f.kc) r.1 have_)
  let s := if agrees then
      rowTrailer s core addr f begins (have_ + one r.1.escaped) ((if begins then 0 else t.1.escMap) + mapOf [r.1]) (row + 1)
    else s
  let s := countCensus s core 6 (blkCensus r.1 r.2.1)
  if r.1.poison.any id then coreConsumes s core 6 else s

/-- Writes elements from column c on of one row of output tiles that stand one after the other. -/
def appendHalves (s : State) (core : Nat) (f : OutForm) (dst row c : Nat) : Nat → List Acc → State
  | 0, _ => s
  | n + 1, l => appendHalves (appendHalf s core f (dst + c / 64 * kcSize f.tag f.kc) row (c % 64 / 32) (l.take 32)) core f dst row
      (c + 32) n (l.drop 32)

/-- One (row, head) merge of a combine station. DEDUCED (log 69). -/
def combineMerge (s : State) (core st row head : Nat) (src : List Nat) (dst : Nat) : State :=
  match rinseFor s core st 13 with
  | none => s
  | some (n, x) =>
    match streamsOf s n st true with
    | [] => s
    | out :: _ =>
      let hq := x.par 0
      let d := x.par 1
      let spread := x.par 2 / src.length
      let f := stationForm s core x out
      let room := fun (a n : Nat) => decide (a % 64 = 0) && decide (a + n ≤ basketEnd)
      if src.length ≠ (streamsOf s n st false).length ∨ 64 ≤ row ∨ hq ≤ head ∨
          !(src.all (fun a => room a (ceilDiv ((row + 1) * hq * spread * (2 + d)) 2048 * 8256))) ∨
          !room dst (hq * d / 64 * kcSize f.tag f.kc) then s
      else
      let r := src.foldl (fun (a : List (List Acc) × State) base =>
        (upFrom 0 spread).foldl (fun a k =>
          let v := readCarrier a.2 core base (((row * hq + head) * spread + k) * (2 + d)) (2 + d)
          (a.1 ++ [v.1], v.2)) a) ([], s)
      let bad := r.1.any (fun p => p.any (fun a => a.p))
      let vals := mergePartials d (r.1.map (fun p => p.map (fun a => a.v)))
      let s := if bad then coreConsumes r.2 core 6 else r.2
      appendHalves s core f dst row (head * d) (d / 32) (vals.map (fun v => (⟨v, bad⟩ : Acc)))

/-! Fused backward (R153–R156) -/

/-- Tiles of one row group that stand one after the other: row `row` of each, with the tiles' trailer check. -/
def rowAcross (s : State) (core : Nat) (side : TileSide) (tag kc a row n : Nat) : List (List Acc) × State :=
  let r := readTiles s (.basket core) tag kc ((upFrom 0 n).map (fun t => Int.ofNat (a + t * kcSize tag kc)))
  (r.1.map (fun t => t.row row), noteTrailers r.2 core 6 side r.1)

/-- The p1 gains of a station, as it read them at the start of the run (R156). DEDUCED (log 57). -/
def gammaRow (s : State) (n st p1 : Nat) : List Acc :=
  match (partAt s n).run with
  | none => []
  | some r => ((r.gains.filter (fun x => x.1 == st)).flatMap (fun x => x.2)).take p1

/-- The key of a partial sum of R156: 0 dγ, 1 dβ. -/
def gradKey (st which c : Nat) : Nat := st * 2 ^ 18 + which * 2 ^ 17 + c

/-- Adds a row into a core's partial sums. -/
def addGrad (c : Core) (st which : Nat) (l : List Acc) : Core :=
  { c with grad := (l.zipIdx).foldl (fun g x =>
      tmod {} g (gradKey st which x.2) (fun a => ⟨f32add a.v x.1.v, a.p || x.1.p⟩)) c.grad }

/-- dx of one row (R155), with x̂: function, dy, saved values, γ (none: 1), ε. -/
def backwardRow (fn : Nat) (recompute : Bool) (dy x : List W32) (gamma : Option (List W32)) (eps : W32) : List W32 × List W32 :=
  if fn = 2 then
    let y := if recompute then let st := rowStats 0x32 x 0; x.map (rowOut 0x32 st) else x
    let dot := f32sum ((dy.zip y).map (fun p => f32mul p.1 p.2))
    ((dy.zip y).map (fun p => f32mul p.2 (f32sub p.1 dot)), [])
  else
    let op := if fn = 0 then 0x30 else 0x31
    let st := rowStats op x eps
    let xh := x.map (rowOut op st)
    let g := match gamma with | some l => (dy.zip l).map (fun p => f32mul p.1 p.2) | none => dy
    let m2 := f32mean ((g.zip xh).map (fun p => f32mul p.1 p.2))
    let m1 := f32mean g
    ((g.zip xh).map (fun p =>
      f32mul st.2 (f32sub (if fn = 0 then f32sub p.1 m1 else p.1) (f32mul p.2 m2))), xh)

/-- Takes a lane-ordered list of values back to rows of 64: value of (tile t, lane l), zero beyond. -/
def fromLaneOrder (p1 n : Nat) (l : List Acc) : List (List Acc) :=
  let order := (upFrom 0 64).flatMap (fun i => ((upFrom 0 n).filter (fun t => decide (64 * t + i < p1))).map (fun t => 64 * t + i))
  let tab := (order.zip l).foldl (fun (t : Tab Acc) x => tset {} t x.1 x.2) []
  (upFrom 0 n).map (fun t => (upFrom (64 * t) 64).map (tget {} tab))

/-- One row of a fused-backward station. DEDUCED (log 69). -/
def backwardStep (s : State) (core st row dy saved dst : Nat) : State :=
  match rinseFor s core st 4 with
  | none => s
  | some (n, x) =>
    let ins := streamsOf s n st false
    match ins.find? (fun y => !y.weight), ins.find? (fun y => y.weight), streamsOf s n st true with
    | some sd, some ss, out :: _ =>
      let p1 := x.par 1
      let k := ceilDiv p1 64
      let valid := (upFrom 0 k).map (fun t => min 64 (p1 - 64 * t))
      let f := stationForm s core x out
      let room := fun (a n : Nat) => decide (a % 64 = 0) && decide (a + n ≤ basketEnd)
      if 64 ≤ row ∨ !room dy (k * kcSize sd.fmt sd.kc) ∨ !room saved (k * kcSize ss.fmt ss.kc) ∨
          !room dst (k * kcSize f.tag f.kc) then s
      else
      let a := rowAcross s core .activation sd.fmt sd.kc dy row k
      let b := rowAcross a.2 core .weight ss.fmt ss.kc saved row k
      let s := b.2
      let ld := laneOrder a.1 valid
      let ls := laneOrder b.1 valid
      let gam := if x.par 4 = 0 then none
        else some (laneOrder (let g := gammaRow s n st p1; (upFrom 0 k).map (fun t => (g.drop (64 * t)).take 64)) valid)
      let bad := ld.any (fun a => a.p) || ls.any (fun a => a.p) ||
        (match gam with | some g => g.any (fun a => a.p) | none => false)
      let r := backwardRow (x.par 0) (x.par 3 == 1) (ld.map (fun a => a.v)) (ls.map (fun a => a.v))
        (gam.map (fun g => g.map (fun a => a.v))) (x.p.getD 5 0)
      let dys := (fromLaneOrder p1 k ld).flatten.take p1
      let xhs := (fromLaneOrder p1 k (r.2.map (fun v => (⟨v, ls.any (fun a => a.p)⟩ : Acc)))).flatten.take p1
      let s := if bad then coreConsumes s core 6 else s
      let s := if x.par 4 = 0 then s else modCore s core (fun c =>
        let c := addGrad c st 0 ((dys.zip xhs).map (fun p => ⟨f32mul p.1.v p.2.v, p.1.p || p.2.p⟩))
        if x.par 4 = 2 then addGrad c st 1 dys else c)
      appendAll s core f row ((upFrom 0 k).map (fun t => Int.ofNat (dst + t * kcSize f.tag f.kc)))
        (fromLaneOrder p1 k (r.1.map (fun v => (⟨v, bad⟩ : Acc))))
    | _, _, _ => s

/-- RNS_ROW_OP. -/
def execRnsRowOp (core : CoreId) (job : RinseJob) (s : State) : Host.Outcome State Fault Refusal :=
  whenAon s fun s => match job with
    | .instr fault => issue s core.val 6 4 rowCheck (underResidue core.val 6 fault (rowEffect core.val))
    | .combine st row head src dst => combineMerge s core.val st row head src dst
    | .backward st row dy saved dst => backwardStep s core.val st row dy saved dst

/-! Re-execution after sparing (R106) -/

/-- The instruction of a core that waited for its sparing is executed anew, when its run still goes on. DEDUCED (log 129). -/
def redoCore (s : State) (core : Nat) : State :=
  match (coreAt s core).redo, partOfCore s core with
  | some r, some n =>
    let s := modCore s core (fun c => { c with redo := none })
    if !(runLive s n) then s
    else match r.eng with
      | 3 => mmRedo core false r s
      | 4 => mmRedo core true r s
      | 5 => residueRedo core r (mvEffect core) s
      | _ => residueRedo core r (if iOp r.word = 0x63 then vectorEffect core else rowEffect core) s
  | _, _ => s

/-- CORE_SPARING_COMPLETE (R195, R196): the sparing of a physical core ends, and the logical cores that moved go on. DEDUCED (log 129). -/
def execCoreSparingComplete (core : PhysId) (s : State) : Host.Outcome State Fault Refusal :=
  whenAon s fun s => match sparingOf s core.val with
    | some x => (movedCores x).foldl redoCore (finishSparing s x)
    | none => s

end Sys2Proof.Machine
end

