-- ==== Sys2Proof/Machine/Sequencer.lean ====
section
/-! DEFINITION. The Sequencer, the Mover and Fetch (R125–R128). -/

namespace Sys2Proof.Machine

/-! Sequencer (engine 0) -/

/-- A scalar register; s0 reads as zero. -/
def sreg (c : Core) (r : Nat) : W32 := if r = 0 then 0 else tget 0 c.sreg r

/-- Writes a scalar register; s0 discards it. -/
def setSreg (s : State) (core r : Nat) (v : W32) : State :=
  if r = 0 then s else modCore s core (fun c => { c with sreg := tset 0 c.sreg r v })

/-- The immediate, sign-extended to 32 bits. -/
def immSigned (w : IWord) : W32 := BitVec.ofInt 32 (sext 20 (iImm w))

/-- The check of SEQ.LI and SEQ.LUI. -/
def liCheck (_ : State) (_ : Core) (_ : Eng) (w : IWord) : Option Byte :=
  checks [(onlyBits w [(51, 48), (127, 108)], eReserved)]

/-- SEQ.LI. -/
def execSeqLi (core : CoreId) (s : State) : Host.Outcome State Fault Refusal :=
  whenAon s fun s =>
    issue s core.val 0 1 liCheck
      (fun s w => issued (setSreg s core.val (iX w) (immSigned w)) core.val 0 w {} true)

/-- SEQ.LUI. -/
def execSeqLui (core : CoreId) (s : State) : Host.Outcome State Fault Refusal :=
  whenAon s fun s =>
    issue s core.val 0 2 liCheck
      (fun s w => issued (setSreg s core.val (iX w) (BitVec.ofNat 32 (iImm w * 4096))) core.val 0 w {} true)

/-- The ALU operation mod[3:0] selects (R125). -/
def aluOp (f : Nat) (a b : W32) : W32 :=
  match f with
  | 0 => a + b
  | 1 => a - b
  | 2 => a &&& b
  | 3 => a ||| b
  | 4 => a ^^^ b
  | 5 => a <<< (b.toNat % 32)
  | 6 => a >>> (b.toNat % 32)
  | 7 => a * b
  | 8 => if a.toNat ≤ b.toNat then a else b
  | _ => if a.toNat ≤ b.toNat then b else a

/-- The checks of SEQ ALU operations (R125). -/
def aluCheck (_ : State) (_ : Core) (_ : Eng) (w : IWord) : Option Byte :=
  checks
    [(if sub (iMod w) 5 5 = 1 then onlyBits w [(51, 48), (71, 68), (45, 42), (47, 47), (127, 108)]
      else onlyBits w [(51, 48), (71, 68), (91, 88), (45, 42)], eReserved),
     (decide (sub (iMod w) 3 0 ≤ 9), eRange)]

/-- SEQ.ADD to SEQ.MAXU. DEDUCED (log 65). -/
def execSeqAlu (core : CoreId) (s : State) : Host.Outcome State Fault Refusal :=
  whenAon s fun s =>
    issue s core.val 0 3
      aluCheck
      (fun s w =>
        let c := coreAt s core.val
        let b := if sub (iMod w) 5 5 = 1 then immSigned w else sreg c (iZ w)
        issued (setSreg s core.val (iX w) (aluOp (sub (iMod w) 3 0) (sreg c (iY w)) b)) core.val 0 w {} true)

/-- The value SEQ.SETB writes, without wrap. -/
def setbValue (c : Core) (w : IWord) : Int := Int.ofNat (sreg c (iY w)).toNat + 64 * sext 20 (iImm w)

/-- The checks of SEQ.SETB. -/
def setbCheck (_ : State) (c : Core) (_ : Eng) (w : IWord) : Option Byte :=
  checks [(onlyBits w [(51, 48), (71, 68), (127, 108)], eReserved),
    (decide (setbValue c w % 64 = 0), eAlign),
    (decide (0 ≤ setbValue c w) && decide (setbValue c w ≤ 0x1FFFFF), eRange)]

/-- SEQ.SETB: the base is written as the instruction retires (R87). DEDUCED (log 65). -/
def execSeqSetb (core : CoreId) (s : State) : Host.Outcome State Fault Refusal :=
  whenAon s fun s =>
    issue s core.val 0 4
      setbCheck
      (fun s w => issued s core.val 0 w
        { base := some (iX w, BitVec.ofInt 32 (setbValue (coreAt s core.val) w)) } true)

/-- The address of a Sequencer's basket word. -/
def seqAddr (c : Core) (x : Eng) (w : IWord) : Int := effAddr c x (iY w) + Int.ofNat (4 * sub (iMod w) 3 0)

/-- The checks of SEQ.LD and SEQ.ST. -/
def seqMemCheck (_ : State) (c : Core) (x : Eng) (w : IWord) : Option Byte :=
  checks [(onlyBits w [(51, 48), (87, 68), (45, 42)], eReserved),
    (fits (seqAddr c x w) 4 basketEnd, eRange)]

/-- SEQ.LD: a poisoned word halts the engine (R268). DEDUCED (log 65). -/
def execSeqLd (core : CoreId) (s : State) : Host.Outcome State Fault Refusal :=
  whenAon s fun s =>
    issue s core.val 0 5
      seqMemCheck
      (fun s w =>
        let c := coreAt s core.val
        let r := readMem s (.basket core.val) (seqAddr c (engAt c 0) w).toNat 4
        if r.1.2 then haltIllegal (coreConsumes r.2 core.val 0) core.val 0 sPoison
        else issuedData (setSreg r.2 core.val (iX w) (BitVec.ofNat 32 (leNat r.1.1))) core.val 0 w {})

/-- SEQ.ST. -/
def execSeqSt (core : CoreId) (s : State) : Host.Outcome State Fault Refusal :=
  whenAon s fun s =>
    issue s core.val 0 6
      seqMemCheck
      (fun s w =>
        let c := coreAt s core.val
        issuedData (writeBytes s (.basket core.val) (seqAddr c (engAt c 0) w).toNat (leBytes (sreg c (iX w)).toNat 4) false)
          core.val 0 w {})

/-- The condition of SEQ.BR (R125). -/
def brTaken (f : Nat) (a b : W32) : Bool :=
  match f with
  | 0 => true
  | 1 => a == b
  | 2 => a != b
  | 3 => decide (a.toInt < b.toInt)
  | 4 => decide (b.toInt ≤ a.toInt)
  | 5 => decide (a.toNat < b.toNat)
  | _ => decide (b.toNat ≤ a.toNat)

/-- The target of SEQ.BR. -/
def brTarget (x : Eng) (w : IWord) : Int := Int.ofNat x.pc + sext 20 (iImm w)

/-- The checks of SEQ.BR. -/
def brCheck (_ : State) (c : Core) (x : Eng) (w : IWord) : Option Byte :=
  let t := brTarget x w
  checks [(onlyBits w [(71, 68), (91, 88), (44, 42), (127, 108)], eReserved),
    (decide (sub (iMod w) 2 0 ≤ 6), eRange),
    (decide (0 ≤ t) && decide (t < Int.ofNat (progOf c 0).2), eRange),
    (match x.loops with
     | l :: _ => decide (Int.ofNat l.start ≤ t) && decide (t < Int.ofNat (l.start + l.len))
     | [] => true, eState)]

/-- SEQ.BR. DEDUCED (log 65). -/
def execSeqBr (core : CoreId) (s : State) : Host.Outcome State Fault Refusal :=
  whenAon s fun s =>
    issue s core.val 0 7
      brCheck
      (fun s w =>
        let c := coreAt s core.val
        let s := if brTaken (sub (iMod w) 2 0) (sreg c (iY w)) (sreg c (iZ w))
          then jumpTo s core.val 0 (brTarget (engAt c 0) w).toNat else passHead s core.val 0
        launch s core.val 0 w {} true)

/-- The check of SEQ.RDTS. -/
def rdtsCheck (_ : State) (_ : Core) (_ : Eng) (w : IWord) : Option Byte :=
  checks [(onlyBits w [(51, 48), (42, 42)], eReserved)]

/-- SEQ.RDTS. -/
def execSeqRdts (core : CoreId) (s : State) : Host.Outcome State Fault Refusal :=
  whenAon s fun s =>
    issue s core.val 0 8 rdtsCheck
      (fun s w => issued (setSreg s core.val (iX w) (if sub (iMod w) 0 0 = 1 then hi32 s.time else lo32 s.time))
        core.val 0 w {} true)

/-! Mover (engine 1) -/

/-- The region an arm's memory ends at. -/
def armEnd (w : IWord) : Nat := if sub (iMod w) 0 0 = 1 then sliceEnd else basketEnd

/-- Checks of MOV.SEND and MOV.RECV (R126, R139): the plan entry exists with the opcode's direction. -/
def movCheck (core : Nat) (recv : Bool) (s : State) (c : Core) (x : Eng) (w : IWord) : Option Byte :=
  checks [(onlyBits w [(42, 42), (67, 48), (79, 68), (127, 108)], eReserved),
    (decide (1 ≤ iImm w), eRange),
    (fits (effAddr c x (iX w)) (64 * iImm w) (armEnd w), eRange),
    (match planEntry s core (iY w) with | some (d, _) => d == recv | none => false, eRange)]

/-- An entry queues at most two arms (R175). -/
def armFree (c : Core) (w : IWord) : Bool := decide ((tget [] c.arms (iY w)).length < 2)

/-- Arms a plan entry (R126, R175). -/
def armEntry (s : State) (core : Nat) (w : IWord) : State :=
  let c := coreAt s core
  let id := c.nextArm
  let a : Arm := { id, slice := sub (iMod w) 0 0 == 1, addr := (effAddr c (engAt c 1) (iX w)).toNat, left := iImm w }
  issued (modCore s core (fun c => { c with nextArm := id + 1, arms := tmod [] c.arms (iY w) (fun l => l ++ [a]) }))
    core 1 w { until_ := .arm id } false

/-- MOV.SEND. -/
def execMovSend (core : CoreId) (s : State) : Host.Outcome State Fault Refusal :=
  whenAon s fun s => issueIf s core.val 1 1 armFree (movCheck core.val false) (fun s w => armEntry s core.val w)

/-- MOV.RECV. -/
def execMovRecv (core : CoreId) (s : State) : Host.Outcome State Fault Refusal :=
  whenAon s fun s => issueIf s core.val 1 2 armFree (movCheck core.val true) (fun s w => armEntry s core.val w)

/-! Fetch (engine 2) -/

/-- Poisons the words of the first k of a list. DEDUCED (log 66). -/
def poisonFirst (k : Nat) (l : List (W64 × Bool)) : List (W64 × Bool) :=
  (l.take k).map (fun x => (x.1, true)) ++ l.drop k

/-- Words from a slice address to the end of its 256-byte line. DEDUCED (log 66). -/
def lineWords (a : Nat) : Nat := 32 - a / 8 % 32

/-- The record of a slice command that failed its check (R168). DEDUCED (log 66). -/
def sliceCommandError (s : State) (core : Nat) : State :=
  raise s { kind := kSliceCommand, unit := uPhys, id := physOf s core, part := partOfCore s core }

/-- The checks of FET.LOAD. -/
def loadCheck (_ : State) (c : Core) (x : Eng) (w : IWord) : Option Byte :=
  checks [(onlyBits w [(67, 48), (87, 68), (127, 108)], eReserved), (decide (1 ≤ iImm w), eRange),
    (fits (effAddr c x (iX w)) (64 * iImm w) sliceEnd && fits (effAddr c x (iY w)) (64 * iImm w) basketEnd, eRange)]

/-- FET.LOAD. A slice command that fails its check returns poison for its line (R168); the words named become uncorrectable on the vertical
channel (R265). -/
def execFetLoad (core : CoreId) (cmdError : Bool) (bad : List Nat) (s : State) : Host.Outcome State Fault Refusal :=
  whenAon s fun s =>
    issue s core.val 2 1
      loadCheck
      (fun s w =>
        let c := coreAt s core.val
        let a := (effAddr c (engAt c 2) (iX w)).toNat
        let r := readWords s (.slice core.val) (a / 8) (8 * iImm w)
        let l := if cmdError then poisonFirst (lineWords a) r.1 else r.1
        let x := crossWords (if cmdError then sliceCommandError r.2 core.val else r.2) 0 (physOf s core.val) bad l
        issuedData (writeWords x.2 (.basket core.val) ((effAddr c (engAt c 2) (iY w)).toNat / 8) x.1) core.val 2 w {})

/-- The checks of FET.STORE. -/
def storeCheck (_ : State) (c : Core) (x : Eng) (w : IWord) : Option Byte :=
  checks [(onlyBits w [(67, 48), (87, 68), (127, 108)], eReserved), (decide (1 ≤ iImm w), eRange),
    (fits (effAddr c x (iX w)) (64 * iImm w) basketEnd && fits (effAddr c x (iY w)) (64 * iImm w) sliceEnd, eRange)]

/-- FET.STORE. A slice command that fails its check is discarded: its line is not written (R168); the words named become uncorrectable on
the vertical channel (R265). -/
def execFetStore (core : CoreId) (cmdError : Bool) (bad : List Nat) (s : State) : Host.Outcome State Fault Refusal :=
  whenAon s fun s =>
    issue s core.val 2 2
      storeCheck
      (fun s w =>
        let c := coreAt s core.val
        let d := (effAddr c (engAt c 2) (iY w)).toNat
        let r := readWords s (.basket core.val) ((effAddr c (engAt c 2) (iX w)).toNat / 8) (8 * iImm w)
        let skip := if cmdError then lineWords d else 0
        let x := crossWords (if cmdError then sliceCommandError r.2 core.val else r.2) 0 (physOf s core.val) bad r.1
        issuedData (writeWords x.2 (.slice core.val) (d / 8 + skip) (x.1.drop skip)) core.val 2 w {})

/-- The checks of FET.FILL. -/
def fillCheck (_ : State) (c : Core) (x : Eng) (w : IWord) : Option Byte :=
  checks [(onlyBits w [(87, 68), (127, 108)], eReserved), (decide (1 ≤ iImm w), eRange),
    (fits (effAddr c x (iY w)) (64 * iImm w) basketEnd, eRange)]

/-- FET.FILL. -/
def execFetFill (core : CoreId) (s : State) : Host.Outcome State Fault Refusal :=
  whenAon s fun s =>
    issue s core.val 2 3
      fillCheck
      (fun s w =>
        let c := coreAt s core.val
        issuedData (writeWords s (.basket core.val) ((effAddr c (engAt c 2) (iY w)).toNat / 8)
          (List.replicate (8 * iImm w) (0, false))) core.val 2 w {})

end Sys2Proof.Machine
end

