-- ==== Sys2Proof/Machine/Watch.lean ====
section
/-! DEFINITION. The core watchdog (R113), and what it must find first: an illegal instruction at the head of an engine's queue (R139–R141). -/

namespace Sys2Proof.Machine

/-- The check of an instruction at the head of an engine, whatever its function: the status of the first check that fails (R139). -/
def headCheck (s : State) (core e : Nat) (c : Core) (x : Eng) (w : IWord) : Option Byte :=
  if iOp w / 16 ≠ e ∨ !(assigned (iOp w)) then some eRange
  else match iOp w % 16 with
    | 0 => nopCheck s c x w
    | 13 => loopCheck e s c x w
    | 14 => barCheck core s c x w
    | 15 => nopCheck s c x w
    | _ => match iOp w with
      | 0x01 => liCheck s c x w
      | 0x02 => liCheck s c x w
      | 0x03 => aluCheck s c x w
      | 0x04 => setbCheck s c x w
      | 0x05 => seqMemCheck s c x w
      | 0x06 => seqMemCheck s c x w
      | 0x07 => brCheck s c x w
      | 0x08 => rdtsCheck s c x w
      | 0x11 => movCheck core false s c x w
      | 0x12 => movCheck core true s c x w
      | 0x21 => loadCheck s c x w
      | 0x22 => storeCheck s c x w
      | 0x23 => fillCheck s c x w
      | 0x31 => mmCheck false s c x w
      | 0x41 => mmCheck true s c x w
      | 0x32 => drnCheck s c x w
      | 0x42 => drnCheck s c x w
      | 0x33 => layCheck s c x w
      | 0x43 => layCheck s c x w
      | 0x34 => clrCheck s c x w
      | 0x44 => clrCheck s c x w
      | 0x45 => gdrvCheck s c x w
      | 0x51 => lvCheck s c x w
      | 0x52 => mvCheck s c x w
      | 0x53 => ndlDrnCheck s c x w
      | 0x61 => rnsLdCheck s c x w
      | 0x62 => rnsStCheck s c x w
      | 0x63 => vectorCheck s c x w
      | 0x64 => rowCheck s c x w
      | _ => rnsLayCheck s c x w

/-- An engine of a partition that may issue and has an illegal instruction at its head: core, engine, status. DEDUCED (log 135). -/
def illegalHead (s : State) (n : Nat) : Option (Nat × Nat × Byte) :=
  ((coresOf s n).flatMap (fun k => (upFrom 0 7).filterMap (fun e =>
    match (engAt (coreAt s k) e).queue with
    | w :: _ => if mayIssue s k e then (headCheck s k e (coreAt s k) (engAt (coreAt s k) e) w).map (fun st => (k, e, st)) else none
    | [] => none))).head?

/-- The time a core's watchdog has counted, in 1/3,480 of a tick of 40 ns (R113): one cycle is 58 or 60 of them.
DEDUCED (log 58). -/
def wdogCount (s : State) (c : Core) : Nat := 3480 * since s c.progress - c.excluded

/-- CORE_WATCHDOG (R113): the count has reached wdog_ms. An illegal instruction that an engine of the partition finds in the same cycle ends the
run instead (R141). DEDUCED (log 135). -/
def execCoreWatchdog (core : CoreId) (s : State) : Host.Outcome State Fault Refusal :=
  whenAon s fun s =>
    let c := coreAt s core.val
    match partOfCore s core.val with
    | none => s
    | some n =>
      if runLive s n && timeCounts s && !c.inReset && decide (wdogMs s n * 87000000 ≤ wdogCount s c) &&
          (upFrom 0 7).any (fun e => (engAt c e).st != .ended) then
        match illegalHead s n with
        | some x => haltIllegal s x.1 x.2.1 x.2.2
        | none =>
          let s := raise s { kind := kEngineHang, unit := uCore, id := core.val, part := some n, status := sTimeout,
                             detail := (engStates c).toNat }
          let s := stopRun s n { status := sTimeout }
          modCores s n (fun c => (upFrom 0 7).foldl (fun c e => modEng c e (fun x =>
            { x with st := if x.st = .ended then .ended else .halted })) c)
      else s

end Sys2Proof.Machine
end

