-- ==== Sys2Proof/Machine/Dispatch.lean ====
section
/-! DEFINITION. The meaning of each command, by constructor. -/

namespace Sys2Proof.Machine

/-- The effect of a command on everything but the queue. -/
def exec (i : Instr) (s : State) : Host.Outcome State Fault Refusal :=
  match i with
  | .frameBoundary f => Sys2Proof.Machine.execFrameBoundary f s
  | .retuneMeasurement g errors => Sys2Proof.Machine.execRetuneMeasurement g errors s
  | .partLoad port ring => Sys2Proof.Machine.execPartLoad port ring s
  | .imageLoadComplete part => Sys2Proof.Machine.execImageLoadComplete part s
  | .queueRefill core => Sys2Proof.Machine.execQueueRefill core s
  | .instructionRetire core eng => Sys2Proof.Machine.execInstructionRetire core eng s
  | .clockGating core => Sys2Proof.Machine.execClockGating core s
  | .coreWatchdog core => Sys2Proof.Machine.execCoreWatchdog core s
  | .nop core eng => Sys2Proof.Machine.execNop core eng s
  | .loop core eng => Sys2Proof.Machine.execLoop core eng s
  | .bar core eng => Sys2Proof.Machine.execBar core eng s
  | .endProg core eng => Sys2Proof.Machine.execEndProg core eng s
  | .seqLi core => Sys2Proof.Machine.execSeqLi core s
  | .seqLui core => Sys2Proof.Machine.execSeqLui core s
  | .seqAlu core => Sys2Proof.Machine.execSeqAlu core s
  | .seqSetb core => Sys2Proof.Machine.execSeqSetb core s
  | .seqLd core => Sys2Proof.Machine.execSeqLd core s
  | .seqSt core => Sys2Proof.Machine.execSeqSt core s
  | .seqBr core => Sys2Proof.Machine.execSeqBr core s
  | .seqRdts core => Sys2Proof.Machine.execSeqRdts core s
  | .movSend core => Sys2Proof.Machine.execMovSend core s
  | .movRecv core => Sys2Proof.Machine.execMovRecv core s
  | .fetLoad core cmdError bad => Sys2Proof.Machine.execFetLoad core cmdError bad s
  | .fetStore core cmdError bad => Sys2Proof.Machine.execFetStore core cmdError bad s
  | .fetFill core => Sys2Proof.Machine.execFetFill core s
  | .mm core g fault => Sys2Proof.Machine.execMm core g fault s
  | .drn core g => Sys2Proof.Machine.execDrn core g s
  | .lay core g => Sys2Proof.Machine.execLay core g s
  | .clr core g => Sys2Proof.Machine.execClr core g s
  | .gdrv core => Sys2Proof.Machine.execGdrv core s
  | .ndlLv core => Sys2Proof.Machine.execNdlLv core s
  | .ndlMv core fault => Sys2Proof.Machine.execNdlMv core fault s
  | .ndlDrn core => Sys2Proof.Machine.execNdlDrn core s
  | .rnsLd core => Sys2Proof.Machine.execRnsLd core s
  | .rnsSt core => Sys2Proof.Machine.execRnsSt core s
  | .rnsVectorOp core fault => Sys2Proof.Machine.execRnsVectorOp core fault s
  | .rnsRowOp core job => Sys2Proof.Machine.execRnsRowOp core job s
  | .rnsLay core => Sys2Proof.Machine.execRnsLay core s
  | .shadowAudit core station finished => Sys2Proof.Machine.execShadowAudit core station finished s
  | .slipLimit part => Sys2Proof.Machine.execSlipLimit part s
  | .seamRingReplaced ring => Sys2Proof.Machine.execSeamRingReplaced ring s
  | .uncorrectableRingWord ring east slot => Sys2Proof.Machine.execUncorrectableRingWord ring east slot s
  | .liveCoreSparing core => Sys2Proof.Machine.execLiveCoreSparing core s
  | .coreSparingComplete core => Sys2Proof.Machine.execCoreSparingComplete core s
  | .tackMessageLost src dst chan => Sys2Proof.Machine.execTackMessageLost src dst chan s
  | .tackRequestTimeout src dst chan read => Sys2Proof.Machine.execTackRequestTimeout src dst chan read s
  | .tackSeamChannelFailed sideband => Sys2Proof.Machine.execTackSeamChannelFailed sideband s
  | .refreshDue site bg bank nextBanks => Sys2Proof.Machine.execRefreshDue site bg bank nextBanks s
  | .forcedRefresh nbu => Sys2Proof.Machine.execForcedRefresh nbu s
  | .eventSummaryPoll site pseudo => Sys2Proof.Machine.execEventSummaryPoll site pseudo s
  | .nbuOpAccept nbu => Sys2Proof.Machine.execNbuOpAccept nbu s
  | .nbuOpCompletion nbu => Sys2Proof.Machine.execNbuOpCompletion nbu s
  | .nbuOpTimeout nbu => Sys2Proof.Machine.execNbuOpTimeout nbu s
  | .nbuFence nbu => Sys2Proof.Machine.execNbuFence nbu s
  | .nbuInvocationStart part station tiles => Sys2Proof.Machine.execNbuInvocationStart part station tiles s
  | .nbuInvocationEnd part station => Sys2Proof.Machine.execNbuInvocationEnd part station s
  | .ordinaryAccess a => Sys2Proof.Machine.execOrdinaryAccess a s
  | .interleaveService nbu nextBanks => Sys2Proof.Machine.execInterleaveService nbu nextBanks s
  | .kvAppend part station => Sys2Proof.Machine.execKvAppend part station s
  | .kvAppendLogRoom part station => Sys2Proof.Machine.execKvAppendLogRoom part station s
  | .decodeInvocation part station tiles => Sys2Proof.Machine.execDecodeInvocation part station tiles s
  | .kvCommit port ring => Sys2Proof.Machine.execKvCommit port ring s
  | .kvRelease port ring => Sys2Proof.Machine.execKvRelease port ring s
  | .patrolScrubRead cls => Sys2Proof.Machine.execPatrolScrubRead cls s
  | .scrubBehind cls => Sys2Proof.Machine.execScrubBehind cls s
  | .scrubRange port ring => Sys2Proof.Machine.execScrubRange port ring s
  | .ppr port ring => Sys2Proof.Machine.execPpr port ring s
  | .pprApply site bg spareLeft => Sys2Proof.Machine.execPprApply site bg spareLeft s
  | .checkerTest wrong => Sys2Proof.Machine.execCheckerTest wrong s
  | .flipArm a v => Sys2Proof.Machine.execFlipArm a v s
  | .flipDoneClear a v => Sys2Proof.Machine.execFlipDoneClear a v s
  | .splitRawWrite a v => Sys2Proof.Machine.execSplitRawWrite a v s
  | .splitRawRead a v => Sys2Proof.Machine.execSplitRawRead a v s
  | .transactionFlit link f => Sys2Proof.Machine.execTransactionFlit link f s
  | .nullFlit link f => Sys2Proof.Machine.execNullFlit link f s
  | .nakRepeat link => Sys2Proof.Machine.execNakRepeat link s
  | .replayTimeout link => Sys2Proof.Machine.execReplayTimeout link s
  | .laneFailed port lane => Sys2Proof.Machine.execLaneFailed port lane s
  | .cap link f => Sys2Proof.Machine.execCap link f s
  | .capAck link f => Sys2Proof.Machine.execCapAck link f s
  | .retrain link cause => Sys2Proof.Machine.execRetrain link cause s
  | .down link f => Sys2Proof.Machine.execDown link f s
  | .trainingComplete link width failedLanes => Sys2Proof.Machine.execTrainingComplete link width failedLanes s
  | .portDown link => Sys2Proof.Machine.execPortDown link s
  | .trainingRetry link => Sys2Proof.Machine.execTrainingRetry link s
  | .cpld port tag status last offset data => Sys2Proof.Machine.execCpld port tag status last offset data s
  | .mrdTimeout port tag => Sys2Proof.Machine.execMrdTimeout port tag s
  | .tagRetireExpiry port tag => Sys2Proof.Machine.execTagRetireExpiry port tag s
  | .dbl port body => Sys2Proof.Machine.execDbl port body s
  | .srd a body => Sys2Proof.Machine.execSrd a body s
  | .swr a body => Sys2Proof.Machine.execSwr a body s
  | .mgtRead word => Sys2Proof.Machine.execMgtRead word s
  | .mgtWrite word v => Sys2Proof.Machine.execMgtWrite word v s
  | .nalsonRetrainRequest a n v => Sys2Proof.Machine.execNalsonRetrainRequest a n v s
  | .nalsonDisable a n v => Sys2Proof.Machine.execNalsonDisable a n v s
  | .ringEnable a p ring v => Sys2Proof.Machine.execRingEnable a p ring v s
  | .ringDisable a p ring v => Sys2Proof.Machine.execRingDisable a p ring v s
  | .errorRingEnable a p v => Sys2Proof.Machine.execErrorRingEnable a p v s
  | .errorRingDisable a p v => Sys2Proof.Machine.execErrorRingDisable a p v s
  | .nopDescriptor port ring => Sys2Proof.Machine.execNopDescriptor port ring s
  | .partRun port ring => Sys2Proof.Machine.execPartRun port ring s
  | .runStart part => Sys2Proof.Machine.execRunStart part s
  | .runEnd part => Sys2Proof.Machine.execRunEnd part s
  | .partStop port ring => Sys2Proof.Machine.execPartStop port ring s
  | .partReset port ring => Sys2Proof.Machine.execPartReset port ring s
  | .partitionResetComplete part => Sys2Proof.Machine.execPartitionResetComplete part s
  | .copyIn port ring => Sys2Proof.Machine.execCopyIn port ring s
  | .copyOut port ring => Sys2Proof.Machine.execCopyOut port ring s
  | .paramDefine port ring => Sys2Proof.Machine.execParamDefine port ring s
  | .paramFreeze port ring => Sys2Proof.Machine.execParamFreeze port ring s
  | .paramFlip port ring => Sys2Proof.Machine.execParamFlip port ring s
  | .gradFetch port ring => Sys2Proof.Machine.execGradFetch port ring s
  | .nbuOp port ring => Sys2Proof.Machine.execNbuOp port ring s
  | .nbuAbort port ring => Sys2Proof.Machine.execNbuAbort port ring s
  | .semaphoreClaim a => Sys2Proof.Machine.execSemaphoreClaim a s
  | .semaphoreRelease a v => Sys2Proof.Machine.execSemaphoreRelease a v s
  | .semaphoreBreak a v => Sys2Proof.Machine.execSemaphoreBreak a v s
  | .leaseExpiry => Sys2Proof.Machine.execLeaseExpiry s
  | .foldWrite a offset v => Sys2Proof.Machine.execFoldWrite a offset v s
  | .foldCheck a v => Sys2Proof.Machine.execFoldCheck a v s
  | .foldPress a v => Sys2Proof.Machine.execFoldPress a v s
  | .foldPressAtBoundary => Sys2Proof.Machine.execFoldPressAtBoundary s
  | .foldFreeze a v => Sys2Proof.Machine.execFoldFreeze a v s
  | .foldDiscard a v => Sys2Proof.Machine.execFoldDiscard a v s
  | .sdata port p => Sys2Proof.Machine.execSdata port p s
  | .swrite port p => Sys2Proof.Machine.execSwrite port p s
  | .announce port p => Sys2Proof.Machine.execAnnounce port p s
  | .announceHoldExpiry part stream => Sys2Proof.Machine.execAnnounceHoldExpiry part stream s
  | .creditStall port => Sys2Proof.Machine.execCreditStall port s
  | .myaWrite port ring => Sys2Proof.Machine.execMyaWrite port ring s
  | .myaAnnounce port ring => Sys2Proof.Machine.execMyaAnnounce port ring s
  | .myaStreamClear port ring => Sys2Proof.Machine.execMyaStreamClear port ring s
  | .myarnLaneFail port lane => Sys2Proof.Machine.execMyarnLaneFail port lane s
  | .spare port f codeword => Sys2Proof.Machine.execSpare port f codeword s
  | .spareAck port f => Sys2Proof.Machine.execSpareAck port f s
  | .laneSubstitution port codeword => Sys2Proof.Machine.execLaneSubstitution port codeword s
  | .barrierArrival core eng => Sys2Proof.Machine.execBarrierArrival core eng s
  | .arrive port p => Sys2Proof.Machine.execArrive port p s
  | .release port p => Sys2Proof.Machine.execRelease port p s
  | .barrierTimeout bar => Sys2Proof.Machine.execBarrierTimeout bar s
  | .lendingCompute gatedMw => Sys2Proof.Machine.execLendingCompute gatedMw s
  | .avsReadback rail mv alert => Sys2Proof.Machine.execAvsReadback rail mv alert s
  | .trimRegulatorFail reg => Sys2Proof.Machine.execTrimRegulatorFail reg s
  | .headerStage cluster droop neighbourPct => Sys2Proof.Machine.execHeaderStage cluster droop neighbourPct s
  | .headerStageForced cluster => Sys2Proof.Machine.execHeaderStageForced cluster s
  | .currentTelemetryCheck sumMa readMa => Sys2Proof.Machine.execCurrentTelemetryCheck sumMa readMa s
  | .budgetSelectAccept v => Sys2Proof.Machine.execBudgetSelectAccept v s
  | .droop cluster => Sys2Proof.Machine.execDroop cluster s
  | .droopHoldExpiry part => Sys2Proof.Machine.execDroopHoldExpiry part s
  | .overCurrent half => Sys2Proof.Machine.execOverCurrent half s
  | .overCurrentClear half => Sys2Proof.Machine.execOverCurrentClear half s
  | .thermalSample reads lines => Sys2Proof.Machine.execThermalSample reads lines s
  | .sensorFlag sensor => Sys2Proof.Machine.execSensorFlag sensor s
  | .sensorFlagClear sensor => Sys2Proof.Machine.execSensorFlagClear sensor s
  | .thermalHaltRelease part => Sys2Proof.Machine.execThermalHaltRelease part s
  | .thermtrip sensor => Sys2Proof.Machine.execThermtrip sensor s
  | .tachCheck idleMs rpm => Sys2Proof.Machine.execTachCheck idleMs rpm s
  | .fanFailed f => Sys2Proof.Machine.execFanFailed f s
  | .inletRead t => Sys2Proof.Machine.execInletRead t s
  | .fanDutyUpdate => Sys2Proof.Machine.execFanDutyUpdate s
  | .airflowSecond t2m16 powerMw => Sys2Proof.Machine.execAirflowSecond t2m16 powerMw s
  | .airflowCapUpdate => Sys2Proof.Machine.execAirflowCapUpdate s
  | .airflowLostExit => Sys2Proof.Machine.execAirflowLostExit s
  | .marginReview => Sys2Proof.Machine.execMarginReview s
  | .reviewNow a v => Sys2Proof.Machine.execReviewNow a v s
  | .packAuthentication record => Sys2Proof.Machine.execPackAuthentication record s
  | .packChallengeResponse signature => Sys2Proof.Machine.execPackChallengeResponse signature s
  | .packPoll p => Sys2Proof.Machine.execPackPoll p s
  | .packTest uv => Sys2Proof.Machine.execPackTest uv s
  | .packTestEnd v10uv v100uv integral => Sys2Proof.Machine.execPackTestEnd v10uv v100uv integral s
  | .testNow a v => Sys2Proof.Machine.execTestNow a v s
  | .windowRecompute uv => Sys2Proof.Machine.execWindowRecompute uv s
  | .packCounterUpdate => Sys2Proof.Machine.execPackCounterUpdate s
  | .powerLossAccept => Sys2Proof.Machine.execPowerLossAccept s
  | .mainsReturn => Sys2Proof.Machine.execMainsReturn s
  | .rideThroughEnd => Sys2Proof.Machine.execRideThroughEnd s
  | .pwrSafeReset => Sys2Proof.Machine.execPwrSafeReset s
  | .railOutOfWindow rail => Sys2Proof.Machine.execRailOutOfWindow rail s
  | .vddAonUp b => Sys2Proof.Machine.execVddAonUp b s
  | .powerGood r => Sys2Proof.Machine.execPowerGood r s
  | .perstNFall => Sys2Proof.Machine.execPerstNFall s
  | .perstNReset => Sys2Proof.Machine.execPerstNReset s
  | .lifelineNotice => Sys2Proof.Machine.execLifelineNotice s
  | .lifeGo a v => Sys2Proof.Machine.execLifeGo a v s
  | .lifelineLoadComplete => Sys2Proof.Machine.execLifelineLoadComplete s
  | .fwUpdate port ring => Sys2Proof.Machine.execFwUpdate port ring s
  | .defectClear port ring => Sys2Proof.Machine.execDefectClear port ring s
  | .hemReset request => Sys2Proof.Machine.execHemReset request s
  | .hemResetResume => Sys2Proof.Machine.execHemResetResume s
  | .deviceReset port ring => Sys2Proof.Machine.execDeviceReset port ring s
  | .lwFetch port ring => Sys2Proof.Machine.execLwFetch port ring s
  | .gafferWatchdog => Sys2Proof.Machine.execGafferWatchdog s
  | .clockLost c => Sys2Proof.Machine.execClockLost c s
  | .pllRelock c inTime => Sys2Proof.Machine.execPllRelock c inTime s
  | .alertPendingClear a v => Sys2Proof.Machine.execAlertPendingClear a v s
  | .attest port ring => Sys2Proof.Machine.execAttest port ring s
  | .attestReportSigned => Sys2Proof.Machine.execAttestReportSigned s
  | .certRead port ring => Sys2Proof.Machine.execCertRead port ring s
  | .svnCommit port ring => Sys2Proof.Machine.execSvnCommit port ring s
  | .debugUnlock port ring => Sys2Proof.Machine.execDebugUnlock port ring s
  | .partitionCycle part bad => Sys2Proof.Machine.execPartitionCycle part bad s
  | .mangleTransfer xfer bad => Sys2Proof.Machine.execMangleTransfer xfer bad s
  | .flitTransmit link => Sys2Proof.Machine.execFlitTransmit link s
  | .vddAonLoss => Sys2Proof.Machine.execVddAonLoss s
  | .perstNRise => Sys2Proof.Machine.execPerstNRise s
  | .oscillatorBackInRange => Sys2Proof.Machine.execOscillatorBackInRange s
  | .deviceResetDelayEnd => Sys2Proof.Machine.execDeviceResetDelayEnd s
  | .fwUpdateComplete firstMismatch => Sys2Proof.Machine.execFwUpdateComplete firstMismatch s
  | .jtagInstruction ir => Sys2Proof.Machine.execJtagInstruction ir s

end Sys2Proof.Machine
end

