-- ==== Sys2Proof/Machine/Step.lean ====
section
/-! DEFINITION. One step of the block: the command at the front of the queue has its effect; on an empty queue the block idles
for one tick of the timestamp. -/

namespace Sys2Proof.Machine

/-- Takes the command at the front of the queue; an empty queue lets one tick pass. DESIGN CHOICE (log 1, 2). -/
def step (s : State) : Host.Outcome State Fault Refusal :=
  match s.pending with
  | [] => .next (Sys2Proof.Machine.idleTick s)
  | c :: rest => exec c { s with pending := rest }

/-- s with the command that a table word spells in front of its queue; unchanged where the word spells none.
DESIGN CHOICE (log 2). -/
def State.withFetchWord (s : State) (nbits w : Nat) : State :=
  match decodeTableWord nbits w with
  | some c => { s with pending := c :: s.pending }
  | none => s

end Sys2Proof.Machine
end

