-- ==== Sys2Proof/Safety.lean ====
section
/-! DEFINITION. What counts as a safe step, and the shapes of a state that every step keeps: canonical memories, applied settings
with legal values, a fold of legal staged words. -/

namespace Sys2Proof.Machine

/-- The step from s answers a next state. -/
abbrev Safe (s : State) : Prop := ∃ t, step s = .next t

/-- Every memory of s is in canonical form: each slice, each basket, the hamper and the stack. -/
abbrev memoriesCanonical (s : State) : Prop :=
  (∀ c, (tget {} s.slices c).wf = true) ∧ (∀ c, (tget {} s.baskets c).wf = true) ∧ s.hamper.wf = true ∧ s.stack.wf = true

/-- Whether set-up offset off can hold value x on variant v: its reserved bits are zero and its fields in their ranges
(R336, R524). An offset that holds no staged register constrains nothing. -/
def legalAt (v : Variant) (off : Nat) (x : W32) : Bool :=
  match stagedAt v off with
  | some r => x &&& r.rsv == 0 && (r.bad x).isNone
  | none => true

/-- Every applied setting has a legal value. -/
abbrev settingsLegal (s : State) : Prop := ∀ off, legalAt s.variant off (reg s off) = true

/-- The fold holds at most 512 words (R337), no two for one offset, each for a staged register and with a legal value (R336). -/
abbrev foldLegal (s : State) : Prop :=
  s.fold.words.length ≤ 512 ∧ (s.fold.words.map (fun x => x.1)).Nodup ∧
    ∀ x ∈ s.fold.words, (stagedAt s.variant x.1).isSome = true ∧ legalAt s.variant x.1 x.2 = true

end Sys2Proof.Machine
end

