-- ==== Sys2Proof/Certificates/Slice0/Obligations.lean ====
section
/-! DEFINITION. The statements for the provers: what the rules of the spec say of each command, of the operations all commands
share, and of every step. A clause of a statement has its own name in Sys2Proof.Claims. -/

namespace Sys2Proof.Claims

open Sys2Proof.Machine

/-! ## Words the clauses share -/

/-- The command answers the next state t. -/
abbrev Runs (c : Instr) (s t : State) : Prop := exec c s = .next t

/-- The block is on and released, the port of the access can answer it, and its header slot has no reserved bit set (R297). -/
abbrev Open (a : Access) (s : State) : Prop := s.aon = true ∧ released s = true ∧ nalUp s a.port = true ∧ a.other = 0

/-- s as a set-up write at an offset finds it: the latches of its port as R298 and R514 leave them. -/
def heard (s : State) (a : Access) (off : Nat) : State :=
  modNal s a.port (fun n => { n with latch := n.latch.written off })

/-- s as a read of GAF_SEM finds it: the latched high word of its port gone (R298). -/
def heardSem (s : State) (a : Access) : State :=
  modNal s a.port (fun n => { n with latch := { n.latch with read := none } })


/-! ## The semaphore and the fold -/

/-- SEMAPHORE_CLAIM, R332 and R333: a free semaphore, or the port's own, is held by the port with a lease of 100 ms; the other
port's stays as it is. The answer is the state after it. -/
def semaphoreClaim : Prop := ∀ (a : Access) (s : State), Open a s →
  ((s.sem.held = false ∨ s.sem.owner = a.port) → Runs (.semaphoreClaim a) s (answer
    { heardSem s a with sem := { s.sem with held := true, expired := false, owner := a.port, renewed := s.time } }
    a ok (BitVec.ofNat 32 (100 * 65536 + 4 + a.port.val)))) ∧
  (s.sem.held = true → s.sem.owner ≠ a.port →
    Runs (.semaphoreClaim a) s (answer (heardSem s a) a ok (semWord s)))

/-- SEMAPHORE_RELEASE, R333: by the owner it frees the semaphore and discards the fold, a press that waits being answered
E_OWNER; by any other port, or of a free semaphore, it changes nothing and is answered E_OWNER. -/
def semaphoreRelease : Prop := ∀ (a : Access) (s : State), Open a s →
  let freed : State := { heard s a 0x10008 with sem := { s.sem with held := false, expired := false, owner := 0 },
                                                fold := { s.fold with words := [], waiting := none } }
  (s.sem.held = true → s.sem.owner = a.port →
    (s.fold.waiting = none → Runs (.semaphoreRelease a 1) s (answer freed a ok 0)) ∧
    (∀ w, s.fold.waiting = some w → Runs (.semaphoreRelease a 1) s (answer (pressAnswer freed w eOwner) a ok 0))) ∧
  ((s.sem.held = false ∨ s.sem.owner ≠ a.port) → Runs (.semaphoreRelease a 1) s (answer (heard s a 0x10008) a eOwner 0))

/-- SEMAPHORE_BREAK, R333: by the other port while the lease is expired it makes the breaker the owner with a new lease,
discards the fold, a press that waits being answered E_OWNER, is counted, and raises "semaphore broken" naming both ports; otherwise it is
answered E_STATE, and with the release bit set too E_RANGE. -/
def semaphoreBreak : Prop := ∀ (a : Access) (s : State), Open a s →
  let mine : State := { heard s a 0x10008 with
    sem := { s.sem with expired := false, owner := a.port, renewed := s.time, breaks := s.sem.breaks + 1 },
    fold := { s.fold with words := [], waiting := none } }
  let broken := fun (u : State) => raise u { kind := 0x507, unit := 11, id := a.port.val, detail := s.sem.owner.val }
  (s.sem.held = true → s.sem.expired = true → s.sem.owner ≠ a.port →
    (s.fold.waiting = none → Runs (.semaphoreBreak a 2) s (answer (broken mine) a ok 0)) ∧
    (∀ w, s.fold.waiting = some w → Runs (.semaphoreBreak a 2) s (answer (broken (pressAnswer mine w eOwner)) a ok 0))) ∧
  ((s.sem.held = false ∨ s.sem.expired = false ∨ s.sem.owner = a.port) →
    Runs (.semaphoreBreak a 2) s (answer (heard s a 0x10008) a eState 0)) ∧
  Runs (.semaphoreBreak a 3) s (answer (heard s a 0x10008) a eRange 0)

/-- The answer of a waiting press, R301: its SCPL, then the doorbells of its port that were held behind it, in their order. -/
def pressAnswered : Prop := ∀ (a : Access) (st : Byte) (s : State),
  pressAnswer s a st = (nalAt s a.port).dbls.foldl (fun s b => ringDoorbell s a.port b)
    (answer (modNal s a.port (fun n => { n with dbls := [] })) a st 0)

/-- R297: a set-up command whose header slot has a nonzero reserved bit is answered E_RESERVED, and nothing changes. -/
def reservedSlots : Prop := ∀ (a : Access) (off : BitVec 28) (v : W32) (s : State), s.aon = true → a.other ≠ 0 →
  let refused := fun (c : Instr) => Runs c s (answer s a eReserved 0)
  refused (.semaphoreClaim a) ∧ refused (.semaphoreRelease a v) ∧ refused (.semaphoreBreak a v) ∧
  (off.toNat % 4 = 0 → refused (.foldWrite a off v)) ∧ refused (.foldCheck a v) ∧ refused (.foldFreeze a v) ∧
  refused (.foldDiscard a v) ∧ refused (.foldPress a v) ∧ refused (.lifeGo a v) ∧
  (off.toNat % 4 = 0 → off ≠ 0x10000 → refused (.srd a (off.setWidth 64)) ∧ refused (.swr a (v ++ off.setWidth 32)))

/-- LEASE_EXPIRY, R333: 100 ms of 25,000 ticks after the last renewal the lease expires and the owner keeps the semaphore; before,
nothing changes. -/
def leaseExpiry : Prop := ∀ s : State, s.aon = true → s.sem.held = true → s.sem.expired = false →
  (2500000 ≤ (s.time - s.sem.renewed).toNat → Runs .leaseExpiry s { s with sem := { s.sem with expired := true } }) ∧
  ((s.time - s.sem.renewed).toNat < 2500000 → Runs .leaseExpiry s s)

/-- FOLD_WRITE, R336: a write that passes the six checks (a staged register, the semaphore with no press that waits, no freezing, the reserved bits zero,
a legal value, room in the fold) replaces or adds the staged value. -/
def foldWrite : Prop := ∀ (a : Access) (off : BitVec 28) (v : W32) (s : State), Open a s → off.toNat % 4 = 0 →
  (stagedAt s.variant off.toNat).any (fun r =>
    !(r.frz && s.fold.frozen) && v &&& r.rsv == 0 && (r.bad v).isNone) = true →
  holdsSem s a.port = true → s.fold.waiting = none →
  acrossBad (stageWord (heard s a off.toNat) off.toNat v) off.toNat v = none →
  (s.fold.words.length < 512 ∨ folded s off.toNat = true) →
  Runs (.foldWrite a off v) s (answer { heard s a off.toNat with fold := { s.fold with
      words := s.fold.words.filter (fun x => x.1 != off.toNat) ++ [(off.toNat, v)] } } a ok 0)

/-- FOLD_WRITE, R336, R339: a write that fails a check is answered with the status of the first one that fails, in the order of the table, and leaves the
fold as it was. -/
def foldWriteRefused : Prop := ∀ (a : Access) (off : BitVec 28) (v : W32) (s : State), Open a s → off.toNat % 4 = 0 →
  let e := stagedAt s.variant off.toNat
  e.isSome = true →
  let frz := e.any (fun r => r.frz)
  let rsv := (e.map (fun r => r.rsv)).getD 0
  let bad := e.bind (fun r => r.bad v)
  let u := heard s a off.toNat
  let refused := fun st => Runs (.foldWrite a off v) s (answer u a st 0)
  (holdsSem s a.port = false → refused eOwner) ∧
  (holdsSem s a.port = true → s.fold.waiting ≠ none → refused eState) ∧
  (holdsSem s a.port = true → s.fold.waiting = none →
    (frz = true → s.fold.frozen = true → refused eFrozen) ∧
    ((frz = false ∨ s.fold.frozen = false) →
      (v &&& rsv ≠ 0 → refused eReserved) ∧
      (v &&& rsv = 0 →
        (∀ st, bad = some st → refused st) ∧
        (bad = none →
          (∀ st, acrossBad (stageWord u off.toNat v) off.toNat v = some st → refused st) ∧
          (acrossBad (stageWord u off.toNat v) off.toNat v = none → 512 ≤ s.fold.words.length → folded s off.toNat = false →
            refused eNoResource)))))

/-- R336: a read of a staged register is of its applied value. -/
def stagedReads : Prop := ∀ (s : State) (sel off : Nat), (stagedAt s.variant off).isSome = true → regRead s sel off = (reg s off, none)

/-- FOLD_CHECK, R337 and R338: the checks' status, and FOLD_DETAIL: 0 after a pass, else the order and the register of the first
failure. -/
def foldCheck : Prop := ∀ (a : Access) (s : State), Open a s → holdsSem s a.port = true →
  let u := heard s a 0x20000
  (pressBad u (laid u) = none → Runs (.foldCheck a 1) s (answer { u with fold := { s.fold with detail := 0 } } a ok 0)) ∧
  (∀ k off, pressBad u (laid u) = some (k, off) → Runs (.foldCheck a 1) s
    (answer { u with fold := { s.fold with detail := BitVec.ofNat 64 (off + k * 4294967296) } } a eInconsistent 0))

/-- FOLD_FREEZE, R337 and R339: with an empty fold and no press that waits it sets frozen, a second time too; else E_STATE. -/
def foldFreeze : Prop := ∀ (a : Access) (s : State), Open a s → holdsSem s a.port = true →
  let u := heard s a 0x20008
  (s.fold.words = [] → s.fold.waiting = none →
    Runs (.foldFreeze a 1) s (answer { u with fold := { s.fold with frozen := true } } a ok 0)) ∧
  ((s.fold.words ≠ [] ∨ s.fold.waiting ≠ none) → Runs (.foldFreeze a 1) s (answer u a eState 0))

/-- FOLD_DISCARD, R337: empties the fold; E_STATE while a press waits. -/
def foldDiscard : Prop := ∀ (a : Access) (s : State), Open a s → holdsSem s a.port = true →
  let u := heard s a 0x2000C
  (s.fold.waiting = none → Runs (.foldDiscard a 1) s (answer { u with fold := { s.fold with words := [] } } a ok 0)) ∧
  (s.fold.waiting ≠ none → Runs (.foldDiscard a 1) s (answer u a eState 0))

/-- What a press that passes its checks leaves (R338): every staged register at its overlaid value, the fold empty; nothing
outside what the applied registers govern changes. -/
abbrev Pressed (s t : State) : Prop :=
  (∀ off, reg t off = if (stagedAt s.variant off).isSome then overlaid s off else 0) ∧ t.fold.words = [] ∧
  t.fold.waiting = none ∧
  t = { s with bars := t.bars, baskets := t.baskets, cores := t.cores, darn := t.darn, deferred := t.deferred, ecct := t.ecct,
               errRings := t.errRings, fold := t.fold, hamper := t.hamper, mya := t.mya, nal := t.nal, nbus := t.nbus, parts := t.parts,
               power := t.power, rings := t.rings, scrub := t.scrub, slices := t.slices, stack := t.stack, staged := t.staged,
               xfers := t.xfers }

/-- FOLD_PRESS, R337 and R338: at once, when the checks pass every fold register is applied and the fold emptied; when one fails,
the fold and every applied value stay. With bit 1 set and a fold that is not empty, the press waits for a frame boundary. -/
def foldPress : Prop := ∀ (a : Access) (s : State), Open a s → holdsSem s a.port = true → s.fold.waiting = none →
  s.fold.words ≠ [] → foldLegal s →
  let u := heard s a 0x20004
  (pressBad u (laid u) = none → ∃ t, Runs (.foldPress a 1) s t ∧ Pressed s t) ∧
  (∀ k off, pressBad u (laid u) = some (k, off) → Runs (.foldPress a 1) s
    (answer { u with fold := { s.fold with detail := BitVec.ofNat 64 (off + k * 4294967296) } } a eInconsistent 0)) ∧
  Runs (.foldPress a 3) s { u with fold := { s.fold with waiting := some a, asked := s.time } }

/-- FOLD_PRESS_AT_BOUNDARY, R337 and R338: a waiting press of an earlier frame runs its checks and acts; in the frame it was asked
in nothing changes. -/
def foldPressAtBoundary : Prop := ∀ (a : Access) (s : State), s.aon = true → s.fold.waiting = some a → s.fold.words ≠ [] →
  foldLegal s →
  (s.fold.asked / 25000 ≠ s.time / 25000 → pressBad s (laid s) = none →
    ∃ t, Runs .foldPressAtBoundary s t ∧ Pressed s t) ∧
  (s.fold.asked / 25000 = s.time / 25000 → Runs .foldPressAtBoundary s s)

/-! ## Set-up accesses -/

/-- What an answer does (R297): an SCPL at the end of the port's egress while the port is up, and nothing else. -/
def answerQueued : Prop := ∀ (a : Access) (st : Byte) (d : W32) (s : State),
  (nalUp s a.port = true →
    nalAt (answer s a st d) a.port = { nalAt s a.port with egress := (nalAt s a.port).egress ++ [.scpl a.tag st d] }) ∧
  (nalUp s a.port = false → answer s a st d = s) ∧
  (∀ q, q ≠ a.port → nalAt (answer s a st d) q = nalAt s q) ∧
  answer s a st d = { s with nal := (answer s a st d).nal }

/-- SRD, R297, R298 and R512: a read of any offset but GAF_SEM with no latched word for it answers the register's word; a low word
latches the high one, an access elsewhere discards the latch; but for the sequence numbers of the Tack messages that a read of a CORE page
takes (R199) nothing else changes. With the Tack path of a CORE page down the read ends S_LINK_DOWN (R201). -/
def setUpRead : Prop := ∀ (a : Access) (off : BitVec 28) (s : State), Open a s → off.toNat % 4 = 0 → off ≠ 0x10000 →
  let u := tackRead s off.toNat
  let r := regRead u (nalAt s a.port).latch.statSel.toNat off.toNat
  ((off.toNat < 0x1000000 ∨ 0x1400000 ≤ off.toNat) → u = s ∧ tackLost s off.toNat = false) ∧
  ((nalAt s a.port).latch.read.map (fun x => x.1) ≠ some off.toNat →
    Runs (.srd a (off.setWidth 64)) s (if tackLost s off.toNat = true then answer u a sLinkDown 0
      else answer (modNal u a.port (fun n =>
        { n with latch := { (nalAt s a.port).latch with read := r.2.map (fun v => (off.toNat + 4, v)) } })) a ok r.1))

/-- R298: the next read of a latched high word returns it and frees the latch. -/
def setUpReadLatched : Prop := ∀ (a : Access) (off : BitVec 28) (w : W32) (s : State), Open a s → off.toNat % 4 = 0 →
  off ≠ 0x10000 → tackLost s off.toNat = false → (nalAt s a.port).latch.read = some (off.toNat, w) →
  Runs (.srd a (off.setWidth 64)) s (answer (modNal (tackRead s off.toNat) a.port (fun n =>
    { n with latch := { (nalAt s a.port).latch with read := none } })) a ok w)

/-- R297: an SRD or SWR whose offset is no multiple of 4 is answered E_ALIGN, one with a nonzero reserved field E_RESERVED, and
nothing changes in either case. -/
def setUpRefused : Prop := ∀ (a : Access) (body : W64) (s : State), s.aon = true →
  (bits body 27 0 % 4 ≠ 0 → Runs (.srd a body) s (answer s a eAlign 0) ∧ Runs (.swr a body) s (answer s a eAlign 0)) ∧
  (bits body 27 0 % 4 = 0 → bits body 63 28 ≠ 0 → Runs (.srd a body) s (answer s a eReserved 0)) ∧
  (bits body 27 0 % 4 = 0 → bits body 31 28 ≠ 0 → Runs (.swr a body) s (answer s a eReserved 0))

/-- SWR, R336 and R486: of a staged register it does what FOLD_WRITE does; a write of 1 to pending in DARN_ALERT releases
ALERT_N. -/
def setUpWrite : Prop := ∀ (a : Access) (off : BitVec 28) (v : W32) (s : State), Open a s → off.toNat % 4 = 0 →
  ((stagedAt s.variant off.toNat).isSome = true →
    exec (.swr a (v ++ off.setWidth 32)) s = exec (.foldWrite a off v) s) ∧
  Runs (.swr a 0x0000000100800030) s (answer { heard s a 0x800030 with darn := { s.darn with pending := false } } a ok 0)

/-- MGT_READ, R533: the four bytes of the register, lowest first, then the status; before release E_STATE and zero outside IDENT,
LEHR, HUP, DARN and DEF. -/
def managementRead : Prop := ∀ (off : BitVec 28) (s : State), s.aon = true → off.toNat % 4 = 0 → off ≠ 0x10000 →
  ((released s = true ∨ off.toNat < 0x10000 ∨ (0xC00000 ≤ off.toNat ∧ off.toNat < 0xD00000) ∨
      (0x700000 ≤ off.toNat ∧ off.toNat < 0x900000)) →
    tackLost s off.toNat = false → s.mgmt.read = none →
    let u := tackRead s off.toNat
    let r := regRead u s.mgmt.statSel.toNat off.toNat
    Runs (.mgtRead (off.setWidth 32)) s { u with
      mgmt := { s.mgmt with read := r.2.map (fun v => (off.toNat + 4, v)) }, mgmtOut := leBytes r.1.toNat 4 ++ [ok] }) ∧
  (released s = false → 0x10000 ≤ off.toNat → ¬(0xC00000 ≤ off.toNat ∧ off.toNat < 0xD00000) →
      ¬(0x700000 ≤ off.toNat ∧ off.toNat < 0x900000) →
    Runs (.mgtRead (off.setWidth 32)) s { s with mgmt := { s.mgmt with read := none }, mgmtOut := [0, 0, 0, 0, eState] })

/-- MGT_WRITE, R533: a 1 written to DARN_ALERT releases ALERT_N, its own PART_STAT_SEL takes a partition after release, and a staged
register is not its to write. -/
def managementWrite : Prop := ∀ s : State, s.aon = true →
  Runs (.mgtWrite (0x80000000 + 0x800030) 1) s { s with
    mgmt := s.mgmt.written 0x800030, mgmtOut := [ok], darn := { s.darn with pending := false } } ∧
  (∀ n : BitVec 3, released s = true → Runs (.mgtWrite (0x80000000 + 0xA07000) (n.setWidth 32)) s { s with
    mgmt := { s.mgmt.written 0xA07000 with statSel := n.setWidth 4 }, mgmtOut := [ok] }) ∧
  (∀ (off : BitVec 28) (v : W32), released s = true → off.toNat % 4 = 0 → (stagedAt s.variant off.toNat).isSome = true →
    Runs (.mgtWrite (0x80000000#32 + off.setWidth 32) v) s { s with mgmt := s.mgmt.written off.toNat, mgmtOut := [eOwner] })

/-! ## Doorbells, reads of host memory, rings -/

/-- A doorbell's body (R313): sequence, producer index, ring. -/
def doorbell (r : RingId) (prod : BitVec 16) (seq : W32) : W64 := BitVec.ofNat 16 r.val ++ prod ++ seq

/-- The checks of R314 that a doorbell of ring r must pass, for the ring's state g. -/
abbrev DoorbellFine (g : Ring) (prod : BitVec 16) (seq : W32) : Prop :=
  let e := 2 ^ bits g.cfg 4 0
  let q := g.prod.toNat
  let n := (prod.toNat + e - q) % e
  let d := seq - g.lastDbl
  bitAt g.cfg 13 = true ∧ g.stopped = false ∧ prod.toNat < e ∧ d.toNat < 2147483648 ∧ (d = 0 → prod = g.prod) ∧
  seq = g.lastDbl + BitVec.ofNat 32 n ∧
  ∀ k ∈ owed g, ¬((k % e + e - q) % e < n)

/-- No press of the port waits for a frame boundary (R301, R338). -/
abbrev NoPressOf (p : NPort) (s : State) : Prop := s.fold.waiting.all (fun a => a.port != p) = true

/-- DBL, R301: one that comes while a press of its port waits is held, and nothing else changes. -/
def doorbellHeld : Prop := ∀ (a : Access) (body : W64) (s : State), s.aon = true → s.fold.waiting = some a →
  Runs (.dbl a.port body) s (modNal s a.port (fun n => { n with dbls := n.dbls ++ [body] }))

/-- DBL, R314: one that passes makes its n descriptors available, its sequence and its producer index the ring's; the device then reads
them (R315). -/
def doorbellAccepted : Prop := ∀ (p : NPort) (r : RingId) (prod : BitVec 16) (seq : W32) (s : State), s.aon = true → NoPressOf p s →
  DoorbellFine (ringAt s p r) prod seq →
  let n := (prod.toNat + 2 ^ bits (ringAt s p r).cfg 4 0 - (ringAt s p r).prod.toNat) % 2 ^ bits (ringAt s p r).cfg 4 0
  Runs (.dbl p (doorbell r prod seq)) s
    (readDescs (modRing s p r (fun g => { g with lastDbl := seq, prod := prod, avail := g.avail + n })) p r n)

/-- DBL, R314: one with a reserved bit set is rejected with E_RESERVED, one to a ring that is not enabled or is stopped with E_STATE: it is
counted in RING_DBL_REJ, the record of kind "doorbell rejected" names the port, the ring and the status, and the ring is else as it
was. -/
def doorbellRejected : Prop := ∀ (p : NPort) (r : RingId) (prod : BitVec 16) (seq : W32) (s : State), s.aon = true → NoPressOf p s →
  (∀ high : BitVec 10, high ≠ 0 → Runs (.dbl p (high ++ BitVec.ofNat 6 r.val ++ prod ++ seq)) s
    (raise (modRing s p r (fun g => { g with dblRej := g.dblRej + 1 }))
      { kind := 0x506, unit := 16, id := p.val * 64 + r.val, status := eReserved })) ∧
  ((bitAt (ringAt s p r).cfg 13 = false ∨ (ringAt s p r).stopped = true) → Runs (.dbl p (doorbell r prod seq)) s
    (raise (modRing s p r (fun g => { g with dblRej := g.dblRej + 1 }))
      { kind := 0x506, unit := 16, id := p.val * 64 + r.val, status := eState }))

/-- R315, R295: reading one available descriptor: it is owed from now on, in index order, and an MRD of its 64 bytes at RING_DBASE plus
64 times its index leaves under the lowest free tag, where the limits of 1,024 reads and 4 MiB leave room. -/
def descriptorIsRead : Prop := ∀ (p : NPort) (r : RingId) (tag : Nat) (s : State), (ringAt s p r).avail = 1 →
  hemWorks s = true → nalUp s p = true → (nalAt s p).waiting = [] → freeTag (nalAt s p) = some tag →
  readBytes (nalAt s p) + 64 ≤ 4194304 → (nalAt s p).tags.length < 1024 →
  let g := ringAt s p r
  let addr := g.dbase + BitVec.ofNat 64 (64 * (g.nextK % 2 ^ bits g.cfg 4 0))
  let t := readDescs s p r 1
  ringAt t p r = { g with avail := 0, nextK := g.nextK + 1, descs := g.descs ++ [{ k := g.nextK, stage := .reading }] } ∧
  nalAt t p = { nalAt s p with
    tags := (nalAt s p).tags ++ [(tag, { addr, len := 64, owner := .desc r g.nextK, issued := s.time })],
    egress := (nalAt s p).egress ++ [.mrd tag 64 addr] } ∧
  (∀ q, q ≠ p → nalAt t q = nalAt s q) ∧ t = { s with nal := t.nal, rings := t.rings }

/-- A descriptor's read ends: its tag is free, the descriptor becomes what f makes of it, the ring takes it up, and waiting reads leave. -/
def readEnds (s : State) (p : NPort) (r : RingId) (k tag : Nat) (f : Desc → Desc) : State :=
  let u := settleRing (modDesc (freeRead s p tag) p r k f) p r
  pumpReads u p (nalAt u p).waiting.length

/-- CPLD, R299: the last one of a descriptor's read brings its 64 bytes; the tag is free again, and the ring takes the descriptor up
(R316). A data error makes it fail with S_POISON, an unsupported address with E_RANGE. -/
def lastCpld : Prop := ∀ (p : NPort) (r : RingId) (k : Nat) (tag : BitVec 10) (off : W32) (data : List Byte) (m : Mrd) (s : State),
  s.aon = true → (nalAt s p).retired.any (fun x => x.1 == tag.toNat) = false →
  (nalAt s p).tags.lookup tag.toNat = some m → m.owner = .desc r k → m.got = [] → m.unsupported = false → data.length = 64 →
  Runs (.cpld p tag 0 true off data) s (readEnds s p r k tag.toNat (fun _ => descOf k data)) ∧
  Runs (.cpld p tag 1 true off data) s (readEnds s p r k tag.toNat (fun d => { d with stage := .failed eRange })) ∧
  Runs (.cpld p tag 2 true off data) s (readEnds s p r k tag.toNat (fun d => { d with stage := .failed sPoison }))

/-- CPLD and MRD_TIMEOUT, R295, R299: the last completion of a read for a longer fetch adds its words; the fetch then has its data, with
the place of its first poisoned word, or asks for its next words. An unsupported address or a timeout ends the fetch so. -/
def fetchProceeds : Prop := ∀ (p : NPort) (no off : Nat) (tag : BitVec 10) (o : W32) (data : List Byte) (m : Mrd) (id : Reader) (f : Fetch)
    (s : State),
  s.aon = true → (nalAt s p).retired.any (fun x => x.1 == tag.toNat) = false →
  (nalAt s p).tags.lookup tag.toNat = some m → m.owner = .fetch no off → m.got = [] → m.unsupported = false →
  s.fetches.find? (fun x => x.2.no == no) = some (id, f) →
  let u := freeRead s p tag.toNat
  let got := f.got ++ bytesWords (data.length / 8) data
  let pumped := fun (t : State) => pumpReads t p (nalAt t p).waiting.length
  (wholeWords f.len ≤ 8 * got.length → Runs (.cpld p tag 0 true o data) s
    (pumped (setFetch u id { f with got := [], res := some (.data ((wordBytes got).take f.len) (poisonIndex got)) }))) ∧
  (8 * got.length < wholeWords f.len → Runs (.cpld p tag 0 true o data) s
    (pumped (askFetch (setFetch u id { f with got }) f (8 * got.length)))) ∧
  Runs (.cpld p tag 1 true o data) s (pumped (setFetch u id { f with res := some (.unsupported off) })) ∧
  (s.hup.loss = .none → 1250000 ≤ (s.time - m.issued).toNat → Runs (.mrdTimeout p tag) s
    (pumped (setFetch (modNal u p (fun n => { n with retired := n.retired ++ [(tag.toNat, s.time)] })) id
      { f with res := some (.timeout off) })))

/-- What a command that needs bytes of host memory does (R295): given first it begins the fetch, given while the fetch goes on it changes
nothing, and given again with the fetch's end in hand it acts on that and the fetch is gone. -/
def fetchesAreUsed : Prop := ∀ (id : Reader) (p : NPort) (addr : W64) (len : Nat) (k : State → HostRead → State) (s : State),
  (fetchOf s id = none → fetched s id p addr len k = beginFetch s id p addr len) ∧
  (∀ f : Fetch, fetchOf s id = some f → f.res = none → fetched s id p addr len k = s) ∧
  (∀ (f : Fetch) (r : HostRead), fetchOf s id = some f → f.res = some r →
    fetched s id p addr len k = k { s with fetches := s.fetches.filter (fun x => x.1 != id) } r)

/-- How a fetch begins (R295): its first MRD, of as many bytes as one may have, is asked for; on a port that is down it has failed. -/
def fetchBegins : Prop := ∀ (id : Reader) (p : NPort) (addr : W64) (len : Nat) (s : State),
  let f : Fetch := { no := s.nextXfer, port := p, addr, len }
  (nalUp s p = true → beginFetch s id p addr len =
    askRead { s with fetches := s.fetches ++ [(id, f)], nextXfer := s.nextXfer + 1 } p
      { addr, len := hostChunk addr.toNat (wholeWords len), owner := .fetch s.nextXfer 0 }) ∧
  (nalUp s p = false → beginFetch s id p addr len =
    { s with fetches := s.fetches ++ [(id, { f with res := some .portDown })], nextXfer := s.nextXfer + 1 })

/-- CPLD, R299: one that is not the last is kept with its read; one for a retired tag is discarded and counted in NALn_LATE. -/
def earlierCpld : Prop := ∀ (p : NPort) (tag : BitVec 10) (off : W32) (data : List Byte) (s : State), s.aon = true →
  (∀ m : Mrd, (nalAt s p).retired.any (fun x => x.1 == tag.toNat) = false → (nalAt s p).tags.lookup tag.toNat = some m →
    Runs (.cpld p tag 0 false off data) s (modNal s p (fun n => { n with tags := n.tags.map (fun x =>
      if x.1 = tag.toNat then (tag.toNat, { m with got := m.got ++ bytesWords (data.length / 8) data }) else x) }))) ∧
  ((nalAt s p).retired.any (fun x => x.1 == tag.toNat) = true →
    Runs (.cpld p tag 0 true off data) s
      (modNal s p (fun n => { n with cnt := tmod 0 n.cnt 0x40 (fun c => c + 1) })))

/-- MRD_TIMEOUT, R299: 50 ms (1,250,000 ticks) after its issue a descriptor's read without its last CPLD fails with S_TIMEOUT, and its tag is retired;
before, nothing changes. -/
def readTimeout : Prop := ∀ (p : NPort) (r : RingId) (k : Nat) (tag : BitVec 10) (m : Mrd) (s : State), s.aon = true →
  s.hup.loss = .none → (nalAt s p).tags.lookup tag.toNat = some m → m.owner = .desc r k →
  (1250000 ≤ (s.time - m.issued).toNat →
    let v := modNal (freeRead s p tag.toNat) p (fun n => { n with retired := n.retired ++ [(tag.toNat, s.time)] })
    let u := settleRing (modDesc v p r k (fun d => { d with stage := .failed sTimeout })) p r
    Runs (.mrdTimeout p tag) s (pumpReads u p (nalAt u p).waiting.length)) ∧
  ((s.time - m.issued).toNat < 1250000 → Runs (.mrdTimeout p tag) s s)

/-- TAG_RETIRE_EXPIRY, R299: a further 50 ms later the tag is free again; before, nothing changes. -/
def tagFree : Prop := ∀ (p : NPort) (tag : BitVec 10) (since : W64) (s : State), s.aon = true →
  (nalAt s p).retired.lookup tag.toNat = some since →
  (1250000 ≤ (s.time - since).toNat →
    let u := modNal s p (fun n => { n with retired := n.retired.filter (fun x => x.1 != tag.toNat) })
    Runs (.tagRetireExpiry p tag) s (pumpReads u p (nalAt u p).waiting.length)) ∧
  ((s.time - since).toNat < 1250000 → Runs (.tagRetireExpiry p tag) s s)

/-- Where RING_CFG of ring r of port p lies (R311). -/
def ringCfgAt (p : NPort) (r : RingId) : Nat := 0x200010 + 0x10000 * p.val + 0x40 * r.val

/-- RING_ENABLE, R312: of a ring that is not enabled, with a legal size, sets next_read and the producer index to 0 and RING_LAST_DBL to
RING_SEQ0 − 1. RING_DISABLE: refused while a descriptor is owed its completion, else the whole write applies. Through the other
port either is refused with E_OWNER (R311). -/
def ringEnable : Prop := ∀ (a : Access) (r : RingId) (v : W32) (s : State), Open a s →
  let u := heard s a (ringCfgAt a.port r)
  let g := ringAt s a.port r
  (v &&& 0xFFFFC000 = 0 → bitAt v 13 = true → 6 ≤ bits v 4 0 → bits v 4 0 ≤ 16 → bitAt g.cfg 13 = false →
    Runs (.ringEnable a a.port r v) s (answer (modRing u a.port r (fun g => { g with
      cfg := v, stopped := false, lastDbl := g.seq0 - 1, prod := 0, nextK := 0, avail := 0, descs := [] })) a ok 0)) ∧
  (bitAt v 13 = false → v &&& 0xFFFFC000 = 0 → (bits v 4 0 = 0 ∨ (6 ≤ bits v 4 0 ∧ bits v 4 0 ≤ 16)) → bitAt g.cfg 13 = true →
    (owed g = [] → Runs (.ringDisable a a.port r v) s
      (answer (modRing u a.port r (fun g => { g with cfg := v, stopped := false })) a ok 0)) ∧
    (owed g ≠ [] → Runs (.ringDisable a a.port r v) s (answer u a eState 0))) ∧
  (∀ p, p ≠ a.port → Runs (.ringEnable a p r v) s (answer (heard s a (ringCfgAt p r)) a eOwner 0))

/-- ERROR_RING_ENABLE and ERROR_RING_DISABLE, R335: enabling sets both indices to 0; a write that clears enable is always accepted, with
its vector and size; a change of an enabled error ring is refused with E_STATE. -/
def errorRingEnable : Prop := ∀ (a : Access) (v : W32) (s : State), Open a s → v &&& 0xFFFFC000 = 0 →
  let u := heard s a (0x201008 + 0x10000 * a.port.val)
  let e := errAt s a.port
  (bitAt v 13 = true → 6 ≤ bits v 4 0 → bits v 4 0 ≤ 16 →
    (bitAt e.cfg 13 = false → Runs (.errorRingEnable a a.port v) s
      (answer (modErr u a.port (fun e => { e with cfg := v, prod := 0, cons := 0 })) a ok 0)) ∧
    (bitAt e.cfg 13 = true → v ≠ e.cfg → Runs (.errorRingEnable a a.port v) s (answer u a eState 0))) ∧
  (bitAt v 13 = false → (bits v 4 0 = 0 ∨ (6 ≤ bits v 4 0 ∧ bits v 4 0 ≤ 16)) → Runs (.errorRingDisable a a.port v) s
    (answer (modErr u a.port (fun e => { e with cfg := v })) a ok 0))

/-! ## Descriptors and completions -/

/-- The ring's first open descriptor d is taken up with an opcode (R316, R317): read, past the common checks, and unfenced or
with no earlier descriptor still owed its completion. -/
abbrev Takes (s : State) (p : NPort) (r : RingId) (op : Byte) (d : Desc) : Prop :=
  s.aon = true ∧ ∃ earlier, firstOpen false (ringAt (settleRing s p r) p r).descs = some (d, earlier) ∧ d.stage = .read ∧
    d.opcode = op ∧ ¬(bitAt d.flags 1 = true ∧ earlier = true) ∧ commonCheck (settleRing s p r) p r d = none

/-- The common checks of R316, each given that those before it pass: their statuses and orders. -/
def commonChecks : Prop := ∀ (p : NPort) (r : RingId) (d : Desc) (s : State),
  let c := commonCheck s p r d
  let inSeq := d.seq = (ringAt s p r).seq0 + BitVec.ofNat 32 d.k
  let level := bits d.lvlPart 3 0 = (nalAt s p).lk.level.toNat
  (¬inSeq → c = some (eSeq, 1)) ∧
  (inSeq → ¬level → c = some (eLevel, 2)) ∧
  (inSeq → level → opcodeArgs d.opcode.toNat = none → c = some (eRange, 3)) ∧
  (∀ l, inSeq → level → opcodeArgs d.opcode.toNat = some l →
    let clean := argsClean d l = true ∧ d.rsv = 0 ∧ bits d.flags 7 2 = 0
    (¬clean → c = some (eReserved, 4)) ∧
    (clean → namesPart d.opcode.toNat = true →
      (8 ≤ bits d.lvlPart 7 4 → c = some (eRange, 5)) ∧
      (bits d.lvlPart 7 4 < 8 → (clustersOf s (bits d.lvlPart 7 4) = 0 ∨ portOf s (bits d.lvlPart 7 4) ≠ p) →
        c = some (ePartition, 5)) ∧
      (bits d.lvlPart 7 4 < 8 → clustersOf s (bits d.lvlPart 7 4) ≠ 0 → portOf s (bits d.lvlPart 7 4) = p → c = none)) ∧
    (clean → namesPart d.opcode.toNat = false →
      (bits d.lvlPart 7 4 ≠ 0 → c = some (eReserved, 5)) ∧
      (bits d.lvlPart 7 4 = 0 → (d.opcode = 0x28 ∨ d.opcode = 0x29) → holdsSem s p = false → c = some (eOwner, 6)) ∧
      (bits d.lvlPart 7 4 = 0 → (¬(d.opcode = 0x28 ∨ d.opcode = 0x29) ∨ holdsSem s p = true) → c = none)))

/-- A final completion, R318 and R320: of a ring whose port is up it is written at RING_CBASE plus 32 times the descriptor's
index, in 32 bytes, counted in RING_DONE, with the interrupt after it where the flag asks for it; else it is counted in
RING_LOST. Either way the descriptor is owed nothing. -/
def completionWritten : Prop := ∀ (ref : DescRef) (st : Byte) (detail result : W64) (d : Desc) (s : State),
  let g := ringAt s ref.port ref.ring
  let t := finish s ref st detail result []
  g.descs.find? (fun d => d.k == ref.k) = some d →
  (nalUp s ref.port = true →
    ringAt t ref.port ref.ring = { g with descs := g.descs.filter (fun d => d.k != ref.k), done := g.done + 1 } ∧
    nalAt t ref.port = { nalAt s ref.port with egress := (nalAt s ref.port).egress ++
      [.mwr (g.cbase + BitVec.ofNat 64 (32 * (ref.k % 2 ^ bits g.cfg 4 0)))
        (leBytes d.seq.toNat 4 ++ [st, if d.k / 2 ^ bits g.cfg 4 0 % 2 = 0 then 1 else 0, d.opcode, 0] ++
         leBytes detail.toNat 8 ++ leBytes s.time.toNat 8 ++ leBytes result.toNat 8)] ++
      (if bitAt d.flags 0 then [.msg 1 (BitVec.ofNat 64 (bits g.cfg 12 5))] else []) }) ∧
  (nalUp s ref.port = false →
    ringAt t ref.port ref.ring = { g with descs := g.descs.filter (fun d => d.k != ref.k), lost := g.lost + 1 } ∧
    nalAt t ref.port = nalAt s ref.port) ∧
  (∀ q j, (q ≠ ref.port ∨ j ≠ ref.ring) → ringAt t q j = ringAt s q j) ∧ (∀ q, q ≠ ref.port → nalAt t q = nalAt s q) ∧
  t = { s with nal := t.nal, rings := t.rings, fetches := s.fetches.filter (fun x => x.1 != .desc ref) }

/-- R319: the detail of a rejection, and that of a final status from 0x10 on. -/
def details : Prop := ∀ order outer item cause carried : Nat, order < 256 → outer < 256 → item < 4294967296 → cause < 256 →
    carried < 256 →
  bits (rejDetail order outer item) 7 0 = order ∧ bits (rejDetail order outer item) 15 8 = outer ∧
  bits (rejDetail order outer item) 63 32 = item ∧ bits (rejDetail order outer item) 31 16 = 0 ∧
  bits (endDetail { status := sAborted, cause, carried, item }) 7 0 = cause ∧
  bits (endDetail { status := sAborted, cause, carried, item }) 15 8 = carried ∧
  bits (endDetail { status := sAborted, cause, carried, item }) 63 32 = item

/-- NOP descriptor, R321: completes with OK. -/
def nopDescriptor : Prop := ∀ (p : NPort) (r : RingId) (d : Desc) (s : State), Takes s p r 0x00 d →
  Runs (.nopDescriptor p r) s (complete (settleRing s p r) ⟨p, r, d.k⟩ ok 0 0 [])

/-! ## Instructions: what issue, the queue and retirement do -/

/-- Engine e of a core may issue w, the instruction at the head of its queue, of function fn: the run goes on (R140), nothing older holds the engine,
its wait is satisfied (R90), and no lower engine takes the peg it waits on first (R91). -/
abbrev Issues (s : State) (core e fn : Nat) (w : IWord) : Prop :=
  s.aon = true ∧ mayIssue s core e = true ∧ (engAt (coreAt s core) e).queue.head? = some w ∧ bits w 7 0 = 16 * e + fn ∧
  bits w 28 21 ≤ (tget 0 (coreAt s core).peg (bits w 20 16)).toNat ∧
  (bits w 28 21 ≠ 0 → servedFirst (coreAt s core) e (bits w 20 16) = false)

/-- s with the wait of w consumed (R90), the engine running. -/
def waited (s : State) (core e : Nat) (w : IWord) : State :=
  modCore s core (fun c => modEng { c with peg := tmod 0 c.peg (bits w 20 16) (fun p => p - BitVec.ofNat 16 (bits w 28 21)) } e
    (fun x => { x with st := .running }))

/-- Engine e may issue an instruction that fails a check with status st (R139). -/
abbrev Illegal (s : State) (core e : Nat) (w : IWord) : Prop :=
  s.aon = true ∧ mayIssue s core e = true ∧ (engAt (coreAt s core) e).queue.head? = some w

/-- R117, R139, R140: an opcode of another engine, or one that is not assigned, halts the engine with E_RANGE: the record "illegal instruction"
gives the engine and the program counter, and the run stops with S_ABORTED, cause 2. -/
def unassignedHalts : Prop := ∀ (core : CoreId) (eng : EngId) (w : IWord) (n : Nat) (s : State), Illegal s core.val eng.val w →
  partOfCore s core.val = some n →
  (bits w 7 4 ≠ eng.val ∨ 0x70 ≤ bits w 7 0 ∨
    (bits w 3 0 ∉ [0, 13, 14, 15] ∧ [8, 2, 3, 4, 5, 3, 5].getD eng.val 0 < bits w 3 0)) →
  let halted := modCore s core.val (fun c => modEng c eng.val (fun x => { x with st := .halted }))
  Runs (.nop core eng) s (stopRun (raise halted
    { kind := 0x108, unit := 10, id := core.val, part := some n, status := eRange,
      detail := (engAt (coreAt s core.val) eng.val).pc % 16384 + eng.val * 268435456 }) n { status := sAborted, cause := 2 })

/-- R90, R91: an instruction whose wait is not satisfied, or whose peg a lower engine takes first, waits, and nothing else changes than
that the engine shows it, and since when the core has waited (R111). -/
def unsatisfiedWaits : Prop := ∀ (core : CoreId) (eng : EngId) (w : IWord) (s : State), Illegal s core.val eng.val w →
  bits w 7 0 = 16 * eng.val → onlyBits w [] = true →
  ((tget 0 (coreAt s core.val).peg (bits w 20 16)).toNat < bits w 28 21 ∨
    (bits w 28 21 ≠ 0 ∧ servedFirst (coreAt s core.val) eng.val (bits w 20 16) = true)) →
  Runs (.nop core eng) s (modCore s core.val (fun c => noteWait s.time (modEng c eng.val (fun x => { x with st := .waitPeg }))))

/-- NOP, R123: issues and retires in one cycle, with its wait and its post. -/
def nop : Prop := ∀ (core : CoreId) (eng : EngId) (w : IWord) (s : State), Issues s core.val eng.val 0 w → onlyBits w [] = true →
  Runs (.nop core eng) s (issued (waited s core.val eng.val w) core.val eng.val w {} true)

/-- What an issued instruction of one cycle with nothing older in flight does besides its own effect (R88–R90, R121): the engine
goes to the next instruction, or to the top of a loop body whose iterations remain; the post adds its count to its peg, which stops
at 65,535; no other core and no data register changes. -/
def issuedOneCycle : Prop := ∀ (core e : Nat) (w : IWord) (s : State), (engAt (coreAt s core) e).flight = [] → coreMoves s core = false →
  let x := engAt (coreAt s core) e
  let t := issued s core e w {} true
  (engAt (coreAt t core) e).pc = (loopEnd (x.pc + 1) x.loops).2 ∧ (engAt (coreAt t core) e).loops = (loopEnd (x.pc + 1) x.loops).1 ∧
  (engAt (coreAt t core) e).flight = [] ∧ (engAt (coreAt t core) e).st = x.st ∧
  (coreAt t core).peg = (if bits w 41 34 = 0 then (coreAt s core).peg else
    tset 0 (coreAt s core).peg (bits w 33 29)
      (BitVec.ofNat 16 (min ((tget 0 (coreAt s core).peg (bits w 33 29)).toNat + bits w 41 34) 65535))) ∧
  (∀ k, k ≠ core → coreAt t k = coreAt s k) ∧ (∀ k, k ≠ e → engAt (coreAt t core) k = engAt (coreAt s core) k) ∧
  (let c := coreAt s core; let d := coreAt t core
   d.sreg = c.sreg ∧ d.base = c.base ∧ d.rinse = c.rinse ∧ d.needle = c.needle ∧ d.f = c.f ∧ d.g = c.g ∧ d.arms = c.arms) ∧
  t = { s with cores := t.cores, darn := t.darn, errRings := t.errRings, nal := t.nal }

/-- What the issue of an instruction that takes more than one cycle, or follows one in flight, does (R88, R90): the engine goes on as
above, and the instruction is the last of those in flight, with the post it makes when it retires; nothing is posted yet. -/
def issuedInFlight : Prop := ∀ (core e : Nat) (w : IWord) (f : InFlight) (oneCycle : Bool) (s : State),
  (oneCycle = false ∨ (engAt (coreAt s core) e).flight ≠ []) →
  let x := engAt (coreAt s core) e
  let t := issued s core e w f oneCycle
  (engAt (coreAt t core) e).pc = (loopEnd (x.pc + 1) x.loops).2 ∧ (engAt (coreAt t core) e).loops = (loopEnd (x.pc + 1) x.loops).1 ∧
  (engAt (coreAt t core) e).flight = x.flight ++ [{ f with ppeg := bits w 33 29, pcnt := bits w 41 34 }] ∧
  (engAt (coreAt t core) e).st = x.st ∧ (coreAt t core).peg = (coreAt s core).peg ∧
  (∀ k, k ≠ core → coreAt t k = coreAt s k) ∧ (∀ k, k ≠ e → engAt (coreAt t core) k = engAt (coreAt s core) k) ∧
  t = { s with cores := t.cores }

/-- R94, R102, log entry 18: an instruction that reaches the banks adds a free number of cycles to the core's count of bank conflicts,
one of an array also to its two counts of stalls; nothing else of the core, and no other core, changes. -/
def stallsCounted : Prop := ∀ (core e : Nat) (w : IWord) (f : InFlight) (s : State),
  issuedData s core e w f = issued (stalled s core e) core e w f false ∧
  (let t := stalled s core e
   (∀ k, k ≠ core → coreAt t k = coreAt s k) ∧
   (∃ cnt, coreAt t core = { coreAt s core with cnt }) ∧ t = { s with cores := t.cores, free := t.free })

/-- LOOP, R121: a level opens: its body is the next instructions, its count and its two strides as the word has them, its first iteration 0.
A count or a length of 0 or a body past the program's end is illegal with E_RANGE, one level too deep or a body past the outer one's with E_STATE. -/
def loop : Prop := ∀ (core : CoreId) (eng : EngId) (w : IWord) (s : State), Issues s core.val eng.val 13 w →
  onlyBits w [(87, 68), (107, 88), (127, 108)] = true →
  let x := engAt (coreAt s core.val) eng.val
  let len := bits w 73 68
  let inRange := 1 ≤ bits w 127 108 ∧ 1 ≤ len ∧ x.pc + 1 + len ≤ ((coreAt s core.val).progs.getD eng.val (0, 0)).2 / 16
  let fits := x.loops.length < (if eng.val = 0 then 4 else 2) ∧ ∀ l ∈ x.loops.head?, x.pc + 1 + len ≤ l.start + l.len
  let u := passHead (waited s core.val eng.val w) core.val eng.val
  (inRange → fits → Runs (.loop core eng) s (launch (modCore u core.val (fun c => modEng c eng.val (fun x => { x with
    loops := { start := x.pc, len, count := bits w 127 108, i := 0, s14 := sext 14 (bits w 87 74), s15 := sext 20 (bits w 107 88) }
      :: x.loops }))) core.val eng.val w {} true)) ∧
  (¬inRange → Runs (.loop core eng) s (haltIllegal s core.val eng.val eRange)) ∧
  (inRange → ¬fits → Runs (.loop core eng) s (haltIllegal s core.val eng.val eState))

/-- BAR, R122: at the barrier that imm names, one the partition owns, the engine waits, its instruction in flight until the release; its
arrival is the next BARRIER_ARRIVAL of the engine (R366). A barrier of another owner is illegal with E_PARTITION. -/
def bar : Prop := ∀ (core : CoreId) (eng : EngId) (w : IWord) (n : Nat) (s : State), Issues s core.val eng.val 14 w →
  onlyBits w [(115, 108)] = true → partOfCore s core.val = some n →
  let k : BarId := ⟨bits w 127 108 % 256, Nat.mod_lt _ (by decide)⟩
  (barOwner s k.val = n →
    Runs (.bar core eng) s (launch (modCore (passHead (waited s core.val eng.val w) core.val eng.val) core.val (fun c =>
      modEng c eng.val (fun x => { x with st := .waitBarrier }))) core.val eng.val w { until_ := .barrier k none } false)) ∧
  (barOwner s k.val ≠ n → Runs (.bar core eng) s (haltIllegal s core.val eng.val ePartition))

/-- END, R123: the engine fetches nothing more, also inside a loop body; with nothing older in flight its program ends at once, with
END's post; behind older instructions END is the last in flight, and its retirement ends the program. -/
def endProg : Prop := ∀ (core : CoreId) (eng : EngId) (w : IWord) (s : State), Issues s core.val eng.val 15 w →
  onlyBits w [] = true →
  let x := engAt (coreAt s core.val) eng.val
  ∃ t, Runs (.endProg core eng) s t ∧
    (engAt (coreAt t core.val) eng.val).queue = [] ∧ (engAt (coreAt t core.val) eng.val).loops = [] ∧
    (engAt (coreAt t core.val) eng.val).pc = x.pc ∧
    (x.flight = [] → (engAt (coreAt t core.val) eng.val).st = .ended ∧ (engAt (coreAt t core.val) eng.val).flight = [] ∧
      (coreAt t core.val).peg = (coreAt (postPeg (waited s core.val eng.val w) core.val eng.val (bits w 33 29) (bits w 41 34)) core.val).peg) ∧
    (x.flight ≠ [] → (engAt (coreAt t core.val) eng.val).st = .running ∧
      (engAt (coreAt t core.val) eng.val).flight = x.flight ++ [{ ends := true, ppeg := bits w 33 29, pcnt := bits w 41 34 }] ∧
      (coreAt t core.val).peg = (coreAt (waited s core.val eng.val w) core.val).peg) ∧
    t = { s with cores := t.cores, darn := t.darn, errRings := t.errRings, nal := t.nal }

/-- QUEUE_REFILL, R88: 16 instructions, or what is left of the program, of the lowest engine with 16 entries free, read through
the slice's decoder from the program's load address. -/
def queueRefill : Prop := ∀ (core : CoreId) (n e : Nat) (s : State), s.aon = true → partOfCore s core.val = some n →
  runLive s n = true → (coreAt s core.val).inReset = false → s.hup.loss = .none → refillNext (coreAt s core.val) = some e →
  let x := engAt (coreAt s core.val) e
  let p := (coreAt s core.val).progs.getD e (0, 0)
  let k := min 16 (p.2 / 16 - x.fetch)
  let r := readMem s (.slice core.val) (p.1 + 16 * x.fetch) (16 * k)
  Runs (.queueRefill core) s (modCore r.2 core.val (fun c => modEng c e (fun x => { x with
    queue := x.queue ++ instrWords k r.1.1, fetch := x.fetch + k })))

/-- INSTRUCTION_RETIRE, R89, R87: the oldest issued instruction of an engine retires once what it waits for is done: its base register is
written, its post applied. -/
def instructionRetire : Prop := ∀ (core : CoreId) (eng : EngId) (f : InFlight) (rest : List InFlight) (s : State), s.aon = true →
  (engAt (coreAt s core.val) eng.val).flight = f :: rest → mayRetire (coreAt s core.val) f = true → coreMoves s core.val = false →
  let u := modCore s core.val (fun c => modEng { c with
    progress := s.time, excluded := 0, base := match f.base with | some (b, v) => tset 0 c.base b v | none => c.base } eng.val
      (fun x => { x with flight := rest, st := if f.ends then .ended else x.st }))
  Runs (.instructionRetire core eng) s
    (modCore (postPeg u core.val eng.val f.ppeg f.pcnt) core.val (fun c => noteWait s.time (wakeOnPost c)))

/-- CLOCK_GATING, R111: all six engines of the gated domain waiting for gate_us gate the core, and its lending begins. -/
def clockGating : Prop := ∀ (core : CoreId) (n : Nat) (since : W64) (s : State), s.aon = true → partOfCore s core.val = some n →
  runLive s n = true → (coreAt s core.val).gated = false → (coreAt s core.val).inReset = false →
  (coreAt s core.val).waitSince = some since → (∀ e ∈ [0, 2, 3, 4, 5, 6], isWaiting (coreAt s core.val) e = true) →
  let us := bits (reg s (0xA04008 + 0x40 * n)) 10 0
  (us ≠ 0 → 25 * us ≤ (s.time - since).toNat → Runs (.clockGating core) s
    (modCore { s with power := { s.power with lending := terase s.power.lending core.val } } core.val (fun c => { c with gated := true }))) ∧
  ((us = 0 ∨ (s.time - since).toNat < 25 * us) → Runs (.clockGating core) s s)

/-- CORE_WATCHDOG, R113, R141: wdog_ms without a retirement, while an engine has not ended, raises "engine hang", stops the run with
S_TIMEOUT and halts every engine of the partition that has not ended; an illegal instruction detected in the same cycle stops the run
instead. Time is counted in 58ths of a cycle, 3,480 a tick of 40 ns at 1.5 GHz (log entry 58). -/
def coreWatchdog : Prop := ∀ (core : CoreId) (n : Nat) (s : State), s.aon = true → partOfCore s core.val = some n →
  runLive s n = true → s.hup.loss = .none → (coreAt s core.val).inReset = false →
  ¬(∀ e ∈ [0, 1, 2, 3, 4, 5, 6], (engAt (coreAt s core.val) e).st = .ended) →
  bits (reg s (0xA0400C + 0x40 * n)) 9 0 * 1500000 * 58 ≤
    58 * 60 * (s.time - (coreAt s core.val).progress).toNat - (coreAt s core.val).excluded →
  (illegalHead s n = none → Runs (.coreWatchdog core) s (modCores (stopRun (raise s
    { kind := 0x107, unit := 10, id := core.val, part := some n, status := sTimeout,
      detail := (engStates (coreAt s core.val)).toNat }) n { status := sTimeout }) n
    (fun c => (upFrom 0 7).foldl (fun c e => modEng c e (fun x => { x with st := if x.st = .ended then .ended else .halted })) c))) ∧
  (∀ k e st, illegalHead s n = some (k, e, st) → Runs (.coreWatchdog core) s (haltIllegal s k e st))

/-! ## The Sequencer -/

/-- What a write of a scalar register does (R125): the register reads as written, s0 as zero, every other register and core as before. -/
def scalarWritten : Prop := ∀ (core r : Nat) (v : W32) (s : State),
  let t := setSreg s core r v
  sreg (coreAt t core) r = (if r = 0 then 0 else v) ∧ (∀ k, k ≠ r → sreg (coreAt t core) k = sreg (coreAt s core) k) ∧
  (∀ k, k ≠ core → coreAt t k = coreAt s k) ∧
  coreAt t core = { coreAt s core with sreg := (coreAt t core).sreg } ∧ t = { s with cores := t.cores }

/-- SEQ.LI, R125: the sign-extended immediate. SEQ.LUI: the immediate times 4,096. -/
def seqLoadImmediate : Prop := ∀ (core : CoreId) (w : IWord) (s : State), onlyBits w [(51, 48), (127, 108)] = true →
  (Issues s core.val 0 1 w → Runs (.seqLi core) s
    (issued (setSreg (waited s core.val 0 w) core.val (bits w 67 48) (BitVec.ofInt 32 (sext 20 (bits w 127 108)))) core.val 0 w {} true)) ∧
  (Issues s core.val 0 2 w → Runs (.seqLui core) s
    (issued (setSreg (waited s core.val 0 w) core.val (bits w 67 48) (BitVec.ofNat 32 (bits w 127 108 * 4096))) core.val 0 w {} true))

/-- What the ALU operation f gives (R125). -/
abbrev AluGives (f : Nat) (a b r : W32) : Prop :=
  (f = 0 → r = a + b) ∧ (f = 1 → r = a - b) ∧ (f = 2 → r = a &&& b) ∧ (f = 3 → r = a ||| b) ∧ (f = 4 → r = a ^^^ b) ∧
  (f = 5 → r = a <<< (b.toNat % 32)) ∧ (f = 6 → r = a >>> (b.toNat % 32)) ∧ (f = 7 → r = a * b) ∧
  (f = 8 → r = if a ≤ b then a else b) ∧ (f = 9 → r = if a ≤ b then b else a)

/-- SEQ.ADD to SEQ.MAXU, R125: sx becomes sy op sz, or sy op the sign-extended immediate where mod[5] is set. -/
def seqAlu : Prop := ∀ (core : CoreId) (w : IWord) (s : State), Issues s core.val 0 3 w → bits w 45 42 ≤ 9 →
  (bits w 47 47 = 0 → onlyBits w [(51, 48), (71, 68), (91, 88), (45, 42)] = true →
    ∃ r, AluGives (bits w 45 42) (sreg (coreAt s core.val) (bits w 87 68)) (sreg (coreAt s core.val) (bits w 107 88)) r ∧
      Runs (.seqAlu core) s (issued (setSreg (waited s core.val 0 w) core.val (bits w 67 48) r) core.val 0 w {} true)) ∧
  (bits w 47 47 = 1 → onlyBits w [(51, 48), (71, 68), (45, 42), (47, 47), (127, 108)] = true →
    ∃ r, AluGives (bits w 45 42) (sreg (coreAt s core.val) (bits w 87 68)) (BitVec.ofInt 32 (sext 20 (bits w 127 108))) r ∧
      Runs (.seqAlu core) s (issued (setSreg (waited s core.val 0 w) core.val (bits w 67 48) r) core.val 0 w {} true))

/-- SEQ.SETB, R125, R87: base bx becomes sy plus 64 times the immediate as the instruction retires. A result that is no multiple of 64 is illegal with
E_ALIGN. -/
def seqSetb : Prop := ∀ (core : CoreId) (w : IWord) (s : State), Issues s core.val 0 4 w →
  onlyBits w [(51, 48), (71, 68), (127, 108)] = true →
  let v : Int := (sreg (coreAt s core.val) (bits w 87 68)).toNat + 64 * sext 20 (bits w 127 108)
  (v % 64 = 0 → 0 ≤ v → v ≤ 0x1FFFFF → Runs (.seqSetb core) s
    (issued (waited s core.val 0 w) core.val 0 w { base := some (bits w 67 48, BitVec.ofInt 32 v) } true)) ∧
  (v % 64 ≠ 0 → Runs (.seqSetb core) s (haltIllegal s core.val 0 eAlign))

/-- SEQ.LD and SEQ.ST, R125, R268: a word of the basket at the operand's address plus 4 times mod[3:0]; a poisoned word halts the engine. -/
def seqLoadStore : Prop := ∀ (core : CoreId) (w : IWord) (s : State), onlyBits w [(51, 48), (87, 68), (45, 42)] = true →
  let c := coreAt s core.val
  let a : Int := effAddr c (engAt c 0) (bits w 87 68) + 4 * bits w 45 42
  0 ≤ a → a + 4 ≤ 0x40000 →
  let r := readMem (waited s core.val 0 w) (.basket core.val) a.toNat 4
  (Issues s core.val 0 5 w → r.1.2 = false → Runs (.seqLd core) s
    (issuedData (setSreg r.2 core.val (bits w 67 48) (BitVec.ofNat 32 (leNat r.1.1))) core.val 0 w {})) ∧
  (Issues s core.val 0 5 w → r.1.2 = true → Runs (.seqLd core) s
    (haltIllegal (coreConsumes r.2 core.val 0) core.val 0 sPoison)) ∧
  (Issues s core.val 0 6 w → Runs (.seqSt core) s
    (issuedData (writeBytes (waited s core.val 0 w) (.basket core.val) a.toNat (leBytes (sreg c (bits w 67 48)).toNat 4) false)
      core.val 0 w {}))

/-- Whether the branch of condition f is taken (R125). -/
abbrev BranchTaken (f : Nat) (a b : W32) : Prop :=
  f = 0 ∨ (f = 1 ∧ a = b) ∨ (f = 2 ∧ a ≠ b) ∨ (f = 3 ∧ a.toInt < b.toInt) ∨ (f = 4 ∧ b.toInt ≤ a.toInt) ∨
  (f = 5 ∧ a.toNat < b.toNat) ∨ (f = 6 ∧ b.toNat ≤ a.toNat)

/-- SEQ.BR, R125: taken, the program counter becomes its own plus the signed immediate; not taken, the next instruction's. Outside a
loop every target of the program is legal. -/
def seqBr : Prop := ∀ (core : CoreId) (w : IWord) (s : State), Issues s core.val 0 7 w →
  onlyBits w [(71, 68), (91, 88), (44, 42), (127, 108)] = true → bits w 44 42 ≤ 6 →
  let c := coreAt s core.val
  let target : Int := (engAt c 0).pc + sext 20 (bits w 127 108)
  0 ≤ target → target < ((c.progs.getD 0 (0, 0)).2 / 16 : Nat) → (engAt c 0).loops = [] →
  (BranchTaken (bits w 44 42) (sreg c (bits w 87 68)) (sreg c (bits w 107 88)) →
    Runs (.seqBr core) s (launch (jumpTo (waited s core.val 0 w) core.val 0 target.toNat) core.val 0 w {} true)) ∧
  (¬BranchTaken (bits w 44 42) (sreg c (bits w 87 68)) (sreg c (bits w 107 88)) →
    Runs (.seqBr core) s (launch (passHead (waited s core.val 0 w) core.val 0) core.val 0 w {} true))

/-- SEQ.RDTS, R125: the low half of the timestamp, or the high half where mod[0] is set. -/
def seqRdts : Prop := ∀ (core : CoreId) (w : IWord) (s : State), Issues s core.val 0 8 w → onlyBits w [(51, 48), (42, 42)] = true →
  (bits w 42 42 = 0 → Runs (.seqRdts core) s
    (issued (setSreg (waited s core.val 0 w) core.val (bits w 67 48) (s.time.extractLsb' 0 32)) core.val 0 w {} true)) ∧
  (bits w 42 42 = 1 → Runs (.seqRdts core) s
    (issued (setSreg (waited s core.val 0 w) core.val (bits w 67 48) (s.time.extractLsb' 32 32)) core.val 0 w {} true))

/-! ## The Mover and Fetch -/

/-- MOV.SEND and MOV.RECV, R126, R175: the plan entry that y names, of the opcode's direction and with fewer than two arms, is armed with imm
entries of 64 bytes from the operand's address; the instruction retires when the arm is done. -/
def moverArms : Prop := ∀ (core : CoreId) (w : IWord) (port : Nat) (s : State),
  onlyBits w [(42, 42), (67, 48), (79, 68), (127, 108)] = true → 1 ≤ bits w 127 108 →
  let c := coreAt s core.val
  let a := effAddr c (engAt c 1) (bits w 67 48)
  let top : Int := if bits w 42 42 = 1 then 0x1C0000 else 0x40000
  0 ≤ a → a + 64 * bits w 127 108 ≤ top → (tget [] c.arms (bits w 87 68)).length < 2 →
  let arm : Arm := { id := c.nextArm, slice := decide (bits w 42 42 = 1), addr := a.toNat, left := bits w 127 108 }
  let t := (issued (modCore (waited s core.val 1 w) core.val (fun c => { c with
    nextArm := c.nextArm + 1, arms := tmod [] c.arms (bits w 87 68) (fun l => l ++ [arm]) })) core.val 1 w
      { until_ := .arm c.nextArm } false)
  (Issues s core.val 1 1 w → planEntry s core.val (bits w 87 68) = some (false, port) → Runs (.movSend core) s t) ∧
  (Issues s core.val 1 2 w → planEntry s core.val (bits w 87 68) = some (true, port) → Runs (.movRecv core) s t)

/-- FET.LOAD and FET.STORE, R127: imm times 64 bytes copied from the slice into the basket, and back, as words with their poison; words
found uncorrectable on the vertical channel arrive poisoned (R265). An uncorrectable slice command is recorded: the words a load has of its
first line arrive poisoned, those a store has of it are not written. -/
def fetchCopies : Prop := ∀ (core : CoreId) (err : Bool) (bad : List Nat) (w : IWord) (s : State),
  onlyBits w [(67, 48), (87, 68), (127, 108)] = true → 1 ≤ bits w 127 108 →
  let c := coreAt s core.val
  let x := effAddr c (engAt c 2) (bits w 67 48)
  let y := effAddr c (engAt c 2) (bits w 87 68)
  let n := bits w 127 108
  let u := waited s core.val 2 w
  0 ≤ x → 0 ≤ y →
  (Issues s core.val 2 1 w → x + 64 * n ≤ 0x1C0000 → y + 64 * n ≤ 0x40000 →
    let r := readWords u (.slice core.val) (x.toNat / 8) (8 * n)
    let p := if err then (upFrom 0 (32 - x.toNat / 8 % 32)) else []
    let z := crossWords (if err then sliceCommandError r.2 core.val else r.2) 0 (physOf s core.val) bad (poisonAt p r.1)
    Runs (.fetLoad core err bad) s (issuedData (writeWords z.2 (.basket core.val) (y.toNat / 8) z.1) core.val 2 w {})) ∧
  (Issues s core.val 2 2 w → x + 64 * n ≤ 0x40000 → y + 64 * n ≤ 0x1C0000 →
    let r := readWords u (.basket core.val) (x.toNat / 8) (8 * n)
    let skip := if err then 32 - y.toNat / 8 % 32 else 0
    let z := crossWords (if err then sliceCommandError r.2 core.val else r.2) 0 (physOf s core.val) bad r.1
    Runs (.fetStore core err bad) s
      (issuedData (writeWords z.2 (.slice core.val) (y.toNat / 8 + skip) (z.1.drop skip)) core.val 2 w {}))

/-- What words meet on a carrier (R265, R266, R273): the words found uncorrectable arrive poisoned and the others as they were; every such
word is recorded as an uncorrectable error of the carrier, and nothing changes but the counters, the records and their rings. -/
def wordsCross : Prop := ∀ (cls detail : Nat) (bad : List Nat) (l : List (W64 × Bool)) (s : State),
  let x := crossWords s cls detail bad l
  x.1.length = l.length ∧
  (∀ (k : Nat) (v : W64 × Bool), l[k]? = some v → x.1[k]? = some (v.1, v.2 || decide (k ∈ bad))) ∧
  x.2 = { s with ecc := x.2.ecc, darn := x.2.darn, errRings := x.2.errRings, nal := x.2.nal } ∧
  ((∀ k ∈ bad, l.length ≤ k) → l.all (fun v => !v.2) = true → x.2 = s)

/-- FET.FILL, R127: imm times 64 bytes of zeros into the basket. -/
def fetchFill : Prop := ∀ (core : CoreId) (w : IWord) (s : State), Issues s core.val 2 3 w →
  onlyBits w [(87, 68), (127, 108)] = true → 1 ≤ bits w 127 108 →
  let y := effAddr (coreAt s core.val) (engAt (coreAt s core.val) 2) (bits w 87 68)
  0 ≤ y → y + 64 * bits w 127 108 ≤ 0x40000 →
  Runs (.fetFill core) s (issuedData (writeWords (waited s core.val 2 w) (.basket core.val) (y.toNat / 8)
    (List.replicate (8 * bits w 127 108) (0, false))) core.val 2 w {})

/-- What writing a word of a memory does (R260, R265), with no flip-mask armed for it: it reads back, poisoned where it was written so, and every
other word of every memory is as it was. -/
def wordReadsBack : Prop := ∀ (id : MemId) (a : Nat) (x : W64) (poison : Bool) (s : State),
  (id = .stack → (stkAt s (eccKey s id a - 5000)).dead = false) → flipHits s id a = false →
  let t := writeWord s id a (x, poison)
  (poison = false → (readWord t id a).1 = (x, false)) ∧ (poison = true → (readWord t id a).1.2 = true) ∧
  (∀ b, b ≠ a → rawWord (memAt t id) b = rawWord (memAt s id) b) ∧ (∀ j, j ≠ id → memAt t j = memAt s j)

/-! ## The arrays, the Needle path and the Rinse unit -/

/-- What an instruction of a core that moves no data may change besides what is said of it. -/
abbrev CoreOnly (s t : State) (core : Nat) : Prop :=
  (∀ k, k ≠ core → coreAt t k = coreAt s k) ∧
  t = { s with cores := t.cores, darn := t.darn, errRings := t.errRings, nal := t.nal }

/-- FLAY and GLAY, R129: the three strides are those of the word. RNS.LAY, R134: the two of the row passes. -/
def layouts : Prop := ∀ (core : CoreId) (g : Bool) (w : IWord) (s : State),
  let e := if g then 4 else 3
  (Issues s core.val e 3 w → onlyBits w [(67, 48), (87, 68), (107, 88)] = true → Runs (.lay core g) s
    (issued (modArr (waited s core.val e w) core.val g (fun a =>
      { a with mStride := bits w 67 48, kStride := bits w 87 68, wStride := bits w 107 88 })) core.val e w {} true)) ∧
  (Issues s core.val 6 5 w → onlyBits w [(67, 48), (87, 68)] = true → Runs (.rnsLay core) s
    (issued (modCore (waited s core.val 6 w) core.val (fun c =>
      { c with rinse := { c.rinse with src := bits w 67 48, dst := bits w 87 68 } })) core.val 6 w {} true))

/-- FCLR and GCLR, R129, R131: rows A to A + M − 1 of the accumulator are zero and record no product; every other row, and the other
array, is as it was. -/
def clears : Prop := ∀ (core : CoreId) (g : Bool) (w : IWord) (s : State),
  let e := if g then 4 else 3
  let a := bits w 115 108
  let m := bits w 124 116
  Issues s core.val e 4 w → onlyBits w [(124, 108)] = true → 1 ≤ m → a + m ≤ 256 →
  ∃ t, Runs (.clr core g) s t ∧
    (∀ r c, c < 64 → tget ({} : Acc) (arrOf (coreAt t core.val) g).acc (64 * r + c) =
      if a ≤ r ∧ r < a + m then {} else tget {} (arrOf (coreAt s core.val) g).acc (64 * r + c)) ∧
    (∀ r, tget none (arrOf (coreAt t core.val) g).scale r =
      if a ≤ r ∧ r < a + m then none else tget none (arrOf (coreAt s core.val) g).scale r) ∧
    arrOf (coreAt t core.val) (!g) = arrOf (coreAt s core.val) (!g) ∧
    (coreAt t core.val).needle = (coreAt s core.val).needle ∧ (coreAt t core.val).rinse = (coreAt s core.val).rinse ∧
    (coreAt t core.val).sreg = (coreAt s core.val).sreg ∧ CoreOnly s t core.val

/-- FMM and GMM, R100, R103, R130, R131: an instruction that passes its checks runs, whatever strikes the array. With nothing struck and no row
whose check-stitch sum disagrees, the value of accumulator row A + i, column n, is the products of activation row i and weight column n
added in block order into the row's value, or into zero; and every row outside A to A + M − 1, the other array, the Needle path and the
Rinse unit are as they were. -/
def matmul : Prop := ∀ (core : CoreId) (g : Bool) (w : IWord) (s : State),
  let e := if g then 4 else 3
  let f := mmForm g w
  let c := coreAt s core.val
  let u := waited s core.val e w
  let acts := readTiles u (.basket core.val) (bits w 11 8) (bits w 92 88) (actAddrs c g f w)
  let wts := (readTiles (noteTrailers acts.2 core.val e .activation acts.1) (.basket core.val) (bits w 15 12) (bits w 97 93) (wtAddrs c g f w)).1
  let row := fun i => f.blocks.map (fun b => (tileAt acts.1 (i / 64 * f.kTiles + b.1)).blk (i % 64) b.2)
  let cols := if f.keep then ((arrOf c g).kept.map (fun k => k.cols)).getD []
    else (upFrom 0 64).map (fun n => f.blocks.map (fun b => (tileAt wts b.1).blk n b.2))
  Issues s core.val e 1 w → mmCheck g s c (engAt c e) w = none → cols.length = 64 →
  (∀ fault, ∃ t, Runs (.mm core g fault) s t) ∧
  (∀ fault, fault.first = [] →
    (∀ i, i < f.m → rowMatches (if rateClass (bits w 11 8) (bits w 15 12) = some 3 then 14 else 16)
      (checkSum (row i) (checkWeights f.blocks.length cols)) (rowProducts (row i) cols i []).flatten ≠ some false) →
    ∃ t, Runs (.mm core g fault) s t ∧
    (∀ i n, i < f.m → n < 64 →
      (tget ({} : Acc) (arrOf (coreAt t core.val) g).acc ((f.a + i) * 64 + n)).v =
        dotInto (if f.accumulate then (tget ({} : Acc) (arrOf c g).acc ((f.a + i) * 64 + n)).v else 0) (row i) (cols.getD n [])) ∧
    (∀ r n, n < 64 → (r < f.a ∨ f.a + f.m ≤ r) →
      tget ({} : Acc) (arrOf (coreAt t core.val) g).acc (r * 64 + n) = tget {} (arrOf c g).acc (r * 64 + n)) ∧
    arrOf (coreAt t core.val) (!g) = arrOf c (!g) ∧ (coreAt t core.val).needle = c.needle ∧ (coreAt t core.val).rinse = c.rinse)

/-- FDRN and GDRN, R73, R131, R132: row first + i of the accumulator times its recorded product, through the function, converted into
row i of a complete tile at the operand's address; a row with no recorded product gives zeros. -/
def drains : Prop := ∀ (core : CoreId) (g : Bool) (w : IWord) (s : State),
  let e := if g then 4 else 3
  let c := coreAt s core.val
  let kc := bits w 92 88
  let first := bits w 115 108
  let n := bits w 122 116
  Issues s core.val e 2 w → onlyBits w [(15, 12), (47, 42), (67, 48), (92, 88), (122, 108)] = true →
  outOk w kc = true → bits w 45 42 ≤ 7 → 1 ≤ n → n ≤ 64 → first + n ≤ 256 →
  0 ≤ effAddr c (engAt c e) (bits w 67 48) → effAddr c (engAt c e) (bits w 67 48) + kcSize (bits w 15 12) kc ≤ 0x40000 →
  Runs (.drn core g) s (issuedData (drainTile (waited s core.val e w) core.val e (outForm s core.val w kc)
    (effAddr c (engAt c e) (bits w 67 48)).toNat
    ((upFrom first n).map (fun r => match tget none (arrOf c g).scale r with
      | some t => some ((upFrom 0 64).map (fun k =>
          (⟨actFn (bits w 45 42) (f32mul (tget ({} : Acc) (arrOf c g).acc (r * 64 + k)).v t),
            (tget ({} : Acc) (arrOf c g).acc (r * 64 + k)).p⟩ : Acc)))
      | none => none))).1 core.val e w {})

/-- GDRV, R146 to R151: an instruction that passes its checks runs; one with no statistics drains v times f′ for each value, as a drain
does: f′ is 1 for function code 0, else that of the code at the value of the pre-activation tile, which is whole. -/
def derivativeDrain : Prop := ∀ (core : CoreId) (w : IWord) (s : State), Issues s core.val 4 5 w →
  let c := coreAt s core.val
  gdrvCheck s c (engAt c 4) w = none →
  (∃ t, Runs (.gdrv core) s t ∧ (coreAt t core.val).g.acc = c.g.acc ∧ (coreAt t core.val).f = c.f ∧
    (coreAt t core.val).needle = c.needle ∧ (coreAt t core.val).rinse = c.rinse) ∧
  (bits w 45 42 = 0 → bits w 98 98 = 0 → Runs (.gdrv core) s
    (issuedData (drainTile (waited s core.val 4 w) core.val 4 (outForm s core.val w (bits w 92 88))
      (effAddr c (engAt c 4) (bits w 67 48)).toNat
      ((upFrom (bits w 115 108) (bits w 122 116)).map (fun r => match tget none c.g.scale r with
        | some t => some ((upFrom 0 64).map (fun k =>
            (⟨f32mul (f32mul (tget ({} : Acc) c.g.acc (r * 64 + k)).v t) 0x3F800000, (tget ({} : Acc) c.g.acc (r * 64 + k)).p⟩ : Acc)))
        | none => none))).1 core.val 4 w {})) ∧
  (let pre := readTile (waited s core.val 4 w) (.basket core.val) (effAddr c (engAt c 4) (bits w 87 68)).toNat (bits w 11 8) (bits w 97 93)
   bits w 45 42 ≠ 0 → bits w 98 98 = 0 → pre.1.allBad = false → bits w 122 116 ≤ pre.1.validRows → pre.1.validCols = 64 →
    Runs (.gdrv core) s (issuedData (drainTile pre.2 core.val 4 (outForm s core.val w (bits w 92 88))
      (effAddr c (engAt c 4) (bits w 67 48)).toNat
      ((upFrom 0 (bits w 122 116)).map (fun i => match tget none c.g.scale (bits w 115 108 + i) with
        | some t => some ((upFrom 0 64).map (fun k =>
            let v := tget ({} : Acc) c.g.acc ((bits w 115 108 + i) * 64 + k)
            (⟨f32mul (f32mul v.v t) (derivFn (bits w 45 42) (pre.1.value i k).v), v.p || (pre.1.value i k).p⟩ : Acc)))
        | none => none))).1 core.val 4 w {}))

/-- SHADOW_AUDIT, R84, R85: the sampled tile is counted as audited, and as failed where the sum of the squared differences exceeds
2^(−2 tol_log2) times the sum of the squared references (where that is 0, where any value is not 0), the first of a frame raising "audit out of
tolerance"; one that could not finish is counted as skipped. -/
def shadowAudit : Prop := ∀ (core : CoreId) (n : Nat) (a : Audit) (s : State), s.aon = true → partOfCore s core.val = some n →
  (coreAt s core.val).audit = some a →
  let st := a.station
  let fails := if (f32val a.zz).isZero then a.some_ else ((f32val a.zz).mul (.fin false 1 (-2 * (a.tol : Int)))).lt (f32val a.dz)
  let done := addStats (modCore s core.val (fun c => { c with audit := none })) n st [0, 0, 0, 0, 0, 1, if fails then 1 else 0, 0]
  Runs (.shadowAudit core st false) s
    (modCore (addStats s n st [0, 0, 0, 0, 0, 0, 0, 1]) core.val (fun c => { c with audit := none })) ∧
  (∀ other f, other ≠ st → Runs (.shadowAudit core other f) s s) ∧
  (fails = false ∨ (tget ({} : Stat) (partAt s n).stats st).run.getD 6 0 ≠ 0 → Runs (.shadowAudit core st true) s done) ∧
  (fails = true → (tget ({} : Stat) (partAt s n).stats st).run.getD 6 0 = 0 → Runs (.shadowAudit core st true) s
    (raise done { kind := 0x102, unit := 14, id := n, part := some n, station := some st }))

/-- NDL.LV, R133: rows r to r + v − 1 of the K tiles become the loaded vectors. -/
def needleLoad : Prop := ∀ (core : CoreId) (w : IWord) (s : State), Issues s core.val 5 1 w →
  let c := coreAt s core.val
  let v := bits w 111 108
  let k := bits w 118 112
  let at_ : Nat → Int := fun t => effAddr c (engAt c 5) (bits w 67 48) + 64 * t * bits w 87 68
  onlyBits w [(11, 8), (47, 42), (67, 48), (87, 68), (92, 88), (118, 108)] = true →
  kcOk (bits w 11 8) (bits w 92 88) = true → bits w 11 8 ≠ 6 → bits w 11 8 ≠ 4 → 1 ≤ v → v ≤ 8 → 1 ≤ k → k ≤ 64 →
  bits w 47 42 + v ≤ 64 → (∀ t, t < k → 0 ≤ at_ t ∧ at_ t + kcSize (bits w 11 8) (bits w 92 88) ≤ 0x40000) →
  let tiles := (readTiles (waited s core.val 5 w) (.basket core.val) (bits w 11 8) (bits w 92 88) ((upFrom 0 k).map at_)).1
  ∃ t, Runs (.ndlLv core) s t ∧ (coreAt t core.val).needle.loaded = true ∧ (coreAt t core.val).needle.tag = bits w 11 8 ∧
    (coreAt t core.val).needle.vecs =
      (upFrom (bits w 47 42) v).map (fun row => tiles.flatMap (fun t => [t.blk row 0, t.blk row 1])) ∧
    (coreAt t core.val).needle.acc = c.needle.acc ∧ (coreAt t core.val).f = c.f ∧ (coreAt t core.val).g = c.g ∧
    (coreAt t core.val).rinse = c.rinse

/-- NDL.MV, R107, R133: a pass that passes its checks runs, whatever the residue check finds; with nothing found, column 64 j + n of the tiles'
column groups of each vector's accumulator is the products of the loaded vector and weight column n of N tile j added in block order into
its value, or into zero. With no vectors loaded it is illegal with E_STATE. -/
def needlePass : Prop := ∀ (core : CoreId) (fault : ResidueFault) (w : IWord) (s : State), Issues s core.val 5 2 w →
  let c := coreAt s core.val
  (mvCheck s c (engAt c 5) w = none → ∃ t, Runs (.ndlMv core fault) s t ∧
    (fault = .clean → (coreAt t core.val).needle.vecs = c.needle.vecs ∧ (coreAt t core.val).f = c.f ∧ (coreAt t core.val).g = c.g ∧
      (coreAt t core.val).rinse = c.rinse ∧
      (let k := (c.needle.vecs.headD []).length / 2
       let tiles := (readTiles (waited s core.val 5 w) (.slice core.val) (bits w 15 12) (bits w 92 88) (mvAddrs c (engAt c 5) w k)).1
       ∀ (i : Nat) (v : List Blk) (j n : Nat), c.needle.vecs[i]? = some v → v.length = 2 * k → j < bits w 113 108 → n < 64 →
        (tget ({} : Acc) (coreAt t core.val).needle.acc (i * 2048 + (bits w 119 115 + j) * 64 + n)).v =
          dotInto (if bits w 114 114 = 1 then (tget ({} : Acc) c.needle.acc (i * 2048 + (bits w 119 115 + j) * 64 + n)).v else 0) v
            ((upFrom 0 k).flatMap (fun t => [(tileAt tiles (j * k + t)).blk n 0, (tileAt tiles (j * k + t)).blk n 1]))))) ∧
  (onlyBits w [(15, 12), (67, 48), (87, 68), (92, 88), (127, 108)] = true → kcOk (bits w 15 12) (bits w 92 88) = true →
    bits w 15 12 ≠ 6 → 1 ≤ bits w 113 108 → bits w 113 108 ≤ 32 → bits w 119 115 + bits w 113 108 ≤ 32 →
    c.needle.loaded = false → Runs (.ndlMv core fault) s (haltIllegal s core.val 5 eState))

/-- NDL.DRN, R133, R136: the column group's 64 columns of the named vectors, each times its recorded product, become rows of the
output tile under the row-append rule; a sampled tile's audit notes them (R84). -/
def needleDrain : Prop := ∀ (core : CoreId) (w : IWord) (s : State), Issues s core.val 5 3 w →
  let c := coreAt s core.val
  let kc := bits w 92 88
  let n := bits w 120 117
  let r0 := bits w 126 121
  let a := effAddr c (engAt c 5) (bits w 67 48)
  onlyBits w [(15, 12), (47, 46), (67, 48), (92, 88), (126, 108)] = true → outOk w kc = true → 1 ≤ n → n ≤ 8 →
  bits w 116 113 + n ≤ 8 → r0 + n ≤ 64 → 0 ≤ a → a + kcSize (bits w 15 12) kc ≤ 0x40000 →
  let rows := (upFrom (bits w 116 113) n).map (fun v => match tget none c.needle.tscale v with
    | some t => some ((upFrom 0 64).map (fun k =>
        (⟨f32mul (tget ({} : Acc) c.needle.acc (v * 2048 + bits w 112 108 * 64 + k)).v t,
          (tget ({} : Acc) c.needle.acc (v * 2048 + bits w 112 108 * 64 + k)).p⟩ : Acc)))
    | none => none)
  let r := appendRows (waited s core.val 5 w) core.val 5 (outForm s core.val w kc) a.toNat r0 rows
  Runs (.ndlDrn core) s
    (issuedData (noteTile r.1 core.val 5 (outForm s core.val w kc) a.toNat (decide (r0 = 0)) r.2 rows) core.val 5 w {})

/-- What a write of a vector register of 64 lanes does: it reads back lane by lane, every other register as before. -/
def vectorWritten : Prop := ∀ (core v : Nat) (l : List Acc) (s : State), l.length = 64 →
  let t := setVreg s core v l
  vreg (coreAt t core) v = l ∧ (∀ k, k ≠ v → vreg (coreAt t core) k = vreg (coreAt s core) k) ∧
  (∀ k, k ≠ core → coreAt t k = coreAt s k) ∧ t = { s with cores := t.cores }

/-- RNS.LD, R134: vd becomes the 64 elements of the tile's row. RNS.ST: vs becomes the row, under the row-append rule. -/
def rinseLoadStore : Prop := ∀ (core : CoreId) (w : IWord) (s : State),
  let c := coreAt s core.val
  let kc := bits w 97 93
  let a := effAddr c (engAt c 6) (bits w 67 48)
  let u := waited s core.val 6 w
  0 ≤ a →
  (Issues s core.val 6 1 w → onlyBits w [(11, 8), (67, 48), (72, 68), (97, 93), (113, 108)] = true →
    kcOk (bits w 11 8) kc = true → a + kcSize (bits w 11 8) kc ≤ 0x40000 →
    let tile := (readTile u (.basket core.val) a.toNat (bits w 11 8) kc).1
    ∃ t, Runs (.rnsLd core) s t ∧ vreg (coreAt t core.val) (bits w 87 68) = tile.row (bits w 113 108) ∧
      (∀ v, v ≠ bits w 87 68 → vreg (coreAt t core.val) v = vreg c v)) ∧
  (Issues s core.val 6 2 w → onlyBits w [(15, 12), (47, 46), (67, 48), (72, 68), (97, 93), (113, 108)] = true →
    outOk w kc = true → a + kcSize (bits w 15 12) kc ≤ 0x40000 → Runs (.rnsSt core) s
    (issuedData (appendRows u core.val 6 (outForm s core.val w kc) a.toNat (bits w 113 108) [some (vreg c (bits w 87 68))]).1
      core.val 6 w {}))

/-- RNS vector operations, R134, R135, with a clean residue check: every lane of vd is the operation of the lanes of vs1, vs2 and the old vd, and is
poisoned where a lane it reads is; BCAST copies one lane of vs1. Every other register is as it was. With any fault the
instruction runs too. -/
def rinseVector : Prop := ∀ (core : CoreId) (w : IWord) (s : State), Issues s core.val 6 3 w →
  let c := coreAt s core.val
  let op := bits w 47 42
  let d := bits w 67 48
  (op ∈ [1, 2, 3, 4, 5, 6, 7, 8, 0x10, 0x11, 0x12, 0x13, 0x14, 0x15] → onlyBits w [(47, 42), (52, 48), (72, 68), (92, 88)] = true →
    (∀ fault, ∃ t, Runs (.rnsVectorOp core fault) s t) ∧
    ∃ t, Runs (.rnsVectorOp core .clean) s t ∧
      (∀ i, i < 64 → ((vreg (coreAt t core.val) d).getD i {}).v =
        laneOp op ((vreg c (bits w 87 68)).getD i {}).v ((vreg c (bits w 107 88)).getD i {}).v ((vreg c d).getD i {}).v) ∧
      (∀ i, i < 64 → ((vreg (coreAt t core.val) d).getD i {}).p = (((vreg c (bits w 87 68)).getD i {}).p ||
        (decide (op ≤ 8) && ((vreg c (bits w 107 88)).getD i {}).p) ||
        (decide (op = 4 ∨ op = 8) && ((vreg c d).getD i {}).p))) ∧
      (∀ v, v ≠ d → vreg (coreAt t core.val) v = vreg c v)) ∧
  (op = 9 → onlyBits w [(47, 42), (52, 48), (72, 68), (92, 88), (113, 108)] = true → ∃ t, Runs (.rnsVectorOp core .clean) s t ∧
    vreg (coreAt t core.val) d = List.replicate 64 ((vreg c (bits w 87 68)).getD (bits w 113 108) {}) ∧
    (∀ v, v ≠ d → vreg (coreAt t core.val) v = vreg c v))

/-- RNS row operations, R134, R135, R136: one that passes its checks runs; RSUM, RMAX and RSSQ with a clean residue check put the sum, the maximum or the
sum of squares of the row's valid elements, in lane order, into lane (tile row) of vd, and leave every other lane. LNORM, RMSN and SMAX with a
clean residue check and nothing poisoned append a row to the destination tiles: each element less the mean, times 1 ÷ √(variance + ε);
each times 1 ÷ √(mean square + ε); or e to the element less the maximum, times 1 ÷ the sum of those. -/
def rinseRow : Prop := ∀ (core : CoreId) (w : IWord) (s : State), Issues s core.val 6 4 w →
  let c := coreAt s core.val
  let op := bits w 47 42
  let lane := 64 * bits w 72 68 + bits w 124 119
  let tiles := (readTiles (waited s core.val 6 w) (.basket core.val) (bits w 11 8) (bits w 97 93) (rowSrc c (engAt c 6) w)).1
  let vs := (laneOrder (tiles.map (fun t => t.row (bits w 124 119))) (tiles.map (fun t => t.validCols))).map (fun a => a.v)
  rowCheck s c (engAt c 6) w = none →
  (∀ fault, ∃ t, Runs (.rnsRowOp core (.instr fault)) s t) ∧
  (op = 0x20 ∨ op = 0x21 ∨ op = 0x22 → ∃ t, Runs (.rnsRowOp core (.instr .clean)) s t ∧
    (op = 0x20 → (tget ({} : Acc) (coreAt t core.val).rinse.reg lane).v = vs.foldl f32add 0) ∧
    (op = 0x21 → (tget ({} : Acc) (coreAt t core.val).rinse.reg lane).v = f32maxOf vs) ∧
    (op = 0x22 → (tget ({} : Acc) (coreAt t core.val).rinse.reg lane).v = (vs.map (fun x => f32mul x x)).foldl f32add 0) ∧
    (∀ i, i ≠ lane → tget ({} : Acc) (coreAt t core.val).rinse.reg i = tget {} c.rinse.reg i)) ∧
  (let all := tiles.map (fun t => t.row (bits w 124 119))
   let cols := tiles.map (fun t => t.validCols)
   let eps := (tget ({} : Acc) c.rinse.reg (64 * bits w 92 88))
   let mean := f32mean vs
   let exps := vs.map (fun x => laneOp 0x10 (f32sub x (f32maxOf vs)) 0 0)
   let out := fun (k x : W32) => if op = 0x30 then f32mul (f32sub x mean) k else if op = 0x31 then f32mul x k
     else f32mul (laneOp 0x10 (f32sub x (f32maxOf vs)) 0 0) k
   let k := if op = 0x30 then invSqrt (f32mean (vs.map (fun x => f32mul (f32sub x mean) (f32sub x mean)))) eps.v
     else if op = 0x31 then invSqrt (f32mean (vs.map (fun x => f32mul x x))) eps.v else laneOp 0x12 (exps.foldl f32add 0) 0 0
   let u := readTiles (waited s core.val 6 w) (.basket core.val) (bits w 11 8) (bits w 97 93) (rowSrc c (engAt c 6) w)
   let z := noteTrailers u.2 core.val 6 .activation tiles
   op = 0x30 ∨ op = 0x31 ∨ op = 0x32 → (∀ a ∈ laneOrder all cols, a.p = false) →
   (op ≠ 0x32 → eps.p = false) →
   Runs (.rnsRowOp core (.instr .clean)) s (issuedData (appendAll z core.val
     (rowForm z core.val (bits w 15 12) (bits w 102 98)) (bits w 124 119) (rowDst c (engAt c 6) w)
     (all.map (fun r => r.map (fun a => (⟨out k a.v, a.p⟩ : Acc))))) core.val 6 w {}))

/-- R62 to R65: converting a code's value back, to the nearest and with scale 1, gives the code, in the eight-bit formats, E2M1 and HT2: of every finite code
but the negative zeros and the codes no drain writes. -/
def narrowRoundTrips : Prop :=
  (∀ c < 256, c ≠ 0x80 → c ≠ 0x7F → c ≠ 0xFF → (convElem 0 none .one (elemVal 0 c)).code = c) ∧
  (∀ c < 256, c ≠ 0x80 → ¬(0x7C ≤ c ∧ c ≤ 0x7F) → c < 0xFC → (convElem 1 none .one (elemVal 1 c)).code = c) ∧
  (∀ c < 16, c ≠ 8 → (convElem 2 none .one (elemVal 2 c)).code = c ∧ (convElem 3 none .one (elemVal 3 c)).code = c) ∧
  (∀ c < 4, c ≠ 2 → (convElem 4 none .one (elemVal 4 c)).code = c) ∧
  (∀ c < 256, c ≠ 0x80 → (convElem 5 none .one (elemVal 5 c)).code = c)

/-! ## Loads, runs and partition resets -/

/-- The host has answered r to the fetch that a reader began (R295). -/
abbrev Fetched (s : State) (id : Reader) (r : HostRead) : Prop := (fetchOf s id).bind (fun f => f.res) = some r

/-- PART_LOAD, R56, R58, R295: a command whose partition is neither EMPTY nor READY is rejected, then one that is misaligned. The image is
read, from host memory by a fetch or from stack memory at once; one that passes the checks makes its partition LOADING, with the SHA-384 of
the image as its measurement and a second read to come, and nothing else of the partition changes. The first check that fails rejects the load
with its status and its order. -/
def partLoad : Prop := ∀ (p : NPort) (r : RingId) (d : Desc) (s : State), Takes s p r 0x01 d →
  let u := settleRing s p r
  let n := descPart d
  let len := bits (arg d 1) 31 0
  let ref : DescRef := ⟨p, r, d.k⟩
  let level := (nalAt u p).lk.level.toNat
  let free := ((partAt u n).st = .empty ∨ (partAt u n).st = .ready) ∧ (partAt u n).load = none ∧ (partAt u n).thermalHalt = false
  let begun := fun (v : State) (stack : Bool) (img : List Byte) => acceptDesc (modPart v n (fun x => { x with
    st := .loading, measurement := Config.sha384 img,
    load := some { desc := ref, stack, addr := arg d 0, image := imageOf img, crc := imageCrc img } })) ref
  (¬free → Runs (.partLoad p r) s (reject u ref eState 1 0)) ∧
  (free → ((arg d 0).toNat % 64 ≠ 0 ∨ len % 64 ≠ 0) → Runs (.partLoad p r) s (reject u ref eAlign 2 0)) ∧
  (free → (arg d 0).toNat % 64 = 0 → len % 64 = 0 →
    (bitAt (arg d 1) 32 = false →
      let v := dropFetch u (.desc ref)
      (fetchOf u (.desc ref) = none → Runs (.partLoad p r) s (beginFetch u (.desc ref) p (arg d 0) len)) ∧
      (∀ img, Fetched u (.desc ref) (.data img []) → imageBad v n level len img = none →
        Runs (.partLoad p r) s (beginFetch (begun v false img) (.load n) p (arg d 0) len)) ∧
      (∀ img st o item, Fetched u (.desc ref) (.data img []) → imageBad v n level len img = some (st, o, item) →
        Runs (.partLoad p r) s (reject v ref st o item)) ∧
      (∀ x st, Fetched u (.desc ref) x → readFailure x = some st → Runs (.partLoad p r) s (refuseRead v ref st))) ∧
    (bitAt (arg d 1) 32 = true → stackBad u (arg d 0).toNat len 64 = none → inReach u n (arg d 0).toNat len = true →
      busyTable u (arg d 0).toNat len = false →
      let w := readStack u (arg d 0).toNat (len / 8)
      w.1.any Prod.snd = false →
      (imageBad w.2 n level len (wordBytes w.1) = none → Runs (.partLoad p r) s (begun w.2 true (wordBytes w.1))) ∧
      (∀ st o item, imageBad w.2 n level len (wordBytes w.1) = some (st, o, item) → Runs (.partLoad p r) s (reject w.2 ref st o item))))

/-- The checks of R56 on an image's bytes come in the order of its table: the magic, the length, the CRC, the level, each only once those before it
pass. -/
def imageChecks : Prop := ∀ (s : State) (n level len : Nat) (b : List Byte),
  let magic := field b 0 4 = 0x49534B59
  let length := (imageOf b).length = len
  let crc := imageCrc b = BitVec.ofNat 32 (field b 12 4)
  (¬magic → imageBad s n level len b = some (eAuth, 4, 0)) ∧
  (magic → ¬length → imageBad s n level len b = some (eRange, 5, 0)) ∧
  (magic → length → ¬crc → imageBad s n level len b = some (eAuth, 6, 0)) ∧
  (magic → length → crc → (imageOf b).level ≠ level → imageBad s n level len b = some (eLevel, 7, 0))

/-- IMAGE_LOAD_COMPLETE, R58, R59, R295: a second read, from host memory by a fetch or from stack memory at once, whose CRC is the first's
makes the partition READY with its load done; one that differs leaves it EMPTY with S_ABORTED, cause 1; a poisoned word, an unsupported
address or a timeout, at its place, and a port that went down with their statuses; a reset with S_RESET_ABORT. -/
def imageLoadComplete : Prop := ∀ (part : PartId) (l : Load) (s : State), s.aon = true →
  (partAt s part.val).load = some l → stagingPart s part.val = false → s.hemReset = none →
  let n := part.val
  let go := Instr.imageLoadComplete part
  let v := dropFetch s (.load n)
  let done := ∃ t, Runs go s t ∧ (partAt t n).st = .ready ∧ (partAt t n).image = some l.image ∧ (partAt t n).load = none ∧
    (partAt t n).stats = [] ∧ (∀ m, m ≠ n → partAt t m = partAt s m)
  (l.lost = true ∨ (partAt s n).reset ≠ none → Runs go s (endLoad s n l { status := sResetAbort })) ∧
  (l.lost = false → (partAt s n).reset = none → l.stack = false →
    (fetchOf s (.load n) = none → Runs go s (beginFetch s (.load n) l.desc.port l.addr l.image.length)) ∧
    (∀ b, Fetched s (.load n) (.data b []) → imageCrc b = l.crc → done) ∧
    (∀ b, Fetched s (.load n) (.data b []) → imageCrc b ≠ l.crc → Runs go s (endLoad v n l { status := sAborted, cause := 1 })) ∧
    (∀ b i l', Fetched s (.load n) (.data b (i :: l')) → Runs go s (endLoad v n l { status := sPoison })) ∧
    (∀ o, Fetched s (.load n) (.unsupported o) →
      Runs go s (endLoad v n l { status := sAborted, cause := 5, carried := eRange.toNat, item := o / 64 })) ∧
    (∀ o, Fetched s (.load n) (.timeout o) → Runs go s (endLoad v n l { status := sTimeout, item := o / 64 })) ∧
    (Fetched s (.load n) .portDown → Runs go s (endLoad v n l { status := sLinkDown }))) ∧
  (l.lost = false → (partAt s n).reset = none → l.stack = true → busyTable s l.addr.toNat l.image.length = false →
    let w := readStack s l.addr.toNat (l.image.length / 8)
    w.1.any Prod.snd = false →
    (imageCrc (wordBytes w.1) = l.crc → done) ∧
    (imageCrc (wordBytes w.1) ≠ l.crc → Runs go s (endLoad w.2 n l { status := sAborted, cause := 1 })))

/-- R59: a load that fails leaves its partition EMPTY with no image, and every other partition and every setting as it was. -/
def loadEnds : Prop := ∀ (n : Nat) (l : Load) (e : Ending) (s : State),
  let t := endLoad s n l e
  partAt t n = { partAt s n with st := .empty, image := none, load := none, stats := [], measurement := 0 } ∧
  (∀ m, m ≠ n → partAt t m = partAt s m) ∧ t.staged = s.staged ∧ t.slices = s.slices ∧ t.stack = s.stack

/-- Tables of stack memory that a descriptor reads are idle (R223), and none of their words is poisoned or uncorrectable. -/
abbrev Clean (s : State) (l : List (Nat × Nat)) : Prop := ∀ x ∈ l, busyTable s x.1 x.2 = false ∧ peekBad s x.1 x.2 = false

/-- s with its tables read: their correctable words corrected and logged (R272). -/
def tablesRead (s : State) (l : List (Nat × Nat)) : State := l.foldl (fun s x => readTable s x.1 x.2) s

/-- What PART_RUN, go, does at v with its slot table's bytes b in hand (R325, R327): the first check that fails rejects it with its status and
order; with all passed, the tables the run names idle and clean, and its routing plans clean, the run is accepted. -/
abbrev TakesTable (go : Instr) (s v : State) (ref : DescRef) (d : Desc) (img : Image) (b : List Byte) : Prop :=
  let n := descPart d
  let es := entries b 0 32 (bits (arg d 1) 8 0)
  let tables := runTables v img (es.map slotOf)
  let t := tablesRead v tables
  (runBad v n img es = none → Clean v tables → (readPlans t n).1 = false →
    Runs go s (acceptRun (readPlans t n).2 n ref d.seq img es)) ∧
  (∀ st o item, runBad v n img es = some (st, o, item) → Runs go s (reject v ref st o item))

/-- PART_RUN, R295, R325, R327: a command whose partition is not ready for a run is rejected, then one misaligned or too long; its table is
read, from host memory by a fetch or from stack memory at once, and a table that passes its checks makes the partition RUNNING with
the run of that descriptor. -/
def partRun : Prop := ∀ (p : NPort) (r : RingId) (d : Desc) (img : Image) (s : State), Takes s p r 0x02 d →
  let u := settleRing s p r
  let n := descPart d
  let k := bits (arg d 1) 8 0
  let a := (arg d 0).toNat
  let ref : DescRef := ⟨p, r, d.k⟩
  let go := Instr.partRun p r
  (partAt u n).image = some img →
  (((partAt u n).st ≠ .ready ∨ (partAt u n).noStart = true ∨ (partAt u n).reset ≠ none) → Runs go s (reject u ref eState 1 0)) ∧
  ((partAt u n).st = .ready → (partAt u n).noStart = false → (partAt u n).reset = none →
    (a % 64 ≠ 0 → Runs go s (reject u ref eAlign 2 0)) ∧
    (a % 64 = 0 → 256 < k → Runs go s (reject u ref eRange 3 0)) ∧
    (a % 64 = 0 → k ≤ 256 →
      (k = 0 → TakesTable go s u ref d img []) ∧
      (k ≠ 0 → bitAt (arg d 1) 32 = false →
        (fetchOf u (.desc ref) = none → Runs go s (beginFetch u (.desc ref) p (arg d 0) (32 * k))) ∧
        (∀ b, Fetched u (.desc ref) (.data b []) → TakesTable go s (dropFetch u (.desc ref)) ref d img b) ∧
        (∀ x st, Fetched u (.desc ref) x → readFailure x = some st → Runs go s (refuseRead (dropFetch u (.desc ref)) ref st))) ∧
      (k ≠ 0 → bitAt (arg d 1) 32 = true → stackLegal u a = true → a + 32 * k ≤ stackEnd u a → inReach u n a (32 * k) = true →
        busyTable u a (32 * k) = false → (readStack u a (4 * k)).1.all (fun x => !x.2) = true →
        TakesTable go s (readStack u a (4 * k)).2 ref d img (wordBytes (readStack u a (4 * k)).1))))

/-- What an accepted run leaves of its partition (R327, R329): RUNNING, with the run's descriptor, sequence and slots, not begun. -/
def runAccepted : Prop := ∀ (n : Nat) (ref : DescRef) (seq : W32) (img : Image) (es : List (List Byte)) (s : State),
  let t := acceptRun s n ref seq img es
  (partAt t n).st = .running ∧ (∃ r, (partAt t n).run = some r ∧ r.desc = ref ∧ r.seq = seq ∧ r.slots = es.map slotOf ∧
    r.started = false ∧ r.stop = none) ∧
  (partAt t n).image = (partAt s n).image ∧ (partAt t n).runNo = (partAt s n).runNo ∧
  (∀ m, m ≠ n → partAt t m = partAt s m)

/-- RUN_START, R328, R376: with the rails of its halves ready and the gains its stations read idle, the run begins: every core is as the
next clause says, its run block is written, and the rails may fall to what is lit. With a rail of its halves failed the run is refused with E_STATE. -/
def runStart : Prop := ∀ (part : PartId) (r : Run) (img : Image) (s : State), s.aon = true →
  (partAt s part.val).run = some r → (partAt s part.val).image = some img → r.started = false → r.stop = none →
  stagingPart s part.val = false → hemWorks s = true →
  ((halvesOf s part.val).any (railFailed s) = false → (halvesOf s part.val).all (railReady s) = true →
    (∀ x ∈ gainTables s r img, busyTable s x.2.1 x.2.2 = false) →
    Runs (.runStart part) s (retarget (beginRun s part.val r img) true)) ∧
  ((halvesOf s part.val).any (railFailed s) = true →
    Runs (.runStart part) s (reject (modPart s part.val (fun x => { x with st := .ready, run := none })) r.desc eState 7 0))

/-- What the start of a run does to a core (R328). -/
def runStartsCore : Prop := ∀ (now : W64) (c : Core),
  let t := startedCore now c
  t.sreg = [] ∧ t.base = [] ∧ t.peg = [] ∧ t.arms = [] ∧
  (∀ e, e < 7 → (engAt t e).pc = 0 ∧ (engAt t e).queue = [] ∧ (engAt t e).loops = [] ∧
    ((engAt t e).st = .ended ↔ (progOf c e).2 = 0)) ∧
  t.f.acc = c.f.acc ∧ t.g.acc = c.g.acc ∧ t.needle.acc = c.needle.acc ∧ t.needle.vecs = c.needle.vecs ∧ t.rinse.reg = c.rinse.reg ∧
  t.gen = c.gen ∧ t.progs = c.progs ∧
  t.f.mStride = 0 ∧ t.f.kStride = 0 ∧ t.f.wStride = 0 ∧ t.g.mStride = 0 ∧ t.g.kStride = 0 ∧ t.g.wStride = 0 ∧ t.rinse.src = 0 ∧
  t.rinse.dst = 0

/-- RUN_END, R329: a stopped run ends with the status of what stopped it; one whose work is done ends with OK, or with S_POISON, cause 6, where
a station ended its work so; any other goes on. -/
def runEnd : Prop := ∀ (part : PartId) (r : Run) (img : Image) (s : State), s.aon = true →
  (partAt s part.val).run = some r → (partAt s part.val).image = some img → (partAt s part.val).reset = none → s.hemReset = none →
  (∀ e, r.stop = some e → Runs (.runEnd part) s (finishRun s part.val r e)) ∧
  (r.stop = none → r.started = true → runDone s part.val r img = true →
    (r.poisoned = none → Runs (.runEnd part) s (finishRun s part.val r { status := ok })) ∧
    (∀ st, r.poisoned = some st → Runs (.runEnd part) s (finishRun s part.val r { status := sPoison, cause := 6, item := st }))) ∧
  (r.stop = none → (r.started = false ∨ runDone s part.val r img = false) → Runs (.runEnd part) s s)

/-- R329: the end of a run leaves its partition READY, with its image and no run, and its number of runs one more where the run began. -/
def runLeavesReady : Prop := ∀ (n : Nat) (r : Run) (e : Ending) (s : State),
  let t := finishRun s n r e
  (partAt t n).st = .ready ∧ (partAt t n).run = none ∧ (partAt t n).image = (partAt s n).image ∧
  (partAt t n).runNo = if r.started then (partAt s n).runNo + 1 else (partAt s n).runNo

/-- PART_STOP, R324: naming the live run it stops it with S_ABORTED, cause 3, and completes with OK; one that ended receives S_ABORT_LATE; a target
never accepted for the partition E_RANGE. -/
def partStop : Prop := ∀ (p : NPort) (r : RingId) (d : Desc) (s : State), Takes s p r 0x03 d →
  let u := settleRing s p r
  let n := descPart d
  let seq := BitVec.ofNat 32 (bits (arg d 0) 31 0)
  let rg := bits (arg d 0) 37 32
  (∀ x, (partAt u n).run = some x → x.desc.port = p → x.desc.ring.val = rg → x.seq = seq → Runs (.partStop p r) s
    (completeOk (stopRun (acceptDesc u ⟨p, r, d.k⟩) n { status := sAborted, cause := 3 }) ⟨p, r, d.k⟩ 0)) ∧
  ((partAt u n).run = none → (p.val * 64 + rg, seq) ∈ (partAt u n).ran →
    Runs (.partStop p r) s (complete u ⟨p, r, d.k⟩ sAbortLate 0 0 [])) ∧
  ((partAt u n).run = none → (p.val * 64 + rg, seq) ∉ (partAt u n).ran → Runs (.partStop p r) s (reject u ⟨p, r, d.k⟩ eRange 7 0))

/-- R140, R329: the first stop of a run is kept, with its engines' states and program counters latched; a later one changes nothing. -/
def firstStopDecides : Prop := ∀ (n : Nat) (r : Run) (e : Ending) (s : State), (partAt s n).run = some r →
  (r.stop ≠ none → stopRun s n e = s) ∧
  (r.stop = none → partAt (stopRun s n e) n = { partAt s n with run := some { r with stop := some e } } ∧
    (∀ m, m ≠ n → partAt (stopRun s n e) m = partAt s m) ∧
    (∀ k, k ∉ coresOf s n → coreAt (stopRun s n e) k = coreAt s k) ∧
    stopRun s n e = { s with cores := (stopRun s n e).cores, parts := (stopRun s n e).parts })

/-- PART_RESET, R330, R461: accepted, the partition's reset is in progress and its run stops with S_RESET_ABORT. PARTITION_RESET_COMPLETE: the
partition is EMPTY with nothing loaded, its clusters, slip and bubble records kept, and nothing held for it. -/
def partReset : Prop := ∀ (s : State),
  (∀ (p : NPort) (r : RingId) (d : Desc), Takes s p r 0x04 d → let u := settleRing s p r
    u.hemReset = none → (partAt u (descPart d)).reset = none →
    let v := acceptDesc u ⟨p, r, d.k⟩
    v.hemReset = none → (partAt v (descPart d)).reset = none → Runs (.partReset p r) s
      (stopRun (modPart v (descPart d) (fun x => { x with reset := some ⟨[⟨p, r, d.k⟩], v.time⟩ })) (descPart d)
        { status := sResetAbort })) ∧
  (∀ (part : PartId) (x : PReset), s.aon = true → (partAt s part.val).reset = some x → s.hemReset = none →
    ∃ t, Runs (.partitionResetComplete part) s t ∧ (partAt t part.val).st = .empty ∧ (partAt t part.val).image = none ∧
      (partAt t part.val).load = none ∧ (partAt t part.val).run = none ∧ (partAt t part.val).reset = none ∧
      (partAt t part.val).slips = (partAt s part.val).slips ∧ (partAt t part.val).bubbles = (partAt s part.val).bubbles ∧
      (∀ h ∈ t.held, h.part ≠ part) ∧ t.staged = s.staged)

/-! ## Parameter blocks and transfers -/

/-- The checks of R161, orders 2 and 3, on the ids of a list, in their order: every one a valid entry that no earlier id of the list names (E_RANGE), then
every one the partition's (E_PARTITION); the item is the first id that fails. -/
def idChecks : Prop := ∀ (s : State) (n : Nat) (ids : List Nat),
  let fit := fun id => id < pbtCount s ∧ (pbAt s id).valid = true
  (idsBad s n ids = none ↔ (∀ id ∈ ids, fit id ∧ (pbAt s id).part = n) ∧ ids.Nodup) ∧
  (∀ st o id, idsBad s n ids = some (st, o, id) → ∃ before after, ids = before ++ id :: after ∧
    (((st, o) = (eRange, 2) ∧ before.Nodup ∧ (∀ j ∈ before, fit j) ∧ (¬fit id ∨ id ∈ before)) ∨
     ((st, o) = (ePartition, 3) ∧ ids.Nodup ∧ (∀ j ∈ ids, fit j) ∧ (∀ j ∈ before, (pbAt s j).part = n) ∧ (pbAt s id).part ≠ n)))

/-- PARAM_DEFINE, R159, R268: an entry that passes its checks is written to the parameter block table with version 0, epoch 0 and copy 0 current, and the
descriptor completes with OK; the first check that fails rejects it with its status and order; a poisoned old entry ends it with S_POISON. -/
def paramDefine : Prop := ∀ (p : NPort) (r : RingId) (d : Desc) (s : State), Takes s p r 0x10 d →
  let u := settleRing s p r
  let ref : DescRef := ⟨p, r, d.k⟩
  let id := (arg d 0).toNat
  let rows := if id < pbtCount u then [(pbtBase u + 64 * id, 64)] else []
  let t := tablesRead u rows
  (Clean u rows → defineBad t d = none → Runs (.paramDefine p r) s (completeOk (setPb t id (pbAsked d)) ref 0)) ∧
  (Clean u rows → ∀ st k, defineBad t d = some (st, k) → Runs (.paramDefine p r) s (reject t ref st k 0)) ∧
  ((∀ x ∈ rows, busyTable u x.1 x.2 = false) → (∃ x ∈ rows, peekBad u x.1 x.2 = true) →
    Runs (.paramDefine p r) s (refuseRead (reportPoison t (descPart d) none) ref sPoison)) ∧
  (pbAsked d).version = 0 ∧ (pbAsked d).epoch = 0 ∧ (pbAsked d).part = descPart d ∧ (pbAsked d).current = (arg d 1).toNat

/-- PARAM_FREEZE and PARAM_FLIP, R161, R162, R295: the list is fetched; with a list that passes its checks every block named is frozen, or thawed;
and flips its current copy, with its version one more, where none is frozen (E_FROZEN, order 4) and none bound to a run (E_STATE, order 5). -/
def paramFreezeFlip : Prop := ∀ (p : NPort) (r : RingId) (d : Desc) (s : State),
  let u := settleRing s p r
  let ref : DescRef := ⟨p, r, d.k⟩
  let n := bits (arg d 1) 12 0
  let v := dropFetch u (.desc ref)
  pbtCount u ≠ 0 → 1 ≤ n → n ≤ 4096 → (arg d 0).toNat % 8 = 0 →
  (Takes s p r 0x11 d → fetchOf u (.desc ref) = none → Runs (.paramFreeze p r) s (beginFetch u (.desc ref) p (arg d 0) (4 * n))) ∧
  (Takes s p r 0x12 d → fetchOf u (.desc ref) = none → Runs (.paramFlip p r) s (beginFetch u (.desc ref) p (arg d 0) (4 * n))) ∧
  (∀ b, Fetched u (.desc ref) (.data b []) →
    let ids := listWords b n
    let t := tablesRead v (pbRows v ids)
    Clean v (pbRows v ids) → idsBad t (descPart d) ids = none →
    (Takes s p r 0x11 d → Runs (.paramFreeze p r) s
      (completeOk (ids.foldl (fun s id => setPb s id ((pbAt s id).setFrozen (bitAt (arg d 1) 32))) t) ref 0)) ∧
    (Takes s p r 0x12 d →
      ((∀ id ∈ ids, (pbAt t id).frozen = false ∧ pbBound t id = false) → Runs (.paramFlip p r) s
        (completeOk (ids.foldl (fun s id => setPb s id ((pbAt s id).flip (bitAt (arg d 1) 32))) t) ref 0)) ∧
      (∀ id, ids.find? (fun id => (pbAt t id).frozen) = some id → Runs (.paramFlip p r) s (reject t ref eFrozen 4 id)) ∧
      (∀ id, (∀ k ∈ ids, (pbAt t k).frozen = false) → ids.find? (pbBound t) = some id →
        Runs (.paramFlip p r) s (reject t ref eState 5 id))))

/-- PARAM_FREEZE and PARAM_FLIP, R161, R299: refused with no block changed: the table absent (E_STATE, order 1), a count out of 1 to 4,096 (E_RANGE,
order 2), ids that fail, or a list that could not be fetched. -/
def paramListRefused : Prop := ∀ (p : NPort) (r : RingId) (d : Desc) (s : State),
  ∀ go ∈ [(Instr.paramFreeze p r, (0x11 : Byte)), (Instr.paramFlip p r, 0x12)], Takes s p r go.2 d →
  let u := settleRing s p r
  let ref : DescRef := ⟨p, r, d.k⟩
  let n := bits (arg d 1) 12 0
  let v := dropFetch u (.desc ref)
  (pbtCount u = 0 → Runs go.1 s (reject u ref eState 1 0)) ∧
  (pbtCount u ≠ 0 → (n = 0 ∨ 4096 < n) → Runs go.1 s (reject u ref eRange 2 0)) ∧
  (pbtCount u ≠ 0 → 1 ≤ n → n ≤ 4096 → (arg d 0).toNat % 8 = 0 →
    (∀ x st, Fetched u (.desc ref) x → readFailure x = some st → Runs go.1 s (refuseRead v ref st)) ∧
    (∀ b st o id, Fetched u (.desc ref) (.data b []) → Clean v (pbRows v (listWords b n)) →
      idsBad (tablesRead v (pbRows v (listWords b n))) (descPart d) (listWords b n) = some (st, o, id) →
      Runs go.1 s (reject (tablesRead v (pbRows v (listWords b n))) ref st o id)))

/-- GRAD_FETCH, COPY_IN, COPY_OUT, R164, R323: one that passes its checks is accepted, and a Mangle transfer of its bytes begins under the
next number whose engine works (log entry 127); COPY_IN onto a parameter block table, a KV region, a copy or a busy range writes nothing. -/
def transfersBegin : Prop := ∀ (p : NPort) (r : RingId) (d : Desc) (s : State),
  let u := settleRing s p r
  let n := bits (arg d 2) 31 0
  let part := partFin (descPart d)
  let begins := fun (u : State) (x : Xfer) =>
    acceptDesc { u with xfers := tset none u.xfers (xferId u) (some x), nextXfer := xferId u + 1 } ⟨p, r, d.k⟩
  (Takes s p r 0x08 d → copyBad u (descPart d) (arg d 0).toNat (arg d 1).toNat n = none →
    (∀ st, hostWriteBad u (arg d 1).toNat n = some st → Runs (.copyIn p r) s (reject u ⟨p, r, d.k⟩ st 7 0)) ∧
    (hostWriteBad u (arg d 1).toNat n = none → busyStack u (arg d 1).toNat false (n / 64) = true →
      Runs (.copyIn p r) s (reject u ⟨p, r, d.k⟩ eBusyRange 7 0)) ∧
    (hostWriteBad u (arg d 1).toNat n = none → busyStack u (arg d 1).toNat false (n / 64) = false → Runs (.copyIn p r) s
      (begins u { kind := .copyIn, desc := some ⟨p, r, d.k⟩, part, src := arg d 0, dst := arg d 1, len := n, port := p }))) ∧
  (Takes s p r 0x09 d → copyBad u (descPart d) (arg d 1).toNat (arg d 0).toNat n = none → Runs (.copyOut p r) s
    (begins u { kind := .copyOut, desc := some ⟨p, r, d.k⟩, part, src := arg d 0, dst := arg d 1, len := n, port := p })) ∧
  (let rows := pbRows u [(arg d 0).toNat]
   let t := tablesRead u rows
   Takes s p r 0x13 d → pbtCount u ≠ 0 → Clean u rows → idsBad t (descPart d) [(arg d 0).toNat] = none →
    let len := (pbAt t (arg d 0).toNat).fetchLen (bitAt (arg d 3) 0)
    (pbBound t (arg d 0).toNat = true → Runs (.gradFetch p r) s (reject t ⟨p, r, d.k⟩ eState 5 (arg d 0).toNat)) ∧
    (pbBound t (arg d 0).toNat = false → n < len → Runs (.gradFetch p r) s (reject t ⟨p, r, d.k⟩ eRange 7 0)) ∧
    (pbBound t (arg d 0).toNat = false → len ≤ n → Runs (.gradFetch p r) s (begins t
      { kind := .gradFetch, desc := some ⟨p, r, d.k⟩, part,
        src := BitVec.ofNat 64 (arg d 0).toNat, dst := arg d 1, len, port := p })))

/-- R323, R207: what a copy's operands must be: aligned (E_ALIGN), not empty (E_RANGE), a legal stack range in the partition's reach
(E_PARTITION). -/
def copyChecks : Prop := ∀ (s : State) (n host stack len : Nat),
  ((host % 8 ≠ 0 ∨ len % 64 ≠ 0 ∨ stack % 64 ≠ 0) → copyBad s n host stack len = some eAlign) ∧
  (host % 8 = 0 → len % 64 = 0 → stack % 64 = 0 →
    (len = 0 → copyBad s n host stack len = some eRange) ∧
    (len ≠ 0 → stackBad s stack len 64 = none →
      copyBad s n host stack len = if inReach s n stack len then none else some ePartition))

/-- MANGLE_TRANSFER: a step of a copy to host memory reads its next piece of stack memory, posts it through the port, and goes on or ends; a step of
a copy from host memory with words at hand writes them, and asks for the next ones when it has none; words found uncorrectable
on the way arrive poisoned. In a Hem reset no engine moves. -/
def mangleTransfer : Prop := ∀ (id : Nat) (x : Xfer) (bad : List Nat) (s : State), s.aon = true → tget none s.xfers id = some x →
  let go := Instr.mangleTransfer id bad
  (s.hemReset ≠ none → Runs go s s) ∧
  (engineWorks s id = true → x.kind = .copyIn → x.buf = [] →
    Runs go s (askNext s id x x.port (x.src.toNat + x.moved) (x.len - x.moved))) ∧
  (engineWorks s id = true → x.kind = .copyIn → x.buf ≠ [] → let a := x.dst.toNat + x.moved
    let y := crossWords s 6 0 bad x.buf
    busyStack s (a - a % 64) false (ceilDiv (a % 64 + 8 * x.buf.length) 64) = false →
    (x.moved + 8 * x.buf.length < x.len → Runs go s
      (setXfer (writeStack y.2 a y.1) id { x with buf := [], moved := x.moved + 8 * x.buf.length })) ∧
    (x.len ≤ x.moved + 8 * x.buf.length → ∀ ref, x.desc = some ref → Runs go s
      (complete (dropXfer (writeStack y.2 a y.1) id) ref ok 0 0 []))) ∧
  (engineWorks s id = true → x.kind = .copyOut → let a := x.src.toNat + x.moved
    let n := hostChunk (x.dst.toNat + x.moved) (x.len - x.moved)
    busyStack s (a - a % 64) true (ceilDiv (a % 64 + n) 64) = false →
    let q := readCrossing s a (n / 8) bad
    let sent := sendHost q.2 x.port (x.dst + BitVec.ofNat 64 x.moved) 2 (hostBytes q.1)
    let poison := x.poison <|> firstPoison (x.moved / 8) q.1
    (x.moved + n < x.len → Runs go s (setXfer sent id { x with moved := x.moved + n, poison })) ∧
    (x.len ≤ x.moved + n → ∀ ref, x.desc = some ref →
      (poison = none → Runs go s (complete (dropXfer sent id) ref ok 0 0 [x.port])) ∧
      (∀ k, poison = some k →
        Runs go s (complete (dropXfer sent id) ref sPoison (endDetail { status := sPoison, item := k }) 0 [x.port]))))

/-- MANGLE_TRANSFER, R164: a step of a gradient fetch reads a tile's gradients and posts it in the layout of its format; a poisoned tile is posted
as zeros, and the completion names its first place. -/
def gradientMoves : Prop := ∀ (id : Nat) (x : Xfer) (bad : List Nat) (s : State), s.aon = true → tget none s.xfers id = some x →
  engineWorks s id = true → x.kind = .gradFetch →
  let e := pbAt s x.src.toNat
  let at_ := e.grad + x.moved / e.gradTile * 8256
  let q := readCrossing s at_ 1032 bad
  let post := fun b => sendHost q.2 x.port (x.dst + BitVec.ofNat 64 x.moved) 4 b
  x.moved < e.tiles * e.gradTile → busyTable s at_ 8256 = false →
  (q.1.any Prod.snd = false → let b := gradBytes e.gradFmt (wordBytes q.1)
    x.moved + b.length < x.len →
    Runs (.mangleTransfer id bad) s (setXfer (post b) id { x with moved := x.moved + b.length })) ∧
  ((∃ w ∈ q.1, w.2 = true) → x.moved + e.gradTile < x.len →
    Runs (.mangleTransfer id bad) s (setXfer (post (zeros e.gradTile)) id
      { x with moved := x.moved + e.gradTile, poison := x.poison <|> some (x.moved / 8) }))

/-- LW_FETCH, R454, R455: by the semaphore's owner the record asked for is posted to host memory and its length is the completion's result; without one E_STATE;
a buffer too short E_RANGE. -/
def lastWillFetch : Prop := ∀ (p : NPort) (r : RingId) (d : Desc) (s : State), Takes s p r 0x74 d →
  let u := settleRing s p r
  let w := if (newestWill u.hup).1 != bitAt (arg d 1) 32 then u.hup.slot1 else u.hup.slot0
  (holdsSem u p = false → Runs (.lwFetch p r) s (reject u ⟨p, r, d.k⟩ eOwner 1 0)) ∧
  (holdsSem u p = true → w = none → Runs (.lwFetch p r) s (reject u ⟨p, r, d.k⟩ eState 2 0)) ∧
  (∀ x, holdsSem u p = true → w = some x → bits (arg d 1) 31 0 < x.bytes.length →
    Runs (.lwFetch p r) s (reject u ⟨p, r, d.k⟩ eRange 3 0)) ∧
  (∀ x, holdsSem u p = true → w = some x → x.bytes.length ≤ bits (arg d 1) 31 0 → Runs (.lwFetch p r) s
    (completeOk (sendHost u p (arg d 0) (x.bytes.length + 1) x.bytes) ⟨p, r, d.k⟩ (BitVec.ofNat 64 x.bytes.length)))

/-! ## Links -/

/-- A codeword that begins in a flit (R286, R341): with more than 15 symbols wrong it is uncorrectable and counted once, on the port's counter
0x10; every flit of which a part lies in one is lost with it. -/
def codewordsPass : Prop := ∀ (l : Link) (f : Flit) (s : State),
  let k := lkAt s l
  let c := passCodeword s l f
  let begins := k.rxPos = 0 ∨ k.rxPos = 2
  ((lkAt c.2 l).rxPos = (k.rxPos + 1) % 5) ∧
  (begins → f.errors.length ≤ 15 → c.1 = (decide (k.rxPos = 2) && k.rxBad) ∧ (lkAt c.2 l).rxBad = false) ∧
  (begins → 15 < f.errors.length → c.1 = true ∧ (lkAt c.2 l).rxBad = true ∧
    c.2 = modLk (portCount s l 0x10 1) l (fun x => { x with rxPos := (k.rxPos + 1) % 5, rxBad := true })) ∧
  (¬begins → c.1 = k.rxBad ∧ c.2 = modLk s l (fun x => { x with rxPos := (k.rxPos + 1) % 5 }))

/-- A transaction or null flit that reaches a link that is up (R289, R293): one with a part in an uncorrectable codeword is lost,
one with a wrong CRC is counted; a transaction flit is then asked for again, unless one is asked for already, a null flit is dropped. -/
def flitDamaged : Prop := ∀ (l : Link) (f : Flit) (s : State), s.aon = true → linkOn s l = true → (lkAt s l).phase = .up →
  let c := passCodeword s l f
  let asked := fun (t : State) => if (lkAt t l).gap = true then t
    else modLk t l (fun k => { k with nak := true, gap := true, nakTime := s.time })
  (c.1 = true → Runs (.transactionFlit l f) s (asked c.2) ∧ Runs (.nullFlit l f) s c.2) ∧
  (c.1 = false → f.crc ≠ crc64 (flitBytes f) →
    Runs (.transactionFlit l f) s (asked (portCount c.2 l 0x18 1)) ∧ Runs (.nullFlit l f) s (portCount c.2 l 0x18 1))

/-- R290, R291: a flit that arrives whole, but whose header is refused, is a
protocol error: counted, recorded, and the port retrains. One whose header is taken: a null flit brings nothing more; a transaction
flit out of sequence is asked for again, once; the expected one advances the sequence, its slots are taken, and it is owed an acknowledgement, which
leaves at once when 32 are owed. -/
def flitReceived : Prop := ∀ (l : Link) (f : Flit) (s : State), s.aon = true → linkOn s l = true → (lkAt s l).phase = .up →
  let c := (passCodeword s l f).2
  (passCodeword s l f).1 = false → f.crc = crc64 (flitBytes f) →
  ((bits f.header 3 0 = 1 ∨ 3 ≤ bits f.header 3 0) → takeHeader c l f.header = none → Runs (.transactionFlit l f) s (protocolError c l)) ∧
  ((bits f.header 3 0 = 0 ∨ 3 ≤ bits f.header 3 0) → takeHeader c l f.header = none → Runs (.nullFlit l f) s (protocolError c l)) ∧
  (∀ v, bits f.header 3 0 = 0 → takeHeader c l f.header = some v → Runs (.nullFlit l f) s v) ∧
  (∀ v, bits f.header 3 0 = 1 → takeHeader c l f.header = some v →
    (f.header.extractLsb' 4 12 ≠ (lkAt v l).rxSeq → Runs (.transactionFlit l f) s
      (if (lkAt v l).gap = true then v else modLk v l (fun k => { k with nak := true, gap := true, nakTime := v.time }))) ∧
    (f.header.extractLsb' 4 12 = (lkAt v l).rxSeq → ∀ k',
      parseSlots l 64 ((lkAt v l).inSlots ++ slotsOf 15 f.payload) { lkAt v l with
        rxSeq := (lkAt v l).rxSeq + 1, rxAny := true, unacked := (lkAt v l).unacked + 1, gap := false, nak := false } = some k' →
      Runs (.transactionFlit l f) s (if 32 ≤ k'.unacked then transmit (modLk v l (fun _ => k')) l else modLk v l (fun _ => k'))))

/-- R288, R291, R294: a header is refused where a reserved bit is set, its kind is reserved, or its ack_seq is not in the window; one without an
acknowledgement or a nak returns its credits and changes nothing else of a Nalson port; one with an acknowledgement frees what it
acknowledges of the retry buffer. -/
def headerTaken : Prop := ∀ (p : NPort) (h : W64) (s : State),
  ((h &&& 0xFF000000C0000000 ≠ 0 ∨ 3 ≤ bits h 3 0 ∨ (bitAt h 28 = true ∧ ackFits (lkAt s (.nalson p)) (h.extractLsb' 16 12) = false)) →
    takeHeader s (.nalson p) h = none) ∧
  (h &&& 0xFF000000C0000000 = 0 → bits h 3 0 < 3 → bitAt h 28 = false → bitAt h 29 = false →
    ∃ t, takeHeader s (.nalson p) h = some t ∧
      (nalAt t p).lk.credits = [(nalAt s p).lk.credits.getD 0 0 + bits h 43 32, (nalAt s p).lk.credits.getD 1 0 + bits h 55 44,
        (nalAt s p).lk.credits.getD 2 0] ∧
      t = modNal s p (fun n => { n with lk := { n.lk with credits := (nalAt t p).lk.credits } })) ∧
  (∀ (i : Nat) (x : Sent), h &&& 0xFF000000C0000000 = 0 → bits h 3 0 < 3 → bitAt h 28 = true → bitAt h 29 = false →
    (nalAt s p).lk.retry[i]? = some x → x.seq = h.extractLsb' 16 12 → (∀ y ∈ (nalAt s p).lk.retry.take i, y.seq ≠ x.seq) →
    ∃ t, takeHeader s (.nalson p) h = some t ∧ (nalAt t p).lk.retry = (nalAt s p).lk.retry.drop (i + 1) ∧ (nalAt t p).lk.replays = 0)

/-- NAK_REPEAT, R293: once a µs while the expected flit is missing. REPLAY_TIMEOUT: from 10 µs after the oldest unacknowledged flit was sent
the replay starts with it, counted, the fourth without an advance retraining the port. -/
def naksAndReplays : Prop := ∀ (l : Link) (s : State), s.aon = true → (lkAt s l).phase = .up →
  ((lkAt s l).gap = true → 25 ≤ (s.time - (lkAt s l).nakTime).toNat →
    Runs (.nakRepeat l) s (modLk s l (fun k => { k with nak := true, gap := true, nakTime := s.time }))) ∧
  (((lkAt s l).gap = false ∨ (s.time - (lkAt s l).nakTime).toNat < 25) → Runs (.nakRepeat l) s s) ∧
  (∀ x rest, (lkAt s l).retry = x :: rest →
    let u := modLk (portCount s l 0x20 1) l (fun k => { k with
      replay := some 0, replays := k.replays + 1, retry := { x with time := s.time } :: rest })
    (250 ≤ (s.time - x.time).toNat → (lkAt s l).replays < 3 → Runs (.replayTimeout l) s u) ∧
    (250 ≤ (s.time - x.time).toNat → 3 ≤ (lkAt s l).replays → Runs (.replayTimeout l) s (beginRetrain u l 0)) ∧
    ((s.time - x.time).toNat < 250 → Runs (.replayTimeout l) s s))

/-- FLIT_TRANSMIT: a null flit goes within every 4,096; then a link-control flit; then, on a link that is up, a flit of the replay, a new one of the
slots that wait; with 512 (1,536 on Myarn) flits unacknowledged, or nothing to send, null flits (R290, R292, R293, R345). -/
def flitTransmit : Prop := ∀ (l : Link) (s : State), s.aon = true → linkOn s l = true →
  (∀ p, l = .nalson p → (nalAt s p).closing = false) →
  let k := lkAt s l
  let null := emit s l 0 0 (zeros 240) (fun k => { k with sinceNull := 0 })
  (∀ c rest, k.phase ≠ .down → k.sinceNull < 4095 → k.control = c :: rest →
    Runs (.flitTransmit l) s (emit s l 2 0 (padTo 240 c) (fun k => { k with control := rest }))) ∧
  (k.phase ≠ .down → 4095 ≤ k.sinceNull → Runs (.flitTransmit l) s null) ∧
  (k.phase ≠ .down → k.phase ≠ .up → k.control = [] → Runs (.flitTransmit l) s null) ∧
  (∀ i x, k.phase = .up → k.control = [] → k.sinceNull < 4095 → k.replay = some i → k.retry[i]? = some x →
    Runs (.flitTransmit l) s (emit s l 1 x.seq.toNat x.payload (fun k => { k with
      replay := if i + 1 < k.retry.length then some (i + 1) else none,
      retry := k.retry.map (fun y => if y.seq = x.seq then { y with time := s.time } else y) }))) ∧
  (k.phase = .up → k.control = [] → k.sinceNull < 4095 → k.replay = none → k.outEnds = [] → 15 ≤ k.outSlots.length →
    k.retry.length < (match l with | .nalson _ => 512 | .myarn _ => 1536) →
    let body := padTo 240 (k.outSlots.take 15).flatten
    Runs (.flitTransmit l) s (emit s l 1 k.txSeq.toNat body (fun x => { x with
      outSlots := x.outSlots.drop 15, outEnds := [], txSeq := x.txSeq + 1, replay := none,
      retry := x.retry ++ [⟨x.txSeq, body, s.time, []⟩] }))) ∧
  (k.phase = .up → k.control = [] → k.replay = none →
    (match l with | .nalson _ => 512 | .myarn _ => 1536) ≤ k.retry.length → Runs (.flitTransmit l) s null) ∧
  (k.phase = .down → Runs (.flitTransmit l) s s)

/-- A flit as it leaves (R286, R288, R289, R291, R341): its kind, sequence and payload; the sequence last accepted, valid once one was; the nak asked for,
sent once; the CRC of header and payload; and where a codeword begins in it, the codeword's marker, the port kind's pattern over
the count of codewords. -/
def flitOnTheWire : Prop := ∀ (l : Link) (kind seq : Nat) (b : List Byte) (s : State), kind < 16 → seq < 4096 →
  let k := lkAt s l
  let t := emit s l kind seq b id
  ∃ f, (lkAt t l).wire = some f ∧ f.payload = b ∧ f.crc = crc64 (flitBytes f) ∧ bits f.header 3 0 = kind ∧
    bits f.header 15 4 = seq ∧ f.header.extractLsb' 16 12 = k.rxSeq - 1 ∧ bitAt f.header 28 = k.rxAny ∧ bitAt f.header 29 = k.nak ∧
    (k.txPos = 0 ∨ k.txPos = 2 → f.marker.extractLsb' 0 8 = k.txCodeword ∧
      f.marker.extractLsb' 8 12 = (match l with | .nalson _ => 0xA5C | .myarn _ => 0x3C6) ∧ (lkAt t l).txCodeword = k.txCodeword + 1) ∧
    (lkAt t l).nak = false ∧ (lkAt t l).unacked = 0 ∧ (lkAt t l).retry = k.retry ∧ (lkAt t l).phase = k.phase

/-- LANE_FAILED, R287: the lane of a port that is up is excluded, the record "Nalson lane failed" names port and lane, and the port retrains
with cause 1. -/
def laneFailed : Prop := ∀ (p : NPort) (lane : Fin 8) (s : State), s.aon = true → (nalAt s p).lk.phase = .up →
  bitAt (nalAt s p).lk.failed lane.val = false →
  Runs (.laneFailed p lane) s (beginRetrain (raise
    (modLk s (.nalson p) (fun k => { k with failed := k.failed ||| (1#9 <<< lane.val) }))
    { kind := 0x501, unit := 11, id := p.val, detail := lane.val }) (.nalson p) 1)

/-- A link-control flit of a type arrives whole (R290, R304) at a port in one of its phases, and v is the state once its codeword has passed and its
header is taken. -/
abbrev Controls (s v : State) (l : Link) (type : Nat) (phases : List LinkPhase) (f : Flit) : Prop :=
  s.aon = true ∧ linkOn s l = true ∧ (lkAt s l).phase ∈ phases ∧ (passCodeword s l f).1 = false ∧ f.crc = crc64 (flitBytes f) ∧
  bits f.header 3 0 = 2 ∧ takeHeader (passCodeword s l f).2 l f.header = some v ∧ field f.payload 0 1 = type

/-- MYARN_LANE_FAIL, SPARE, SPARE_ACK and LANE_SUBSTITUTION, R343: the first failure of a lane of a port at width 8 asks the peer for the spare; the
sender answers with the first codeword that is a multiple of 8 and at least 4 on; at that codeword lane 8 carries the position,
counted and recorded; a failure with the spare in use begins full training, and with fewer than four good lanes takes the port down. -/
def laneSpared : Prop := ∀ (p : MPort) (lane : Fin 9) (s : State), s.aon = true →
  let n := myaAt s p.val
  (n.lk.phase = .up → lane.val ∈ laneMap s (.myarn p) → bitAt n.lk.failed lane.val = false →
    let u := modLk s (.myarn p) (fun k => { k with failed := k.failed ||| (1#9 <<< lane.val) })
    let failed := n.lk.failed ||| (1#9 <<< lane.val)
    let spare := n.spared = 0xF ∧ n.asked = none ∧ n.lk.width = 2 ∧ bitAt failed 8 = false
    (spare → Runs (.myarnLaneFail p lane) s
      (control (modMya u p.val (fun n => { n with asked := some (BitVec.ofNat 4 lane.val) })) (.myarn p)
        [5, BitVec.ofNat 8 lane.val])) ∧
    (¬spare → ((upFrom 0 9).filter (fun i => !bitAt failed i)).length < 4 → Runs (.myarnLaneFail p lane) s (linkDown u (.myarn p))) ∧
    (¬spare → 4 ≤ ((upFrom 0 9).filter (fun i => !bitAt failed i)).length →
      Runs (.myarnLaneFail p lane) s (beginFull (beginRetrain u (.myarn p) 1) (.myarn p)))) ∧
  (∀ (f : Flit) (c : Byte) (v : State), Controls s v (.myarn p) 5 [.up] f → field f.payload 1 1 = lane.val → lane.val < 8 →
    (myaAt v p.val).spared = 0xF → ∃ c' : Byte, (c'.toNat % 8 = 0 ∧ 4 ≤ (c' - c).toNat ∧ (c' - c).toNat < 12) ∧
    Runs (.spare p f c) s (control (modMya v p.val (fun n => { n with
      subst := some (BitVec.ofNat 4 lane.val, c') })) (.myarn p) [6, BitVec.ofNat 8 lane.val, c'])) ∧
  (∀ (f : Flit) (v : State), Controls s v (.myarn p) 6 [.up] f → field f.payload 1 1 = lane.val →
    (myaAt v p.val).asked = some (BitVec.ofNat 4 lane.val) → Runs (.spareAck p f) s
    (modMya v p.val (fun n => { n with asked := none, subst := some (BitVec.ofNat 4 lane.val, f.payload.getD 2 0) }))) ∧
  (∀ (x : BitVec 4) (c : Byte), n.subst = some (x, c) → Runs (.laneSubstitution p c) s
    (raise (portCount (modMya s p.val (fun n => { n with subst := none, spared := x })) (.myarn p) 0x40 1)
      { kind := 0x601, unit := 12, id := p.val, detail := x.toNat }))

/-- CREDIT_STALL, R355: V0 credits at zero for 10 ms raise "Myarn credit stall" once. -/
def creditStall : Prop := ∀ (p : MPort) (since : W64) (s : State), s.aon = true →
  let n := myaAt s p.val
  n.lk.phase = .up → n.lk.credits.getD 0 0 = 0 → n.stallSince = some since →
  (n.stallSeen = false → 250000 ≤ (s.time - since).toNat → Runs (.creditStall p) s
    (raise (modMya s p.val (fun n => { n with stallSeen := true })) { kind := 0x609, unit := 12, id := p.val })) ∧
  ((n.stallSeen = true ∨ (s.time - since).toNat < 250000) → Runs (.creditStall p) s s)

/-- CAP and CAP_ACK, R304, R305, R306, R348: in training, a capability flit with level 1 gives the peer's levels and width, and its credits where
the link is new, and is answered with a CAP_ACK of level 1; one without level 1 leaves the port down with the record of a level mismatch; a
Myarn peer with the device's own module id takes the port down. -/
def capabilities : Prop := ∀ (s v : State) (f : Flit),
  let b := f.payload
  let levels := BitVec.ofNat 16 (field b 1 2)
  (∀ p : NPort, Controls s v (.nalson p) 1 [.training, .full] f → bitAt levels 1 = true →
    ∃ t, Runs (.cap (.nalson p) f) s t ∧ (nalAt t p).lk = { (nalAt v p).lk with
      capOk := true, peerLevels := levels, peerWide := decide (8 ≤ field b 3 1),
      credits := if (nalAt v p).lk.phase = .training then [field b 4 2, field b 6 2, 0] else (nalAt v p).lk.credits,
      control := (nalAt v p).lk.control ++ [[2, 2, 0]] } ∧ (∀ q, q ≠ p → nalAt t q = nalAt v q) ∧ t = { v with nal := t.nal }) ∧
  (∀ p : MPort, Controls s v (.myarn p) 1 [.training, .full] f → bitAt levels 1 = true → field b 4 4 ≠ v.moduleId.toNat →
    ∃ t, Runs (.cap (.myarn p) f) s t ∧ (myaAt t p.val).lk = { (myaAt v p.val).lk with
      capOk := true, peerLevels := levels, peerWide := decide (8 ≤ field b 3 1),
      credits := if (myaAt v p.val).lk.phase = .training then [field b 8 2, field b 10 2, field b 12 1] else (myaAt v p.val).lk.credits,
      control := (myaAt v p.val).lk.control ++ [[2, 2, 0]] } ∧ (myaAt t p.val).peer = BitVec.ofNat 32 (field b 4 4) ∧
      t = { v with mya := t.mya }) ∧
  (∀ p : MPort, Controls s v (.myarn p) 1 [.training, .full] f → bitAt levels 1 = true → field b 4 4 = v.moduleId.toNat →
    Runs (.cap (.myarn p) f) s (linkDown v (.myarn p))) ∧
  (∀ l : Link, Controls s v l 1 [.training, .full] f → bitAt levels 1 = false → Runs (.cap l f) s (levelMismatch v l levels)) ∧
  (∀ l : Link, Controls s v l 2 [.training, .full] f →
    (field b 1 2 = 2 → Runs (.capAck l f) s (modLk v l (fun k => { k with ackOk := true }))) ∧
    (field b 1 2 ≠ 2 → Runs (.capAck l f) s (levelMismatch v l (lkAt v l).peerLevels)))

/-- TRAINING_COMPLETE, R287, R303, R306: a port whose capabilities are exchanged is up, at level 1, at a width all of whose lanes are good and
that the peer offers; a Nalson port new to its peer tells so on the other port (event 1), one retrained at another width event 2.
One with a bad lane in the width found is not up. -/
def trainingEnds : Prop := ∀ (l : Link) (width : BitVec 2) (lanes : BitVec 9) (s : State), s.aon = true → linkOn s l = true →
  let k := lkAt s l
  let failed := k.failed ||| lanes
  let good := fun i => !bitAt failed i
  let fits := match l, width.toNat with
    | .nalson _, 1 => (upFrom 0 4).all good
    | .nalson _, 2 => (upFrom 4 4).all good
    | .nalson _, 3 => (upFrom 0 8).all good && k.peerWide
    | .myarn _, 1 => decide (4 ≤ ((upFrom 0 9).filter good).length)
    | .myarn _, 2 => decide (8 ≤ ((upFrom 0 9).filter good).length) && k.peerWide
    | _, _ => false
  let up := modLk s l (fun k => { k with
    phase := .up, since := s.time, width := width, level := 1, failed := k.failed ||| lanes, sinceNull := 0, rxPos := 0, rxBad := false,
    txPos := 0, gap := false, replay := if k.retry.isEmpty then none else some 0 })
  let ready := k.phase = .retraining ∨ ((k.phase = .training ∨ k.phase = .full) ∧ k.capOk = true ∧ k.ackOk = true)
  (∀ p, l = .nalson p → fits = true → ready →
    Runs (.trainingComplete l width lanes) s
      (if k.phase = .training then linkEvent up p 1 else if k.width ≠ width then linkEvent up p 2 else up)) ∧
  (∀ p, l = .myarn p → fits = true → ready → ∃ n, Runs (.trainingComplete l width lanes) s (modMya up p.val (fun x => { x with
    subst := none, asked := none, spared := n })) ∧ (width ≠ 2 → n = 0xF) ∧ (width = 2 → (upFrom 0 8).all good = true → n = 0xF) ∧
    (∀ i, width = 2 → i < 8 → good i = false → (∀ j, j < i → good j = true) → n = BitVec.ofNat 4 i)) ∧
  (fits = false → Runs (.trainingComplete l width lanes) s s)

/-- Port l of v retrains in t, with cause (R306): the flit that says so is queued, retry buffers and tags are kept. -/
abbrev RetrainsTo (v t : State) (l : Link) (cause : Byte) : Prop :=
  lkAt t l = { lkAt v l with phase := .retraining, since := v.time, replays := 0, capOk := false, ackOk := false,
                             control := (lkAt v l).control ++ [[3, cause]] } ∧
  (∀ p, ∀ x ∈ (nalAt v p).tags, x ∈ (nalAt t p).tags) ∧
  t = { v with darn := t.darn, errRings := t.errRings, mya := t.mya, nal := t.nal }

/-- RETRAIN, R306: a port that is up and takes a RETRAIN flit, or loses FEC lock, retrains: the flit that says so is queued, the event counted and
recorded, both retry buffers and all tags kept. One that loses no lock and is not up goes on as it was. -/
def retrains : Prop := ∀ (l : Link) (s : State),
  (s.aon = true → (lkAt s l).phase ≠ .up → Runs (.retrain l .lockLost) s s) ∧
  (s.aon = true → (lkAt s l).phase = .up →
    ∃ t, Runs (.retrain l .lockLost) s t ∧ ∃ cause, RetrainsTo { s with free := s.free + 1 } t l cause) ∧
  (∀ (f : Flit) (v : State), Controls s v l 3 [.up] f → (lkAt v l).phase = .up →
    ∃ t, Runs (.retrain l (.flit f)) s t ∧ RetrainsTo v t l (f.payload.getD 1 0))

/-- DOWN and PORT_DOWN, R304, R307, R349: a peer that leaves, a training that lasts 50 ms or a retraining 100 ms, and a port that may not
train (disabled, PERST_N low, its clock lost), take the port down. Down, its link state is at rest, it is counted in its DOWN counter, and its
outstanding work is dropped. -/
def portsGoDown : Prop := ∀ (l : Link) (s : State),
  (∀ (f : Flit) (v : State), Controls s v l 4 [.training, .retraining, .full, .up] f → Runs (.down l f) s (linkDown v l)) ∧
  (s.aon = true → (lkAt s l).phase = .training → 1250000 ≤ (s.time - (lkAt s l).since).toNat → Runs (.portDown l) s (linkDown s l)) ∧
  (s.aon = true → (lkAt s l).phase = .full → 1250000 ≤ (s.time - (lkAt s l).fullSince).toNat → Runs (.portDown l) s (linkDown s l)) ∧
  (s.aon = true → (lkAt s l).phase = .retraining ∨ (lkAt s l).phase = .full → 2500000 ≤ (s.time - (lkAt s l).since).toNat →
    Runs (.portDown l) s (linkDown s l)) ∧
  (s.aon = true → (lkAt s l).phase ≠ .down → mayTrain s l = false → Runs (.portDown l) s (linkDown s l)) ∧
  (s.aon = true → (lkAt s l).phase = .up → mayTrain s l = true → Runs (.portDown l) s s) ∧
  (lkAt (linkDown s l) l).phase = .down

/-- TRAINING_RETRY, R306, R307: 100 ms after it went down a port that may train begins full training, its capability flit queued; before, it waits. A
retraining that lasts 1 ms turns to full training, its retry buffers kept. -/
def trainingRetry : Prop := ∀ (l : Link) (s : State), s.aon = true →
  ((lkAt s l).phase = .retraining → 25000 ≤ (s.time - (lkAt s l).since).toNat → Runs (.trainingRetry l) s
    (modLk s l (fun k => { k with phase := .full, fullSince := s.time, capOk := false, ackOk := false,
                                  control := k.control ++ [capPayload s l] }))) ∧
  (((lkAt s l).phase = .down → mayTrain s l = true → 2500000 ≤ (s.time - (lkAt s l).since).toNat → ∃ t, Runs (.trainingRetry l) s t ∧ (lkAt t l).phase = .training ∧
    (lkAt t l).control = [capPayload s l] ∧ (lkAt t l).retry = [] ∧ (lkAt t l).txSeq = 0 ∧ (lkAt t l).rxSeq = 0 ∧
    (lkAt t l).failed = (lkAt s l).failed ∧ t = { s with mya := t.mya, nal := t.nal })) ∧
  ((lkAt s l).phase = .down → (mayTrain s l = false ∨ (s.time - (lkAt s l).since).toNat < 2500000) → Runs (.trainingRetry l) s s)

/-- NALSON_RETRAIN_REQUEST and NALSON_DISABLE: writes of NALn_CTL by the port itself, or by the semaphore's owner. A retrain of a port that is not down
keeps its control value and begins with cause 3; a disable from the other port sends DOWN with cause 0 and takes the port down; one through the
port itself does so once its own answer has left. -/
def nalsonControl : Prop := ∀ (a : Access) (n : NPort) (v : W32) (s : State), Open a s → (a.port = n ∨ holdsSem s a.port = true) →
  v &&& 0xFFFC = 0 → bits v 31 16 ≠ 0 → (nalAt s n).lk.phase = .up →
  let u := heard s a (0x100004 + 0x10000 * n.val)
  (bitAt v 1 = true → bitAt v 0 = false → bitAt (nalAt s n).ctl 0 = false → Runs (.nalsonRetrainRequest a n v) s
    (answer (beginRetrain (modNal u n (fun x => { x with ctl := v &&& 0xFFFF0001 })) (.nalson n) 3) a ok 0)) ∧
  (bitAt v 0 = true → bitAt v 1 = false → a.port ≠ n → Runs (.nalsonDisable a n v) s
    (sendDown (answer (modNal u n (fun x => { x with ctl := v &&& 0xFFFF0001 })) a ok 0) (.nalson n) 0)) ∧
  (bitAt v 0 = true → bitAt v 1 = false → a.port = n → ∃ t, Runs (.nalsonDisable a n v) s t ∧
    bitAt (nalAt t n).ctl 0 = true ∧ ((nalAt t n).closing = true ∨ (nalAt t n).lk.phase = .down))

/-! ## Myarn packets and barriers -/

/-- Packet p of a kind arrives at a port that is up, for this module, and names the set-up partition n (R353, R357). -/
abbrev Delivered (s : State) (port : MPort) (p : Packet) (kind : Byte) (n : Nat) : Prop :=
  s.aon = true ∧ p.kind = kind ∧ linkOn s (.myarn port) = true ∧ (myaAt s port.val).lk.phase = .up ∧
  routing s port p.dstId 1026 p.segment p.relay = .deliver ∧ packetPart s p = some n

/-- s with the bytes of a packet counted at its port. -/
def countedIn (s : State) (port : MPort) (p : Packet) : State := portCount s (.myarn port) 0x68 (p.len.toNat % 8192)

/-- What a packet's hop at position i does (R353): a port's number forwards on that port when it is up, and drops the packet when not; 0xE delivers to
this module and drops what is another's; 8 to 13, and a position of 15, are invalid. -/
def hops : Prop := ∀ (p : MPort) (dst : W32) (seg : W64) (relay : BitVec 16) (fuel : Nat) (s : State),
  let i := bits seg 3 0
  let h := hop seg i
  let go := routing s p dst (fuel + 1) seg relay
  (i = 15 → go = .drop 0x605) ∧
  (i ≠ 15 → ∀ q : MPort, h = q.val → go = if myaUp s q then .forward q (seg + 1) relay else .drop 0x606) ∧
  (i ≠ 15 → h = 14 → go = if dst = s.moduleId then .deliver else .drop 0x607) ∧
  (i ≠ 15 → 8 ≤ h → h ≤ 13 → go = .drop 0x605)

/-- R353, R357: a packet that is dropped on its way raises the record of its cause at its port and is counted there; one for another port waits at
its egress under its channel; one for a partition that is not set up is dropped. -/
def packetsPass : Prop := ∀ (port : MPort) (p : Packet) (s : State), s.aon = true → p.kind = 1 → linkOn s (.myarn port) = true →
  (myaAt s port.val).lk.phase = .up →
  (∀ k, routing s port p.dstId 1026 p.segment p.relay = .drop k → Runs (.sdata port p) s (dropPacket (countedIn s port p) port p k)) ∧
  (∀ q seg relay, routing s port p.dstId 1026 p.segment p.relay = .forward q seg relay → Runs (.sdata port p) s
    (modMya (countedIn s port p) q.val (fun x => { x with
      v0 := x.v0 ++ [⟨{ p with segment := seg, relay }, some port, none, false⟩] }))) ∧
  (routing s port p.dstId 1026 p.segment p.relay = .deliver → packetPart s p = none →
    Runs (.sdata port p) s (dropPacket (countedIn s port p) port p 0x60B))

/-- SDATA, R357, R358: to a stream that a running station binds, with room in its hamper buffer, its words go into the buffer, the received count rises by
its length, and its units are free again. -/
def streamData : Prop := ∀ (port : MPort) (p : Packet) (n k st : Nat) (b : HBuf) (e : Strm) (s : State), Delivered s port p 1 n →
  let key := streamKey n p.ident
  let v := countedIn s port p
  recvAt s key = e → e.source = some p.srcId → boundStation v n p.ident = some (st, k) → bufOf v n k = some b →
  p.data.length ≤ b.room →
  Runs (.sdata port p) s (returnUnits (received (bufPut v n k (packetWords p)) key p) (some port) 0 p)

/-- SWRITE, R357, R361: a legal one is written to stack memory and counted; one refused under R160, R223 or partition reach writes nothing, is recorded
with the status, and breaks its stream. -/
def streamWrite : Prop := ∀ (port : MPort) (p : Packet) (n : Nat) (s : State), Delivered s port p 2 n →
  let key := streamKey n p.ident
  let v := countedIn s port p
  (recvAt s key).source = some p.srcId →
  (myarnWriteBad v n p.arg.toNat (p.len.toNat % 8192) 64 = none → Runs (.swrite port p) s
    (returnUnits (received (writeStack v p.arg.toNat (packetWords p)) key p) (some port) 0 p)) ∧
  (∀ st, myarnWriteBad v n p.arg.toNat (p.len.toNat % 8192) 64 = some st → Runs (.swrite port p) s
    (returnUnits (settleHeld (breakStream (raise v { kind := 0x60F, unit := 12, id := port.val, status := st }) key (some st)) key 257)
      (some port) 0 p))

/-- A packet of another source than the stream's recorded one is dropped and its stream broken; with 1,024 streams a new one is
dropped (R357, R359). -/
def streamSource : Prop := ∀ (port : MPort) (p : Packet) (n : Nat) (s : State), Delivered s port p 2 n →
  let key := streamKey n p.ident
  let gone := fun k => raise (portCount (countedIn s port p) (.myarn port) 0x48 1) { kind := k, unit := 12, id := port.val }
  (∀ x, (recvAt s key).source = some x → x ≠ p.srcId → Runs (.swrite port p) s
    (returnUnits (settleHeld (breakStream (gone 0x60C) key none) key 257) (some port) 0 p)) ∧
  (recvAt s key = {} → 1024 ≤ s.received.length → Runs (.swrite port p) s (returnUnits (gone 0x60A) (some port) 0 p))

/-- ANNOUNCE, R360, with no other of its stream held: when the data it covers has arrived it commits at once; when some is missing it is held, and counted
once. -/
def announce : Prop := ∀ (port : MPort) (p : Packet) (n : Nat) (s : State), Delivered s port p 3 n →
  let key := streamKey n p.ident
  let v := countedIn s port p
  let e := recvAt s key
  let h : Held := { part := partFin n, stream := p.ident, count := lo32 p.arg, host := bitAt p.arg 32,
                    target := BitVec.ofNat 64 (field p.data 0 8), value := BitVec.ofNat 64 (field p.data 8 8), time := s.time, port }
  n < 8 → e.source = some p.srcId → e.broken = none → (∀ x ∈ s.held, x.key ≠ key) → s.held.length < 256 →
  ((e.count - lo32 p.arg).toNat < 2147483648 → Runs (.announce port p) s (returnUnits (commitAnnounce v h) (some port) 1 p)) ∧
  (2147483648 < (e.count - lo32 p.arg).toNat → Runs (.announce port p) s
    (returnUnits (portCount { v with held := s.held ++ [h] } (.myarn port) 0x50 1) (some port) 1 p))

/-- R360: committing action 1 writes the value to host memory through the partition's port; action 0 writes it to stack memory. -/
def announceCommits : Prop := ∀ (h : Held) (s : State),
  (h.host = true → nalUp s (portOf s h.part.val) = true →
    commitAnnounce s h = modNal s (portOf s h.part.val) (fun n => { n with
      egress := n.egress ++ [.mwr h.target (leBytes h.value.toNat 8)] })) ∧
  (h.host = false → myarnWriteBad s h.part.val h.target.toNat 8 8 = none →
    commitAnnounce s h = writeStack s h.target.toNat [(h.value, false)])

/-- ANNOUNCE_HOLD_EXPIRY, R361: held for longer than ann_ms the oldest announce of its stream is discarded; before, nothing changes. -/
def announceExpires : Prop := ∀ (part : PartId) (stream : BitVec 16) (h : Held) (s : State), s.aon = true → timeCounts s = true →
  s.held.find? (fun h => h.key == streamKey part.val stream) = some h →
  (annMs s h.port * 25000 < (s.time - h.time).toNat → Runs (.announceHoldExpiry part stream) s
    (settleHeld (discard { s with held := s.held.erase h } h none) (streamKey part.val stream) 257)) ∧
  ((s.time - h.time).toNat ≤ annMs s h.port * 25000 → Runs (.announceHoldExpiry part stream) s s)

/-- MYA_WRITE: one that passes its checks assigns its bytes to the stream's sent count and begins a transfer; MYA_ANNOUNCE carries the assigned count
in an announce packet; MYA_STREAM_CLEAR forgets both ends of the stream and its held announces. -/
def myaDescriptors : Prop := ∀ (p : NPort) (r : RingId) (d : Desc) (s : State),
  let u := settleRing s p r
  let n := descPart d
  let len := bits (arg d 1) 31 0
  let id := (arg d 1).extractLsb' 32 16
  let key := streamKey n id
  let c := (tget {} u.sent key).count + BitVec.ofNat 32 len
  (Takes s p r 0x50 d → len % 64 = 0 → (arg d 2).toNat % 64 = 0 → len ≠ 0 → stackBad u (arg d 0).toNat len 64 = none →
    inReach u n (arg d 0).toNat len = true → senderBad u d id = none → myaUp u (routePort (routeOf (descRoute d))) = true →
    Runs (.myaWrite p r) s (acceptDesc (addXfer { u with sent := tmod {} u.sent key (fun e => { e with count := c }) }
      { kind := .myaWrite id (descRoute d), desc := some ⟨p, r, d.k⟩, part := partFin n, src := arg d 0, dst := arg d 2, len,
        asked := c.toNat, port := p }) ⟨p, r, d.k⟩)) ∧
  (Takes s p r 0x51 d → (arg d 1).toNat % 8 = 0 → let id := (arg d 0).extractLsb' 0 16
    let sent := (tget {} u.sent (streamKey n id)).count
    senderBad u d id = none → myaUp u (routePort (routeOf (descRoute d))) = true →
    Runs (.myaAnnounce p r) s (acceptDesc (queuePacket (addXfer u
      { kind := .myaWrite id (descRoute d), desc := some ⟨p, r, d.k⟩, part := partFin n, src := 0, dst := 0, len := 0,
        asked := sent.toNat, port := p }) (routePort (routeOf (descRoute d))) 1
      ⟨packetOf u (routeOf (descRoute d)) 3 id (BitVec.ofNat 64 (sent.toNat + bits (arg d 0) 16 16 * 2 ^ 32))
        [(arg d 1, false), (arg d 2, false)], none, some (xferId u), false⟩) ⟨p, r, d.k⟩)) ∧
  (Takes s p r 0x52 d → streamBusy u n ((arg d 0).extractLsb' 0 16) = false →
    let key := streamKey n ((arg d 0).extractLsb' 0 16)
    Runs (.myaStreamClear p r) s (completeOk { u with
      sent := terase u.sent key, received := terase u.received key, held := u.held.filter (fun h => h.key != key) } ⟨p, r, d.k⟩ 0))

/-- BARRIER_ARRIVAL, R364: of an engine that waits at an unbroken barrier it is counted in the current generation, or in the next while the barrier awaits
its release, and the engine waits for that generation; it takes a sequence number of the Tack network (R199), and the barrier completes if
it can. -/
def barrierArrives : Prop := ∀ (core : CoreId) (eng : EngId) (k : Nat) (s : State), s.aon = true →
  arriving s core.val eng.val = some k →
  let b := barAt s k
  let g := if b.awaiting then b.gen + 1 else b.gen
  let named := fun (u : State) => modCore u core.val (fun c => modEng c eng.val (fun x => { x with
    flight := x.flight.map (fun f => match f.until_ with | .barrier j none => { f with until_ := .barrier j (some g) } | _ => f) }))
  (b.broken = true → Runs (.barrierArrival core eng) s (stopRun s (barOwner s k) { status := sTimeout })) ∧
  (b.broken = false → b.awaiting = false → b.loc < 65535 → Runs (.barrierArrival core eng) s
    (settleBar (tackMessage (named (modBar s k (fun b => { b with loc := b.loc + 1, since := b.since <|> some s.time }))) core.val tackL0 1) k)) ∧
  (b.broken = false → b.awaiting = true → b.nextLoc < 65535 → Runs (.barrierArrival core eng) s
    (settleBar (tackMessage (named (modBar s k (fun b => { b with nextLoc := b.nextLoc + 1, nextSince := b.nextSince <|> some s.time })))
      core.val tackL0 1) k))

/-- R365, R367: a complete barrier with a parent sends it its generation and awaits the release; one without releases at once: its generation
advances, the next one's arrivals move into place and the release is counted. -/
def barrierSettles : Prop := ∀ (k : Nat) (s : State), (barAt s k).awaiting = false → (barAt s k).broken = false →
  (barComplete s k = false → settleBar s k = s) ∧
  (barComplete s k = true → barParent s k = true → settleBar s k =
    barSend (modBar s k (fun b => { b with awaiting := true })) (parentRoute s k) 4 (parentIndex s k) (barAt s k).gen) ∧
  (barComplete s k = true → barParent s k = false → let b := barAt s k
    barAt (settleBar s k) k = { b with
      gen := b.gen + 1, loc := b.nextLoc, children := b.nextChildren, nextLoc := 0, nextChildren := 0, awaiting := false,
      since := b.nextSince, nextSince := none, releases := b.releases + 1 } ∧
    (∀ j, j ≠ k → barAt (settleBar s k) j = barAt s j))

/-- ARRIVE, R366: from child c, not yet arrived in the current generation, it is counted; of another generation it is dropped with "barrier generation
mismatch", with another owner, from no child or from one that has arrived with "barrier message rejected"; at a broken barrier it is dropped. -/
def arriveCounted : Prop := ∀ (port : MPort) (p : Packet) (n : Nat) (s : State), Delivered s port p 4 n →
  let k := p.ident.toNat % 256
  let v := countedIn s port p
  let b := barAt s k
  let ends := fun u => returnUnits u (some port) 2 p
  (b.broken = true → Runs (.arrive port p) s (ends (portCount v (.myarn port) 0x48 1))) ∧
  (b.broken = false → lo32 p.arg ≠ b.gen → Runs (.arrive port p) s (ends
    (raise (portCount v (.myarn port) 0x48 1) { kind := 0x610, unit := 15, id := k, detail := (lo32 p.arg).toNat }))) ∧
  (b.broken = false → lo32 p.arg = b.gen → barOwner v k ≠ n → Runs (.arrive port p) s (ends
    (raise (portCount v (.myarn port) 0x48 1) { kind := 0x611, unit := 15, id := k }))) ∧
  (∀ c, b.broken = false → lo32 p.arg = b.gen → barOwner v k = n →
    (upFrom 0 (barChildren v k)).find? (fun c => (childRoute v k c).dstId == p.srcId && !bitAt b.children c) = some c →
    Runs (.arrive port p) s (ends (settleBar (modBar v k (fun b => { b with
      children := b.children ||| (1#4 <<< c), since := b.since <|> some v.time })) k))) ∧
  (b.broken = false → lo32 p.arg = b.gen → barOwner v k = n →
    (upFrom 0 (barChildren v k)).find? (fun c => (childRoute v k c).dstId == p.srcId && !bitAt b.children c) = none →
    Runs (.arrive port p) s (ends (raise (portCount v (.myarn port) 0x48 1) { kind := 0x611, unit := 15, id := k })))

/-- RELEASE, R367: from the parent's module, of the current generation, while the barrier awaits it, it releases the barrier; else it is dropped. -/
def releaseTaken : Prop := ∀ (port : MPort) (p : Packet) (n : Nat) (s : State), Delivered s port p 5 n →
  let k := p.ident.toNat % 256
  let v := countedIn s port p
  let ends := fun u => returnUnits u (some port) 2 p
  (barAt s k).broken = false →
  (lo32 p.arg = (barAt s k).gen → barOwner v k = n → barParent v k = true → (parentRoute v k).dstId = p.srcId →
    (barAt s k).awaiting = true → Runs (.release port p) s (ends (settleBar (releaseBar v k) k))) ∧
  (lo32 p.arg = (barAt s k).gen → (barAt s k).awaiting = false → Runs (.release port p) s (ends
    (raise (portCount v (.myarn port) 0x48 1) { kind := 0x611, unit := 15, id := k })))

/-- BARRIER_TIMEOUT, R368: a generation unreleased for longer than BAR_LIMIT_k after its first arrival breaks the barrier, is recorded with
its generation, and stops its owner's run with S_TIMEOUT; a limit of 0 never does. -/
def barrierTimesOut : Prop := ∀ (bar : BarId) (since : W64) (s : State), s.aon = true → timeCounts s = true →
  (barAt s bar.val).broken = false → (barAt s bar.val).since = some since →
  let limit := bits (reg s (0xB00000 + 0x100 * bar.val + 4)) 19 0
  (0 < limit → 25 * limit < (s.time - since).toNat → Runs (.barrierTimeout bar) s
    (stopRun (raise (modBar s bar.val (fun b => { b with broken := true }))
      { kind := 0x612, unit := 15, id := bar.val, detail := (barAt s bar.val).gen.toNat }) (barOwner s bar.val) { status := sTimeout })) ∧
  ((limit = 0 ∨ (s.time - since).toNat ≤ 25 * limit) → Runs (.barrierTimeout bar) s s)

/-! ## Partition cycles, rings, the Tack network and frames -/

/-- R384: the bubbles of ratio b in each group of 64 wall cycles are b, and cycle i of a group is one exactly where the share of b reached rises. -/
def bubblesPerGroup : Prop := ∀ b, b ≤ 56 → ((upFrom 0 64).filter (fun i => isBubble b i)).length = b ∧
  ∀ i, (isBubble b i = true ↔ i % 64 * b / 64 < (i % 64 + 1) * b / 64)

/-- What decides on a bubble (R384, R386): the ratio and the cause of the largest contribution 4 cycles before, or now where the run is younger. -/
def bubbleDecided : Prop := ∀ (s : State) (n : Nat) (r : Run),
  (r.lag = [] → appliedBubble s n r = (bubbleRatio s n, bubbleCause s n)) ∧
  (∀ l x, r.lag = l ++ [x] → appliedBubble s n r = x) ∧
  ((contributions s n).all (fun x => decide (x ≤ bubbleRatio s n)) = true) ∧
  (contributions s n)[bubbleCause s n - 1]? = some (bubbleRatio s n)

/-- PARTITION_CYCLE, R183, R184, R383: a started run in a cycle that is a bubble counts it under its cause; the partition's cycle
number, its slip records, its buffers and every engine of every core stay. -/
def bubblesSkip : Prop := ∀ (part : PartId) (bad : List LinkWord) (r : Run) (s : State), s.aon = true → (partAt s part.val).run = some r → r.started = true →
  s.hup.loss = .none → isBubble (appliedBubble s part.val r).1 r.wall = true →
  let p := partAt s part.val
  ∃ t, Runs (.partitionCycle part bad) s t ∧ (partAt t part.val).bubbles.run = p.bubbles.run + 1 ∧
    (partAt t part.val).bubbles.total = p.bubbles.total + 1 ∧
    (partAt t part.val).bubbles.causes = bump p.bubbles.causes ((appliedBubble s part.val r).2 - 1) ∧
    (partAt t part.val).slips = p.slips ∧
    (∃ r', (partAt t part.val).run = some r' ∧ r'.cycle = r.cycle ∧ r'.wall = r.wall + 1 ∧ r'.bufs = r.bufs ∧ r'.flights = r.flights) ∧
    (∀ k e, engAt (coreAt t k) e = engAt (coreAt s k) e) ∧ t = { s with cores := t.cores, mesh := t.mesh, parts := t.parts }

/-- PARTITION_CYCLE, R181, R183: with no bubble, a cycle in which a hold applies is counted as a hold, and ends the row of unbroken data slips; one the
slip tree decided to slip 8 cycles before is counted under its cause; the partition's cycle number stays in both. -/
def slipsHold : Prop := ∀ (part : PartId) (bad : List LinkWord) (r : Run) (s : State), s.aon = true → (partAt s part.val).run = some r → r.started = true →
  s.hup.loss = .none → isBubble (appliedBubble s part.val r).1 r.wall = false →
  let p := partAt s part.val
  (r.stop ≠ none → ∃ t, Runs (.partitionCycle part bad) s t ∧ (partAt t part.val).slips =
      { p.slips with hold := p.slips.hold + 1, cHold := p.slips.cHold + 1, unbroken := 0 } ∧
    (∃ r', (partAt t part.val).run = some r' ∧ r'.cycle = r.cycle) ∧ (∀ k e, engAt (coreAt t k) e = engAt (coreAt s k) e)) ∧
  (∀ a rest, holding s part.val r = false → r.ahead = a :: rest → 9 ≤ r.ahead.length → a.cause ≠ 0 →
    ∃ t, Runs (.partitionCycle part bad) s t ∧ (partAt t part.val).slips = { p.slips with
        slip := p.slips.slip + 1, cSlip := p.slips.cSlip + 1, causes := bump p.slips.causes (a.cause - 1),
        unbroken := p.slips.unbroken + 1, maxRun := max p.slips.maxRun (p.slips.unbroken + 1), lastCause := a.cause, lastWho := a.who } ∧
      (∃ r', (partAt t part.val).run = some r' ∧ r'.cycle = r.cycle ∧ r'.ahead = rest))

/-- PARTITION_CYCLE, R181: a cycle that is neither a bubble nor a slip advances the partition's cycle number by one. -/
def cyclesAdvance : Prop := ∀ (part : PartId) (bad : List LinkWord) (r : Run) (a : Ahead) (rest : List Ahead) (s : State), s.aon = true →
  (partAt s part.val).run = some r → r.started = true → s.hup.loss = .none →
  isBubble (appliedBubble s part.val r).1 r.wall = false → holding s part.val r = false → r.ahead = a :: rest →
  9 ≤ r.ahead.length → a.cause = 0 →
  ∃ t, Runs (.partitionCycle part bad) s t ∧ (∃ r', (partAt t part.val).run = some r' ∧ r'.cycle = r.cycle + 1 ∧ r'.ahead = rest) ∧
    (partAt t part.val).slips.unbroken = 0 ∧ (partAt t part.val).slips.slip = (partAt s part.val).slips.slip

/-- SLIP_LIMIT, R186: data slips unbroken for longer than slip_limit raise "slip limit" with the last cause and its source, and stop the run with
S_SLIP_LIMIT; up to the limit nothing happens. -/
def slipLimit : Prop := ∀ (part : PartId) (s : State), s.aon = true → runLive s part.val = true →
  let x := (partAt s part.val).slips
  let limit := bits (reg s (0xA04010 + 0x40 * part.val)) 31 20 * (if s.therm.bin then 1450 else 1500)
  (limit < x.unbroken → 3 ≤ x.lastCause → Runs (.slipLimit part) s (stopRun (raise s
    { kind := 0x205, unit := 14, id := part.val, part := some part.val, status := sSlipLimit,
      detail := x.lastCause + x.lastWho % 4096 * 16 }) part.val { status := sSlipLimit })) ∧
  (limit < x.unbroken → x.lastCause ≤ 2 → Runs (.slipLimit part) s (stopRun (raise s
    { kind := 0x205, unit := 10, id := x.lastWho / 65536, part := some part.val, status := sSlipLimit,
      detail := x.lastCause + x.lastWho % 4096 * 16 }) part.val { status := sSlipLimit })) ∧
  (x.unbroken ≤ limit → Runs (.slipLimit part) s s)

/-- SEAM_RING_REPLACED and UNCORRECTABLE_RING_WORD, R190 to R192, R266: with ring 8 free the ring moves onto it, "seam ring replaced" is raised and a defect
recorded; without, a correctable failure only refuses later runs, and an uncorrectable one makes the ring's words poison, also those of the
ring that ring 8 carries where ring 8 fails. Every uncorrectable word is counted and recorded. -/
def ringsReplaced : Prop := ∀ (ring : Fin 8) (east : Bool) (slot : Fin 64) (s : State), s.aon = true →
  let counted := fun (k : Nat) => raise (modEcc s 6003 (fun i => { i with uncorrectable := i.uncorrectable + 1 }))
    { kind := 0x301, unit := 20, id := 3, detail := k }
  let u := counted ring.val
  let poisoned := fun (v : State) (k : Nat) => raise { v with
    mesh := { v.mesh with poisoned := v.mesh.poisoned ++ [(2, k)] },
    units := { v.units with ringsFailed := if k ∈ v.units.ringsFailed then v.units.ringsFailed else v.units.ringsFailed ++ [k] } }
    { kind := 0x207, unit := 4, id := k }
  (s.units.ring8 = none → s.units.ring8Gone = false → Runs (.seamRingReplaced ring) s
    (addDefect (raise { s with units := { s.units with ring8 := some ring.val } } { kind := 0x206, unit := 4, id := ring.val })
      0x206 4 ring.val 2)) ∧
  ((s.units.ring8 ≠ none ∨ s.units.ring8Gone = true) → ring.val ∉ s.units.ringsFailed →
    Runs (.seamRingReplaced ring) s { s with units := { s.units with ringsFailed := s.units.ringsFailed ++ [ring.val] } }) ∧
  (s.units.ring8 = none → s.units.ring8Gone = false → Runs (.uncorrectableRingWord (ring.castLE (by decide)) east slot) s
      (beginReplay (replaceRing u ring.val) ring.val)) ∧
  (s.units.ring8 ≠ some ring.val → (s.units.ring8 ≠ none ∨ s.units.ring8Gone = true) → (2, ring.val) ∉ s.mesh.poisoned →
      Runs (.uncorrectableRingWord (ring.castLE (by decide)) east slot) s (poisoned u ring.val)) ∧
  (s.units.ring8 = some ring.val → (2, ring.val) ∉ s.mesh.poisoned → Runs (.uncorrectableRingWord 8 east slot) s
      (poisoned { counted 8 with units := { s.units with ring8Gone := true } } ring.val)) ∧
  (s.units.ring8 = none → Runs (.uncorrectableRingWord 8 east slot) s
      (addDefect { counted 8 with units := { s.units with ring8Gone := true } } 0x207 4 8 2))

/-- TACK_MESSAGE_LOST and TACK_REQUEST_TIMEOUT, R199: the record "Tack message lost" names source and destination; a request whose response did not come ends
with S_TIMEOUT, a set-up read with that answer. TACK_SEAM_CHANNEL_FAILED, R201: recorded once, in mode 0. -/
def tackEvents : Prop := ∀ (src dst : BitVec 16) (chan : Fin 2) (s : State), s.aon = true →
  (let u := tackMessage s src.toNat dst.toNat chan.val
   let lost := fun v => raise v { kind := 0x208, unit := 0, status := sTimeout, detail := src.toNat + dst.toNat * 65536 }
   Runs (.tackRequestTimeout src dst chan none) s (lost u) ∧
   ∀ a, Runs (.tackRequestTimeout src dst chan (some a)) s (lost (answer u a sTimeout 0))) ∧
  (∃ t, Runs (.tackMessageLost src dst chan) s t ∧
    t.mesh.seqs.lookup (src.toNat, dst.toNat, chan.val) = some (((s.mesh.seqs.lookup (src.toNat, dst.toNat, chan.val)).getD 0) + 1) ∧
    t = raise { s with mesh := { s.mesh with seqs := t.mesh.seqs } } { kind := 0x208, unit := 0, detail := src.toNat + dst.toNat * 65536 }) ∧
  (tackMode s = false → s.mesh.channelFailed = false → Runs (.tackSeamChannelFailed false) s
    (raise { s with mesh := { s.mesh with channelFailed := true } } { kind := 0x209, unit := 0 })) ∧
  ((tackMode s = true ∨ s.mesh.channelFailed = true) → Runs (.tackSeamChannelFailed false) s s) ∧
  (s.mesh.sidebandFailed = false → ∃ t, Runs (.tackSeamChannelFailed true) s t ∧ t.mesh = { s.mesh with sidebandFailed := true } ∧
    t.units.ring8Gone = true ∧ ∀ k, k < 8 → k ∈ t.units.ringsFailed)

/-- The window of a sweep of 64 codes (R20): codes without an error, one after another, and of all such runs a widest, the lowest of those (log entry 97). -/
def windowIsWidest : Prop := ∀ errors : List Nat,
  let w := windowOf errors
  (∀ i, w.1 ≤ i → i < w.1 + w.2 → i < 64 ∧ errors[i]? = some 0) ∧
  (∀ first len, first + len ≤ 64 → (∀ i, first ≤ i → i < first + len → errors[i]? = some 0) →
    len ≤ w.2 ∧ (len = w.2 → 0 < len → w.1 ≤ first))

/-- RETUNE_MEASUREMENT, R20, R22, R23: after an ageing change or at a margin review the group's centre is the middle of the window the sweep finds, its
operating code not yet moved; a window of fewer than 4 codes raises "crossing margin low". Without cause nothing changes. -/
def retune : Prop := ∀ (g : Crossing) (errors : List Nat) (s : State), s.aon = true →
  let first := (windowOf errors).1
  let len := (windowOf errors).2
  (aged s g = false → (crossAt s g).seen = s.therm.reviewNo → s.therm.reviewing = none → Runs (.retuneMeasurement g errors) s s) ∧
  ((aged s g = true ∨ (crossAt s g).seen ≠ s.therm.reviewNo ∨ s.therm.reviewing ≠ none) →
  ∃ u : State, (crossAt u g).centre = (if len = 0 then (crossAt s g).centre else BitVec.ofNat 6 (first + (len - 1) / 2)) ∧ (crossAt u g).code = (crossAt s g).code ∧
    (∀ h, h ≠ g → crossAt u h = crossAt s h) ∧ u = { s with crossings := u.crossings } ∧
    (4 ≤ len → Runs (.retuneMeasurement g errors) s u) ∧
    (len < 4 → Runs (.retuneMeasurement g errors) s (raise u
      { kind := 0x10B, unit := (crossUnit g).1, id := (crossUnit g).2.1, detail := (crossUnit g).2.2 })))

/-- FRAME_BOUNDARY, R8, R9, R22: the next frame begins at the next multiple of 1 ms, or now where that has passed; the slip record of every
partition latches and its counters begin at zero; every crossing's code moves by at most one step toward its centre. -/
def frameBoundary : Prop := ∀ (f : FrameInputs) (s : State), s.aon = true → ∃ t, Runs (.frameBoundary f) s t ∧
  t.frames = s.frames + 1 ∧ t.time = (if s.time.toNat < (25000 * (s.frames + 1)).toNat then 25000 * (s.frames + 1) else s.time) ∧
  (∀ n, n < 8 → let x := (partAt s n).slips
    let y := (partAt t n).slips
    y.slip = 0 ∧ y.hold = 0 ∧ y.maxRun = 0 ∧ y.causes = [0, 0, 0, 0, 0] ∧ y.fSlip = BitVec.ofNat 32 (min x.slip 0xFFFFFFFF) ∧
    y.fHold = BitVec.ofNat 32 (min x.hold 0xFFFFFFFF) ∧ y.cSlip = x.cSlip ∧ y.unbroken = x.unbroken ∧
    y.cOver = if bits (reg s (0xA04010 + 0x40 * n)) 19 0 < x.slip then x.cOver + 1 else x.cOver) ∧
  (∀ g, (crossAt t g).centre = (crossAt s g).centre ∧ (crossAt t g).code =
    (if (crossAt s g).code.toNat < (crossAt s g).centre.toNat then (crossAt s g).code + 1
     else if (crossAt s g).centre.toNat < (crossAt s g).code.toNat then (crossAt s g).code - 1 else (crossAt s g).code))

/-! ## Near-bank units -/

/-- A row boundary of a bank group with the banks of its NBU's next rows (R210): the refresh postponed most often is forced once it was 4 times,
put off where its bank is among the next 4 rows' banks, and else yielded; with none owed nothing changes. -/
def rowBoundaries : Prop := ∀ (u : Nat) (next : List Nat) (s : State),
  (owedBanks s u = [] → rowBoundary s u next = s) ∧
  (∀ y, mostOwed (owedBanks s u) = some y →
    let yielded := { s with banks := terase s.banks (bankKey u y.1) }
    (4 ≤ y.2 → rowBoundary s u next = modStk yielded (u / 256) (fun k => { k with forced := k.forced + 1 })) ∧
    (y.2 < 4 → y.1 ∈ next.take 4 → rowBoundary s u next = s) ∧
    (y.2 < 4 → y.1 ∉ next.take 4 → rowBoundary s u next = yielded))

/-- REFRESH_DUE and FORCED_REFRESH, R210: a bank of an idle NBU is refreshed at once; one of a running NBU becomes owed, or is postponed once more,
and the NBU is at a row boundary unless that is the fourth time; one postponed 4 times is yielded and counted as forced. -/
def refreshes : Prop := ∀ (s : State), s.aon = true →
  (∀ (site : SiteId) (bg : Fin 256) (bank : Fin 16) (next : List Nat), site.val ∈ liveSites s →
    let u := 256 * site.val + bg.val
    let key := bankKey u bank.val
    let x := tget {} s.banks key
    let go := Instr.refreshDue site bg bank next
    (nbuRuns s u = false → Runs go s { s with banks := terase s.banks key }) ∧
    (nbuRuns s u = true → x.owed = false → x.count < 4 →
      Runs go s (rowBoundary { s with banks := tset {} s.banks key { owed := true, count := 0 } } u next)) ∧
    (nbuRuns s u = true → x.owed = true → x.count < 4 →
      let v := modStk { s with banks := tset {} s.banks key { owed := true, count := x.count + 1 } } site.val
        (fun k => { k with postponed := k.postponed + 1 })
      Runs go s (if x.count = 3 then v else rowBoundary v u next)) ∧
    (nbuRuns s u = true → 4 ≤ x.count →
      let v := modStk { s with banks := terase s.banks key } (u / 256) (fun k => { k with forced := k.forced + 1 })
      Runs go s (rowBoundary { v with banks := tset {} v.banks key { owed := true, count := 0 } } u next))) ∧
  (∀ (nbu : NbuId) (y : Nat × Nat), mostOwed (owedBanks s nbu.val) = some y →
    (4 ≤ y.2 → Runs (.forcedRefresh nbu) s (modStk { s with banks := terase s.banks (bankKey nbu.val y.1) } (nbu.val / 256)
      (fun k => { k with forced := k.forced + 1 }))) ∧
    (y.2 < 4 → Runs (.forcedRefresh nbu) s s))

/-- The operation with the most postponements is yielded first (R210). -/
def mostOwedFirst : Prop := ∀ (l : List (Nat × Nat)) (y : Nat × Nat), mostOwed l = some y → y ∈ l ∧ ∀ x ∈ l, x.2 ≤ y.2

/-- The checks of R218 on a record, in their order. -/
def recordChecks : Prop := ∀ (w : List W32),
  let known := 0x10 ≤ rOp w ∧ rOp w ≤ 0x15
  let clear := rw w 0 / 256 % 256 = 0 ∧ rw w 0 / 2 ^ 24 = 0 ∧ ∀ i, i < 16 → 5 ≤ i → i ∈ rUsed (rOp w) ∨ w.getD i 0 = 0
  (¬known → recordBad w = some (eRange, 3)) ∧
  (known → ¬clear → recordBad w = some (eReserved, 4)) ∧
  (known → clear → recordBad w = if rLegal w then none else some (eRange, 5))

/-- NBU_OP, R215, R218, R295: its NBU fenced or absent, or another partition's, it is rejected; its record is fetched from host memory; one that
passes the checks is accepted into a free slot of its NBU; the first check that fails rejects it. -/
def nbuOpDescriptor : Prop := ∀ (p : NPort) (r : RingId) (d : Desc) (s : State), Takes s p r 0x18 d →
  let u := settleRing s p r
  let n := (arg d 0).toNat
  let ref : DescRef := ⟨p, r, d.k⟩
  let v := dropFetch u (.desc ref)
  let go := Instr.nbuOp p r
  let usable := nbuOn u.variant n = true ∧ nbuFenced u n = false
  (¬usable → Runs go s (reject u ref eState 1 0)) ∧
  (usable → nbuOwner u n ≠ descPart d → Runs go s (reject u ref ePartition 2 0)) ∧
  (usable → nbuOwner u n = descPart d → (arg d 1).toNat % 64 = 0 →
    (fetchOf u (.desc ref) = none → Runs go s (beginFetch u (.desc ref) p (arg d 1) 64)) ∧
    (∀ x st, Fetched u (.desc ref) x → readFailure x = some st → Runs go s (refuseRead v ref st)) ∧
    (∀ b, Fetched u (.desc ref) (.data b []) → let w := recordWords b
      (∀ st k, recordBad w = some (st, k) → Runs go s (reject v ref st k 0)) ∧
      (recordBad w = none → rangesBad v w = true → Runs go s (reject v ref eRange 6 0)) ∧
      (recordBad w = none → rangesBad v w = false → (∀ x ∈ v.repairs, x.nbu ≠ n) →
        (freeSlot v n = none → Runs go s (reject v ref eNoResource 7 0)) ∧
        (∀ slot, freeSlot v n = some slot → Runs go s (acceptOp (acceptDesc (modPart v (descPart d) (fun x => { x with
            operated := x.operated ++ [(p.val * 64 + r.val, d.seq)] })) ref) n
          { words := w, source := .desc ref (partFin (descPart d)) d.seq, slot })))))

/-- R215, R231: an operation accepted by an NBU with none, where nothing is in hand that its turn waits for, is started at once; one behind others waits.
A fenced NBU's are its buddy's to run. -/
def operationsInOrder : Prop := ∀ (u : Nat) (o : Op) (s : State), ¬(nbuFenced s u = true ∧ nbuFenced s (buddyOf u) = true) →
  let o' := { o with ranges := namedRanges s u o.words, buddy := nbuFenced s u }
  let t := acceptOp s u o
  ((nbuAt s u).ops = [] → o.started = false → ClockId.nbu ∉ s.pllLost →
    ((nbuFenced s u = true ∨ nbuFenced s (buddyOf u) = true) → ∀ x ∈ (nbuAt s (buddyOf u)).ops, x.started = false) →
    buddyOf u ≠ u → (nbuAt t u).ops = [{ o' with started := true, start := s.time }]) ∧
  (∀ x rest, (nbuAt s u).ops = x :: rest → x.started = true → (nbuAt t u).ops = x :: rest ++ [o']) ∧
  (∀ v, v ≠ u → nbuAt t v = nbuAt s v) ∧ t = { s with nbus := t.nbus }

/-- NBU_ABORT, R228: naming an accepted operation of the partition it ends it with S_ABORTED and completes with OK; one that had ended receives S_ABORT_LATE;
one never accepted E_RANGE. -/
def nbuAborts : Prop := ∀ (p : NPort) (r : RingId) (d : Desc) (s : State), Takes s p r 0x19 d →
  let u := settleRing s p r
  let seq := BitVec.ofNat 32 (bits (arg d 0) 31 0)
  let rg := bits (arg d 0) 37 32
  let n := descPart d
  (∀ x i, opOfDesc u p rg seq n = some (x, i) → Runs (.nbuAbort p r) s
    (completeOk (failOp (acceptDesc u ⟨p, r, d.k⟩) x i sAborted (endDetail { status := sAborted, cause := 3 })) ⟨p, r, d.k⟩ 0)) ∧
  (opOfDesc u p rg seq n = none →
    ((p.val * 64 + rg, seq) ∈ (partAt u n).operated → Runs (.nbuAbort p r) s (complete u ⟨p, r, d.k⟩ sAbortLate 0 0 [])) ∧
    ((p.val * 64 + rg, seq) ∉ (partAt u n).operated → Runs (.nbuAbort p r) s (reject u ⟨p, r, d.k⟩ eRange 7 0)))

/-- EVENT_SUMMARY_POLL, R213, R219: an operation whose time is past has finished its writes, and is shown so; one within its time goes on. -/
def summaryPolled : Prop := ∀ (site : SiteId) (pseudo : Fin 64) (k : Nat) (o : Op) (rest : List Op) (s : State), s.aon = true →
  hemWorks s = true → k < 4 → let u := 256 * site.val + pseudo.val + 64 * k
  (∀ j, j < 4 → j ≠ k → (nbuAt s (256 * site.val + pseudo.val + 64 * j)).ops = []) → nbuOn s.variant u = true →
  (nbuAt s u).ops = o :: rest → o.started = true → o.finished = none →
  (opTime s u o ≤ 40 * (s.time - o.start).toNat → Runs (.eventSummaryPoll site pseudo) s (finishWrites s u o)) ∧
  (40 * (s.time - o.start).toNat < opTime s u o → Runs (.eventSummaryPoll site pseudo) s s)

/-- R217: COPY and FILL: what an operation of FILL writes is its pattern over its whole output range, with no poison, and it ends with OK. -/
def fillWrites : Prop := ∀ (u : Nat) (o : Op) (s : State), rOp o.words = 0x14 →
  (runOp s u o).1.status = ok ∧ (runOp s u o).2 = s ∧ (runOp s u o).1.stores = (upFrom 0 (8 * rw o.words 4)).map (fun i =>
    (64 * rw o.words 3 + 8 * i, leBytes (o.words.getD 5 0).toNat 4 ++ leBytes (o.words.getD 6 0).toNat 4, false))

/-- NBU_OP_COMPLETION, R227: an operation the event summary shows finished leaves its NBU with its entry in the log of the last 4; a descriptor's is
completed with its status. -/
def operationCompletes : Prop := ∀ (nbu : NbuId) (o : Op) (rest : List Op) (st : Byte) (s : State), s.aon = true →
  (nbuAt s nbu.val).ops = o :: rest →
  (o.finished = none → Runs (.nbuOpCompletion nbu) s s) ∧
  (o.finished = some st → Runs (.nbuOpCompletion nbu) s (completeOp s nbu.val o st) ∧
    (∀ ref n q, o.source = .desc ref n q → completeOp s nbu.val o st =
      complete (removeOp s nbu.val 0 st false) ref st (if st = eRange then rejDetail 6 7 0 else 0) 0 []))

/-- NBU_OP_TIMEOUT, R229: an operation that runs for longer than PYR_OPLIMIT ends with S_TIMEOUT, and a station's run with it; before, nothing changes. -/
def operationTimesOut : Prop := ∀ (nbu : NbuId) (o : Op) (rest : List Op) (s : State), s.aon = true → s.hup.loss = .none →
  (nbuAt s nbu.val).ops = o :: rest → o.started = true →
  (25000 * opLimit s < (s.time - o.start).toNat →
    (∀ ref n q, o.source = .desc ref n q → Runs (.nbuOpTimeout nbu) s (failOp s nbu.val 0 sTimeout 0)) ∧
    (∀ n k q, o.source = .station n k q → Runs (.nbuOpTimeout nbu) s
      (stopRun (failOp s nbu.val 0 sTimeout 0) n.val { status := sTimeout }))) ∧
  ((s.time - o.start).toNat ≤ 25000 * opLimit s → Runs (.nbuOpTimeout nbu) s s)

/-- NBU_FENCE, R230, R231: an NBU whose buddy is not fenced is fenced, recorded as a defect and reported, and its operations whose writes are not all
made run again from their start on the buddy, in turn with its own. -/
def nbuFences : Prop := ∀ (nbu : NbuId) (s : State), s.aon = true → nbuOn s.variant nbu.val = true →
  (nbuFenced s nbu.val = true → Runs (.nbuFence nbu) s s) ∧
  (nbuFenced s nbu.val = false → nbuFenced s (buddyOf nbu.val) = false → buddyOf nbu.val ≠ nbu.val →
    Runs (.nbuFence nbu) s (nextTurn (raise (addDefect (modNbu s nbu.val (fun n => { n with
      fenced := true, ops := n.ops.map (fun o => if o.finished = none then { o with buddy := true, again := o.started || o.again, started := false }
        else o) })) 0x402 3 nbu.val 2) { kind := 0x402, unit := 3, id := nbu.val }) nbu.val))

/-- Whose turn it is (R231): with nothing in hand of either a fenced NBU's buddy starts its own first operation, else the fenced NBU's first; with an
operation in hand no other starts. -/
def buddiesTakeTurns : Prop := ∀ (u : Nat) (s : State), nbuFenced s u = true → nbuFenced s (buddyOf u) = false → buddyOf (buddyOf u) = u →
  buddyOf u ≠ u → ClockId.nbu ∉ s.pllLost →
  let hand := fun (v : Nat) => (nbuAt s v).ops.any (fun o => o.started)
  (hand u = true ∨ hand (buddyOf u) = true → (nbuAt s u).ops ≠ [] → (nbuAt s (buddyOf u)).ops ≠ [] → nextTurn s u = s) ∧
  (hand u = false → hand (buddyOf u) = false → ∀ o rest, (nbuAt s (buddyOf u)).ops = o :: rest →
    (nbuAt (nextTurn s u) (buddyOf u)).ops = { o with started := true, start := s.time } :: rest ∧
    (nbuAt (nextTurn s u) u).ops = (nbuAt s u).ops) ∧
  (hand u = false → (nbuAt s (buddyOf u)).ops = [] → ∀ o rest, (nbuAt s u).ops = o :: rest →
    (nbuAt (nextTurn s u) u).ops = { o with started := true, start := s.time } :: rest)

/-- NBU_INVOCATION_START, R221, R222: of a station that takes no tiles, every NBU of the binding begins its program; of one that takes tiles, those in its
buffer are taken until one invocation's are in hand, and with tiles of one scale the vector goes to every NBU of the binding, which
begin their programs. -/
def invocationStarts : Prop := ∀ (part : PartId) (station : Nat) (tiles : List (W64 × Bool)) (img : Image) (st : Station) (v : Invoke) (s : State),
  s.aon = true →
  (partAt s part.val).image = some img → stationAt s part.val station = some st → invokeOf s part.val station = some v →
  st.kind = 12 → rOp st.p ≠ 0x11 → v.running = false → v.number < invocationsOf img station → outputWaits s part.val station = false →
  runLive s part.val = true → hemWorks s = true →
  let go := Instr.nbuInvocationStart part station tiles
  let us := upFrom st.b0 st.b1
  (inputs img station = [] → Runs go s (us.foldl (fun s u => acceptStations s u 16)
    (modInvoke s part.val station (fun v => { v with running := true, left := us.map (fun u => (u, 0)) })))) ∧
  (∀ x l, inputs img station = x :: l →
    let t := inTiles (stationProg img station)
    let need := t * (kcSize x.fmt x.kc / 8)
    let r := takeTiles s part.val station (need - v.words.length) tiles
    let words := v.words ++ r.1
    let g := groupTiles (tilesOf x words)
    (words.length < need → Runs go s (modInvoke r.2 part.val station (fun v => { v with words }))) ∧
    (∀ first rest, need ≤ words.length → g = (first :: rest, false) → t ≠ 0 →
      let placed := us.foldl (fun s u => modNbu s u (fun y => putVec y 0 (vectorData x g.1 (min 64 first.validRows)))) r.2
      Runs go s (us.foldl (fun s u => acceptStations s u 16) (modInvoke placed part.val station (fun v => { v with
        running := true, words := [], scale := first.tensorScale, left := us.map (fun u => (u, 0)) })))))

/-- NBU_INVOCATION_END of a station with no output stream: once every NBU of the binding is at END, the invocation is over and counted; before, nothing
changes. -/
def invocationEnds : Prop := ∀ (part : PartId) (station : Nat) (img : Image) (v : Invoke) (s : State), s.aon = true →
  (partAt s part.val).image = some img → invokeOf s part.val station = some v → hemWorks s = true →
  (∀ x ∈ img.streams, x.src ≠ station) →
  ((v.running = false ∨ v.left.all (reachedEnd s v) = false) → Runs (.nbuInvocationEnd part station) s s) ∧
  (v.running = true → runLive s part.val = true → v.left.all (reachedEnd s v) = true →
    (∀ d ∈ s.decodes, ¬(d.part = part ∧ d.station = station)) →
    let u := (v.left.foldl (fun (a : List (W64 × Bool) × State) x =>
      let b := (nbuAt a.2 x.1).program
      let y := readLocal a.2 x.1 (64 * outOff b) (1032 * outTiles b)
      (a.1 ++ y.1, y.2)) ([], s)).2
    Runs (.nbuInvocationEnd part station) s
      (modInvoke u part.val station (fun v => { v with running := false, number := v.number + 1, left := [] })))

/-- ORDINARY_ACCESS, R223: a write that meets a busy range writes nothing, and a station's ends its run with E_BUSY_RANGE; of a bank group with no running
operation and none waiting a read or a write is served at once; beside a running one it waits for the next row boundary, a read of a busy
output range for the completion point. INTERLEAVE_SERVICE, R210, R224: at a row boundary the 16 oldest are served in arrival order. -/
def ordinaryAccesses : Prop := ∀ (s : State), s.aon = true →
  (∀ a : StackAccess, stackBad s a.addr.toNat a.len 64 = none → hemWorks s = true → a.write = true →
    busyStack s a.addr.toNat false (a.len / 64) = true →
    (a.station = none → Runs (.ordinaryAccess a) s s) ∧
    (∀ n k, a.station = some (n, k) → Runs (.ordinaryAccess a) s (stopRun (raise s
      { kind := 0x401, unit := 3, id := (stackPlace s a.addr.toNat).1, part := some n.val, station := some k, status := eBusyRange })
      n.val { status := sAborted, cause := 5, carried := eBusyRange.toNat, item := k }))) ∧
  (∀ a : StackAccess, stackBad s a.addr.toNat a.len 64 = none → hemWorks s = true →
    (a.write = true → busyStack s a.addr.toNat false (a.len / 64) = false) →
    Runs (.ordinaryAccess a) s ((splitAccess a).foldl placeAccess s)) ∧
  (∀ a : StackAccess, let u := (stackPlace s a.addr.toNat).1
    let held := a.write = false ∧ busyStack s a.addr.toNat true 1 = true
    (held → placeAccess s a = modNbu s u (fun n => { n with held := n.held ++ [a] })) ∧
    (¬held → nbuRuns s u = false → (nbuAt s u).queue = [] → placeAccess s a = serveAccess s a) ∧
    (¬held → (nbuRuns s u = true ∨ (nbuAt s u).queue ≠ []) →
      placeAccess s a = modNbu s u (fun n => { n with queue := n.queue ++ [a] }))) ∧
  (∀ (nbu : NbuId) (next : List Nat), let v := if nbuRuns s nbu.val then rowBoundary s nbu.val next else s
    let q := (nbuAt v nbu.val).queue
    Runs (.interleaveService nbu next) s ((q.take 16).foldl serveAccess (modNbu v nbu.val (fun n => { n with queue := q.drop 16 }))))

/-- NBU_OP_ACCEPT, R215: a waiting station's record goes into a free slot where no commit and no decode operation waits; one whose ranges leave the local
part ends its run with E_RANGE. -/
def waitingAccepted : Prop := ∀ (nbu : NbuId) (s : State), s.aon = true → hemWorks s = true →
  (∀ c ∈ s.commits, commitNbu s c ≠ nbu.val) → waitingPiece s nbu.val = none →
  (waitingInvoke s nbu.val = none → Runs (.nbuOpAccept nbu) s s) ∧
  (∀ slot v w, freeSlot s nbu.val = some slot → waitingInvoke s nbu.val = some (v, w) →
    (rangesBad s w = true → Runs (.nbuOpAccept nbu) s
      (stopRun s v.part.val { status := sAborted, cause := 5, carried := eRange.toNat, item := v.station })) ∧
    (rangesBad s w = false → Runs (.nbuOpAccept nbu) s (acceptOp (modInvoke s v.part.val v.station (fun v => { v with
        left := v.left.map (fun x => if x.1 = nbu.val then (nbu.val, x.2 + 1) else x) })) nbu.val
      { words := w, source := .station v.part v.station v.number, slot, vscale := v.scale })))

/-! ## The key and value cache -/

/-- KV_APPEND and KV_APPEND_LOG_ROOM, R242, R247: the words of the next group are taken from the station's buffer; a group whose tiles are all in hand
is appended row by row; an append that waits for log room goes on, and one that does not wait is left. -/
def appends : Prop := ∀ (part : PartId) (station : Nat) (run : Run) (st : Station) (a : Append) (x : Stream) (l : List Stream)
    (tb : BlockTable) (map : List Byte) (s : State), s.aon = true → (partAt s part.val).run = some run →
  stationAt s part.val station = some st → appendOf s part.val station = some a → streamsOf s part.val station false = x :: l →
  runLive s part.val = true → hemWorks s = true → heldTable run (st.par 0) = some (tb, map) →
  let need := groupWords st x
  let r := if a.words.length < need then takeTiles s part.val station (need - a.words.length) [] else ([], s)
  let words := a.words ++ r.1
  let u := modAppend r.2 part.val station (fun y => { y with words })
  let v := if words.length < need then u else appendRow u part.val station st a x words (!r.1.isEmpty) tb map
  Runs (.kvAppend part station) s v ∧
  (a.waiting = false → Runs (.kvAppendLogRoom part station) s s) ∧ (a.waiting = true → Runs (.kvAppendLogRoom part station) s v)

/-- DECODE_INVOCATION, R253: a query's tiles are taken; with them in hand and the appends done whose tiles came before them, its lists are
built and its operations issued. -/
def decodeStarts : Prop := ∀ (part : PartId) (station : Nat) (tiles : List (W64 × Bool)) (j : DecodeJob) (img : Image) (v : Invoke) (x : Stream)
    (l : List Stream) (s : State), s.aon = true → decodeJob s part.val station = some j →
  (partAt s part.val).image = some img → invokeOf s part.val station = some v → streamsOf s part.val station false = x :: l →
  rOp j.st.p = 0x11 → v.running = false → v.number < invocationsOf img station → outputWaits s part.val station = false →
  runLive s part.val = true → hemWorks s = true →
  let go := Instr.decodeInvocation part station tiles
  let need := inTiles (stationProg img station) * (kcSize x.fmt x.kc / 8)
  let r := takeTiles s part.val station (need - v.words.length) tiles
  let words := v.words ++ r.1
  let taken := modInvoke r.2 part.val station (fun w => { w with words })
  let due := if v.words = [] ∧ words ≠ [] then noteDue taken part.val station j.partnerId else taken
  let u := appendAllRows due part.val j.partnerId 65536
  (words.length < need → Runs go s due) ∧
  (∀ a w, need ≤ words.length → appendOf u part.val j.partnerId = some a → invokeOf u part.val station = some w →
    ((a.group < w.due.getD 0 ∨ runLive u part.val = false) → Runs go s u) ∧
    (w.due.getD 0 ≤ a.group → runLive u part.val = true → Runs go s (beginDecode u part.val station j x v.number words)))

/-- KV_COMMIT and KV_RELEASE, R250, R251, R295: of a table of the partition that no run binds the list is fetched. With a legal, clean header and
sequences below its count a commit is accepted and commits the open page of every key that holds tokens; a release zeroes the tail
record of every key and completes with OK; a sequence out of range is refused. -/
def kvDescriptors : Prop := ∀ (p : NPort) (r : RingId) (d : Desc) (s : State),
  let u := settleRing s p r
  let ref : DescRef := ⟨p, r, d.k⟩
  let at_ := (arg d 0).toNat
  let n := bits (arg d 2) 16 0
  1 ≤ n → n ≤ 65536 → (arg d 1).toNat % 8 = 0 → stackBad u at_ 64 64 = none → inReach u (descPart d) at_ 64 = true →
  regionBound u at_ = false →
  (fetchOf u (.desc ref) = none →
    (Takes s p r 0x20 d → Runs (.kvCommit p r) s (beginFetch u (.desc ref) p (arg d 1) (4 * n))) ∧
    (Takes s p r 0x21 d → Runs (.kvRelease p r) s (beginFetch u (.desc ref) p (arg d 1) (4 * n)))) ∧
  (∀ b, Fetched u (.desc ref) (.data b []) → Clean (dropFetch u (.desc ref)) [(at_, 64)] →
    let w := readTable (dropFetch u (.desc ref)) at_ 64
    let ids := listWords b n
    let tb := tableAt w at_
    headerOk at_ (stackEnd w at_ - at_) (peekStack w at_ 64) = true →
    (∀ q, ids.find? (fun q => decide (tb.nSeq ≤ q)) = some q →
      (Takes s p r 0x20 d → Runs (.kvCommit p r) s (reject w ref eRange 7 q)) ∧
      (Takes s p r 0x21 d → Runs (.kvRelease p r) s (reject w ref eRange 7 q))) ∧
    ((∀ q ∈ ids, q < tb.nSeq) →
      (Takes s p r 0x20 d → Runs (.kvCommit p r) s (settleJobs ((keysOf tb ids).foldl (fun s k =>
          if (tailAt s (tb.tail k.1 k.2.1 k.2.2)).inPage = 0 then s
          else commitPage s ⟨BitVec.ofNat 64 tb.base, k.1, k.2.1, k.2.2, partFin (descPart d), 0xFFFF, some ref, none⟩)
            { acceptDesc w ref with kvJobs := w.kvJobs ++ [{ desc := ref }] }))) ∧
      (Takes s p r 0x21 d →
        let x := (keysOf tb ids).foldl (fun s k => zeroStack s (tb.tail k.1 k.2.1 k.2.2) 136) w
        let y := { x with commits := x.commits.filter (fun c => !(c.table == BitVec.ofNat 64 tb.base && ids.contains c.seq)) }
        Runs (.kvRelease p r) s
          (completeOk (settleJobs (y.nbus.foldl (fun s x => checkLog s x.1 (partFin (descPart d)) 0xFFFF none) y)) ref 0))))

/-! ## Power delivery and the power budget -/

/-- TRIM_REGULATOR_FAIL, R378, R379: the regulator's bit is set, it is reported and recorded as a field defect; the first of its cluster changes nothing
more, a second one of a partition's cluster fences the cluster, one of a cluster in no partition is only recorded; one that had failed already changes nothing. -/
def trimFails : Prop := ∀ (reg : Fin 256) (s : State), s.aon = true → clusterOn s.variant (reg.val / 8) = true →
  let u := addDefect (raise { s with power := { s.power with trimFail := s.power.trimFail ++ [reg.val] } }
    { kind := 0x702, unit := 5, id := reg.val }) 0x702 5 reg.val 2
  (reg.val ∈ s.power.trimFail → Runs (.trimRegulatorFail reg) s s) ∧
  (reg.val ∉ s.power.trimFail → (∀ x ∈ s.power.trimFail, x / 8 ≠ reg.val / 8) → Runs (.trimRegulatorFail reg) s u) ∧
  (reg.val ∉ s.power.trimFail → (∃ x ∈ s.power.trimFail, x / 8 = reg.val / 8) → partOfCluster u (reg.val / 8) ≠ none →
    Runs (.trimRegulatorFail reg) s (fenceCluster u (reg.val / 8))) ∧
  (reg.val ∉ s.power.trimFail → partOfCluster u (reg.val / 8) = none → Runs (.trimRegulatorFail reg) s u)

/-- HEADER_STAGE, R380, R381: 2 µs (50 ticks) after the stage before, with the rail settled, no droop and no adjacent cluster at peak, the next of 8 stages
runs, the last with the cluster's L2 filled; a check that fails waits 1 µs, and one that fails after 1,000 waits forces the rest. HEADER_STAGE_FORCED: the rest unchecked, and after the last the record
"header stage forced". -/
def headersTurnOn : Prop := ∀ (c : ClusterId) (droop : Bool) (pct : List Nat) (s : State), s.aon = true →
  let h := hdrAt s c.val
  let clear := droop = false ∧ ∀ p ∈ pct, p < peakPct s
  (h.turning = true → h.forced = false → 50 ≤ (s.time - h.last).toNat → railSettled s c.val = true →
    (clear → h.stage < 7 → Runs (.headerStage c droop pct) s
      (modHdr s c.val (fun h => { h with stage := h.stage + 1, last := s.time, turning := true }))) ∧
    (clear → h.stage = 7 → Runs (.headerStage c droop pct) s
      (fillL2 (modHdr s c.val (fun h => { h with stage := 8, last := s.time, turning := false })) c.val)) ∧
    (¬clear → h.waited < 1000 → Runs (.headerStage c droop pct) s
      (modHdr s c.val (fun h => { h with waited := h.waited + 1, last := s.time - 25 }))) ∧
    (¬clear → 1000 ≤ h.waited → ∃ t, Runs (.headerStage c droop pct) s t ∧ (hdrAt t c.val).forced = true ∧
      (hdrAt t c.val).stage = h.stage ∧ t = { s with power := t.power })) ∧
  ((h.turning = false ∨ (s.time - h.last).toNat < 50) → h.forced = false → Runs (.headerStage c droop pct) s s) ∧
  (h.forced = true → 50 ≤ (s.time - h.last).toNat →
    (h.turning = true → h.stage < 7 → Runs (.headerStageForced c) s
      (modHdr s c.val (fun h => { h with stage := h.stage + 1, last := s.time, turning := true }))) ∧
    (h.turning = true → h.stage = 7 → Runs (.headerStageForced c) s
      (fillL2 (modHdr s c.val (fun h => { h with stage := 8, last := s.time, turning := false })) c.val)) ∧
    (h.turning = false → Runs (.headerStageForced c) s (raise (modHdr
      { s with power := { s.power with stagePart := s.power.stagePart.filter (fun x => x.1 / 8 != c.val) } } c.val
        (fun h => { h with forced := false })) { kind := 0x703, unit := 2, id := c.val })))

/-- CURRENT_TELEMETRY_CHECK, R382: a rail whose read differs from the device's sum by more than 10 % for the tenth second in a row is recorded; one that agrees
begins anew. -/
def telemetryChecked : Prop := ∀ (sum read : Nat) (s : State), s.aon = true →
  let set := fun n => { s with power := { s.power with mismatch := tset 0 s.power.mismatch 0 n } }
  let n := tget 0 s.power.mismatch 0
  let differs := sum < 10 * (sum - read) ∨ sum < 10 * (read - sum)
  (¬differs → Runs (.currentTelemetryCheck [sum] [read]) s (set 0)) ∧
  (differs → n < 9 → Runs (.currentTelemetryCheck [sum] [read]) s (set (n + 1))) ∧
  (differs → n = 9 → Runs (.currentTelemetryCheck [sum] [read]) s (raise (set 10) { kind := 0x704, unit := 17, id := 0 }))

/-- BUDGET_SELECT_ACCEPT, R391: the accepted value selects the cap; a cap that is not lower leaves the budgets, a lower one sets every running partition's
ratio to 56 and holds it through the next complete frame. -/
def capSelects : Prop := ∀ (v : BitVec 2) (s : State), s.aon = true →
  let u := { s with power := { s.power with pins := v, selected := v } }
  (capSelected s ≤ capSelected u → Runs (.budgetSelectAccept v) s (noteCap u)) ∧
  (capSelected u < capSelected s → ∃ t, Runs (.budgetSelectAccept v) s t ∧ t.power.selected = v ∧
    (∀ n ∈ runningParts s, tget 0 t.power.budget n = 56) ∧ t.power.holding = some (frameNo s + 1) ∧ t = { s with power := t.power })

/-- DROOP and DROOP_HOLD_EXPIRY, R392: a firing in a cluster of a started run gives its partition the contribution, from now, and is counted for the frame's
record; the contribution holds until droop_hold cycles have passed since the last firing. -/
def droops : Prop := ∀ (c : ClusterId) (part : PartId) (s : State), s.aon = true →
  (partOfCluster s c.val = some part.val → started s part.val = true → Runs (.droop c) s { s with power := { s.power with
    droopOn := tset false s.power.droopOn part.val true, droopUntil := tset 0 s.power.droopUntil part.val s.time.toNat,
    droopSeen := tmod 0 s.power.droopSeen c.val (· + 1) } }) ∧
  (partOfCluster s c.val = none → Runs (.droop c) s s) ∧
  (tget false s.power.droopOn part.val = true →
    let past := tickCycles s * (s.time - BitVec.ofNat 64 (tget 0 s.power.droopUntil part.val)).toNat
    (bits (reg s 0x70001C) 31 16 ≤ past → Runs (.droopHoldExpiry part) s
      { s with power := { s.power with droopOn := tset false s.power.droopOn part.val false } }) ∧
    (past < bits (reg s 0x70001C) 31 16 → Runs (.droopHoldExpiry part) s s))

/-- OVER_CURRENT and OVER_CURRENT_CLEAR, R393: the half's contribution is on, with one record a frame; it clears 100 µs (2,500 ticks) after the last excess. -/
def overCurrents : Prop := ∀ (half : Fin 2) (s : State), s.aon = true →
  let u := { s with power := { s.power with
    ocOn := tset false s.power.ocOn half.val true, ocSince := tset none s.power.ocSince half.val (some s.time) } }
  ((s.darn.sources.any (fun c => sameSource c { kind := 0x707, unit := 17, id := half.val })) = false →
    Runs (.overCurrent half) s (raise u { kind := 0x707, unit := 17, id := half.val })) ∧
  ((s.darn.sources.any (fun c => sameSource c { kind := 0x707, unit := 17, id := half.val })) = true → Runs (.overCurrent half) s u) ∧
  (∀ since, tget none s.power.ocSince half.val = some since →
    (2500 ≤ (s.time - since).toNat → Runs (.overCurrentClear half) s { s with power := { s.power with
      ocOn := tset false s.power.ocOn half.val false, ocSince := tset none s.power.ocSince half.val none } }) ∧
    ((s.time - since).toNat < 2500 → Runs (.overCurrentClear half) s s))

/-- LENDING_COMPUTE, R370: what each gated core lends is the per-core allowance less its measured power; the running partitions with a contribution above 0
borrow. -/
def lendingFormed : Prop := ∀ (mw : List Nat) (s : State), s.aon = true → mw.length = (gatedCores s).length →
  (gatedCores s).Nodup →
  ∃ t, Runs (.lendingCompute mw) s t ∧
    (∀ i, i < (gatedCores s).length → tget 0 t.power.lending ((gatedCores s).getD i 0) =
      (s.power.allow : Int) - ((mw.getD i 0 * fine : Nat) : Int)) ∧
    t.power.borrow = (runningParts s).filter (fun n => largest (tget 0 s.power.budget n :: otherCauses s n) != 0) ∧
    t.power.lentCount = s.power.lentCount + 1 ∧ t.power.budget = s.power.budget ∧ t.power.capHeld = s.power.capHeld ∧
    t = { s with power := t.power }

/-- AVS_READBACK, R375: 150 µs (3,750 ticks) after a write, a read-back within 10 mV of the target and without an alert makes the target the last good one;
anything else is retried twice; the third failure raises "AVSBus rail fault" and keeps the last good setpoint. -/
def railsReadBack : Prop := ∀ (rail : Fin 6) (mv : Option Nat) (alert : Bool) (w : W64) (s : State), s.aon = true →
  (avsAt s rail.val).written = some w →
  let r := avsAt s rail.val
  let good := alert = false ∧ mv.any (fun m => decide (m ≤ r.target.toNat + 10 ∧ r.target.toNat ≤ m + 10)) = true
  ((s.time - w).toNat < 3750 → Runs (.avsReadback rail mv alert) s s) ∧
  (3750 ≤ (s.time - w).toNat → good → Runs (.avsReadback rail mv alert) s (avsWrite (modAvs s rail.val (fun r => { r with
      readback := BitVec.ofNat 12 (mv.getD 0), good := r.target, fault := false, retries := 0, written := none })) rail.val)) ∧
  (3750 ≤ (s.time - w).toNat → ¬good → r.retries < 2 → ∃ t, Runs (.avsReadback rail mv alert) s t ∧
    (avsAt t rail.val).retries = r.retries + 1 ∧ (avsAt t rail.val).written = some s.time ∧ (avsAt t rail.val).target = r.target ∧
    (avsAt t rail.val).good = r.good ∧ t = { s with power := t.power }) ∧
  (3750 ≤ (s.time - w).toNat → ¬good → 2 ≤ r.retries → ∃ u, Runs (.avsReadback rail mv alert) s
      (raise u { kind := 0x701, unit := 17, id := rail.val }) ∧
    (avsAt u rail.val).target = r.good ∧ (avsAt u rail.val).fault = true ∧ (avsAt u rail.val).written = none ∧
    u = { s with power := u.power })

/-- R375: a rail's target moves by at most 50 mV with each write, toward the value wanted, and no write begins before the one under way is read
back. -/
def railsStep : Prop := ∀ (a : Nat) (s : State),
  let r := avsAt s a
  let q := avsAt (avsWrite s a) a
  (r.written ≠ none → q = r) ∧
  (r.written = none → r.target ≠ r.want → q.written = some s.time ∧ q.target.toNat ≤ r.target.toNat + 50 ∧
    r.target.toNat ≤ q.target.toNat + 50 ∧ (r.target.toNat < r.want.toNat → r.target.toNat < q.target.toNat ∧ q.target.toNat ≤ r.want.toNat) ∧
    (r.want.toNat < r.target.toNat → q.target.toNat < r.target.toNat ∧ r.want.toNat ≤ q.target.toNat)) ∧
  (∀ b, b ≠ a → avsAt (avsWrite s a) b = avsAt s b)

/-! ## Temperature, airflow and ageing -/

/-- SENSOR_FLAG and SENSOR_FLAG_CLEAR, R396, R399: more than 50 ms of deviation flags a sensor that is not faulty, once, and raises "thermal sensor implausible";
10 s back within the limit clear the flag. -/
def sensorsFlag : Prop := ∀ (i : Fin 352) (since : W64) (s : State), s.aon = true →
  ((sensorAt s i.val).off = some since → (sensorAt s i.val).faulty = false → (sensorAt s i.val).flagged = false →
    (1250000 < (s.time - since).toNat → Runs (.sensorFlag i) s
      (raise (modSensor s i.val (fun x => { x with flagged := true })) { kind := 0x802, unit := 6, id := i.val })) ∧
    ((s.time - since).toNat ≤ 1250000 → Runs (.sensorFlag i) s s)) ∧
  ((sensorAt s i.val).back = some since →
    (250000000 ≤ (s.time - since).toNat → Runs (.sensorFlagClear i) s (modSensor s i.val (fun x => { x with flagged := false }))) ∧
    ((s.time - since).toNat < 250000000 → Runs (.sensorFlagClear i) s s))

/-- THERMAL_SAMPLE, R395, R396, R400: a sensor of an enabled cluster keeps the reading taken, a faulty one too; one outside −40 °C to 150 °C is faulty at once, and a faulty
one stays faulty; no partition's thermal contribution is above 56. -/
def sampled : Prop := ∀ (reads : SensorReads) (lines : List Nat) (s : State), s.aon = true →
  ∃ t, Runs (.thermalSample reads lines) s t ∧
    (∀ i, i < 352 → clusterOn s.variant (sensorCluster i) = true → ∀ x, reads.getD i none = some x →
      (sensorAt t i).reading = x ∧ (sensorAt t i).missing = none ∧
      (sensorAt t i).faulty = ((sensorAt s i).faulty || decide (x.toInt < -640 ∨ 2400 < x.toInt))) ∧
    (∀ i, (sensorAt s i).faulty = true → (sensorAt t i).faulty = true) ∧
    (∀ n, n < 8 → tget 0 t.power.thermal n ≤ 56) ∧ t.therm.guard = s.therm.guard ∧ t.therm.fan = s.therm.fan ∧ t.staged = s.staged

/-- R400, in sixteenths of a kelvin: no contribution from 5 K of headroom on, 40 at the limit, 56 from 2 K above it, and never less for less headroom. -/
def thermalContribution : Prop := (∀ h : Int, 80 ≤ h → thermalRatio h = 0) ∧ thermalRatio 0 = 40 ∧
  (∀ h : Int, h ≤ -32 → thermalRatio h = 56) ∧ (∀ h k : Int, h ≤ k → thermalRatio k ≤ thermalRatio h)

/-- THERMAL_HALT_RELEASE, R401: after 10 s cool, its reset done, the partition takes loads again, and its headers begin to turn on; before, nothing
changes. -/
def haltReleased : Prop := ∀ (part : PartId) (since : W64) (s : State), s.aon = true → (partAt s part.val).thermalHalt = true →
  tget none s.therm.cool part.val = some since → (partAt s part.val).reset = none →
  (250000000 ≤ (s.time - since).toNat → Runs (.thermalHaltRelease part) s (retarget ((clusterList s part.val).foldl turnOn
    (modTherm (modPart s part.val (fun p => { p with thermalHalt := false }))
      (fun t => { t with cool := tset none t.cool part.val none }))) true)) ∧
  ((s.time - since).toNat < 250000000 → Runs (.thermalHaltRelease part) s s)

/-- THERMTRIP, R402: THERMTRIP_N is asserted and a trip entry names the sensor, its reading and the time; nothing else changes. -/
def tripped : Prop := ∀ (i : Fin 352) (s : State), s.aon = true → clusterOn s.variant (sensorCluster i.val) = true →
  Runs (.thermtrip i) s { s with
    therm := { s.therm with tripped := true },
    boot := { s.boot with trips := s.boot.trips ++ [⟨BitVec.ofNat 16 i.val, (sensorAt s i.val).reading, s.time⟩] } }

/-- TACH_CHECK, R403, R408: every channel's speed is taken, and it reads zero exactly when it had no pulse for 100 ms; with two or more silent channels airflow
is lost: the duty is 255 and it is recorded. -/
def tachsChecked : Prop := ∀ (idle rpm : List Nat) (s : State), s.aon = true → s.therm.lost = none →
  ∃ t, Runs (.tachCheck idle rpm) s t ∧
    (∀ f, f < 6 → (fanAt t f).zero = decide (100 ≤ idle.getD f 0) ∧ (fanAt t f).rpm = BitVec.ofNat 16 (min (rpm.getD f 0) 65535)) ∧
    (t.therm.lost = if 2 ≤ ((upFrom 0 6).filter (fun f => decide (100 ≤ idle.getD f 0))).length then some .tach else none) ∧
    (t.therm.lost ≠ none → t.therm.duty = 255) ∧ t.therm.guard = s.therm.guard ∧ t.therm.sensor = s.therm.sensor

/-- FAN_FAILED, R405: 2 s (50,000,000 ticks) slow make a channel fail, once, and "fan failed" names it. -/
def fanFails : Prop := ∀ (f : Fin 6) (since : W64) (s : State), s.aon = true → (fanAt s f.val).slow = some since →
  (fanAt s f.val).failed = false →
  (50000000 ≤ (s.time - since).toNat → Runs (.fanFailed f) s (raise
    { s with therm := { s.therm with fan := tmod {} s.therm.fan f.val (fun y => { y with failed := true }) } }
    { kind := 0x806, unit := 18, id := f.val })) ∧
  ((s.time - since).toNat < 50000000 → Runs (.fanFailed f) s s)

/-- INLET_READ, R403: a reading is kept; unreadable for 1 s, inlet_max takes its place, and "inlet sensor unreadable" is raised once. -/
def inletsRead : Prop := ∀ (s : State), s.aon = true →
  (∀ v : BitVec 16, v.toInt ≤ 16 * inletMax s → Runs (.inletRead (some v)) s { s with therm := { s.therm with
    inlet := v, inletOk := true, inletMiss := none, inletSubst := false } }) ∧
  (s.therm.inletMiss = none → Runs (.inletRead none) s
    { s with therm := { s.therm with inletOk := false, inletMiss := some s.time } }) ∧
  (∀ m, s.therm.inletMiss = some m → s.therm.inletSubst = false → 25000000 ≤ (s.time - m).toNat → Runs (.inletRead none) s
    (raise { s with therm := { s.therm with inletOk := false, inletMiss := some m, inletSubst := true } } { kind := 0x804, unit := 0 }))

/-- FAN_DUTY_UPDATE, R404, R409: with airflow lost the duty is 255; otherwise it stays between fan_min and 255, and it falls by at most 4. Nothing else changes. -/
def dutyUpdated : Prop := ∀ s : State, s.aon = true → ∃ t, Runs .fanDutyUpdate s t ∧ t = { s with therm := { s.therm with duty := t.therm.duty } } ∧
  (s.therm.lost ≠ none → t.therm.duty = 255) ∧
  (s.therm.lost = none → min 255 (fanMin s) ≤ t.therm.duty.toNat ∧ s.therm.duty.toNat ≤ t.therm.duty.toNat + 4)

/-- AIRFLOW_SECOND, R406, R411: a second of less than 200 W contributes no value to the 600 kept; one with a value enters at the front. -/
def airflowMeasured : Prop := ∀ (t2m : Int) (mw : Nat) (s : State), s.aon = true → ∃ t, Runs (.airflowSecond t2m mw) s t ∧
  (mw < 200000 → t.therm.thetaN = (none :: s.therm.thetaN).take 600) ∧
  (200000 ≤ mw → t.therm.thetaN = (some (((t2m - inletOf s) * 625000 / mw - Config.thetaJs.toNat) *
    (dutyFactor s.therm.duty.toNat : Int) / 65536) :: s.therm.thetaN).take 600) ∧
  (s.therm.lost ≠ none → t.therm.lost = s.therm.lost) ∧ t.therm.fan = s.therm.fan ∧ t.therm.capAir = s.therm.capAir

/-- The factor of R406, (duty / 255) to the power 0.8, in units of 2⁻¹⁶: the greatest whole number not above it. -/
def dutyFactorRoot : Prop := ∀ d : Nat, d ≤ 255 →
  dutyFactor d ^ 5 * 255 ^ 4 ≤ 65536 ^ 5 * d ^ 4 ∧ 65536 ^ 5 * d ^ 4 < (dutyFactor d + 1) ^ 5 * 255 ^ 4

/-- AIRFLOW_CAP_UPDATE, R407: without a 10-minute mean there is no airflow cap; with one the cap is at least 250 W where the sum of resistances is above 0; a fall
applies at once, a rise only of 10 W or more. -/
def airflowCapped : Prop := ∀ s : State, s.aon = true →
  (thetaMean s = none → Runs .airflowCapUpdate s (noteCap { s with therm := { s.therm with capAir := none } })) ∧
  (∀ m, thetaMean s = some m →
    let c := max 250 ((1520 - inletOf s) * 625 / (m + Config.thetaJs.toNat)).toNat
    let cur := s.therm.capAir.getD (capCeiling s.variant)
    ∃ t, Runs .airflowCapUpdate s t ∧ (0 < m + Config.thetaJs.toNat → t = noteCap (degrade
      (if c < cur ∨ cur + 10 ≤ c then { s with therm := { s.therm with capAir := some c } } else s) m)))

/-- AIRFLOW_LOST_EXIT, R409: 10 s fine end the state, with the ramp bucket empty. -/
def airflowReturns : Prop := ∀ (why : Loss) (since : W64) (s : State), s.aon = true → s.therm.lost = some why →
  s.therm.lostFine = some since →
  (250000000 ≤ (s.time - since).toNat → Runs .airflowLostExit s (noteCap { s with
    therm := { s.therm with lost := none, lostFine := none }, power := { s.power with bucket := 0 } })) ∧
  ((s.time - since).toNat < 250000000 → Runs .airflowLostExit s s)

/-- MARGIN_REVIEW and REVIEW_NOW, R415, R416: a write of review_now asks for a review, refused with E_STATE while one is asked for; the review raises no guard above
10 steps of 5 mV, lowers none, is counted, and begins the powered time anew. With neither due nothing changes. -/
def marginsReviewed : Prop := ∀ (s : State), s.aon = true →
  (∀ a : Access, Open a s → let u := heard s a 0x700174
    (s.therm.reviewing = none → Runs (.reviewNow a 1) s
      (answer { u with therm := { s.therm with reviewing := some s.time } } a ok 0)) ∧
    (s.therm.reviewing ≠ none → Runs (.reviewNow a 1) s (answer u a eState 0))) ∧
  (s.therm.reviewing = none → s.therm.powered < reviewFrames → Runs .marginReview s s) ∧
  ((s.therm.reviewing ≠ none ∨ reviewFrames ≤ s.therm.powered) → ∃ t, Runs .marginReview s t ∧ t.therm.reviewing = none ∧
    t.therm.powered = 0 ∧ t.therm.reviewNo = s.therm.reviewNo + 1 ∧
    (∀ c, c < 32 → (tget 0 s.therm.guard c).toNat ≤ 10 → (tget 0 s.therm.guard c).toNat ≤ (tget 0 t.therm.guard c).toNat ∧
      (tget 0 t.therm.guard c).toNat ≤ 10) ∧
    (s.therm.sliceGuard.toNat ≤ 10 → s.therm.sliceGuard.toNat ≤ t.therm.sliceGuard.toNat ∧ t.therm.sliceGuard.toNat ≤ 10) ∧
    (s.therm.bin = true → t.therm.dropPending = s.therm.dropPending) ∧ t.therm.bin = s.therm.bin)

/-! ## The hold-up pack and power loss -/

/-- PACK_AUTHENTICATION and PACK_CHALLENGE_RESPONSE, R421, R505: a record that does not verify leaves the pack unauthenticated, reported, with a retry in 10 min; one
that does is challenged with a fresh nonce; the response is accepted within 2 s when its signature verifies, the pack charging and a
test due; else it fails. -/
def packAuthenticates : Prop := ∀ (s : State), s.aon = true →
  (∀ b : List Byte, authDue s = true → b.length = 12288 → let v : State := { s with hup := { s.hup with record := b, st := .authenticating } }
    Runs (.packAuthentication b) s
      (if verifies s 3 (slice b 448 384) (slice b 832 32) (b.take 864) (slice b 864 384) (slice b 1248 7856) = none then authFailed v
       else { (draw v).2 with hup := { v.hup with challenge := some (draw v).1, authSince := s.time } })) ∧
  (∀ (sig : List Byte) (c : BitVec 256), s.hup.challenge = some c → let b := s.hup.record
    let right := Config.rsaVerify (slice b 32 384) (leBytes c.toNat 32 ++ digestBytes (Config.sha384 (b.take 864))) sig
    ((s.time - s.hup.authSince).toNat ≤ 50000000 → if right = true then ∃ t, Runs (.packChallengeResponse sig) s t ∧
      t.hup.st = .charging ∧ t.hup.challenge = none ∧ t.hup.serial = slice b 4 16 ∧ t.hup.testDue = some s.time
      else Runs (.packChallengeResponse sig) s (authFailed s)) ∧
    (50000000 < (s.time - s.hup.authSince).toNat → Runs (.packChallengeResponse sig) s (authFailed s))) ∧
  (s.hup.challenge = none → ∀ sig, Runs (.packChallengeResponse sig) s s)

/-- R421: after a failed authentication the pack is unauthenticated, it is tried again in 10 min, and "hold-up pack unauthenticated" is raised. -/
def packFailed : Prop := ∀ s : State, authFailed s = raise { s with hup := { s.hup with
  st := .unauthenticated, challenge := none, retryAt := some (s.time + 15000000000) } } { kind := 0x901, unit := 19 }

/-- PACK_POLL, R422: a poll that goes unanswered is counted, and the tenth in a row opens the pack; with no challenge out and the same serial, an answered one only
takes a sample. -/
def packPolled : Prop := ∀ (p : PackPoll) (s : State), s.aon = true → s.hup.challenge = none →
  (p.answered = false → s.hup.missed < 9 →
    Runs (.packPoll p) s { s with hup := { s.hup with missed := s.hup.missed + 1 } }) ∧
  (p.answered = false → s.hup.missed = 9 →
    Runs (.packPoll p) s (packOpen { s with hup := { s.hup with missed := 10 } })) ∧
  (p.answered = true → let u := sample { s with hup := { s.hup with missed := 0 } } (packMv s p.uv)
    p.serial = u.hup.serial → u.hup.st ≠ .open_ → Runs (.packPoll p) s u)

/-- PACK_TEST, R423: a due test of a pack that rests, with no power loss, lowers HUP_EN and raises HUP_TEST, and records V_chg; one that cannot start waits a
minute; after an hour it is deferred. -/
def packTests : Prop := ∀ (uv : Nat) (due : W64) (s : State), s.aon = true → s.hup.testDue = some due → s.hup.test = false →
  s.hup.testTry = none → let u := sample s (packMv s uv)
  (testReady u = true → Runs (.packTest uv) s { u with hup := { u.hup with
    st := .testing, en := false, test := true, testSince := some u.time, testMv := packMv u uv } }) ∧
  (testReady u = false → 90000000000 ≤ (u.time - due).toNat → Runs (.packTest uv) s
    (raise { u with hup := { u.hup with testDue := none, testTry := none } } { kind := 0x903, unit := 19 })) ∧
  (testReady u = false → (u.time - due).toNat < 90000000000 →
    Runs (.packTest uv) s { u with hup := { u.hup with testTry := some u.time } })

/-- PACK_TEST_END, R423, R424: 100 ms after the load connects HUP_TEST is low and HUP_EN high, the ESR and the capacitance are those of the formulas
where these give a value, and E_full below 32 J is the end of life. -/
def packTestEnds : Prop := ∀ (v10 v100 i : Nat) (since : W64) (s : State), s.aon = true → s.hup.testSince = some since →
  ((s.time - since).toNat < 2500000 → Runs (.packTestEnd v10 v100 i) s s) ∧
  (2500000 ≤ (s.time - since).toNat → ∃ t, Runs (.packTestEnd v10 v100 i) s t ∧ t.hup.test = false ∧ t.hup.en = true ∧
    t.hup.testDue = none ∧ t.hup.measTime = s.time ∧
    (∀ e, testEsr s (1000 * s.hup.testMv) (v10 * senseDiv s) = some e → t.hup.esr = BitVec.ofNat 16 e) ∧
    (∀ c, testCap s (v10 * senseDiv s) (v100 * senseDiv s) (i * senseDiv s) = some c → t.hup.cap = BitVec.ofNat 32 c) ∧
    (t.hup.endOfLife = decide (t.hup.efull.toNat < 32000)))

/-- TEST_NOW, R438: a write of test_now makes a test due now; during a test or a power loss it is refused with E_STATE. -/
def testAsked : Prop := ∀ (a : Access) (s : State), Open a s → let u := heard s a 0x780050
  (s.hup.test = false → s.hup.loss = .none → Runs (.testNow a 1) s
    (answer { u with hup := { s.hup with testDue := some s.time, testTry := none } } a ok 0)) ∧
  ((s.hup.test = true ∨ s.hup.loss ≠ .none) → Runs (.testNow a 1) s (answer u a eState 0))

/-- WINDOW_RECOMPUTE, R426, R427: the guarantee holds exactly while the pack is authenticated and E_now − M − E_lw is not negative; outside a power loss the
window is the smaller of ride_ms and that reserve over P_rt while it holds, and 0 otherwise; during a power loss it is frozen. -/
def windowRecomputed : Prop := ∀ (uv : Nat) (s : State), s.aon = true →
  let u := settlePack (sample s (packMv s uv))
  ∃ t, Runs (.windowRecompute uv) s t ∧ t.hup.guarantee = (authentic u && decide (0 ≤ spare u)) ∧
    t.hup = { u.hup with guarantee := t.hup.guarantee, window := t.hup.window } ∧
    (u.hup.loss ≠ .none → t.hup.window = u.hup.window) ∧
    (u.hup.loss = .none → t.hup.guarantee = false → t.hup.window = 0) ∧
    (u.hup.loss = .none → t.hup.guarantee = true →
      t.hup.window = BitVec.ofNat 17 (min (1000 * rideMs u) (10 * spare u / rideDraw u).toNat)) ∧
    (t.hup.guarantee = u.hup.guarantee → t = { u with hup := t.hup })

/-- PACK_COUNTER_UPDATE, R425: the counters of the present pack are in the store under its serial; those of other serials stay. -/
def countersStored : Prop := ∀ s : State, s.aon = true → ∃ t, Runs .packCounterUpdate s t ∧
  t.hup.store.lookup s.hup.serial = some s.hup.cnt ∧
  (∀ x, x ≠ s.hup.serial → t.hup.store.lookup x = s.hup.store.lookup x) ∧ t = { s with hup := { s.hup with store := t.hup.store } }

/-- POWER_LOSS_ACCEPT and RAIL_OUT_OF_WINDOW, R428 to R430, R542: an accepted loss begins ride-through with the window frozen, or 0 without the guarantee or for a
rail; a test under way ends, with HUP_TEST low and HUP_EN high; it is counted and "power loss" raised. -/
def powerLossAccepted : Prop := ∀ (s : State), s.aon = true → s.hup.loss = .none →
  (∃ t, Runs .powerLossAccept s t ∧ t.hup.loss = .ride ∧ t.hup.tFail = s.time ∧ t.pins.pwrfail = false ∧
    t.hup.frozen = (if s.hup.guarantee then s.hup.window.toNat else 0) ∧ t.hup.cnt.events = s.hup.cnt.events + 1 ∧
    (s.hup.test = true → t.hup.test = false ∧ t.hup.en = true) ∧ t.staged = s.staged ∧ t.parts = s.parts) ∧
  (∀ rail : Fin 11, rail.val ≠ 10 → s.pins.pwrfail = true → ∃ t, Runs (.railOutOfWindow rail) s t ∧ t.hup.loss = .ride ∧
    t.hup.frozen = 0 ∧ t.hup.cnt.events = s.hup.cnt.events + 1 ∧ t.pins = s.pins) ∧
  (∀ rail : Fin 11, (rail.val = 10 ∨ s.pins.pwrfail = false) → Runs (.railOutOfWindow rail) s s)

/-- MAINS_RETURN, R428, R431: within the window it ends ride-through: the hold lifts, budget ratios are 56, the ramp bucket is empty, the ride is counted. With no
loss only the pin is high. RIDE_THROUGH_END: w elapsed, or the energy down to the reserve, starts the last will; before, nothing changes. -/
def mainsAndRideThrough : Prop := ∀ s : State, s.aon = true →
  (s.hup.loss = .none → Runs .mainsReturn s { s with pins := { s.pins with pwrfail := true } }) ∧
  (s.hup.loss = .ride → s.hup.perstDeferred = false → (s.time - s.hup.tFail).toNat < rideEnd s →
    ∃ t, Runs .mainsReturn s t ∧ t.hup.loss = .none ∧ t.hup.cnt.rides = s.hup.cnt.rides + 1 ∧ t.power.bucket = 0 ∧
      (∀ n ∈ runningParts s, tget 0 t.power.budget n = 56) ∧ t.pins.pwrfail = true) ∧
  (s.hup.loss = .ride → rideEnd s ≤ (s.time - s.hup.tFail).toNat → Runs .rideThroughEnd s (afterLoss (lastWill s false))) ∧
  (s.hup.loss = .ride → (s.time - s.hup.tFail).toNat < rideEnd s → spare s ≤ 0 →
    Runs .rideThroughEnd s (afterLoss (lastWill s true))) ∧
  (s.hup.loss = .ride → (s.time - s.hup.tFail).toNat < rideEnd s → 0 < spare s → Runs .rideThroughEnd s s)

/-- R432: the last will turns the headers off, puts every port at rest, commits its record to the slot that does not hold the newest one, and raises
PWR_SAFE. -/
def lastWillRuns : Prop := ∀ (byEnergy : Bool) (s : State),
  let t := lastWill s byEnergy
  t.hup.loss = .safe ∧ t.hup.pwrSafe = true ∧ (∀ l, (lkAt t l).phase = .down) ∧
  ((newestWill s.hup).1 = true → t.hup.slot0 ≠ none ∧ t.hup.slot1 = s.hup.slot1) ∧
  ((newestWill s.hup).1 = false → t.hup.slot1 ≠ none ∧ t.hup.slot0 = s.hup.slot0) ∧ t.staged = s.staged

/-- PWR_SAFE_RESET, R432: PWRFAIL_N high for 100 ms while PWR_SAFE is high lowers it, ends the loss and resets the device; before, nothing changes. -/
def safeReset : Prop := ∀ (since : W64) (s : State), s.aon = true → s.hup.returned = some since → s.hup.pwrSafe = true →
  s.pins.pwrfail = true →
  (2500000 ≤ (s.time - since).toNat → Runs .pwrSafeReset s (deviceReset { s with hup := { s.hup with
    pwrSafe := false, loss := .none, regsHeld := none, returned := none } } 4)) ∧
  ((s.time - since).toNat < 2500000 → Runs .pwrSafeReset s s)

/-! ## Start-up, firmware, defects and resets -/

/-- VDD_AON_UP, R439, R442: with the block off, or not started, the always-on domain starts with everything volatile gone and its boot ROM runs; with it on and started,
nothing changes. -/
def powersUp : Prop := ∀ (b : BootInputs) (s : State),
  ((s.aon = false ∨ s.boot.phase = 0) → ∃ u, Runs (.vddAonUp b) s (bootRom u) ∧ u.aon = true ∧ u.pins = { brd := b.brdId, chain := b.chainPos } ∧
    u.boot.flash = b.flash.getD s.boot.flash ∧ u.boot.fuseBad = b.fuseBad ∧
    u.boot.list = s.boot.list ∧ u.boot.startCount = s.boot.startCount ∧ u.therm.guard = s.therm.guard ∧ u.therm.bin = s.therm.bin ∧
    u.rot.counter = s.rot.counter ∧ u.hup.store = s.hup.store ∧ u.hup.slot0 = s.hup.slot0 ∧ u.hup.slot1 = s.hup.slot1 ∧
    u.power.selected = b.budgetSel ∧ u.staged = [] ∧ u.time = 0 ∧ u.darn = {} ∧ u.parts = [] ∧ u.stack = {}) ∧
  (s.aon = true → s.boot.phase ≠ 0 → Runs (.vddAonUp b) s s)

/-- R442, R446, R448, R467: steps 2 and 3: an image of the flash that verifies is the running one, with its svn and the slot of keys that verified it, the start
count rises, a pending clear empties the list and the strikes, and the module's id is of its pins; else flash_bad is set. Power-good
is then waited for. -/
def startSteps : Prop := ∀ s : State, s.oscLost = false →
  (match fwSlot s s.boot.flash with
   | none => (bootRom s).boot = { s.boot with flashBad := true, phase := 1 }
   | some k => (bootRom s).boot.phase = 1 ∧ (bootRom s).boot.startCount = s.boot.startCount + 1 ∧
      (bootRom s).boot.clearPending = false ∧ (bootRom s).rot.slot = k ∧
      (bootRom s).rot.svn = BitVec.ofNat 7 (fwSvn s.boot.flash) ∧
      (s.boot.clearPending = true → s.boot.fuseBad = [] → (bootRom s).boot.list = [] ∧ (bootRom s).boot.strikes = []) ∧
      (s.boot.clearPending = false → s.boot.fuseBad = [] →
        (bootRom s).boot.list = s.boot.list ∧ (bootRom s).boot.strikes = s.boot.strikes) ∧
      (bootRom s).moduleId = BitVec.ofNat 32 (s.pins.brd.toNat * 65536 + s.pins.chain.toNat)) ∧
  (bootRom s).staged = s.staged ∧ (bootRom s).rot.counter = s.rot.counter

/-- VDD_AON_LOSS, R437, R448: everything volatile is gone; what the Cullet store, the flash and the fuses hold stays. -/
def vddAonLost : Prop := ∀ s : State, ∃ t, Runs .vddAonLoss s t ∧
  t = { variant := s.variant, aon := false, boot := t.boot, therm := t.therm, rot := t.rot, hup := t.hup, free := s.free,
        pending := s.pending } ∧
  t.boot.list = s.boot.list ∧ t.boot.startCount = s.boot.startCount ∧ t.boot.clearPending = s.boot.clearPending ∧
  t.boot.strikes = s.boot.strikes ∧ t.boot.flash = s.boot.flash ∧ t.boot.fuseBad = s.boot.fuseBad ∧ t.boot.phase = 0 ∧
  t.therm.guard = s.therm.guard ∧ t.therm.bin = s.therm.bin ∧ t.therm.reviews = s.therm.reviews ∧
  t.rot.counter = s.rot.counter ∧ t.rot.revoked = s.rot.revoked ∧ t.rot.jtag = false ∧ t.rot.scan = false ∧
  t.hup.store = s.hup.store ∧ t.hup.slot0 = s.hup.slot0 ∧ t.hup.slot1 = s.hup.slot1

/-- POWER_GOOD, R442, R446, R452: after step 3, with the oscillator and the mains there: with an image, steps 4 to 8 release the device; with none, the lifeline
wait begins and both Nalson ports train. Each crossing swept takes the centre of its widest window. A start on which every test passes, with no bad unit, adds no defect. At any other time nothing
changes. -/
def powerGoods : Prop := ∀ (r : StartResults) (s : State), s.aon = true →
  (s.boot.phase = 1 → s.oscLost = false → s.hup.loss = .none →
    (s.boot.flashBad = true → s.boot.lifeImage = false → ∃ t, Runs (.powerGood r) s t ∧ t.boot = { s.boot with phase := 3 } ∧
      t.pins.perst = true ∧ t.staged = s.staged ∧ (∀ p, linkEnabled s (.nalson p) = true → s.pllLost = [] →
        (lkAt s (.nalson p)).phase = .down → (lkAt t (.nalson p)).phase = .training)) ∧
    ((s.boot.flashBad = false ∨ s.boot.lifeImage = true) → ∃ t, Runs (.powerGood r) s t ∧ t.boot.phase = 9 ∧
      t.pins.perst = true ∧ t.rot.ready = true ∧ (∀ x ∈ r.sweeps, (r.sweeps.map (fun y => y.1)).Nodup → (windowOf x.2).2 ≠ 0 →
        (crossAt t x.1).code = centreOf (windowOf x.2).1 (windowOf x.2).2) ∧ t.rot.aliasCounter = s.rot.counter ∧ t.staged = s.staged ∧ t.hup = s.hup ∧
      (r.failed = [] → (∀ x ∈ r.sweeps, 8 ≤ (windowOf x.2).2) → r.microcodeCore = [] → r.microcodeNbu = [] → s.boot.fuseBad = [] → s.boot.list = [] →
        t.boot.list = [] ∧ t.units.fenced = s.units.fenced ∧ t.units.skip = s.units.skip ∧ t.units.ring8 = none))) ∧
  ((s.boot.phase ≠ 1 ∨ s.oscLost = true ∨ s.hup.loss ≠ .none) → Runs (.powerGood r) s s)

/-- R452: a unit that fails its test: with no entry, one of source 1 is appended; with one, its last start and its count are updated; one the fuses mark bad
adds no entry. A trim regulator's is reported (R378). -/
def failureNoted : Prop := ∀ (s : State) (unit id : Nat), unit < 256 → id < 4294967296 →
  (s.boot.fuseBad.contains (unit, id) = true → noteFailure s (unit, id) =
    if unit = 5 then raise s { kind := 0x702, unit := 5, id := id } else s) ∧
  (s.boot.fuseBad.contains (unit, id) = false → listed s (unit, id) = false → s.boot.list.length < 8192 →
    ∃ kind, (noteFailure s (unit, id)).boot.list = s.boot.list ++ [⟨kind, BitVec.ofNat 8 unit, 1, BitVec.ofNat 32 id, s.time,
      s.boot.startCount, s.boot.startCount, 1⟩]) ∧
  (s.boot.fuseBad.contains (unit, id) = false → listed s (unit, id) = true →
    (noteFailure s (unit, id)).boot.list = s.boot.list.map (fun e =>
      if e.unit = BitVec.ofNat 8 unit ∧ e.id = BitVec.ofNat 32 id then
        { e with lastStart := s.boot.startCount, count := satInc e.count } else e))

/-- LIFELINE_NOTICE, R446: in the lifeline wait "lifeline load needed" is raised at most once a second. -/
def lifelineNotices : Prop := ∀ s : State, s.aon = true →
  (s.boot.phase = 3 → s.boot.noticed.all (fun t => decide (25000000 ≤ (s.time - t).toNat)) = true →
    Runs .lifelineNotice s (raise { s with boot := { s.boot with noticed := some s.time } } { kind := 0xA05 })) ∧
  (s.boot.phase ≠ 3 → Runs .lifelineNotice s s) ∧
  (∀ t, s.boot.noticed = some t → (s.time - t).toNat < 25000000 → Runs .lifelineNotice s s)

/-- LIFE_GO, R443, R446: in the lifeline wait the first GO starts the load through its port, with the read of the image; any other, or any after release, is refused with
E_STATE. LIFELINE_LOAD_COMPLETE: an image that verifies is adopted and start-up goes on at step 3; one that does not, or a read that fails,
goes back to the wait with the status in life_status. -/
def lifelineLoads : Prop :=
  (∀ (a : Access) (s : State), s.aon = true → let u := heard s a 0xC0002C
    (s.boot.phase = 3 → Runs (.lifeGo a 1) s
      (answer (beginFetch { u with boot := { s.boot with phase := 4, lifeLoad := some a.port } } .lifeline a.port s.boot.lifeAddr
        s.boot.lifeLen.toNat) a ok 0)) ∧
    (s.boot.phase ≠ 3 → Runs (.lifeGo a 1) s (answer u a eState 0))) ∧
  (∀ s : State, s.aon = true → s.boot.phase = 4 →
    (∀ x st, Fetched s .lifeline x → readFailure x = some st → Runs .lifelineLoadComplete s
      { dropFetch s .lifeline with boot := { s.boot with phase := 3, lifeStatus := st, lifeLoad := none } }) ∧
    (∀ b : List Byte, Fetched s .lifeline (.data b []) → match fwSlot s b with
      | none => Runs .lifelineLoadComplete s
        { dropFetch s .lifeline with boot := { s.boot with phase := 3, lifeStatus := eAuth, lifeLoad := none } }
      | some k => ∃ t, Runs .lifelineLoadComplete s t ∧ t.boot.phase = 1 ∧ t.boot.lifeImage = true ∧ t.rot.slot = k ∧
        t.boot.startCount = s.boot.startCount + 1))

/-- FW_UPDATE, R447, R295: its checks in their order; with all passed the image is fetched, and one that verifies is accepted and the flash is erased; the flash is untouched by an update that is refused. -/
def fwUpdates : Prop := ∀ (p : NPort) (r : RingId) (d : Desc) (s : State), Takes s p r 0x70 d →
  let u := settleRing s p r
  let n := bits (arg d 1) 31 0
  (holdsSem u p = false → Runs (.fwUpdate p r) s (reject u ⟨p, r, d.k⟩ eOwner 1 0)) ∧
  (holdsSem u p = true → u.fwUpdate ≠ none → Runs (.fwUpdate p r) s (reject u ⟨p, r, d.k⟩ eState 2 0)) ∧
  (holdsSem u p = true → u.fwUpdate = none →
    (((arg d 0).toNat % 64 ≠ 0 ∨ n % 64 ≠ 0) → Runs (.fwUpdate p r) s (reject u ⟨p, r, d.k⟩ eAlign 3 0)) ∧
    ((arg d 0).toNat % 64 = 0 → n % 64 = 0 →
      ((n < 4096 ∨ 67108864 < n) → Runs (.fwUpdate p r) s (reject u ⟨p, r, d.k⟩ eRange 4 0)) ∧
      (4096 ≤ n → n ≤ 67108864 → let ref : DescRef := ⟨p, r, d.k⟩
        let v := dropFetch u (.desc ref)
        (fetchOf u (.desc ref) = none → Runs (.fwUpdate p r) s (beginFetch u (.desc ref) p (arg d 0) n)) ∧
        (∀ x st, Fetched u (.desc ref) x → readFailure x = some st → Runs (.fwUpdate p r) s (refuseRead v ref st)) ∧
        (∀ b, Fetched u (.desc ref) (.data b []) → Runs (.fwUpdate p r) s (if fwSlot u b = none
          then reject v ref eAuth 5 0
          else acceptDesc { v with fwUpdate := some { desc := some ref, image := b }, boot := { u.boot with flash := [] } } ref)))))

/-- FW_UPDATE_COMPLETE, R447: an image that reads back whole is the flash's, and the descriptor completes with OK; a second mismatch raises "firmware
flash write failed" and ends it with S_ABORTED, the flash offset as the item. Without an update nothing changes. -/
def fwUpdateEnds : Prop := ∀ s : State, s.aon = true →
  (∀ (ref : DescRef) (img : List Byte), s.fwUpdate = some { desc := some ref, image := img } →
    Runs (.fwUpdateComplete none) s
      (completeOk { s with fwUpdate := none, boot := { s.boot with flash := img } } ref 0) ∧
    (∀ k, Runs (.fwUpdateComplete (some k)) s (complete (raise { s with fwUpdate := none } { kind := 0xA01 }) ref sAborted
      (endDetail { status := sAborted, item := k }) 0 []))) ∧
  (∀ img : List Byte, s.fwUpdate = some { desc := none, image := img } → Runs (.fwUpdateComplete none) s
    { s with fwUpdate := none, boot := { s.boot with flash := img, restored := true } }) ∧
  (s.fwUpdate = none → ∀ m, Runs (.fwUpdateComplete m) s s)

/-- DEFECT_CLEAR, R466, R467, R502, R295: a token of 8,784 bytes is fetched; one that passes sets clear pending and changes the defect list in nothing; one that fails is rejected with
E_AUTH; either way ROT_NONCE is new. -/
def defectClears : Prop := ∀ (p : NPort) (r : RingId) (d : Desc) (s : State), Takes s p r 0x71 d →
  let u := settleRing s p r
  let ref : DescRef := ⟨p, r, d.k⟩
  let v := newNonce (dropFetch u (.desc ref))
  (holdsSem u p = false → Runs (.defectClear p r) s (reject u ⟨p, r, d.k⟩ eOwner 1 0)) ∧
  (holdsSem u p = true → bits (arg d 1) 15 0 ≠ 8784 → Runs (.defectClear p r) s (reject u ⟨p, r, d.k⟩ eRange 2 0)) ∧
  (holdsSem u p = true → bits (arg d 1) 15 0 = 8784 →
    (fetchOf u (.desc ref) = none → Runs (.defectClear p r) s (beginFetch u (.desc ref) p (arg d 0) 8784)) ∧
    (∀ b, Fetched u (.desc ref) (.data b []) → Runs (.defectClear p r) s (if tokenOk u 2 b = true
      then completeOk { v with boot := { u.boot with clearPending := true } } ref 0
      else reject v ref eAuth 3 0)))

/-- A move under way for a physical core's cluster row. -/
abbrev Moving (s : State) (p : Nat) : Prop :=
  s.sparings.any (fun x => x.cluster == physCluster p && x.row == (physPlace p).2.1 % 4) = true

/-- LIVE_CORE_SPARING, R194, R196: a core of a partition whose row's spare is free begins its sparing; one in no partition is recorded, its row skips it, and "core spared" is raised;
the unused spare itself moves nothing, and its row can hide no further defect; with the spare in use the cluster is fenced. -/
def coreSpared : Prop := ∀ (core : PhysId) (s : State), s.aon = true → ¬Moving s core.val →
  s.units.fenced.contains (physCluster core.val) = false →
  let c := physCluster core.val
  let row := (physPlace core.val).2.1 % 4
  let pos := (physPlace core.val).2.2.2
  let u := addDefect s 0x305 1 core.val 2
  (pos ≠ skipOf s c row → (skipOf s c row ≠ 8 ∨ s.units.spareGone.contains (rowKey core.val) = true) →
    Runs (.liveCoreSparing core) s (fenceCluster u c)) ∧
  (pos ≠ skipOf s c row → skipOf s c row = 8 → s.units.spareGone.contains (rowKey core.val) = false →
    (∀ n, clusterPart s c = some n → Runs (.liveCoreSparing core) s
      { u with sparings := s.sparings ++ [⟨c, row, pos, some (partFin n), s.time⟩] }) ∧
    (clusterPart s c = none → let first := c / 16 * 512 + (c % 16 / 4 * 4 + row) * 32 + c % 4 * 8
      Runs (.liveCoreSparing core) s (raise { u with units := { s.units with skip := tset 8 s.units.skip (rowKey core.val) pos } }
        { kind := 0x10A, unit := 10, id := first + pos, detail := core.val }))) ∧
  (pos = skipOf s c row → ∃ t, Runs (.liveCoreSparing core) s t ∧ t.units.skip = s.units.skip ∧
    (rowKey core.val) ∈ t.units.spareGone ∧ t.sparings = s.sparings ∧ t.units.fenced = s.units.fenced)

/-- CORE_SPARING_COMPLETE, R106, R195, R196: the row skips the core, the move is over, and "core spared" is raised for the partition; with no audit under way the
logical cores' own state moves as it is; then the work that waited for the spare is done again. With no move under way nothing changes. -/
def sparingEnds : Prop := ∀ (core : PhysId) (s : State), s.aon = true →
  (sparingOf s core.val = none → Runs (.coreSparingComplete core) s s) ∧
  (∀ x, sparingOf s core.val = some x → ∃ t, Runs (.coreSparingComplete core) s ((movedCores x).foldl redoCore t) ∧
    ((∀ k ∈ movedCores x, (coreAt t k).redo = none) → Runs (.coreSparingComplete core) s t) ∧
    (∃ v e, t = raise v e ∧ e.kind = 0x10A ∧ e.part = x.part.map (fun n => n.val)) ∧
    ((∀ k, (coreAt s k).audit = none) → t.cores = s.cores) ∧
    (∀ y ∈ t.sparings, ¬(y.cluster = x.cluster ∧ y.row = x.row)) ∧
    t.units = { s.units with skip := tset 8 s.units.skip (x.cluster * 4 + x.row) x.pos } ∧ t.staged = s.staged ∧ t.boot = s.boot ∧
    t.rings = s.rings ∧ t.kv = s.kv ∧ t.hup = s.hup ∧ t.power = s.power)

/-- HEM_RESET, R462 to R466: by the semaphore's owner it is accepted and begins: from then on the Hem is in reset and every link retrains; the set-up registers
and the semaphore keep their contents. Any other port gets E_OWNER; one that falls into another is absorbed. -/
def hemResets : Prop := ∀ (s : State), s.aon = true →
  (s.hemReset = none → (∃ t, Runs (.hemReset none) s t ∧ t.hemReset = some { desc := none, begun := s.time } ∧
      t.staged = s.staged ∧ t.sem = s.sem ∧ t.fold = s.fold ∧ t.bars = s.bars ∧ t.time = s.time ∧ t.boot = s.boot ∧ t.hup = s.hup ∧
      (∀ l, (lkAt s l).phase = .up → (lkAt t l).phase = .retraining)) ∧
    (∀ (p : NPort) (r : RingId) (d : Desc), Takes s p r 0x72 d →
      (holdsSem s p = false → Runs (.hemReset (some (p, r))) s (reject (settleRing s p r) ⟨p, r, d.k⟩ eOwner 1 0)) ∧
      (holdsSem s p = true → Runs (.hemReset (some (p, r))) s
        (beginHemReset (acceptDesc (settleRing s p r) ⟨p, r, d.k⟩) (some ⟨p, r, d.k⟩))))) ∧
  (s.hemReset ≠ none → ∀ q, Runs (.hemReset q) s s)

/-- HEM_RESET_RESUME, R462, R463: the Hem is out of reset; the partitions that lost an access stop with S_RESET_ABORT, the others go on; descriptor reading goes
on. -/
def hemResumes : Prop := ∀ s : State, s.aon = true →
  (s.hemReset = none → Runs .hemResetResume s s) ∧
  (∀ h, s.hemReset = some h → ∃ t, Runs .hemResetResume s t ∧ t.hemReset = none ∧ t.staged = s.staged ∧ t.stack = s.stack ∧
    t.hamper = s.hamper ∧ t.slices = s.slices ∧
    (∀ n ∈ allParts, (partAt s n).resetQueued = none → (partAt s n).hemLost = false →
      partAt t n = { partAt s n with resetQueued := none, hemLost := false }) ∧
    (∀ n ∈ allParts, ∀ r, (partAt s n).run = some r → (partAt s n).resetQueued = none → (partAt s n).hemLost = true → r.stop = none →
      (partAt t n).run = some { r with stop := some { status := sResetAbort } }))

/-- What a device reset leaves (R464): start-up has run from step 2; the fast domains are cleared, every partition is EMPTY, the semaphore free,
the fold empty and its freezing undone, the rings disabled with nothing owed; the timestamp, the pins, the hold-up state and the thermometer of
ROT_SVN go on. -/
abbrev ResetTo (s t : State) (cause : Nat) : Prop :=
  t.boot.phase = 1 ∧ t.boot.cause = BitVec.ofNat 4 cause ∧ t.staged = [] ∧ t.parts = [] ∧ t.cores = [] ∧ t.slices = {} ∧
  t.baskets = {} ∧ t.hamper = {} ∧ t.stack = {} ∧ t.kv = [] ∧ t.xfers = [] ∧ t.nbus = [] ∧ t.sem = {} ∧ t.fold = {} ∧ t.bars = [] ∧
  t.fwUpdate = none ∧ t.fetches = [] ∧ t.hemReset = none ∧ t.devReset = none ∧ t.ecct = {} ∧
  (∀ p r, (ringAt t p r).cfg = 0 ∧ (ringAt t p r).descs = []) ∧ (∀ l, (lkAt t l).phase = .down) ∧
  t.rot.jtag = false ∧ t.rot.scan = false ∧ t.rot.failed = 0 ∧ t.rot.counter = s.rot.counter ∧
  t.time = s.time ∧ t.frames = s.frames ∧ t.pins = s.pins ∧ t.ecc = s.ecc ∧ t.hup.store = s.hup.store ∧ t.variant = s.variant ∧
  t.pending = s.pending

/-- DEVICE_RESET, DEVICE_RESET_DELAY_END, GAFFER_WATCHDOG, R464, R466, R475: the descriptor's completion is posted with OK, and the reset follows 1 ms later, with
cause 2; the watchdog resets the device with cause 3. -/
def deviceResets : Prop := ∀ s : State, s.aon = true → s.oscLost = false →
  (∃ t, Runs .gafferWatchdog s t ∧ ResetTo s t 3) ∧
  (∀ (p : NPort) (r : RingId) (d : Desc), Takes s p r 0x73 d → let u := settleRing s p r
    (holdsSem u p = false → Runs (.deviceReset p r) s (reject u ⟨p, r, d.k⟩ eOwner 1 0)) ∧
    (holdsSem u p = true → Runs (.deviceReset p r) s (completeOk { u with devReset := some (u.time, 2) } ⟨p, r, d.k⟩ 0))) ∧
  (∀ since, s.devReset = some (since, 2) →
    (25000 ≤ (s.time - since).toNat → ∃ t, Runs .deviceResetDelayEnd s t ∧ ResetTo s t 2) ∧
    ((s.time - since).toNat < 25000 → Runs .deviceResetDelayEnd s s)) ∧
  (s.devReset = none → Runs .deviceResetDelayEnd s s)

/-- PERST_N_FALL, PERST_N_RESET, PERST_N_RISE, R303, R308, R349, R441, R543: a fall takes every port down, with DOWN of cause 1; a low of 100 µs
(2,500 ticks) resets the device with cause 1, or is kept for later during a power loss; a shorter one resets nothing; a rise begins training. -/
def perstResets : Prop := ∀ s : State, s.aon = true →
  (s.pins.perst = true → ∃ t, Runs .perstNFall s t ∧ t.pins = { s.pins with perst := false, perstLow := some s.time } ∧
    (∀ l, (lkAt t l).phase = .down) ∧ t.staged = s.staged ∧
    t.boot = s.boot) ∧
  (s.pins.perst = false → Runs .perstNFall s s) ∧
  (∀ since, s.pins.perstLow = some since →
    ((s.time - since).toNat < 2500 → Runs .perstNReset s s) ∧
    (2500 ≤ (s.time - since).toNat → s.oscLost = false → s.hup.loss = .none →
      ∃ t, Runs .perstNReset s t ∧ ResetTo { s with pins := { s.pins with perstLow := none } } t 1) ∧
    (2500 ≤ (s.time - since).toNat → s.hup.loss ≠ .none → Runs .perstNReset s
      { s with pins := { s.pins with perstLow := none }, hup := { s.hup with perstDeferred := true } })) ∧
  (s.pins.perstLow = none → Runs .perstNReset s s) ∧
  (∃ t, Runs .perstNRise s t ∧ t.pins = { s.pins with perst := true, perstLow := none } ∧ t.boot = s.boot ∧ t.staged = s.staged ∧
    (∀ p, linkEnabled s (.nalson p) = true → s.pllLost = [] → s.hup.loss ≠ .safe → 3 ≤ s.boot.phase.toNat →
      (lkAt s (.nalson p)).phase = .down → (lkAt t (.nalson p)).phase = .training) ∧
    (∀ p, linkOn s (.myarn p) = true → linkEnabled s (.myarn p) = true → s.pllLost = [] → s.hup.loss ≠ .safe → 5 ≤ s.boot.phase.toNat →
      s.mesh.poisoned.contains (5, p.val) = false → (lkAt s (.myarn p)).phase = .down → (lkAt t (.myarn p)).phase = .training))

/-- CLOCK_LOST, PLL_RELOCK, OSCILLATOR_BACK_IN_RANGE, R474: a lost clock raises "clock lost" once, and what it clocks stops: the
partitions of a half are reset, NBU operations end with S_RESET_ABORT, the links go down, the device is reset without its oscillator; a half that locks again in
time only clears the loss, and the NBUs take up what waits. The oscillator back starts the boot ROM. -/
def clocksLost : Prop := ∀ s : State, s.aon = true →
  (∀ c : ClockId, (s.pllLost.contains c = true ∨ (c = .osc ∧ s.oscLost = true)) → Runs (.clockLost c) s s) ∧
  (∀ c : ClockId, c ≠ .osc → s.pllLost.contains c = false → let u := raise s { kind := 0x708, unit := 21, id := clockNo c }
    let v := { u with pllLost := s.pllLost ++ [c] }
    (c = .halfW → Runs (.clockLost c) s ((partsIn u 0).foldl (fun s n => beginReset s n []) v)) ∧
    (c = .halfE → Runs (.clockLost c) s ((partsIn u 1).foldl (fun s n => beginReset s n []) v)) ∧
    (c = .nbu → Runs (.clockLost c) s (endOperations v sResetAbort)) ∧
    (c = .serdes → ∃ t, Runs (.clockLost c) s t ∧ (∀ l, (lkAt t l).phase = .down) ∧ t.pllLost = s.pllLost ++ [c])) ∧
  (s.oscLost = false → s.pllLost.contains .osc = false → ∃ t, Runs (.clockLost .osc) s t ∧ t.oscLost = true ∧ t.boot.phase = 0 ∧
    t.staged = [] ∧ t.parts = []) ∧
  (∀ c : ClockId, s.pllLost.contains c = false → ∀ b, Runs (.pllRelock c b) s s) ∧
  (∀ c : ClockId, c ≠ .serdes → c ≠ .nbu → s.pllLost.contains c = true →
    Runs (.pllRelock c true) s { s with pllLost := s.pllLost.filter (fun x => x != c) }) ∧
  (s.pllLost.contains .nbu = true → let u := { s with pllLost := s.pllLost.filter (fun x => x != .nbu) }
    Runs (.pllRelock .nbu true) s (s.nbus.foldl (fun v x => nextTurn v x.1) u)) ∧
  (s.oscLost = true → Runs .oscillatorBackInRange s (bootRom { s with oscLost := false })) ∧
  (s.oscLost = false → Runs .oscillatorBackInRange s s)

/-- ALERT_PENDING_CLEAR: a write of 1 to DARN_ALERT clears the pending alert; a reserved bit is refused with E_RESERVED and clears nothing. -/
def alertCleared : Prop := ∀ (a : Access) (v : W32) (s : State), Open a s → let u := heard s a 0x800030
  (v = 1 → Runs (.alertPendingClear a v) s (answer { u with darn := { s.darn with pending := false } } a ok 0)) ∧
  (v = 0 → Runs (.alertPendingClear a v) s (answer u a ok 0)) ∧
  (1 < v.toNat → Runs (.alertPendingClear a v) s (answer u a eReserved 0))

/-! ## The root of trust -/

/-- SVN_COMMIT, R494, R495: by the semaphore's owner, with no FW_UPDATE under way, the counter becomes the larger of itself and the running image's svn, the keys
that image revokes are revoked but for the slot that verified it, and the counter is the result. -/
def svnCommits : Prop := ∀ (p : NPort) (r : RingId) (d : Desc) (s : State), Takes s p r 0x62 d →
  let u := settleRing s p r
  (holdsSem u p = false → Runs (.svnCommit p r) s (reject u ⟨p, r, d.k⟩ eOwner 1 0)) ∧
  (holdsSem u p = true → u.fwUpdate ≠ none → Runs (.svnCommit p r) s (reject u ⟨p, r, d.k⟩ eState 2 0)) ∧
  (holdsSem u p = true → u.fwUpdate = none →
    let c := if s.rot.counter ≤ s.rot.svn.toNat then s.rot.svn.toNat else s.rot.counter
    let gone := s.rot.revoked ||| (BitVec.ofNat 8 (field s.boot.image 40 1) &&& ~~~(BitVec.ofNat 8 (2 ^ s.rot.slot)))
    Runs (.svnCommit p r) s
      (completeOk { u with rot := { s.rot with counter := c, revoked := gone } } ⟨p, r, d.k⟩ (BitVec.ofNat 64 c)))

/-- CERT_READ, R498: 17,632 bytes, the DeviceID certificate and then the alias one, are posted to the host's buffer; an address that is no multiple of 64 is
refused with E_ALIGN, a buffer too small with E_RANGE. The certificates are 8,816 bytes each. -/
def certificatesRead : Prop := ∀ (p : NPort) (r : RingId) (d : Desc) (s : State), Takes s p r 0x61 d →
  let u := settleRing s p r
  ((arg d 0).toNat % 64 ≠ 0 → Runs (.certRead p r) s (reject u ⟨p, r, d.k⟩ eAlign 1 0)) ∧
  ((arg d 0).toNat % 64 = 0 → bits (arg d 1) 31 0 < 17632 → Runs (.certRead p r) s (reject u ⟨p, r, d.k⟩ eRange 2 0)) ∧
  ((arg d 0).toNat % 64 = 0 → 17632 ≤ bits (arg d 1) 31 0 →
    Runs (.certRead p r) s (completeOk (sendHost u p (arg d 0) 6 (certificates s)) ⟨p, r, d.k⟩ 17632)) ∧
  (certificates s).length = 17632

/-- ATTEST, R498 to R500, R503: checked in order, it joins the queue of at most four with the report of the state at its acceptance: the nonce as given, the
measurements, one entry for each partition of the mask. After a scan unlock it is refused with E_STATE, with four waiting with
E_NO_RESOURCE. -/
def attests : Prop := ∀ (p : NPort) (r : RingId) (d : Desc) (s : State), Takes s p r 0x60 d →
  (arg d 0).toNat % 64 = 0 → 9072 ≤ bits (arg d 1) 31 0 →
  let u := settleRing s p r
  let mask := bits (arg d 1) 39 32
  (∀ n < 8, mask / 2 ^ n % 2 = 1 → portOf u n ≠ p → (∀ k < n, mask / 2 ^ k % 2 = 1 → portOf u k = p) →
    Runs (.attest p r) s (reject u ⟨p, r, d.k⟩ ePartition 3 n)) ∧
  ((∀ n < 8, mask / 2 ^ n % 2 = 1 → portOf u n = p) →
    (u.rot.scan = true → Runs (.attest p r) s (reject u ⟨p, r, d.k⟩ eState 4 0)) ∧
    (u.rot.scan = false → 4 ≤ u.rot.queue.length → Runs (.attest p r) s (reject u ⟨p, r, d.k⟩ eNoResource 5 0)) ∧
    (u.rot.scan = false → u.rot.queue.length < 4 →
      let nonce := [2, 3, 4, 5].flatMap (fun i => leBytes (arg d i).toNat 8)
      let report := reportBytes u mask nonce
      Runs (.attest p r) s (acceptDesc { u with rot := { u.rot with
        queue := u.rot.queue ++ [{ desc := ⟨p, r, d.k⟩, addr := arg d 0, report := report, time := s.time }] } } ⟨p, r, d.k⟩)))

/-- R500: the report's 832 bytes before the signatures, with the nonce, the device's id, the counter, the svn and the start count at their places, and zeros for
a partition the mask leaves out. -/
def reportLaidOut : Prop := ∀ (s : State) (mask : Nat) (nonce : List Byte), nonce.length = 32 → mask < 256 →
  let b := reportBytes s mask nonce
  b.length = 832 ∧ b.take 4 = [0x59, 0x4B, 0x41, 0x54] ∧ slice b 8 8 = leBytes s.time.toNat 8 ∧ slice b 16 32 = nonce ∧
  slice b 48 48 = digestBytes deviceId ∧ slice b 96 4 = leBytes s.rot.counter 4 ∧ slice b 100 4 = leBytes s.rot.svn.toNat 4 ∧
  slice b 104 4 = leBytes s.boot.startCount.toNat 4 ∧ slice b 128 48 = digestBytes Config.bootRomDigest ∧
  (∀ n < 8, mask / 2 ^ n % 2 = 0 → slice b (320 + 64 * n) 64 = zeros 64)

/-- ATTEST_REPORT_SIGNED, R499: the oldest report leaves the queue, is posted to its buffer with the alias signatures after it, and its descriptor completes with
result 9,072. With an empty queue nothing changes. -/
def reportSigned : Prop := ∀ (s : State), s.aon = true →
  (s.rot.queue = [] → Runs .attestReportSigned s s) ∧
  (∀ a l, s.rot.queue = a :: l → Runs .attestReportSigned s
    (completeOk (sendHost { s with rot := { s.rot with queue := l } } a.desc.port a.addr 4
      (a.report ++ layerSign (aliasNow s) a.report)) a.desc 9072)) ∧
  (∀ a ∈ s.rot.queue, (layerSign (aliasNow s) a.report).length = 8240)

/-- DEBUG_UNLOCK, R501 to R503, R295: after three failed checks E_STATE; a token is fetched, and one that fails is counted and refused with E_AUTH; one that passes opens the scopes it names, and
scope 1 erases the alias keys. Either way ROT_NONCE is new. -/
def debugUnlocks : Prop := ∀ (p : NPort) (r : RingId) (d : Desc) (s : State), Takes s p r 0x63 d →
  let u := settleRing s p r
  let ref : DescRef := ⟨p, r, d.k⟩
  let v := newNonce (dropFetch u (.desc ref))
  ((arg d 0).toNat % 64 ≠ 0 → Runs (.debugUnlock p r) s (reject u ⟨p, r, d.k⟩ eAlign 1 0)) ∧
  ((arg d 0).toNat % 64 = 0 →
    (s.rot.failed = 3 → Runs (.debugUnlock p r) s (reject u ⟨p, r, d.k⟩ eState 2 0)) ∧
    (s.rot.failed ≠ 3 →
      (bits (arg d 1) 15 0 ≠ 8784 → Runs (.debugUnlock p r) s (reject u ⟨p, r, d.k⟩ eRange 3 0)) ∧
      (bits (arg d 1) 15 0 = 8784 →
        (fetchOf u (.desc ref) = none → Runs (.debugUnlock p r) s (beginFetch u (.desc ref) p (arg d 0) 8784)) ∧
        (∀ b, Fetched u (.desc ref) (.data b []) → let scope := field b 5 1
          Runs (.debugUnlock p r) s (if tokenOk u 1 b = true
            then completeOk { v with rot := { v.rot with
              jtag := s.rot.jtag || decide (scope % 2 = 1), scan := s.rot.scan || decide (2 ≤ scope),
              ready := s.rot.ready && decide (scope < 2) } } ref 0
            else reject { v with rot := { v.rot with failed := s.rot.failed + 1 } } ref eAuth 4 0))))) ∧
  newNonce u = { u with rot := { u.rot with nonce := Config.random u.rot.draws, draws := u.rot.draws + 1 } }

/-- R502: what a token must be: its magic, its kind, its reserved bytes zero, a scope of 1 to 3 for kind 1 and 0 for kind 2, this device's id, the current nonce,
and keys and signatures that verify. -/
def tokenChecks : Prop := ∀ (s : State) (kind : Nat) (b : List Byte), tokenOk s kind b = true ↔
  (field b 0 4 = 0x4B544B59 ∧ field b 4 1 = kind ∧ (∀ x ∈ slice b 6 2, x = 0) ∧ (∀ x ∈ slice b 88 40, x = 0) ∧
   (kind = 1 → 0 < field b 5 1 ∧ field b 5 1 < 4) ∧ (kind ≠ 1 → field b 5 1 = 0) ∧ digestOf (b.drop 8) = deviceId ∧
   field b 56 32 = s.rot.nonce.toNat ∧
   verifies s kind (slice b 128 384) (slice b 512 32) (b.take 544) (slice b 544 384) (slice b 928 7856) ≠ none)

/-- R491: an object verifies exactly when both signatures hold and the keys are those of a slot of its class that is not revoked. -/
def keysVerify : Prop := ∀ (s : State) (c : Nat) (rsa slh msg rsaSig slhSig : List Byte),
  verifies s c rsa slh msg rsaSig slhSig ≠ none ↔ (Config.rsaVerify rsa msg rsaSig = true ∧ Config.slhVerify slh msg slhSig = true ∧
    ∃ k, k < 2 ∧ slotRevoked s c k = false ∧ Config.keyDigest c k = keyDigestOf rsa slh)

/-- JTAG_INSTRUCTION, R503: until unlocked the port answers IDCODE and BYPASS alone, and every other instruction acts as BYPASS. -/
def jtagAnswers : Prop := ∀ s : State, s.aon = true →
  Runs (.jtagInstruction .idcode) s { s with rot := { s.rot with jtagIr := .idcode } } ∧
  Runs (.jtagInstruction .bypass) s { s with rot := { s.rot with jtagIr := .bypass } } ∧
  Runs (.jtagInstruction .boundary) s { s with rot := { s.rot with jtagIr := if s.rot.jtag then .boundary else .bypass } } ∧
  Runs (.jtagInstruction .internal) s { s with rot := { s.rot with jtagIr := if s.rot.scan then .internal else .bypass } }

/-! ## Scrub, repair, checkers and injection -/

/-- PATROL_SCRUB_READ, R276, R277: when the pace has come to the next word of an enabled class, it is read with correction and the pass goes on; a class turned off,
or a place the pace has not come to, reads nothing. -/
def patrolReads : Prop := ∀ (cls : ScrubClass) (s : State), s.aon = true →
  (scrubPeriod s cls = 0 → Runs (.patrolScrubRead cls) s s) ∧
  ((s.time - (scrubAt s cls).begun).toNat * scrubTotal s cls < (scrubAt s cls).pos * scrubPeriod s cls →
    Runs (.patrolScrubRead cls) s s) ∧
  (∀ id w, scrubPeriod s cls ≠ 0 → portsServe s = true →
    (scrubAt s cls).pos * scrubPeriod s cls ≤ (s.time - (scrubAt s cls).begun).toNat * scrubTotal s cls →
    scrubPlace s cls (scrubAt s cls).pos = some (id, w) → outputBusy s id w = false →
    Runs (.patrolScrubRead cls) s (modScrub (readWord s id w).2 cls (scrubNext s cls)))

/-- R266, R272, R273, R277: what reading a word of a memory that is not dead does: a clean word changes nothing; a poisoned one is counted and not rewritten; a
correctable one is delivered and written back corrected, and logged; an uncorrectable one is counted and written back poisoned, once: while its write back is deferred it is only
delivered as poison again. -/
def wordsAreRead : Prop := ∀ (s : State) (id : MemId) (w : Nat), (id = .stack → (stkAt s (eccKey s id w - 5000)).dead = false) →
  let x := rawWord (memAt s id) w
  let key := eccKey s id w
  (syndrome x.1 x.2 = 0 → readWord s id w = ((x.1, false), s)) ∧
  (syndrome x.1 x.2 = 0x5A → readWord s id w =
    ((x.1, true), modEcc s key (fun i => { i with poisonRead := i.poisonRead + 1 }))) ∧
  (∀ k, classify (syndrome x.1 x.2) = .corrected k → readWord s id w = ((corrected x.1 k, false),
    writeBack (noteCorrected s key (logAddr id w) (syndrome x.1 x.2)) id w (corrected x.1 k) (checkOf (corrected x.1 k)))) ∧
  (classify (syndrome x.1 x.2) = .uncorrectable → id = .stack → s.deferred.contains w = true → readWord s id w = ((x.1, true), s)) ∧
  (classify (syndrome x.1 x.2) = .uncorrectable → ¬(id = .stack ∧ s.deferred.contains w = true) → readWord s id w = ((x.1, true),
    writeBack (noteUncorrectable s key (logAddr id w)) id w x.1 (poisonCheck x.1)))

/-- The code, R260 to R266: a clean codeword has syndrome 0; one with a single data bit flipped is corrected to the data it held; a word written poisoned reads
as poison. -/
def codeCorrects : Prop := ∀ (d : W64),
  classify (syndrome d (checkOf d)) = .clean ∧ classify (syndrome d (poisonCheck d)) = .poison ∧
  (∀ k < 64, ∃ j, classify (syndrome (d ^^^ (1#64 <<< k)) (checkOf d)) = .corrected j ∧ corrected (d ^^^ (1#64 <<< k)) j = d)

/-- SCRUB_BEHIND, R277: a pass not ended within its period raises "scrub behind" once, naming the class; before, or with the patrol off, nothing changes. -/
def scrubIsBehind : Prop := ∀ (cls : ScrubClass) (s : State), s.aon = true →
  (scrubPeriod s cls ≠ 0 → scrubPeriod s cls ≤ (s.time - (scrubAt s cls).begun).toNat → (scrubAt s cls).behind = false →
    Runs (.scrubBehind cls) s (raise (modScrub s cls (fun x => { x with behind := true })) { kind := 0x303, detail := scrubNo cls })) ∧
  ((scrubPeriod s cls = 0 ∨ (s.time - (scrubAt s cls).begun).toNat < scrubPeriod s cls ∨ (scrubAt s cls).behind = true) →
    Runs (.scrubBehind cls) s s)

/-- SCRUB_RANGE, R207, R278, R321: a legal range is read word by word with correction, and the counts of corrected, uncorrectable and poisoned words are the detail's
fields; an illegal one is refused with E_ALIGN or E_RANGE, order 7. -/
def rangesAreScrubbed : Prop := ∀ (p : NPort) (r : RingId) (d : Desc) (s : State), Takes s p r 0x28 d →
  let u := settleRing s p r
  let a := (arg d 0).toNat
  let n := bits (arg d 1) 31 0
  (∀ st, stackBad u a n 64 = some st → Runs (.scrubRange p r) s (reject u ⟨p, r, d.k⟩ st 7 0)) ∧
  (stackBad u a n 64 = none → busyStack u a true (n / 64) = true → Runs (.scrubRange p r) s u) ∧
  (stackBad u a n 64 = none → busyStack u a true (n / 64) = false →
    let q := scrubWords u a (n / 8) (0, 0, 0)
    Runs (.scrubRange p r) s (complete q.2 ⟨p, r, d.k⟩ ok
      (BitVec.ofNat 64 (min q.1.1 0xFFFFFF + min q.1.2.1 0xFFFFFF * 2 ^ 24 + min q.1.2.2 0xFFFF * 2 ^ 48)) 0 []))

/-- PPR, R280, R321: a row of an enabled site is taken up and waits for its bank group; a row out of range or of a site that is not there is E_RANGE; a hard repair
while a partition runs E_STATE. -/
def repairsAreTaken : Prop := ∀ (p : NPort) (r : RingId) (d : Desc) (s : State), Takes s p r 0x29 d →
  let u := settleRing s p r
  let x := arg d 0
  let site := bits x 3 0
  ((site ∉ liveSites u ∨ 20480 ≤ bits x 30 16) → Runs (.ppr p r) s (reject u ⟨p, r, d.k⟩ eRange 7 0)) ∧
  (site ∈ liveSites u → bits x 30 16 < 20480 →
    (bitAt x 32 = true → (∃ n ∈ allParts, isRunning u n = true) → Runs (.ppr p r) s (reject u ⟨p, r, d.k⟩ eState 7 0)) ∧
    ((bitAt x 32 = false ∨ ∀ n ∈ allParts, isRunning u n = false) → Runs (.ppr p r) s
      (acceptDesc { u with repairs := u.repairs ++ [⟨⟨p, r, d.k⟩, site * 256 + bits x 11 4, bits x 15 12, bits x 30 16, bitAt x 32⟩] }
        ⟨p, r, d.k⟩)))

/-- PPR_APPLY, R226, R280: with no operation accepted in the bank group its oldest repair is applied and completes with OK, or, without a spare row, completes with
E_NO_RESOURCE and changes nothing else; while an operation is accepted it waits. -/
def repairsAreApplied : Prop := ∀ (site : SiteId) (bg : Fin 256) (s : State), s.aon = true → let u := site.val * 256 + bg.val
  (∀ r, s.repairs.find? (fun r => r.nbu == u) = some r →
    let rest : State := { s with repairs := s.repairs.filter (fun y => y.desc != r.desc) }
    ((nbuAt s u).ops ≠ [] → ∀ b, Runs (.pprApply site bg b) s s) ∧
    ((nbuAt s u).ops = [] → portsServe s = true →
      Runs (.pprApply site bg true) s (completeOk (applyRepair rest r) r.desc 0) ∧
      Runs (.pprApply site bg false) s (complete rest r.desc eNoResource 0 0 []))) ∧
  (s.repairs.find? (fun r => r.nbu == u) = none → ∀ b, Runs (.pprApply site bg b) s s)

/-- CHECKER_TEST, R281: at every second frame boundary the trees exchange roles and the single error's bit moves on through all 72; each decoder that classified wrongly
is reported and acted upon; before that boundary nothing changes. -/
def checkersAreTested : Prop := ∀ (wrong : List Decoder) (s : State), s.aon = true →
  ((s.frames - s.mesh.lastTest).toNat < 2 → Runs (.checkerTest wrong) s s) ∧
  (2 ≤ (s.frames - s.mesh.lastTest).toNat → Runs (.checkerTest wrong) s (wrong.foldl checkerFault
    { s with mesh := { s.mesh with role := !s.mesh.role, bitPos := (s.mesh.bitPos + 1) % 72, lastTest := s.frames } }))

/-- R281: a faulty tree of a seam ring's decoder replaces the ring under R190; of a stack port's, it changes the port to its second decoder, and with that
failed too the site is dead; a core's slice, basket or channel is spared live. -/
def faultyTreesAct : Prop := ∀ s : State,
  (∀ p : PhysId, ∀ second, loseDecoder s (.slice p) second = spareCore s 0x305 p.val ∧
    loseDecoder s (.basket p) second = spareCore s 0x305 p.val ∧ loseDecoder s (.channel p) second = spareCore s 0x305 p.val) ∧
  (∀ n : SiteId, ∀ second, (stkAt (loseDecoder s (.stackPort n) second) n.val).secondDecoder = true ∧
    ((stkAt s n.val).secondDecoder = true → (stkAt (loseDecoder s (.stackPort n) second) n.val).dead = true)) ∧
  (∀ k : Fin 9, ∀ second, k.val ≠ 8 → s.units.ring8 ≠ some k.val → spareRing s = true →
    loseDecoder s (.seamRing k) second = replaceRing s k.val)

/-- FLIP_ARM and FLIP_DONE_CLEAR, R283: without the semaphore E_OWNER, while armed E_STATE; arming checks the address, the mask and the target in that order; done is cleared
by a write of 1, but by none whose arming is refused. -/
def flipsAreArmed : Prop := ∀ (a : Access) (s : State), Open a s → let u := heard s a 0x90001C
  (holdsSem s a.port = false → Runs (.flipArm a 1) s (answer u a eOwner 0)) ∧
  (holdsSem s a.port = true →
    (s.ecct.armed = true → Runs (.flipArm a 1) s (answer u a eState 0)) ∧
    (s.ecct.armed = false →
      Runs (.flipDoneClear a 4) s (answer { u with ecct := { s.ecct with done := false } } a ok 0) ∧
      (flipSize s.ecct.target ≤ bits s.ecct.addr 25 0 → Runs (.flipArm a 1) s (answer u a eRange 0) ∧
        Runs (.flipArm a 5) s (answer u a eRange 0)) ∧
      (bits s.ecct.addr 25 0 < flipSize s.ecct.target →
        (s.ecct.maskLo = 0 → s.ecct.maskHi = 0 → s.ecct.maskChk = 0 → Runs (.flipArm a 1) s (answer u a eRange 0)) ∧
        (¬(s.ecct.maskLo = 0 ∧ s.ecct.maskHi = 0 ∧ s.ecct.maskChk = 0) →
          (flipPermitted s = false → Runs (.flipArm a 1) s (answer u a ePartition 0)) ∧
          (flipPermitted s = true → Runs (.flipArm a 1) s (answer { u with ecct := { s.ecct with armed := true } } a ok 0))))))

/-- SPLIT_RAW_WRITE and SPLIT_RAW_READ, R284: the checks in their order; a raw write stores the data and the check byte as given and no other word changes; a raw read
loads DATA and CHECK from the stored word, without decoding, and logs nothing. -/
def splitsReachTheStack : Prop := ∀ (a : Access) (s : State), Open a s → let u := heard s a 0x900114
  let addr := splitAddr s
  let w := stackWord s addr
  (holdsSem s a.port = false → Runs (.splitRawWrite a 1) s (answer u a eOwner 0)) ∧
  (holdsSem s a.port = true →
    (stackLegal s addr = false → Runs (.splitRawWrite a 1) s (answer u a eRange 0)) ∧
    (stackLegal s addr = true →
      (splitPermitted s addr = false → Runs (.splitRawWrite a 1) s (answer u a ePartition 0)) ∧
      (splitPermitted s addr = true →
        (splitKept s addr = true → Runs (.splitRawWrite a 1) s (answer u a eState 0)) ∧
        (splitKept s addr = false →
          (busyStack s (addr / 64 * 64) false 1 = true → Runs (.splitRawWrite a 1) s (answer u a eBusyRange 0)) ∧
          (busyStack s (addr / 64 * 64) false 1 = false →
            (∃ t, Runs (.splitRawWrite a 1) s t ∧
              t = answer { u with stack := t.stack, ecct := { s.ecct with op := false } } a ok 0 ∧
              rawWord t.stack w = (join32 s.ecct.dataLo s.ecct.dataHi, BitVec.ofNat 8 (bits s.ecct.check 7 0)) ∧
              (∀ v, v ≠ w → rawWord t.stack v = rawWord s.stack v)) ∧
            Runs (.splitRawRead a 3) s (answer { u with ecct := { s.ecct with
              dataLo := lo32 (rawWord s.stack w).1, dataHi := hi32 (rawWord s.stack w).1,
              check := BitVec.ofNat 32 (rawWord s.stack w).2.toNat, op := true } } a ok 0))))))

/-! ## Every step, reset, reports -/

/-- A step with a command in front is the command's effect on the state with the queue's rest. -/
def stepRunsFront : Prop := ∀ (c : Instr) (rest : List Instr) (s : State),
  step { s with pending := c :: rest } = exec c { s with pending := rest }

/-- On an empty queue one tick of the timestamp passes, or, with the block off, nothing (the model's choice, log entry 1). -/
def stepIdles : Prop := ∀ s : State, s.pending = [] →
  (s.aon = true → step s = .next { s with time := s.time + 1 }) ∧ (s.aon = false → step s = .next s)

/-- Every command, in every state, answers a next state, on the same variant and with the same commands waiting. -/
def commandsAnswer : Prop := ∀ (c : Instr) (s : State), ∃ t, exec c s = .next t ∧ t.variant = s.variant ∧ t.pending = s.pending

/-- Whether a command acts while VDD_AON is away. -/
def wakes : Instr → Bool
  | .vddAonUp .. => true
  | .vddAonLoss .. => true
  | _ => false

/-- With VDD_AON away, no command but VDD_AON_UP and VDD_AON_LOSS does anything. -/
def nothingWithoutPower : Prop := ∀ (c : Instr) (s : State), s.aon = false → wakes c = false → Runs c s s

/-- Whether a command can change the applied value of a staged register: a press, or one that resets the device or takes its power (R336, R464). -/
def mayApply : Instr → Bool
  | .foldPress .. => true
  | .foldPressAtBoundary .. => true
  | .swr .. => true
  | .vddAonUp .. => true
  | .vddAonLoss .. => true
  | .deviceResetDelayEnd .. => true
  | .perstNReset .. => true
  | .gafferWatchdog .. => true
  | .clockLost .. => true
  | .mainsReturn .. => true
  | .rideThroughEnd .. => true
  | .pwrSafeReset .. => true
  | _ => false

/-- R336, R338: no other command changes the applied value of a staged register. -/
def onlyPressesApply : Prop := ∀ (c : Instr) (s t : State), mayApply c = false → exec c s = .next t →
  ∀ off, reg t off = reg s off

/-- What a step keeps of the memories: every one stays in canonical form. -/
def memoriesStay : Prop := ∀ s t : State, step s = .next t → memoriesCanonical s → memoriesCanonical t

/-- What a step keeps of the settings: applied settings and the fold stay legal. -/
def settingsStay : Prop := ∀ s t : State, step s = .next t → settingsLegal s ∧ foldLegal s → settingsLegal t ∧ foldLegal t

/-- HUP_EN and HUP_TEST are not both high (R419). -/
abbrev packLinesApart (s : State) : Prop := ¬(s.hup.en = true ∧ s.hup.test = true)

/-- R419: no step drives both high. -/
def packLinesStay : Prop := ∀ s t : State, step s = .next t → packLinesApart s → packLinesApart t

/-- How a step moves the thermometer of ROT_SVN (R494): only a commit changes it, and never down. -/
def counterNeverFalls : Prop := ∀ s t : State, step s = .next t → s.rot.counter ≤ t.rot.counter ∧
  (s.rot.counter < t.rot.counter → ∃ p r rest, s.pending = .svnCommit p r :: rest)

/-- The counter of fuses and the running image's svn are at most 64 (R494). -/
abbrev fusesLegal (s : State) : Prop := s.rot.counter ≤ 64 ∧ s.rot.svn.toNat ≤ 64

/-- R494: every step keeps the counter and the running svn at 64 or less, as they are right after reset. -/
def fusesStayLegal : Prop := fusesLegal State.reset ∧ ∀ s t : State, step s = .next t → fusesLegal s → fusesLegal t

/-- R494: ROT_SVN reports the counter. -/
def fusesReported : Prop := ∀ (s : State) (sel : Nat), fusesLegal s → bits (regRead s sel 0xD00004).1 6 0 = s.rot.counter

/-- Whether a command can make the fold's freezing undone: one that resets the device or takes its power (R339, R464). -/
def mayThaw : Instr → Bool
  | .vddAonUp .. => true
  | .vddAonLoss .. => true
  | .deviceResetDelayEnd .. => true
  | .perstNReset .. => true
  | .gafferWatchdog .. => true
  | .clockLost .. => true
  | .mainsReturn .. => true
  | .rideThroughEnd .. => true
  | .pwrSafeReset .. => true
  | _ => false

/-- R339: what FOLD_FREEZE froze stays frozen until a device reset. -/
def freezingStays : Prop := ∀ (c : Instr) (s t : State), mayThaw c = false → exec c s = .next t →
  s.fold.frozen = true → t.fold.frozen = true

/-- Whether a command can release ALERT_N: a write that may be of DARN_ALERT, or one with the power gone (R486). -/
def maySilence : Instr → Bool
  | .alertPendingClear .. => true
  | .swr .. => true
  | .mgtWrite .. => true
  | .vddAonUp .. => true
  | .vddAonLoss .. => true
  | _ => false

/-- R486: ALERT_N stays asserted under every other command. -/
def alertsStay : Prop := ∀ (c : Instr) (s t : State), maySilence c = false → exec c s = .next t →
  s.darn.pending = true → t.darn.pending = true

/-- Right after VDD_AON comes up: the timestamp is zero (R7), the boot ROM has not run, nothing is staged, held, mapped or pending, every
port is down, every partition is empty and maps no cluster, and every applied setting is at its register's reset value. -/
def resetState : Prop :=
  let s := State.reset
  s.time = 0 ∧ s.aon = true ∧ s.boot.phase = 0 ∧ s.pending = [] ∧ s.sem.held = false ∧ s.fold.words = [] ∧ s.fold.frozen = false ∧
  s.darn.seq = 0 ∧ s.darn.records = 0 ∧ s.darn.pending = false ∧ s.rot.counter = 0 ∧ s.rot.jtag = false ∧ s.rot.scan = false ∧
  (∀ l, (lkAt s l).phase = .down) ∧ (∀ p r, (ringAt s p r).cfg = 0) ∧ (∀ n, (partAt s n).run = none ∧ (partAt s n).image = none) ∧
  (∀ n ∈ allParts, clustersOf s n = 0) ∧ (∀ m : MemId, ∀ w, rawWord (memAt s m) w = (0, 0)) ∧
  reg s 0x800000 = 256 ∧ reg s 0x800F00 = 24 * 65536 + 60 ∧ reg s 0x800F04 = 16 ∧ reg s 0x300108 = 40

/-- The invariants hold right after reset. -/
def resetMeets : Prop := memoriesCanonical State.reset ∧ settingsLegal State.reset ∧ foldLegal State.reset ∧ packLinesApart State.reset

/-- R479: the record that a report gives, with a sequence number and a head. -/
def recordOf (s : State) (r : Report) : Rec :=
  { kind := BitVec.ofNat 16 r.kind, flags := if alerting r.kind then 4 else 0, status := r.status, seq := s.darn.seq + 1,
    time := s.time, unit := BitVec.ofNat 8 r.unit, part := match r.part with | some n => partNo n | none => 0xF,
    station := match r.station with | some n => BitVec.ofNat 16 n | none => 0xFFFF, id := BitVec.ofNat 32 r.id,
    count := BitVec.ofNat 16 (min r.count 65535), detail := BitVec.ofNat 32 r.detail }

/-- R479, R482, R486: the first report of its kind and source in a frame below rate_max is written to the local log at the head with the next
sequence number, is counted, and asserts ALERT_N when its kind is alerting; nothing changes but the Darner's state, the error rings and
the ports. -/
def reportsAreWritten : Prop := ∀ (s : State) (r : Report), s.darn.storm = false →
  s.darn.sources.any (fun c => sameSource c r) = false → s.darn.frameRecs < rateMax s →
  let t := raise s r
  tget {} t.darn.log s.darn.head.toNat = recordOf s r ∧ (∀ k, k ≠ s.darn.head.toNat → tget {} t.darn.log k = tget {} s.darn.log k) ∧
  t.darn.head = s.darn.head + 1 ∧ t.darn.seq = s.darn.seq + 1 ∧ t.darn.records = s.darn.records + 1 ∧
  t.darn.pending = (s.darn.pending || alerting r.kind) ∧ t.darn.frameRecs = s.darn.frameRecs + 1 ∧ t.darn.coalesced = s.darn.coalesced ∧
  t = { s with darn := t.darn, errRings := t.errRings, nal := t.nal }

/-- R483: a further report of a kind and source seen in the frame, outside a storm, is counted and writes no record. -/
def reportsCoalesce : Prop := ∀ (s : State) (r : Report), s.darn.storm = false →
  s.darn.sources.any (fun c => sameSource c r) = true →
  let t := raise s r
  t.darn.coalesced = s.darn.coalesced + 1 ∧ t.darn.log = s.darn.log ∧ t.darn.head = s.darn.head ∧ t.darn.seq = s.darn.seq ∧
  t.darn.pending = s.darn.pending ∧ t = { s with darn := t.darn }

/-- R484: a new source's report at rate_max begins the storm state, which writes one "error storm begun" record and counts the frame; in a
storm a report that is not alerting writes no record. -/
def stormsBegin : Prop := ∀ (s : State) (r : Report),
  (s.darn.storm = false → s.darn.sources.any (fun c => sameSource c r) = false → rateMax s ≤ s.darn.frameRecs →
    alerting r.kind = false → (raise s r).darn.storm = true ∧ (raise s r).darn.stormFrames = s.darn.stormFrames + 1 ∧
      (tget {} (raise s r).darn.log s.darn.head.toNat).kind = 0xB02 ∧ (raise s r).darn.records = s.darn.records + 1) ∧
  (s.darn.storm = true → alerting r.kind = false → (raise s r).darn.log = s.darn.log ∧ (raise s r).darn.seq = s.darn.seq ∧
    (raise s r).darn.records = s.darn.records ∧ raise s r = { s with darn := (raise s r).darn })

/-- What a report may change: the Darner's state, the error rings and the ports. -/
def reported (s t : State) : State := { s with darn := t.darn, errRings := t.errRings, nal := t.nal }

/-- The frame of every command: `t`, but with every part of the state the command does not name as it was in `s`. The commands that can
reset the device or start it again may change all but the variant and the queue. -/
def onlyNamed (s t : State) : Instr → State
  | .frameBoundary .. =>
    { reported s t with
      boot := t.boot, cores := t.cores, crossings := t.crossings, ecc := t.ecc, fetches := t.fetches, frames := t.frames,
      kv := t.kv, kvFull := t.kvFull, mesh := t.mesh, mya := t.mya, parts := t.parts, power := t.power, rings := t.rings,
      sparings := t.sparings, stk := t.stk, therm := t.therm, time := t.time, units := t.units, xfers := t.xfers }
  | .retuneMeasurement .. => { reported s t with crossings := t.crossings }
  | .partLoad .. =>
    { reported s t with
      deferred := t.deferred, ecc := t.ecc, ecct := t.ecct, fetches := t.fetches, nextXfer := t.nextXfer, parts := t.parts,
      rings := t.rings, stack := t.stack }
  | .imageLoadComplete .. =>
    { reported s t with
      cores := t.cores, deferred := t.deferred, ecc := t.ecc, ecct := t.ecct, fetches := t.fetches, nbus := t.nbus,
      nextXfer := t.nextXfer, parts := t.parts, rings := t.rings, slices := t.slices, stack := t.stack }
  | .queueRefill .. => { reported s t with cores := t.cores, ecc := t.ecc, ecct := t.ecct, slices := t.slices }
  | .instructionRetire .. => { reported s t with cores := t.cores }
  | .clockGating .. => { s with cores := t.cores, power := t.power }
  | .coreWatchdog .. | .nop .. | .loop .. | .bar .. | .endProg .. | .seqLi .. | .seqLui .. | .seqAlu .. | .seqSetb ..
  | .seqBr .. | .seqRdts .. | .movSend .. | .movRecv .. | .lay .. | .clr .. | .rnsLay .. | .shadowAudit ..
  | .slipLimit .. => { reported s t with cores := t.cores, parts := t.parts }
  | .seqLd .. | .seqSt .. | .fetLoad .. | .fetStore .. | .ndlLv .. | .rnsLd .. =>
    { reported s t with
      baskets := t.baskets, cores := t.cores, ecc := t.ecc, ecct := t.ecct, free := t.free, parts := t.parts,
      slices := t.slices }
  | .fetFill .. =>
    { reported s t with
      baskets := t.baskets, cores := t.cores, ecct := t.ecct, free := t.free, parts := t.parts, slices := t.slices }
  | .mm .. =>
    { reported s t with
      baskets := t.baskets, boot := t.boot, cores := t.cores, ecc := t.ecc, ecct := t.ecct, free := t.free, parts := t.parts,
      slices := t.slices, sparings := t.sparings, units := t.units }
  | .drn .. =>
    { reported s t with
      baskets := t.baskets, cores := t.cores, ecct := t.ecct, free := t.free, parts := t.parts, rot := t.rot,
      slices := t.slices }
  | .gdrv .. | .ndlDrn .. | .rnsSt .. =>
    { reported s t with
      baskets := t.baskets, cores := t.cores, ecc := t.ecc, ecct := t.ecct, free := t.free, parts := t.parts, rot := t.rot,
      slices := t.slices }
  | .ndlMv .. =>
    { reported s t with
      boot := t.boot, cores := t.cores, ecc := t.ecc, ecct := t.ecct, free := t.free, parts := t.parts, slices := t.slices,
      sparings := t.sparings, units := t.units }
  | .rnsVectorOp .. =>
    { reported s t with
      boot := t.boot, cores := t.cores, free := t.free, parts := t.parts, sparings := t.sparings, units := t.units }
  | .rnsRowOp .. =>
    { reported s t with
      baskets := t.baskets, boot := t.boot, cores := t.cores, ecc := t.ecc, ecct := t.ecct, free := t.free, parts := t.parts,
      rot := t.rot, slices := t.slices, sparings := t.sparings, units := t.units }
  | .seamRingReplaced .. => { reported s t with boot := t.boot, units := t.units }
  | .uncorrectableRingWord .. =>
    { reported s t with boot := t.boot, ecc := t.ecc, free := t.free, mesh := t.mesh, units := t.units }
  | .liveCoreSparing .. => { reported s t with boot := t.boot, cores := t.cores, sparings := t.sparings, units := t.units }
  | .coreSparingComplete .. =>
    { reported s t with
      baskets := t.baskets, cores := t.cores, ecc := t.ecc, ecct := t.ecct, free := t.free, parts := t.parts, rot := t.rot,
      slices := t.slices, sparings := t.sparings, units := t.units }
  | .tackMessageLost .. | .tackRequestTimeout .. => { reported s t with mesh := t.mesh }
  | .tackSeamChannelFailed .. => { reported s t with cores := t.cores, mesh := t.mesh, parts := t.parts, units := t.units }
  | .refreshDue .. | .forcedRefresh .. => { s with banks := t.banks, stk := t.stk }
  | .eventSummaryPoll .. =>
    { reported s t with
      banks := t.banks, deferred := t.deferred, ecc := t.ecc, ecct := t.ecct, free := t.free, nbus := t.nbus,
      parts := t.parts, stack := t.stack }
  | .nbuOpAccept .. =>
    { reported s t with
      banks := t.banks, commits := t.commits, cores := t.cores, decodes := t.decodes, deferred := t.deferred, ecc := t.ecc,
      ecct := t.ecct, fetches := t.fetches, free := t.free, invokes := t.invokes, kv := t.kv, kvJobs := t.kvJobs,
      nbus := t.nbus, parts := t.parts, rings := t.rings, slices := t.slices, stack := t.stack }
  | .nbuOpCompletion .. =>
    { reported s t with
      banks := t.banks, commits := t.commits, cores := t.cores, decodes := t.decodes, deferred := t.deferred, ecc := t.ecc,
      ecct := t.ecct, fetches := t.fetches, free := t.free, hamper := t.hamper, hemOut := t.hemOut, invokes := t.invokes,
      kv := t.kv, kvJobs := t.kvJobs, nbus := t.nbus, parts := t.parts, rings := t.rings, stack := t.stack }
  | .nbuOpTimeout .. | .nbuAbort .. =>
    { reported s t with
      banks := t.banks, commits := t.commits, cores := t.cores, deferred := t.deferred, ecc := t.ecc, ecct := t.ecct,
      fetches := t.fetches, free := t.free, kv := t.kv, kvJobs := t.kvJobs, nbus := t.nbus, parts := t.parts,
      rings := t.rings, stack := t.stack }
  | .nbuFence .. =>
    { reported s t with
      banks := t.banks, boot := t.boot, commits := t.commits, cores := t.cores, deferred := t.deferred, ecc := t.ecc,
      ecct := t.ecct, fetches := t.fetches, free := t.free, kv := t.kv, kvJobs := t.kvJobs, nbus := t.nbus, parts := t.parts,
      rings := t.rings, stack := t.stack }
  | .nbuInvocationStart .. =>
    { reported s t with
      banks := t.banks, cores := t.cores, deferred := t.deferred, ecc := t.ecc, ecct := t.ecct, fetches := t.fetches,
      free := t.free, hamper := t.hamper, invokes := t.invokes, kv := t.kv, kvJobs := t.kvJobs, nbus := t.nbus,
      parts := t.parts, rings := t.rings, stack := t.stack }
  | .nbuInvocationEnd .. =>
    { reported s t with
      deferred := t.deferred, ecc := t.ecc, ecct := t.ecct, free := t.free, hamper := t.hamper, hemOut := t.hemOut,
      invokes := t.invokes, parts := t.parts, stack := t.stack }
  | .ordinaryAccess .. =>
    { reported s t with
      cores := t.cores, deferred := t.deferred, ecc := t.ecc, ecct := t.ecct, nbus := t.nbus, parts := t.parts,
      stack := t.stack }
  | .interleaveService .. =>
    { reported s t with
      banks := t.banks, deferred := t.deferred, ecc := t.ecc, ecct := t.ecct, nbus := t.nbus, stack := t.stack, stk := t.stk }
  | .kvAppend .. | .kvAppendLogRoom .. =>
    { reported s t with
      appends := t.appends, banks := t.banks, commits := t.commits, cores := t.cores, deferred := t.deferred, ecc := t.ecc,
      ecct := t.ecct, fetches := t.fetches, free := t.free, hamper := t.hamper, held := t.held, kv := t.kv,
      kvFull := t.kvFull, kvJobs := t.kvJobs, nbus := t.nbus, parts := t.parts, rings := t.rings, rot := t.rot,
      stack := t.stack }
  | .decodeInvocation .. =>
    { reported s t with
      appends := t.appends, banks := t.banks, commits := t.commits, cores := t.cores, decodes := t.decodes,
      deferred := t.deferred, ecc := t.ecc, ecct := t.ecct, fetches := t.fetches, free := t.free, hamper := t.hamper,
      held := t.held, hemOut := t.hemOut, invokes := t.invokes, kv := t.kv, kvFull := t.kvFull, kvJobs := t.kvJobs,
      nbus := t.nbus, parts := t.parts, rings := t.rings, rot := t.rot, slices := t.slices, stack := t.stack }
  | .kvCommit .. | .kvRelease .. =>
    { reported s t with
      banks := t.banks, commits := t.commits, cores := t.cores, deferred := t.deferred, ecc := t.ecc, ecct := t.ecct,
      fetches := t.fetches, free := t.free, kv := t.kv, kvJobs := t.kvJobs, nbus := t.nbus, nextXfer := t.nextXfer,
      parts := t.parts, rings := t.rings, stack := t.stack }
  | .patrolScrubRead .. =>
    { reported s t with
      baskets := t.baskets, deferred := t.deferred, ecc := t.ecc, ecct := t.ecct, hamper := t.hamper, scrub := t.scrub,
      slices := t.slices, stack := t.stack }
  | .scrubBehind .. => { reported s t with scrub := t.scrub }
  | .scrubRange .. | .paramDefine .. =>
    { reported s t with
      deferred := t.deferred, ecc := t.ecc, ecct := t.ecct, fetches := t.fetches, rings := t.rings, stack := t.stack }
  | .ppr .. => { s with fetches := t.fetches, nal := t.nal, repairs := t.repairs, rings := t.rings }
  | .pprApply .. =>
    { reported s t with
      boot := t.boot, deferred := t.deferred, ecc := t.ecc, ecct := t.ecct, fetches := t.fetches, repairs := t.repairs,
      rings := t.rings, stack := t.stack }
  | .checkerTest .. =>
    { reported s t with
      banks := t.banks, baskets := t.baskets, boot := t.boot, commits := t.commits, cores := t.cores, deferred := t.deferred,
      ecc := t.ecc, ecct := t.ecct, fetches := t.fetches, free := t.free, kv := t.kv, kvJobs := t.kvJobs, mesh := t.mesh,
      mya := t.mya, nbus := t.nbus, parts := t.parts, rings := t.rings, slices := t.slices, sparings := t.sparings,
      stack := t.stack, stk := t.stk, units := t.units, xfers := t.xfers }
  | .flipArm .. | .flipDoneClear .. => { s with ecct := t.ecct, nal := t.nal }
  | .splitRawWrite .. | .splitRawRead .. => { s with ecct := t.ecct, nal := t.nal, stack := t.stack }
  | .transactionFlit .. | .nullFlit .. | .capAck .. | .spare .. | .spareAck .. =>
    { reported s t with fetches := t.fetches, mya := t.mya, rings := t.rings, xfers := t.xfers }
  | .nakRepeat .. | .trainingComplete .. | .trainingRetry .. => { s with mya := t.mya, nal := t.nal }
  | .replayTimeout .. | .laneFailed .. | .creditStall .. | .laneSubstitution .. => { reported s t with mya := t.mya }
  | .cap .. | .down .. | .portDown .. | .nalsonRetrainRequest .. | .nalsonDisable .. | .myarnLaneFail ..
  | .flitTransmit .. =>
    { reported s t with
      cores := t.cores, fetches := t.fetches, mya := t.mya, parts := t.parts, rings := t.rings, xfers := t.xfers }
  | .retrain .. => { reported s t with fetches := t.fetches, free := t.free, mya := t.mya, rings := t.rings, xfers := t.xfers }
  | .cpld .. =>
    { s with
      cores := t.cores, fetches := t.fetches, mya := t.mya, nal := t.nal, parts := t.parts, rings := t.rings,
      xfers := t.xfers }
  | .mrdTimeout .. =>
    { s with cores := t.cores, fetches := t.fetches, nal := t.nal, parts := t.parts, rings := t.rings, xfers := t.xfers }
  | .tagRetireExpiry .. => { s with nal := t.nal }
  | .dbl .. => { reported s t with rings := t.rings }
  | .srd .. => { s with mesh := t.mesh, nal := t.nal, sem := t.sem }
  | .swr .. =>
    { reported s t with
      bars := t.bars, baskets := t.baskets, boot := t.boot, cores := t.cores, deferred := t.deferred, ecct := t.ecct,
      fetches := t.fetches, fold := t.fold, hamper := t.hamper, hup := t.hup, mya := t.mya, nbus := t.nbus,
      nextXfer := t.nextXfer, parts := t.parts, power := t.power, rings := t.rings, scrub := t.scrub, sem := t.sem,
      slices := t.slices, stack := t.stack, staged := t.staged, therm := t.therm, xfers := t.xfers }
  | .mgtRead .. => { s with mesh := t.mesh, mgmt := t.mgmt, mgmtOut := t.mgmtOut }
  | .mgtWrite .. => { s with darn := t.darn, mgmt := t.mgmt, mgmtOut := t.mgmtOut }
  | .ringEnable .. | .ringDisable .. => { s with nal := t.nal, rings := t.rings }
  | .errorRingEnable .. | .errorRingDisable .. => { s with errRings := t.errRings, nal := t.nal }
  | .nopDescriptor .. | .lwFetch .. | .certRead .. => { s with fetches := t.fetches, nal := t.nal, rings := t.rings }
  | .partRun .. =>
    { reported s t with
      deferred := t.deferred, ecc := t.ecc, ecct := t.ecct, fetches := t.fetches, nextXfer := t.nextXfer, parts := t.parts,
      power := t.power, rings := t.rings, slices := t.slices, stack := t.stack, units := t.units }
  | .runStart .. =>
    { reported s t with
      appends := t.appends, bars := t.bars, baskets := t.baskets, cores := t.cores, deferred := t.deferred, ecc := t.ecc,
      ecct := t.ecct, fetches := t.fetches, free := t.free, held := t.held, invokes := t.invokes, mya := t.mya,
      nextXfer := t.nextXfer, parts := t.parts, power := t.power, received := t.received, rings := t.rings, sent := t.sent,
      stack := t.stack, xfers := t.xfers }
  | .runEnd .. =>
    { reported s t with
      appends := t.appends, banks := t.banks, commits := t.commits, cores := t.cores, decodes := t.decodes,
      deferred := t.deferred, ecc := t.ecc, ecct := t.ecct, fetches := t.fetches, free := t.free, hemOut := t.hemOut,
      invokes := t.invokes, kv := t.kv, kvJobs := t.kvJobs, nbus := t.nbus, parts := t.parts, rings := t.rings, rot := t.rot,
      stack := t.stack, xfers := t.xfers }
  | .partStop .. | .partReset .. =>
    { s with cores := t.cores, fetches := t.fetches, nal := t.nal, parts := t.parts, rings := t.rings }
  | .partitionResetComplete .. =>
    { reported s t with
      appends := t.appends, banks := t.banks, bars := t.bars, baskets := t.baskets, commits := t.commits, cores := t.cores,
      decodes := t.decodes, deferred := t.deferred, ecc := t.ecc, ecct := t.ecct, fetches := t.fetches, free := t.free,
      held := t.held, hemOut := t.hemOut, invokes := t.invokes, kv := t.kv, kvJobs := t.kvJobs, mya := t.mya, nbus := t.nbus,
      parts := t.parts, received := t.received, rings := t.rings, sent := t.sent, slices := t.slices, stack := t.stack,
      xfers := t.xfers }
  | .copyIn .. | .copyOut .. =>
    { s with fetches := t.fetches, nal := t.nal, nextXfer := t.nextXfer, rings := t.rings, xfers := t.xfers }
  | .paramFreeze .. | .paramFlip .. =>
    { reported s t with
      deferred := t.deferred, ecc := t.ecc, ecct := t.ecct, fetches := t.fetches, nextXfer := t.nextXfer, rings := t.rings,
      stack := t.stack }
  | .gradFetch .. =>
    { reported s t with
      deferred := t.deferred, ecc := t.ecc, ecct := t.ecct, fetches := t.fetches, nextXfer := t.nextXfer, rings := t.rings,
      stack := t.stack, xfers := t.xfers }
  | .nbuOp .. =>
    { reported s t with
      banks := t.banks, cores := t.cores, deferred := t.deferred, ecc := t.ecc, ecct := t.ecct, fetches := t.fetches,
      free := t.free, kv := t.kv, kvJobs := t.kvJobs, nbus := t.nbus, nextXfer := t.nextXfer, parts := t.parts,
      rings := t.rings, stack := t.stack }
  | .semaphoreClaim .. => { s with nal := t.nal, sem := t.sem }
  | .semaphoreRelease .. | .semaphoreBreak .. => { reported s t with fold := t.fold, rings := t.rings, sem := t.sem }
  | .leaseExpiry .. => { s with sem := t.sem }
  | .foldWrite .. | .foldFreeze .. | .foldDiscard .. => { s with fold := t.fold, nal := t.nal }
  | .foldCheck .. => { s with fold := t.fold, nal := t.nal, staged := t.staged }
  | .foldPress .. | .foldPressAtBoundary .. =>
    { reported s t with
      bars := t.bars, baskets := t.baskets, cores := t.cores, deferred := t.deferred, ecct := t.ecct, fetches := t.fetches,
      fold := t.fold, hamper := t.hamper, mya := t.mya, nbus := t.nbus, parts := t.parts, power := t.power, rings := t.rings,
      scrub := t.scrub, slices := t.slices, stack := t.stack, staged := t.staged, xfers := t.xfers }
  | .sdata .. =>
    { reported s t with
      cores := t.cores, ecct := t.ecct, free := t.free, hamper := t.hamper, held := t.held, mya := t.mya, parts := t.parts,
      received := t.received, stack := t.stack }
  | .swrite .. | .announce .. | .announceHoldExpiry .. =>
    { reported s t with
      cores := t.cores, ecct := t.ecct, free := t.free, held := t.held, mya := t.mya, parts := t.parts,
      received := t.received, stack := t.stack }
  | .myaWrite .. =>
    { s with fetches := t.fetches, nal := t.nal, nextXfer := t.nextXfer, rings := t.rings, sent := t.sent, xfers := t.xfers }
  | .myaAnnounce .. =>
    { s with fetches := t.fetches, mya := t.mya, nal := t.nal, nextXfer := t.nextXfer, rings := t.rings, xfers := t.xfers }
  | .myaStreamClear .. =>
    { reported s t with
      cores := t.cores, ecct := t.ecct, fetches := t.fetches, free := t.free, held := t.held, mya := t.mya, parts := t.parts,
      received := t.received, rings := t.rings, sent := t.sent, stack := t.stack }
  | .barrierArrival .. => { reported s t with bars := t.bars, cores := t.cores, mesh := t.mesh, mya := t.mya, parts := t.parts }
  | .arrive .. | .release .. => { reported s t with bars := t.bars, cores := t.cores, mesh := t.mesh, mya := t.mya }
  | .barrierTimeout .. => { reported s t with bars := t.bars, cores := t.cores, parts := t.parts }
  | .lendingCompute .. | .budgetSelectAccept .. | .droop .. | .droopHoldExpiry .. | .overCurrentClear .. =>
    { s with power := t.power }
  | .avsReadback .. | .currentTelemetryCheck .. | .overCurrent .. => { reported s t with power := t.power }
  | .trimRegulatorFail .. =>
    { reported s t with boot := t.boot, cores := t.cores, power := t.power, sparings := t.sparings, units := t.units }
  | .headerStage .. => { s with baskets := t.baskets, cores := t.cores, ecct := t.ecct, power := t.power }
  | .headerStageForced .. => { reported s t with baskets := t.baskets, cores := t.cores, ecct := t.ecct, power := t.power }
  | .thermalSample .. =>
    { reported s t with boot := t.boot, cores := t.cores, parts := t.parts, power := t.power, therm := t.therm }
  | .sensorFlag .. | .fanFailed .. | .inletRead .. => { reported s t with therm := t.therm }
  | .sensorFlagClear .. | .fanDutyUpdate .. => { s with therm := t.therm }
  | .thermalHaltRelease .. => { s with parts := t.parts, power := t.power, therm := t.therm }
  | .thermtrip .. => { s with boot := t.boot, therm := t.therm }
  | .tachCheck .. | .airflowSecond .. => { reported s t with power := t.power, therm := t.therm }
  | .airflowCapUpdate .. => { reported s t with free := t.free, power := t.power, therm := t.therm }
  | .airflowLostExit .. => { s with power := t.power, therm := t.therm }
  | .marginReview .. => { reported s t with boot := t.boot, hup := t.hup, power := t.power, therm := t.therm }
  | .reviewNow .. => { s with nal := t.nal, therm := t.therm }
  | .packAuthentication .. => { reported s t with hup := t.hup, rot := t.rot }
  | .packChallengeResponse .. | .packPoll .. | .packTest .. | .windowRecompute .. => { reported s t with hup := t.hup }
  | .packTestEnd .. => { reported s t with free := t.free, hup := t.hup }
  | .testNow .. => { s with hup := t.hup, nal := t.nal }
  | .packCounterUpdate .. => { s with hup := t.hup }
  | .powerLossAccept .. => { reported s t with hup := t.hup, pins := t.pins, power := t.power }
  | .mainsReturn .. | .rideThroughEnd .. | .pwrSafeReset .. | .vddAonUp .. | .perstNReset .. | .gafferWatchdog ..
  | .clockLost .. | .vddAonLoss .. | .deviceResetDelayEnd .. => { t with variant := s.variant, pending := s.pending }
  | .railOutOfWindow .. => { reported s t with hup := t.hup, power := t.power }
  | .powerGood .. =>
    { reported s t with
      boot := t.boot, crossings := t.crossings, free := t.free, fwUpdate := t.fwUpdate, mya := t.mya, nbus := t.nbus,
      pins := t.pins, power := t.power, rot := t.rot, scrub := t.scrub, stk := t.stk, therm := t.therm, units := t.units }
  | .perstNFall .. =>
    { reported s t with
      cores := t.cores, fetches := t.fetches, mya := t.mya, parts := t.parts, pins := t.pins, rings := t.rings,
      xfers := t.xfers }
  | .lifelineNotice .. => { reported s t with boot := t.boot }
  | .lifeGo .. => { s with boot := t.boot, fetches := t.fetches, nal := t.nal, nextXfer := t.nextXfer }
  | .lifelineLoadComplete .. =>
    { reported s t with
      boot := t.boot, fetches := t.fetches, fwVersion := t.fwVersion, moduleId := t.moduleId, nextXfer := t.nextXfer,
      rot := t.rot, therm := t.therm }
  | .fwUpdate .. =>
    { s with
      boot := t.boot, fetches := t.fetches, fwUpdate := t.fwUpdate, nal := t.nal, nextXfer := t.nextXfer, rings := t.rings }
  | .defectClear .. =>
    { s with boot := t.boot, fetches := t.fetches, nal := t.nal, nextXfer := t.nextXfer, rings := t.rings, rot := t.rot }
  | .hemReset .. =>
    { reported s t with
      banks := t.banks, commits := t.commits, cores := t.cores, deferred := t.deferred, ecc := t.ecc, ecct := t.ecct,
      fetches := t.fetches, free := t.free, hemReset := t.hemReset, kv := t.kv, kvJobs := t.kvJobs, mya := t.mya,
      nbus := t.nbus, parts := t.parts, rings := t.rings, stack := t.stack, xfers := t.xfers }
  | .hemResetResume .. =>
    { s with cores := t.cores, fetches := t.fetches, hemReset := t.hemReset, nal := t.nal, parts := t.parts, rings := t.rings }
  | .deviceReset .. => { s with devReset := t.devReset, fetches := t.fetches, nal := t.nal, rings := t.rings }
  | .pllRelock .. =>
    { reported s t with
      banks := t.banks, commits := t.commits, cores := t.cores, deferred := t.deferred, ecc := t.ecc, ecct := t.ecct,
      fetches := t.fetches, free := t.free, kv := t.kv, kvJobs := t.kvJobs, mya := t.mya, nbus := t.nbus, parts := t.parts,
      pllLost := t.pllLost, rings := t.rings, stack := t.stack }
  | .alertPendingClear .. => { s with darn := t.darn, nal := t.nal }
  | .attest .. | .attestReportSigned .. | .svnCommit .. =>
    { s with fetches := t.fetches, nal := t.nal, rings := t.rings, rot := t.rot }
  | .debugUnlock .. => { s with fetches := t.fetches, nal := t.nal, nextXfer := t.nextXfer, rings := t.rings, rot := t.rot }
  | .partitionCycle .. =>
    { reported s t with
      baskets := t.baskets, cores := t.cores, ecc := t.ecc, ecct := t.ecct, hamper := t.hamper, mesh := t.mesh,
      parts := t.parts, slices := t.slices }
  | .mangleTransfer .. =>
    { reported s t with
      cores := t.cores, deferred := t.deferred, ecc := t.ecc, ecct := t.ecct, fetches := t.fetches, hamper := t.hamper,
      mya := t.mya, parts := t.parts, rings := t.rings, rot := t.rot, sent := t.sent, stack := t.stack, xfers := t.xfers }
  | .perstNRise .. => { s with mya := t.mya, nal := t.nal, pins := t.pins }
  | .oscillatorBackInRange .. =>
    { reported s t with
      boot := t.boot, fwVersion := t.fwVersion, hup := t.hup, moduleId := t.moduleId, oscLost := t.oscLost, power := t.power,
      rot := t.rot, therm := t.therm }
  | .fwUpdateComplete .. => { reported s t with boot := t.boot, fetches := t.fetches, fwUpdate := t.fwUpdate, rings := t.rings }
  | .jtagInstruction .. => { s with rot := t.rot }

/-- The commands whose effect reaches the memories, or the state of several units: all others name at most ten parts of the state. -/
def reachesFar : Instr → Bool
  | .frameBoundary .. | .partLoad .. | .imageLoadComplete .. | .mm .. | .gdrv .. | .ndlDrn .. | .rnsSt .. | .ndlMv ..
  | .rnsRowOp .. | .coreSparingComplete .. | .eventSummaryPoll .. | .nbuOpAccept .. | .nbuOpCompletion ..
  | .nbuOpTimeout .. | .nbuAbort .. | .nbuFence .. | .nbuInvocationStart .. | .nbuInvocationEnd .. | .ordinaryAccess ..
  | .interleaveService .. | .kvAppend .. | .kvAppendLogRoom .. | .decodeInvocation .. | .kvCommit .. | .kvRelease ..
  | .patrolScrubRead .. | .scrubRange .. | .paramDefine .. | .pprApply .. | .checkerTest .. | .splitRawWrite ..
  | .splitRawRead .. | .swr .. | .partRun .. | .runStart .. | .runEnd .. | .partitionResetComplete .. | .paramFreeze ..
  | .paramFlip .. | .gradFetch .. | .nbuOp .. | .foldPress .. | .foldPressAtBoundary .. | .sdata .. | .swrite ..
  | .announce .. | .announceHoldExpiry .. | .myaStreamClear .. | .mainsReturn .. | .rideThroughEnd ..
  | .pwrSafeReset .. | .vddAonUp .. | .perstNReset .. | .gafferWatchdog .. | .clockLost .. | .vddAonLoss ..
  | .deviceResetDelayEnd .. | .powerGood .. | .hemReset .. | .pllRelock .. | .partitionCycle .. | .mangleTransfer ..
  | .oscillatorBackInRange .. => true
  | _ => false

/-- Frame of a command that works on its own unit: it completes, and every part of the state it does not name is as it was. -/
def ownUnitFrame : Prop := ∀ (c : Instr) (s : State), reachesFar c = false → ∃ t, exec c s = .next t ∧ t = onlyNamed s t c

/-- Frame of a command that reaches the memories or several units: it completes, and every part of the state it does not name is as it
was. -/
def farFrame : Prop := ∀ (c : Instr) (s : State), reachesFar c = true → ∃ t, exec c s = .next t ∧ t = onlyNamed s t c

/-- Frame of the instructions of a core: of all memories, only the core's own basket and slice can change. -/
def coreMemoryFrame : Prop := ∀ (s t : State) (core : CoreId) (eng : EngId) (x : Bool) (w : List Nat) (f : ArrayFault) (q : ResidueFault) (j : RinseJob),
  ∀ c ∈ ([.nop core eng, .loop core eng, .bar core eng, .endProg core eng, .seqLi core, .seqLui core, .seqAlu core, .seqSetb core,
    .seqLd core, .seqSt core, .seqBr core, .seqRdts core, .movSend core, .movRecv core, .fetLoad core x w, .fetStore core x w,
    .fetFill core, .mm core x f, .drn core x, .lay core x, .clr core x, .gdrv core, .ndlLv core, .ndlMv core q, .ndlDrn core,
    .rnsLd core, .rnsSt core, .rnsVectorOp core q, .rnsRowOp core j, .rnsLay core, .queueRefill core, .instructionRetire core eng] :
      List Instr),
    exec c s = .next t → ∀ m, m ≠ .basket core.val → m ≠ .slice core.val → memAt t m = memAt s m

end Sys2Proof.Claims

open Sys2Proof

/-- The set-up semaphore is claimed, released, broken and expires. Concluded to complete: semaphoreClaim, semaphoreRelease, semaphoreBreak and
leaseExpiry. -/
def Obligations.SemaphoreIsClaimedReleasedAndBroken : Prop :=
  Claims.semaphoreClaim ∧ Claims.semaphoreRelease ∧ Claims.semaphoreBreak ∧ Claims.leaseExpiry

/-- Staged writes are checked in order and enter the fold; it is checked, frozen and discarded. Concluded to complete: foldWrite, foldCheck,
foldFreeze and foldDiscard. -/
def Obligations.FoldStagesChecksAndDiscards : Prop :=
  Claims.foldWrite ∧ Claims.foldWriteRefused ∧ Claims.stagedReads ∧ Claims.foldCheck ∧ Claims.foldFreeze ∧
  Claims.foldDiscard ∧ Claims.reservedSlots

/-- A press that passes its checks applies the whole fold, one that fails applies nothing. Concluded to complete: foldPress and foldPressAtBoundary. -/
def Obligations.PressAppliesTheFold : Prop :=
  Claims.foldPress ∧ Claims.foldPressAtBoundary ∧ Claims.pressAnswered

/-- Set-up reads and writes answer the register, latch its high word, and refuse what is misaligned or reserved. Concluded to complete: srd and swr. -/
def Obligations.SetUpReadsAndWritesAnswer : Prop :=
  Claims.answerQueued ∧ Claims.setUpRead ∧ Claims.setUpReadLatched ∧ Claims.setUpRefused ∧ Claims.setUpWrite

/-- The I3C management port reads and writes registers. Concluded to complete: mgtRead and mgtWrite. -/
def Obligations.ManagementPortAnswers : Prop :=
  Claims.managementRead ∧ Claims.managementWrite

/-- Rings are enabled, doorbells make descriptors available, and their reads deliver them. Concluded to complete: ringEnable, ringDisable,
errorRingEnable, errorRingDisable and dbl. -/
def Obligations.DoorbellsMakeDescriptorsAvailable : Prop :=
  Claims.ringEnable ∧ Claims.errorRingEnable ∧ Claims.doorbellHeld ∧ Claims.doorbellAccepted ∧ Claims.doorbellRejected ∧
  Claims.descriptorIsRead

/-- Reads of host memory end with their last completion or time out, and tags are held before reuse. Concluded to complete: cpld, mrdTimeout and
tagRetireExpiry. -/
def Obligations.HostReadsEndOrTimeOut : Prop :=
  Claims.lastCpld ∧ Claims.fetchProceeds ∧ Claims.fetchesAreUsed ∧ Claims.fetchBegins ∧ Claims.earlierCpld ∧
  Claims.readTimeout ∧ Claims.tagFree

/-- The common checks of a descriptor, its completion record, and NOP. Concluded to complete: nopDescriptor. -/
def Obligations.DescriptorsAreCheckedAndCompleted : Prop :=
  Claims.commonChecks ∧ Claims.completionWritten ∧ Claims.details ∧ Claims.nopDescriptor

/-- Unassigned words halt the core, unsatisfied waits hold, NOP posts, and an engine issues one word a cycle. Concluded to complete: nop. -/
def Obligations.IllegalHaltsAndNopsPost : Prop :=
  Claims.unassignedHalts ∧ Claims.unsatisfiedWaits ∧ Claims.nop ∧ Claims.issuedOneCycle ∧ Claims.issuedInFlight

/-- LOOP, BAR and END of every engine. Concluded to complete: loop, bar and endProg. -/
def Obligations.CommonInstructionsControlTheEngine : Prop :=
  Claims.loop ∧ Claims.bar ∧ Claims.endProg

/-- Queues refill, instructions retire, cores gate and the watchdog stops a run. Concluded to complete: queueRefill, instructionRetire, clockGating
and coreWatchdog. -/
def Obligations.CoresRefillRetireGateAndWatch : Prop :=
  Claims.queueRefill ∧ Claims.instructionRetire ∧ Claims.clockGating ∧ Claims.coreWatchdog

/-- The Sequencer writes scalars and bases, loads, stores and branches. Concluded to complete: seqLi, seqLui, seqAlu, seqRdts, seqSetb, seqLd, seqSt
and seqBr. -/
def Obligations.SequencerComputesLoadsAndBranches : Prop :=
  Claims.scalarWritten ∧ Claims.seqLoadImmediate ∧ Claims.seqAlu ∧ Claims.seqRdts ∧ Claims.seqSetb ∧ Claims.seqLoadStore ∧
  Claims.seqBr

/-- The Mover begins its arms and Fetch copies and fills. Concluded to complete: movSend, movRecv, fetLoad, fetStore and fetFill. -/
def Obligations.MoverAndFetchMoveData : Prop :=
  Claims.moverArms ∧ Claims.fetchCopies ∧ Claims.wordsCross ∧ Claims.fetchFill ∧ Claims.stallsCounted ∧
  Claims.wordReadsBack

/-- The arrays set layouts, clear, multiply, drain and audit. Concluded to complete: lay, rnsLay, clr, mm, drn, gdrv and shadowAudit. -/
def Obligations.ArraysMultiplyClearAndDrain : Prop :=
  Claims.layouts ∧ Claims.clears ∧ Claims.matmul ∧ Claims.drains ∧ Claims.derivativeDrain ∧ Claims.shadowAudit

/-- The Needle path loads its vectors, passes and drains. Concluded to complete: ndlLv, ndlMv and ndlDrn. -/
def Obligations.NeedleLoadsPassesAndDrains : Prop :=
  Claims.needleLoad ∧ Claims.needlePass ∧ Claims.needleDrain

/-- The Rinse unit loads, stores, and computes on vectors and rows. Concluded to complete: rnsLd, rnsSt, rnsVectorOp and rnsRowOp. -/
def Obligations.RinseMovesAndComputes : Prop :=
  Claims.vectorWritten ∧ Claims.rinseLoadStore ∧ Claims.rinseVector ∧ Claims.rinseRow

/-- A finite code of a narrow format converts back to itself. -/
def Obligations.CodesConvertBack : Prop :=
  Claims.narrowRoundTrips

/-- PART_LOAD checks its image and the load ends. Concluded to complete: partLoad and imageLoadComplete. -/
def Obligations.LoadsAreCheckedAndEnd : Prop :=
  Claims.partLoad ∧ Claims.imageChecks ∧ Claims.imageLoadComplete ∧ Claims.loadEnds

/-- PART_RUN is checked and accepted. Concluded to complete: partRun. -/
def Obligations.RunsAreCheckedAndAccepted : Prop :=
  Claims.partRun ∧ Claims.runAccepted

/-- Runs start, end, stop at a request and are reset. Concluded to complete: runStart, runEnd, partStop, partReset and partitionResetComplete. -/
def Obligations.RunsStartEndAndStop : Prop :=
  Claims.runStart ∧ Claims.runStartsCore ∧ Claims.runEnd ∧ Claims.runLeavesReady ∧ Claims.partStop ∧
  Claims.firstStopDecides ∧ Claims.partReset

/-- Parameter blocks are defined, frozen and flipped. Concluded to complete: paramDefine, paramFreeze and paramFlip. -/
def Obligations.ParameterBlocksAreDefinedFrozenAndFlipped : Prop :=
  Claims.idChecks ∧ Claims.paramDefine ∧ Claims.paramFreezeFlip ∧ Claims.paramListRefused

/-- Copies and gradient fetches begin and move, and the last will is fetched. Concluded to complete: copyIn, copyOut, gradFetch, mangleTransfer and
lwFetch. -/
def Obligations.TransfersBeginAndMove : Prop :=
  Claims.transfersBegin ∧ Claims.copyChecks ∧ Claims.mangleTransfer ∧ Claims.gradientMoves ∧ Claims.lastWillFetch

/-- Flits are checked, received in order, replayed and sent. Concluded to complete: transactionFlit, nullFlit, nakRepeat, replayTimeout and
flitTransmit. -/
def Obligations.FlitsAreReceivedReplayedAndSent : Prop :=
  Claims.codewordsPass ∧ Claims.flitDamaged ∧ Claims.flitReceived ∧ Claims.headerTaken ∧ Claims.naksAndReplays ∧
  Claims.flitTransmit ∧ Claims.flitOnTheWire

/-- Lanes fail and are spared, and a credit stall is recorded. Concluded to complete: laneFailed, myarnLaneFail, spare, spareAck, laneSubstitution and
creditStall. -/
def Obligations.LanesFailAndAreSpared : Prop :=
  Claims.laneFailed ∧ Claims.laneSpared ∧ Claims.creditStall

/-- Links train, retrain, go down and take their control writes. Concluded to complete: cap, capAck, trainingComplete, trainingRetry, retrain, down,
portDown, nalsonRetrainRequest and nalsonDisable. -/
def Obligations.LinksTrainRetrainAndFall : Prop :=
  Claims.capabilities ∧ Claims.trainingEnds ∧ Claims.trainingRetry ∧ Claims.retrains ∧ Claims.portsGoDown ∧
  Claims.nalsonControl

/-- Myarn packets are routed, stream data is received and stream writes reach the stack. Concluded to complete: sdata and swrite. -/
def Obligations.PacketsAreRoutedAndStreamsWritten : Prop :=
  Claims.hops ∧ Claims.packetsPass ∧ Claims.streamData ∧ Claims.streamWrite ∧ Claims.streamSource

/-- Announces are held until their data has come, commit or expire. Concluded to complete: announce, announceHoldExpiry, myaWrite, myaAnnounce and
myaStreamClear. -/
def Obligations.AnnouncesAreHeldAndCommitted : Prop :=
  Claims.announce ∧ Claims.announceCommits ∧ Claims.announceExpires ∧ Claims.myaDescriptors

/-- Barriers count their arrivals, complete, release and time out. Concluded to complete: barrierArrival, arrive, release and barrierTimeout. -/
def Obligations.BarriersCountAndRelease : Prop :=
  Claims.barrierArrives ∧ Claims.barrierSettles ∧ Claims.arriveCounted ∧ Claims.releaseTaken ∧ Claims.barrierTimesOut

/-- Bubbles and slips of a partition cycle; seam rings and the Tack network fail. Concluded to complete: partitionCycle, slipLimit, seamRingReplaced,
uncorrectableRingWord, tackRequestTimeout, tackMessageLost and tackSeamChannelFailed. -/
def Obligations.BubblesSlipsAndRingFailuresAreCounted : Prop :=
  Claims.bubblesPerGroup ∧ Claims.bubbleDecided ∧ Claims.bubblesSkip ∧ Claims.slipsHold ∧ Claims.cyclesAdvance ∧
  Claims.slipLimit ∧ Claims.ringsReplaced ∧ Claims.tackEvents

/-- Frames begin, statistics latch, and delay codes track their centres. Concluded to complete: retuneMeasurement and frameBoundary. -/
def Obligations.FramesBeginAndCrossingsTrack : Prop :=
  Claims.windowIsWidest ∧ Claims.retune ∧ Claims.frameBoundary

/-- Near-bank operations are checked, accepted in order and aborted. Concluded to complete: nbuOp, nbuOpAccept and nbuAbort. -/
def Obligations.NearBankOperationsAreAccepted : Prop :=
  Claims.recordChecks ∧ Claims.nbuOpDescriptor ∧ Claims.operationsInOrder ∧ Claims.waitingAccepted ∧ Claims.nbuAborts

/-- Near-bank operations finish, complete, time out and move to a buddy; refreshes are yielded. Concluded to complete: eventSummaryPoll,
nbuOpCompletion, nbuOpTimeout, nbuFence, refreshDue and forcedRefresh. -/
def Obligations.NearBankOperationsEnd : Prop :=
  Claims.summaryPolled ∧ Claims.fillWrites ∧ Claims.operationCompletes ∧ Claims.operationTimesOut ∧ Claims.nbuFences ∧
  Claims.buddiesTakeTurns ∧ Claims.rowBoundaries ∧ Claims.refreshes ∧ Claims.mostOwedFirst

/-- Invocations of nbu stations start and end, and ordinary accesses are placed. Concluded to complete: nbuInvocationStart, nbuInvocationEnd,
ordinaryAccess and interleaveService. -/
def Obligations.InvocationsAndAccessesRun : Prop :=
  Claims.invocationStarts ∧ Claims.invocationEnds ∧ Claims.ordinaryAccesses

/-- Keys and values are appended, decoded, committed and released. Concluded to complete: kvAppend, kvAppendLogRoom, decodeInvocation, kvCommit and
kvRelease. -/
def Obligations.KeysAndValuesAreAppendedAndDecoded : Prop :=
  Claims.appends ∧ Claims.decodeStarts ∧ Claims.kvDescriptors

/-- Trim regulators fail, headers turn on in stages, and AVSBus rails step and are read back. Concluded to complete: trimRegulatorFail, headerStage,
headerStageForced, avsReadback and currentTelemetryCheck. -/
def Obligations.HeadersTrimsAndRails : Prop :=
  Claims.trimFails ∧ Claims.headersTurnOn ∧ Claims.railsReadBack ∧ Claims.railsStep ∧ Claims.telemetryChecked

/-- The selected cap, droops, over-currents and lending. Concluded to complete: budgetSelectAccept, droop, droopHoldExpiry, overCurrent,
overCurrentClear and lendingCompute. -/
def Obligations.BudgetsDroopsAndLending : Prop :=
  Claims.capSelects ∧ Claims.droops ∧ Claims.overCurrents ∧ Claims.lendingFormed

/-- Sensors are sampled and flagged, partitions halt by temperature, trips are recorded, margins reviewed. Concluded to complete: sensorFlag,
sensorFlagClear, thermalSample, thermalHaltRelease, thermtrip, reviewNow and marginReview. -/
def Obligations.SensorsHaltsAndMargins : Prop :=
  Claims.sensorsFlag ∧ Claims.sampled ∧ Claims.thermalContribution ∧ Claims.haltReleased ∧ Claims.tripped ∧
  Claims.marginsReviewed

/-- Fans, the inlet, the duty, the airflow measure and its cap. Concluded to complete: tachCheck, fanFailed, inletRead, fanDutyUpdate, airflowSecond,
airflowCapUpdate and airflowLostExit. -/
def Obligations.FansAndAirflow : Prop :=
  Claims.tachsChecked ∧ Claims.fanFails ∧ Claims.inletsRead ∧ Claims.dutyUpdated ∧ Claims.dutyFactorRoot ∧
  Claims.airflowMeasured ∧ Claims.airflowCapped ∧ Claims.airflowReturns

/-- The hold-up pack is authenticated, polled and tested. Concluded to complete: packAuthentication, packChallengeResponse, packPoll, packTest,
packTestEnd and testNow. -/
def Obligations.PacksAreAuthenticatedAndPolled : Prop :=
  Claims.packAuthenticates ∧ Claims.packFailed ∧ Claims.packPolled ∧ Claims.packTests ∧ Claims.packTestEnds ∧
  Claims.testAsked

/-- The window, a power loss, ride-through, the last will and the reset after it. Concluded to complete: windowRecompute, packCounterUpdate,
powerLossAccept, railOutOfWindow, mainsReturn, rideThroughEnd and pwrSafeReset. -/
def Obligations.PowerLossIsRiddenThrough : Prop :=
  Claims.windowRecomputed ∧ Claims.countersStored ∧ Claims.powerLossAccepted ∧ Claims.mainsAndRideThrough ∧
  Claims.lastWillRuns ∧ Claims.safeReset

/-- Start-up: the always-on domain, the boot ROM, power-good, and units that fail. Concluded to complete: vddAonUp, vddAonLoss and powerGood. -/
def Obligations.StartUpRunsItsSteps : Prop :=
  Claims.powersUp ∧ Claims.startSteps ∧ Claims.vddAonLost ∧ Claims.powerGoods ∧ Claims.failureNoted

/-- Firmware is loaded by lifeline, updated, and defects are cleared. Concluded to complete: lifelineNotice, lifeGo, lifelineLoadComplete, fwUpdate,
fwUpdateComplete and defectClear. -/
def Obligations.ImagesAreLoadedAndUpdated : Prop :=
  Claims.lifelineNotices ∧ Claims.lifelineLoads ∧ Claims.fwUpdates ∧ Claims.fwUpdateEnds ∧ Claims.defectClears

/-- A defective core is spared live or its cluster is fenced. Concluded to complete: liveCoreSparing and coreSparingComplete. -/
def Obligations.CoresAreSpared : Prop :=
  Claims.coreSpared ∧ Claims.sparingEnds

/-- Hem resets, device resets and PERST_N. Concluded to complete: hemReset, hemResetResume, gafferWatchdog, deviceReset, deviceResetDelayEnd,
perstNFall, perstNReset and perstNRise. -/
def Obligations.ResetsBeginAndEnd : Prop :=
  Claims.hemResets ∧ Claims.hemResumes ∧ Claims.deviceResets ∧ Claims.perstResets

/-- Clocks are lost and lock again; a pending alert is cleared. Concluded to complete: clockLost, pllRelock, oscillatorBackInRange and
alertPendingClear. -/
def Obligations.ClocksAreLostAndAlertsCleared : Prop :=
  Claims.clocksLost ∧ Claims.alertCleared

/-- Certificates are read and attestation reports are formed, queued and signed. Concluded to complete: certRead, attest and attestReportSigned. -/
def Obligations.CertificatesAndReportsAreWritten : Prop :=
  Claims.certificatesRead ∧ Claims.attests ∧ Claims.reportLaidOut ∧ Claims.reportSigned

/-- The fuse counter is committed, tokens and signed objects are checked, and debug is unlocked. Concluded to complete: svnCommit, debugUnlock and
jtagInstruction. -/
def Obligations.CountersAndUnlocksTakeEffect : Prop :=
  Claims.svnCommits ∧ Claims.debugUnlocks ∧ Claims.tokenChecks ∧ Claims.keysVerify ∧ Claims.jtagAnswers

/-- The code corrects one flipped data bit; words are read, patrolled and scrubbed. Concluded to complete: patrolScrubRead, scrubBehind and
scrubRange. -/
def Obligations.WordsAreCorrectedAndScrubbed : Prop :=
  Claims.codeCorrects ∧ Claims.wordsAreRead ∧ Claims.patrolReads ∧ Claims.scrubIsBehind ∧ Claims.rangesAreScrubbed

/-- Rows are repaired, checkers tested, faulty trees replaced, and errors injected. Concluded to complete: ppr, pprApply, checkerTest, flipArm,
flipDoneClear, splitRawWrite and splitRawRead. -/
def Obligations.RowsCheckersAndInjection : Prop :=
  Claims.repairsAreTaken ∧ Claims.repairsAreApplied ∧ Claims.checkersAreTested ∧ Claims.faultyTreesAct ∧
  Claims.flipsAreArmed ∧ Claims.splitsReachTheStack

/-- A step runs the command in front with the queue's rest; on an empty queue one tick passes (log entry 1). -/
def Obligations.StepRunsTheFrontCommand : Prop :=
  Claims.stepRunsFront ∧ Claims.stepIdles

/-- Every command answers a next state, and none but two acts without power. -/
def Obligations.EveryCommandAnswersANextState : Prop :=
  Claims.commandsAnswer ∧ Claims.nothingWithoutPower

/-- Only a press or a reset changes an applied setting, and a freezing lasts until a device reset. -/
def Obligations.OnlyPressesAndResetsApplySettings : Prop :=
  Claims.onlyPressesApply ∧ Claims.freezingStays

/-- Every step keeps every memory in canonical form (the model's representation). -/
def Obligations.EveryStepKeepsMemoriesCanonical : Prop :=
  Claims.memoriesStay

/-- Every step keeps applied settings and the fold legal. -/
def Obligations.EveryStepKeepsSettingsLegal : Prop :=
  Claims.settingsStay

/-- The fuse counter stays within 64, is reported, rises only under SVN_COMMIT and never falls. -/
def Obligations.TheFuseCounterNeverFalls : Prop :=
  Claims.counterNeverFalls ∧ Claims.fusesStayLegal ∧ Claims.fusesReported

/-- No step drives HUP_EN and HUP_TEST high together, and a pending alert stays until it is written away or the power goes. -/
def Obligations.PackLinesStayApartAndAlertsStay : Prop :=
  Claims.packLinesStay ∧ Claims.alertsStay

/-- Frame: a command that works on its own unit leaves every other part of the state as it was. -/
def Obligations.CommandsLeaveOtherUnitsAlone : Prop :=
  Claims.ownUnitFrame ∧ Claims.coreMemoryFrame

/-- Frame: a command that reaches the memories or several units leaves every part of the state it does not name as it was. -/
def Obligations.CommandsLeaveUnnamedStateAlone : Prop :=
  Claims.farFrame

/-- The state right after the always-on domain comes up, which meets the invariants. -/
def Obligations.ResetLeavesTheResetValues : Prop :=
  Claims.resetState ∧ Claims.resetMeets

/-- A report is recorded, coalesced, or begins a storm. -/
def Obligations.ReportsAreRecordedAndCoalesced : Prop :=
  Claims.reportsAreWritten ∧ Claims.reportsCoalesce ∧ Claims.stormsBegin
end

