-- ==== Sys2Proof/Laws/Code.lean ====
section
/-! SUPPORT. Laws of the (72,64) code (R261, R262): the exclusive or of columns column by column, and its linearity. -/

namespace Sys2Proof.Machine

@[simp] theorem xorColumns_nil (d : Nat) : xorColumns [] d = 0 := by simp [xorColumns]

@[simp] theorem xorColumns_zero (l : List Byte) : xorColumns l 0 = 0 := by
  cases l <;> simp [xorColumns]

theorem xorColumns_cons (h : Byte) (t : List Byte) (d : Nat) :
    xorColumns (h :: t) d = (if d % 2 = 1 then h else 0) ^^^ xorColumns t (d / 2) := by
  by_cases hd : d = 0
  · subst hd; simp
  · simp [xorColumns, hd]

/-- The columns of two numbers' exclusive or are the exclusive or of their columns. -/
theorem xorColumns_xor (l : List Byte) (a b : Nat) : xorColumns l (a ^^^ b) = xorColumns l a ^^^ xorColumns l b := by
  induction l generalizing a b with
  | nil => simp
  | cons h t ih =>
    have hx : (if (a ^^^ b) % 2 = 1 then h else 0) = (if a % 2 = 1 then h else 0) ^^^ (if b % 2 = 1 then h else 0) := by
      have hm := Nat.xor_mod_two_eq_one (a := a) (b := b)
      by_cases ha : a % 2 = 1 <;> by_cases hb : b % 2 = 1 <;> simp_all
    rw [xorColumns_cons, xorColumns_cons, xorColumns_cons, Nat.xor_div_two, ih, hx]
    generalize (if b % 2 = 1 then h else 0) = p
    rw [BitVec.xor_assoc, BitVec.xor_assoc, ← BitVec.xor_assoc p, BitVec.xor_comm p, BitVec.xor_assoc]

/-- A word without a bit has the check byte 0. -/
@[simp] theorem checkOf_zero : checkOf 0 = 0 := by simp [checkOf]

/-- The check byte is linear in the data (R262). -/
theorem checkOf_xor (a b : W64) : checkOf (a ^^^ b) = checkOf a ^^^ checkOf b := by
  simp [checkOf, xorColumns_xor]

/-- Word `w` of memory `id` reads as it stands: a codeword under a port with a decoder. -/
abbrev readsClean (s : State) (id : MemId) (w : Nat) : Prop :=
  ¬(id = .stack ∧ (stkAt s (eccKey s id w - 5000)).dead) ∧
    classify (syndrome (rawWord (memAt s id) w).1 (rawWord (memAt s id) w).2) = .clean

/-- A clean word is delivered as stored and changes nothing (R266). -/
theorem readWord_of_clean {s : State} {id : MemId} {w : Nat} (h : readsClean s id w) :
    readWord s id w = (((rawWord (memAt s id) w).1, false), s) := by
  rw [readWord, if_neg h.1, h.2]

/-- Clean stack words are read as stored, and the read changes nothing. -/
theorem readStack_of_clean {s : State} (n a : Nat) (h : ∀ k < n, readsClean s .stack (stackWord s (a + 8 * k))) :
    readStack s a n = ((List.range n).map (fun k => ((rawWord (memAt s .stack) (stackWord s (a + 8 * k))).1, false)), s) := by
  induction n generalizing a with
  | zero => rfl
  | succ n ih =>
    have h0 := readWord_of_clean (h 0 (Nat.succ_pos n))
    have hs : ∀ k, a + 8 + 8 * k = a + 8 * (k + 1) := fun k => by omega
    have ht := ih (a + 8) (fun k hk => by rw [hs]; exact h (k + 1) (Nat.succ_lt_succ hk))
    simp only [readStack, Nat.mul_zero, Nat.add_zero] at h0 ⊢
    rw [h0, ht, List.range_succ_eq_map]
    simp [hs, Function.comp_def]

end Sys2Proof.Machine
end

