-- ==== Sys2Proof/Laws/Table.lean ====
section
/-! SUPPORT. Laws of sparse tables: reading after writing, and the canonical form that every write keeps. -/

namespace Sys2Proof

variable {α : Type} {d : α}

theorem tget_terase (t : Tab α) (k k' : Nat) : tget d (terase t k) k' = if k' = k then d else tget d t k' := by
  induction t with
  | nil => simp [terase, tget]
  | cons x t ih =>
    obtain ⟨a, v⟩ := x
    by_cases h : k = a
    · subst h
      by_cases h' : k' = k
      · subst h'; simpa [terase] using ih
      · simp [terase, tget, ih, h']
    · by_cases h' : k' = a
      · subst h'
        simp [terase, tget, h, Ne.symm h]
      · simp [terase, tget, ih, h, h']

theorem tget_tput (t : Tab α) (k k' : Nat) (v : α) : tget d (tput t k v) k' = if k' = k then v else tget d t k' := by
  induction t with
  | nil => simp [tput, tget]
  | cons x t ih =>
    obtain ⟨a, w⟩ := x
    unfold tput
    split
    · next h => subst h; by_cases h' : k' = k <;> simp [tget, h']
    · split
      · simp [tget]
      · next h h2 =>
        by_cases h' : k' = a
        · subst h'; simp [tget, Ne.symm h]
        · simp [tget, ih, h']

/-- A read after a write: the value written at its key, every other key as before. -/
theorem tget_tset [DecidableEq α] (t : Tab α) (k k' : Nat) (v : α) :
    tget d (tset d t k v) k' = if k' = k then v else tget d t k' := by
  unfold tset
  split
  · next h => subst h; exact tget_terase t k k'
  · exact tget_tput t k k' v

@[simp] theorem tget_tset_same [DecidableEq α] (t : Tab α) (k : Nat) (v : α) : tget d (tset d t k v) k = v := by
  simp [tget_tset]

@[simp] theorem tget_tset_ne [DecidableEq α] (t : Tab α) {k k' : Nat} (v : α) (h : k' ≠ k) :
    tget d (tset d t k v) k' = tget d t k' := by simp [tget_tset, h]

/-- Also where the read's default differs from the write's, as in a table whose keys have defaults of their own. -/
theorem tget_tset_other [DecidableEq α] (e : α) (t : Tab α) {k k' : Nat} (v : α) (h : k' ≠ k) :
    tget d (tset e t k v) k' = tget d t k' := by
  unfold tset
  split
  · rw [tget_terase, if_neg h]
  · rw [tget_tput, if_neg h]

@[simp] theorem tget_tmod_same [DecidableEq α] (t : Tab α) (k : Nat) (f : α → α) :
    tget d (tmod d t k f) k = f (tget d t k) := by simp [tmod]

@[simp] theorem tget_tmod_ne [DecidableEq α] (t : Tab α) {k k' : Nat} (f : α → α) (h : k' ≠ k) :
    tget d (tmod d t k f) k' = tget d t k' := by simp [tmod, h]

/-! The canonical form -/

theorem tabove_terase {a : Nat} {t : Tab α} (k : Nat) (h : tabove a t = true) : tabove a (terase t k) = true := by
  induction t with
  | nil => rfl
  | cons x t ih =>
    obtain ⟨b, v⟩ := x
    simp only [tabove, Bool.and_eq_true, decide_eq_true_eq] at h
    by_cases hk : k = b
    · subst hk; simpa [terase] using ih h.2
    · simp [terase, hk, tabove, h, ih h.2]

theorem tabove_tput {a : Nat} {t : Tab α} {k : Nat} (v : α) (h : tabove a t = true) (hk : a < k) :
    tabove a (tput t k v) = true := by
  induction t with
  | nil => simp [tput, tabove, hk]
  | cons x t ih =>
    obtain ⟨b, w⟩ := x
    simp only [tabove, Bool.and_eq_true, decide_eq_true_eq] at h
    unfold tput
    split
    · simp [tabove, hk, h]
    · split <;> simp [tabove, hk, h, ih h.2]

theorem tabove_trans {a b : Nat} {t : Tab α} (h : tabove b t = true) (hab : a < b) : tabove a t = true := by
  induction t with
  | nil => rfl
  | cons x t ih =>
    obtain ⟨c, v⟩ := x
    simp only [tabove, Bool.and_eq_true, decide_eq_true_eq] at h ⊢
    exact ⟨by omega, ih h.2⟩

theorem twf_terase [DecidableEq α] {t : Tab α} (k : Nat) (h : twf d t = true) : twf d (terase t k) = true := by
  induction t with
  | nil => rfl
  | cons x t ih =>
    obtain ⟨b, v⟩ := x
    simp only [twf, Bool.and_eq_true] at h
    by_cases hk : k = b
    · subst hk; simpa [terase] using ih h.2
    · simp only [terase, hk, if_false, twf, Bool.and_eq_true]
      exact ⟨⟨h.1.1, tabove_terase k h.1.2⟩, ih h.2⟩

theorem twf_tput [DecidableEq α] {t : Tab α} {k : Nat} {v : α} (h : twf d t = true) (hv : v ≠ d) :
    twf d (tput t k v) = true := by
  induction t with
  | nil => simp [tput, twf, tabove, hv]
  | cons x t ih =>
    obtain ⟨b, w⟩ := x
    simp only [twf, Bool.and_eq_true] at h
    unfold tput
    split
    · next hk => subst hk; simp [twf, hv, h]
    · split
      · next hk => simp [twf, hv, h, tabove, hk, tabove_trans h.1.2 hk]
      · next hk hk2 =>
        simp only [twf, Bool.and_eq_true]
        exact ⟨⟨h.1.1, tabove_tput v h.1.2 (by omega)⟩, ih h.2⟩

/-- Every write keeps the canonical form. -/
theorem twf_tset [DecidableEq α] {t : Tab α} (k : Nat) (v : α) (h : twf d t = true) : twf d (tset d t k v) = true := by
  unfold tset
  split
  · exact twf_terase k h
  · next hv => exact twf_tput h hv

theorem twf_tmod [DecidableEq α] {t : Tab α} (k : Nat) (f : α → α) (h : twf d t = true) : twf d (tmod d t k f) = true :=
  twf_tset k _ h

end Sys2Proof
end

