-- ==== Sys2Proof/Laws/Keeps.lean ====
section
/-! SUPPORT. What most operations leave as it was: the queue, the applied settings, the fold and the semaphore (`setup`); these and
the memories (`still`); and the canonical form of the memories, which every operation keeps (`memOk`). -/

namespace Sys2Proof.Machine

/-- The settings of a state: variant, queue, applied values, fold, semaphore. -/
def State.setup (s : State) : Variant × List Instr × Tab W32 × Fold × Sem := (s.variant, s.pending, s.staged, s.fold, s.sem)

/-- The memories of a state. -/
def State.mems (s : State) : Tab CodeMem × Tab CodeMem × CodeMem × CodeMem := (s.slices, s.baskets, s.hamper, s.stack)

/-- The settings and the memories of a state. -/
def State.still (s : State) : (Variant × List Instr × Tab W32 × Fold × Sem) × (Tab CodeMem × Tab CodeMem × CodeMem × CodeMem) :=
  (s.setup, s.mems)

/-- Every memory of four is in canonical form. -/
def memsOk (m : Tab CodeMem × Tab CodeMem × CodeMem × CodeMem) : Prop :=
  (∀ c, (tget {} m.1 c).wf = true) ∧ (∀ c, (tget {} m.2.1 c).wf = true) ∧ m.2.2.1.wf = true ∧ m.2.2.2.wf = true

/-- Every memory of a state is in canonical form. -/
def memOk (s : State) : Prop := memsOk s.mems

@[simp] theorem still_split (s : State) : s.still = (s.setup, s.mems) := rfl

theorem mems_of_still {s t : State} (h : t.still = s.still) : t.mems = s.mems := congrArg Prod.snd h

theorem setup_of_still {s t : State} (h : t.still = s.still) : t.setup = s.setup := congrArg Prod.fst h

theorem memOk_of_still {s t : State} (h : t.still = s.still) : memOk t ↔ memOk s := by
  rw [memOk, memOk, mems_of_still h]

/-- Updates of other fields leave the settings as they were; the next laws fold the projections up again. -/
@[simp] theorem setup_mk
    x0 x1 x2 x3 x4 x5 x6 x7 x8 x9 x10 x11 x12 x13 x14 x15 x16 x17 x18 x19 x20 x21 x22 x23 x24 x25 x26 x27 x28 x29 x30 x31 x32 x33
    x34 x35 x36 x37 x38 x39 x40 x41 x42 x43 x44 x45 x46 x47 x48 x49 x50 x51 x52 x53 x54 x55 x56 x57 x58 x59 x60 x61 :
    State.setup (State.mk x0 x1 x2 x3 x4 x5 x6 x7 x8 x9 x10 x11 x12 x13 x14 x15 x16 x17 x18 x19 x20 x21 x22 x23 x24 x25 x26 x27
    x28 x29 x30 x31 x32 x33 x34 x35 x36 x37 x38 x39 x40 x41 x42 x43 x44 x45 x46 x47 x48 x49 x50 x51 x52 x53 x54 x55 x56 x57
    x58 x59 x60 x61) =
      (x0, x61, x9, x11, x10) := rfl

@[simp] theorem mems_mk
    x0 x1 x2 x3 x4 x5 x6 x7 x8 x9 x10 x11 x12 x13 x14 x15 x16 x17 x18 x19 x20 x21 x22 x23 x24 x25 x26 x27 x28 x29 x30 x31 x32 x33
    x34 x35 x36 x37 x38 x39 x40 x41 x42 x43 x44 x45 x46 x47 x48 x49 x50 x51 x52 x53 x54 x55 x56 x57 x58 x59 x60 x61 :
    State.mems (State.mk x0 x1 x2 x3 x4 x5 x6 x7 x8 x9 x10 x11 x12 x13 x14 x15 x16 x17 x18 x19 x20 x21 x22 x23 x24 x25 x26 x27 x28
    x29 x30 x31 x32 x33 x34 x35 x36 x37 x38 x39 x40 x41 x42 x43 x44 x45 x46 x47 x48 x49 x50 x51 x52 x53 x54 x55 x56 x57 x58
    x59 x60 x61) =
      (x24, x25, x26, x27) := rfl

@[simp] theorem setup_eta (s : State) : (s.variant, s.pending, s.staged, s.fold, s.sem) = s.setup := rfl

@[simp] theorem mems_eta (s : State) : (s.slices, s.baskets, s.hamper, s.stack) = s.mems := rfl

theorem memOk_mk
    x0 x1 x2 x3 x4 x5 x6 x7 x8 x9 x10 x11 x12 x13 x14 x15 x16 x17 x18 x19 x20 x21 x22 x23 x24 x25 x26 x27 x28 x29 x30 x31 x32 x33
    x34 x35 x36 x37 x38 x39 x40 x41 x42 x43 x44 x45 x46 x47 x48 x49 x50 x51 x52 x53 x54 x55 x56 x57 x58 x59 x60 x61 :
    memOk (State.mk x0 x1 x2 x3 x4 x5 x6 x7 x8 x9 x10 x11 x12 x13 x14 x15 x16 x17 x18 x19 x20 x21 x22 x23 x24 x25 x26 x27 x28 x29
    x30 x31 x32 x33 x34 x35 x36 x37 x38 x39 x40 x41 x42 x43 x44 x45 x46 x47 x48 x49 x50 x51 x52 x53 x54 x55 x56 x57 x58 x59
    x60 x61) =
      memsOk (x24, x25, x26, x27) := rfl

theorem memsOk_eta (s : State) : memsOk (s.slices, s.baskets, s.hamper, s.stack) = memOk s := rfl

/-! One other field replaced -/

theorem still_aon (s : State) (x : Bool) : State.still { s with aon := x } = s.still := rfl
theorem still_time (s : State) (x : W64) : State.still { s with time := x } = s.still := rfl
theorem still_frames (s : State) (x : W64) : State.still { s with frames := x } = s.still := rfl
theorem still_pins (s : State) (x : Pins) : State.still { s with pins := x } = s.still := rfl
theorem still_boot (s : State) (x : Boot) : State.still { s with boot := x } = s.still := rfl
theorem still_units (s : State) (x : Units) : State.still { s with units := x } = s.still := rfl
theorem still_fwVersion (s : State) (x : W64) : State.still { s with fwVersion := x } = s.still := rfl
theorem still_moduleId (s : State) (x : W32) : State.still { s with moduleId := x } = s.still := rfl
theorem still_mgmt (s : State) (x : Latch) : State.still { s with mgmt := x } = s.still := rfl
theorem still_mgmtOut (s : State) (x : List Byte) : State.still { s with mgmtOut := x } = s.still := rfl
theorem still_nal (s : State) (x : Tab Nal) : State.still { s with nal := x } = s.still := rfl
theorem still_rings (s : State) (x : Tab Ring) : State.still { s with rings := x } = s.still := rfl
theorem still_errRings (s : State) (x : Tab ErrRing) : State.still { s with errRings := x } = s.still := rfl
theorem still_mya (s : State) (x : Tab Mya) : State.still { s with mya := x } = s.still := rfl
theorem still_sent (s : State) (x : Tab Strm) : State.still { s with sent := x } = s.still := rfl
theorem still_received (s : State) (x : Tab Strm) : State.still { s with received := x } = s.still := rfl
theorem still_held (s : State) (x : List Held) : State.still { s with held := x } = s.still := rfl
theorem still_bars (s : State) (x : Tab Bar) : State.still { s with bars := x } = s.still := rfl
theorem still_parts (s : State) (x : Tab Part) : State.still { s with parts := x } = s.still := rfl
theorem still_cores (s : State) (x : Tab Core) : State.still { s with cores := x } = s.still := rfl
theorem still_deferred (s : State) (x : List Nat) : State.still { s with deferred := x } = s.still := rfl
theorem still_ecc (s : State) (x : Tab EccInst) : State.still { s with ecc := x } = s.still := rfl
theorem still_scrub (s : State) (x : Tab Scrub) : State.still { s with scrub := x } = s.still := rfl
theorem still_ecct (s : State) (x : Ecct) : State.still { s with ecct := x } = s.still := rfl
theorem still_stk (s : State) (x : Tab Stk) : State.still { s with stk := x } = s.still := rfl
theorem still_banks (s : State) (x : Tab Bank) : State.still { s with banks := x } = s.still := rfl
theorem still_nbus (s : State) (x : Tab Nbu) : State.still { s with nbus := x } = s.still := rfl
theorem still_kv (s : State) (x : Tab KvSite) : State.still { s with kv := x } = s.still := rfl
theorem still_kvFull (s : State) (x : Bool) : State.still { s with kvFull := x } = s.still := rfl
theorem still_appends (s : State) (x : List Append) : State.still { s with appends := x } = s.still := rfl
theorem still_decodes (s : State) (x : List Decode) : State.still { s with decodes := x } = s.still := rfl
theorem still_invokes (s : State) (x : List Invoke) : State.still { s with invokes := x } = s.still := rfl
theorem still_commits (s : State) (x : List Commit) : State.still { s with commits := x } = s.still := rfl
theorem still_kvJobs (s : State) (x : List KvJob) : State.still { s with kvJobs := x } = s.still := rfl
theorem still_repairs (s : State) (x : List Repair) : State.still { s with repairs := x } = s.still := rfl
theorem still_hemOut (s : State) (x : List (Nat × List (W64 × Bool))) : State.still { s with hemOut := x } = s.still := rfl
theorem still_xfers (s : State) (x : Tab (Option Xfer)) : State.still { s with xfers := x } = s.still := rfl
theorem still_nextXfer (s : State) (x : Nat) : State.still { s with nextXfer := x } = s.still := rfl
theorem still_fetches (s : State) (x : List (Reader × Fetch)) : State.still { s with fetches := x } = s.still := rfl
theorem still_mesh (s : State) (x : Mesh) : State.still { s with mesh := x } = s.still := rfl
theorem still_crossings (s : State) (x : List (Crossing × Cross)) : State.still { s with crossings := x } = s.still := rfl
theorem still_sparings (s : State) (x : List Sparing) : State.still { s with sparings := x } = s.still := rfl
theorem still_power (s : State) (x : Power) : State.still { s with power := x } = s.still := rfl
theorem still_therm (s : State) (x : Therm) : State.still { s with therm := x } = s.still := rfl
theorem still_hup (s : State) (x : Hup) : State.still { s with hup := x } = s.still := rfl
theorem still_rot (s : State) (x : Rot) : State.still { s with rot := x } = s.still := rfl
theorem still_darn (s : State) (x : Darn) : State.still { s with darn := x } = s.still := rfl
theorem still_hemReset (s : State) (x : Option HemReset) : State.still { s with hemReset := x } = s.still := rfl
theorem still_devReset (s : State) (x : Option (W64 × BitVec 4)) : State.still { s with devReset := x } = s.still := rfl
theorem still_fwUpdate (s : State) (x : Option FwUpdate) : State.still { s with fwUpdate := x } = s.still := rfl
theorem still_oscLost (s : State) (x : Bool) : State.still { s with oscLost := x } = s.still := rfl
theorem still_pllLost (s : State) (x : List ClockId) : State.still { s with pllLost := x } = s.still := rfl
theorem still_free (s : State) (x : Nat) : State.still { s with free := x } = s.still := rfl

theorem still_ite (c : Prop) [Decidable c] (a b : State) : (if c then a else b).still = if c then a.still else b.still := by
  split <;> rfl

@[simp] theorem setup_ite (c : Prop) [Decidable c] (a b : State) : (if c then a else b).setup = if c then a.setup else b.setup := by
  split <;> rfl

theorem foldl_still {β : Type} (f : State → β → State) (l : List β) (s : State) (h : ∀ s x, (f s x).still = s.still) :
    (l.foldl f s).still = s.still := by
  induction l generalizing s with
  | nil => rfl
  | cons x l ih => rw [List.foldl_cons, ih, h]

@[simp] theorem foldl_setup {β : Type} (f : State → β → State) (l : List β) (s : State) (h : ∀ s x, (f s x).setup = s.setup) :
    (l.foldl f s).setup = s.setup := by
  induction l generalizing s with
  | nil => rfl
  | cons x l ih => rw [List.foldl_cons, ih, h]

theorem foldl_fst_still {α β : Type} (f : State × α → β → State × α) (l : List β) (a : State × α)
    (h : ∀ a x, (f a x).1.still = a.1.still) : (l.foldl f a).1.still = a.1.still := by
  induction l generalizing a with
  | nil => rfl
  | cons x l ih => rw [List.foldl_cons, ih, h]

theorem foldl_snd_still {α β : Type} (f : α × State → β → α × State) (l : List β) (a : α × State)
    (h : ∀ a x, (f a x).2.still = a.2.still) : (l.foldl f a).2.still = a.2.still := by
  induction l generalizing a with
  | nil => rfl
  | cons x l ih => rw [List.foldl_cons, ih, h]

@[simp] theorem foldl_fst_setup {α β : Type} (f : State × α → β → State × α) (l : List β) (a : State × α)
    (h : ∀ a x, (f a x).1.setup = a.1.setup) : (l.foldl f a).1.setup = a.1.setup := by
  induction l generalizing a with
  | nil => rfl
  | cons x l ih => rw [List.foldl_cons, ih, h]

@[simp] theorem foldl_snd_setup {α β : Type} (f : α × State → β → α × State) (l : List β) (a : α × State)
    (h : ∀ a x, (f a x).2.setup = a.2.setup) : (l.foldl f a).2.setup = a.2.setup := by
  induction l generalizing a with
  | nil => rfl
  | cons x l ih => rw [List.foldl_cons, ih, h]

@[simp] theorem mems_ite (c : Prop) [Decidable c] (a b : State) : (if c then a else b).mems = if c then a.mems else b.mems := by
  split <;> rfl

@[simp] theorem foldl_mems {β : Type} (f : State → β → State) (l : List β) (s : State) (h : ∀ s x, (f s x).mems = s.mems) :
    (l.foldl f s).mems = s.mems := by
  induction l generalizing s with
  | nil => rfl
  | cons x l ih => rw [List.foldl_cons, ih, h]

@[simp] theorem foldl_fst_mems {α β : Type} (f : State × α → β → State × α) (l : List β) (a : State × α)
    (h : ∀ a x, (f a x).1.mems = a.1.mems) : (l.foldl f a).1.mems = a.1.mems := by
  induction l generalizing a with
  | nil => rfl
  | cons x l ih => rw [List.foldl_cons, ih, h]

@[simp] theorem foldl_snd_mems {α β : Type} (f : α × State → β → α × State) (l : List β) (a : α × State)
    (h : ∀ a x, (f a x).2.mems = a.2.mems) : (l.foldl f a).2.mems = a.2.mems := by
  induction l generalizing a with
  | nil => rfl
  | cons x l ih => rw [List.foldl_cons, ih, h]

theorem foldl_memOk {β : Type} (f : State → β → State) (l : List β) (s : State) (h : ∀ s x, memOk s → memOk (f s x))
    (hs : memOk s) : memOk (l.foldl f s) := by
  induction l generalizing s with
  | nil => exact hs
  | cons x l ih => rw [List.foldl_cons]; exact ih _ (h _ _ hs)

theorem foldl_fst_memOk {α β : Type} (f : State × α → β → State × α) (l : List β) (a : State × α)
    (h : ∀ a x, memOk a.1 → memOk (f a x).1) (ha : memOk a.1) : memOk (l.foldl f a).1 := by
  induction l generalizing a with
  | nil => exact ha
  | cons x l ih => rw [List.foldl_cons]; exact ih _ (h _ _ ha)

theorem foldl_snd_memOk {α β : Type} (f : α × State → β → α × State) (l : List β) (a : α × State)
    (h : ∀ a x, memOk a.2 → memOk (f a x).2) (ha : memOk a.2) : memOk (l.foldl f a).2 := by
  induction l generalizing a with
  | nil => exact ha
  | cons x l ih => rw [List.foldl_cons]; exact ih _ (h _ _ ha)

/-- t has the settings of s, and canonical memories where s has them. -/
def Keep (s t : State) : Prop := t.setup = s.setup ∧ (memOk s → memOk t)

theorem Keep.refl (s : State) : Keep s s := ⟨rfl, id⟩

theorem Keep.trans {s t u : State} (h : Keep s t) (k : Keep t u) : Keep s u := ⟨k.1.trans h.1, fun x => k.2 (h.2 x)⟩

theorem keep_of_still {s t : State} (h : t.still = s.still) : Keep s t := ⟨setup_of_still h, (memOk_of_still h).mpr⟩

theorem Keep.when {s t : State} (c : Prop) [Decidable c] (h : Keep s t) : Keep s (if c then t else s) := by
  split
  · exact h
  · exact Keep.refl s

theorem Keep.unless {s t : State} (c : Prop) [Decidable c] (h : Keep s t) : Keep s (if c then s else t) := by
  split
  · exact Keep.refl s
  · exact h

theorem Keep.ite {s t u : State} (c : Prop) [Decidable c] (h : Keep s t) (k : Keep s u) : Keep s (if c then t else u) := by
  split
  · exact h
  · exact k

theorem Keep.foldl {β : Type} (f : State → β → State) (l : List β) (s : State) (h : ∀ s x, Keep s (f s x)) :
    Keep s (l.foldl f s) :=
  ⟨foldl_setup f l s fun s x => (h s x).1, foldl_memOk f l s fun s x => (h s x).2⟩

theorem Keep.foldl_snd {α β : Type} (f : α × State → β → α × State) (l : List β) (a : α × State)
    (h : ∀ a x, Keep a.2 (f a x).2) : Keep a.2 (l.foldl f a).2 :=
  ⟨foldl_snd_setup f l a fun s x => (h s x).1, foldl_snd_memOk f l a fun s x => (h s x).2⟩

theorem Keep.foldl_fst {α β : Type} (f : State × α → β → State × α) (l : List β) (a : State × α)
    (h : ∀ a x, Keep a.1 (f a x).1) : Keep a.1 (l.foldl f a).1 :=
  ⟨foldl_fst_setup f l a fun s x => (h s x).1, foldl_fst_memOk f l a fun s x => (h s x).2⟩

theorem Keep.guard {α : Type} {s : State} (c : Prop) [Decidable c] (x : α) (y : α × State) (h : Keep s y.2) :
    Keep s (if c then (x, s) else y).2 := by
  split
  · exact Keep.refl s
  · exact h

end Sys2Proof.Machine
end

