-- ==== Sys2Proof/Laws/KeepsOps.lean ====
section
/-! SUPPORT. What each operation keeps: the shared operations, memories, operands, arrays, parameter tables, set-up and paged records. An operation of this
list leaves the queue, the applied settings, the fold and the semaphore as they were (`_setup`), and either leaves the memories
too (`_still`, `_mems`) or keeps their canonical form (`_memOk`, `_keep`). -/

namespace Sys2Proof.Machine

theorem tackMessage_still (s : State) (src dst chan : Nat) : (tackMessage s src dst chan).still = s.still := by
  rfl
@[simp] theorem tackMessage_setup (s : State) (src dst chan : Nat) : (tackMessage s src dst chan).setup = s.setup :=
    setup_of_still (tackMessage_still _ _ _ _)
@[simp] theorem tackMessage_mems (s : State) (src dst chan : Nat) : (tackMessage s src dst chan).mems = s.mems := mems_of_still
    (tackMessage_still _ _ _ _)

theorem tackRead_still (s : State) (off : Nat) : (tackRead s off).still = s.still := by
  unfold tackRead; split <;> simp
@[simp] theorem tackRead_setup (s : State) (off : Nat) : (tackRead s off).setup = s.setup := setup_of_still (tackRead_still _ _)
@[simp] theorem tackRead_mems (s : State) (off : Nat) : (tackRead s off).mems = s.mems := mems_of_still (tackRead_still _ _)

theorem modPart_still (s : State) (n : Nat) (f : Part → Part) : (modPart s n f).still = s.still := by
  rfl
@[simp] theorem modPart_setup (s : State) (n : Nat) (f : Part → Part) : (modPart s n f).setup = s.setup := setup_of_still
    (modPart_still _ _ _)
@[simp] theorem modPart_mems (s : State) (n : Nat) (f : Part → Part) : (modPart s n f).mems = s.mems := mems_of_still
    (modPart_still _ _ _)

theorem modCore_still (s : State) (n : Nat) (f : Core → Core) : (modCore s n f).still = s.still := by
  rfl
@[simp] theorem modCore_setup (s : State) (n : Nat) (f : Core → Core) : (modCore s n f).setup = s.setup := setup_of_still
    (modCore_still _ _ _)
@[simp] theorem modCore_mems (s : State) (n : Nat) (f : Core → Core) : (modCore s n f).mems = s.mems := mems_of_still
    (modCore_still _ _ _)

theorem modNal_still (s : State) (p : NPort) (f : Nal → Nal) : (modNal s p f).still = s.still := by
  rfl
@[simp] theorem modNal_setup (s : State) (p : NPort) (f : Nal → Nal) : (modNal s p f).setup = s.setup := setup_of_still
    (modNal_still _ _ _)
@[simp] theorem modNal_mems (s : State) (p : NPort) (f : Nal → Nal) : (modNal s p f).mems = s.mems := mems_of_still
    (modNal_still _ _ _)

theorem modMya_still (s : State) (n : Nat) (f : Mya → Mya) : (modMya s n f).still = s.still := by
  rfl
@[simp] theorem modMya_setup (s : State) (n : Nat) (f : Mya → Mya) : (modMya s n f).setup = s.setup := setup_of_still
    (modMya_still _ _ _)
@[simp] theorem modMya_mems (s : State) (n : Nat) (f : Mya → Mya) : (modMya s n f).mems = s.mems := mems_of_still (modMya_still
    _ _ _)

theorem modRing_still (s : State) (p : NPort) (r : RingId) (f : Ring → Ring) : (modRing s p r f).still = s.still := by
  rfl
@[simp] theorem modRing_setup (s : State) (p : NPort) (r : RingId) (f : Ring → Ring) : (modRing s p r f).setup = s.setup :=
    setup_of_still (modRing_still _ _ _ _)
@[simp] theorem modRing_mems (s : State) (p : NPort) (r : RingId) (f : Ring → Ring) : (modRing s p r f).mems = s.mems :=
    mems_of_still (modRing_still _ _ _ _)

theorem modErr_still (s : State) (p : NPort) (f : ErrRing → ErrRing) : (modErr s p f).still = s.still := by
  rfl
@[simp] theorem modErr_setup (s : State) (p : NPort) (f : ErrRing → ErrRing) : (modErr s p f).setup = s.setup := setup_of_still
    (modErr_still _ _ _)
@[simp] theorem modErr_mems (s : State) (p : NPort) (f : ErrRing → ErrRing) : (modErr s p f).mems = s.mems := mems_of_still
    (modErr_still _ _ _)

theorem modNbu_still (s : State) (id : Nat) (f : Nbu → Nbu) : (modNbu s id f).still = s.still := by
  rfl
@[simp] theorem modNbu_setup (s : State) (id : Nat) (f : Nbu → Nbu) : (modNbu s id f).setup = s.setup := setup_of_still
    (modNbu_still _ _ _)
@[simp] theorem modNbu_mems (s : State) (id : Nat) (f : Nbu → Nbu) : (modNbu s id f).mems = s.mems := mems_of_still
    (modNbu_still _ _ _)

theorem modBar_still (s : State) (k : Nat) (f : Bar → Bar) : (modBar s k f).still = s.still := by
  rfl
@[simp] theorem modBar_setup (s : State) (k : Nat) (f : Bar → Bar) : (modBar s k f).setup = s.setup := setup_of_still
    (modBar_still _ _ _)
@[simp] theorem modBar_mems (s : State) (k : Nat) (f : Bar → Bar) : (modBar s k f).mems = s.mems := mems_of_still (modBar_still
    _ _ _)

theorem modStk_still (s : State) (n : Nat) (f : Stk → Stk) : (modStk s n f).still = s.still := by
  rfl
@[simp] theorem modStk_setup (s : State) (n : Nat) (f : Stk → Stk) : (modStk s n f).setup = s.setup := setup_of_still
    (modStk_still _ _ _)
@[simp] theorem modStk_mems (s : State) (n : Nat) (f : Stk → Stk) : (modStk s n f).mems = s.mems := mems_of_still (modStk_still
    _ _ _)

theorem modCores_still (s : State) (n : Nat) (f : Core → Core) : (modCores s n f).still = s.still := by
  unfold modCores; simp
@[simp] theorem modCores_setup (s : State) (n : Nat) (f : Core → Core) : (modCores s n f).setup = s.setup := setup_of_still
    (modCores_still _ _ _)
@[simp] theorem modCores_mems (s : State) (n : Nat) (f : Core → Core) : (modCores s n f).mems = s.mems := mems_of_still
    (modCores_still _ _ _)

theorem pushTxn_still (s : State) (p : NPort) (t : Txn) : (pushTxn s p t).still = s.still := by
  unfold pushTxn; simp
@[simp] theorem pushTxn_setup (s : State) (p : NPort) (t : Txn) : (pushTxn s p t).setup = s.setup := setup_of_still
    (pushTxn_still _ _ _)
@[simp] theorem pushTxn_mems (s : State) (p : NPort) (t : Txn) : (pushTxn s p t).mems = s.mems := mems_of_still (pushTxn_still
    _ _ _)

theorem pushTxns_still (s : State) (p : NPort) (l : List Txn) : (pushTxns s p l).still = s.still := by
  unfold pushTxns; simp
@[simp] theorem pushTxns_setup (s : State) (p : NPort) (l : List Txn) : (pushTxns s p l).setup = s.setup := setup_of_still
    (pushTxns_still _ _ _)
@[simp] theorem pushTxns_mems (s : State) (p : NPort) (l : List Txn) : (pushTxns s p l).mems = s.mems := mems_of_still
    (pushTxns_still _ _ _)

theorem pumpReads_still (s : State) (p : NPort) (n : Nat) : (pumpReads s p n).still = s.still := by
  induction n generalizing s with
  | zero => rfl
  | succ n ih => simp only [pumpReads]; repeat' (first | rfl | split | (rw [ih]; simp; done))
@[simp] theorem pumpReads_setup (s : State) (p : NPort) (x0 : Nat) : (pumpReads s p x0).setup = s.setup := setup_of_still
    (pumpReads_still _ _ _)
@[simp] theorem pumpReads_mems (s : State) (p : NPort) (x0 : Nat) : (pumpReads s p x0).mems = s.mems := mems_of_still
    (pumpReads_still _ _ _)

theorem askRead_still (s : State) (p : NPort) (r : Mrd) : (askRead s p r).still = s.still := by
  unfold askRead; simp
@[simp] theorem askRead_setup (s : State) (p : NPort) (r : Mrd) : (askRead s p r).setup = s.setup := setup_of_still
    (askRead_still _ _ _)
@[simp] theorem askRead_mems (s : State) (p : NPort) (r : Mrd) : (askRead s p r).mems = s.mems := mems_of_still (askRead_still
    _ _ _)

theorem setFetch_still (s : State) (id : Reader) (f : Fetch) : (setFetch s id f).still = s.still := by
  rfl
@[simp] theorem setFetch_setup (s : State) (id : Reader) (f : Fetch) : (setFetch s id f).setup = s.setup := setup_of_still
    (setFetch_still _ _ _)
@[simp] theorem setFetch_mems (s : State) (id : Reader) (f : Fetch) : (setFetch s id f).mems = s.mems := mems_of_still
    (setFetch_still _ _ _)

theorem dropFetch_still (s : State) (id : Reader) : (dropFetch s id).still = s.still := by
  rfl
@[simp] theorem dropFetch_setup (s : State) (id : Reader) : (dropFetch s id).setup = s.setup := setup_of_still (dropFetch_still
    _ _)
@[simp] theorem dropFetch_mems (s : State) (id : Reader) : (dropFetch s id).mems = s.mems := mems_of_still (dropFetch_still _ _)

theorem askFetch_still (s : State) (f : Fetch) (off : Nat) : (askFetch s f off).still = s.still := by
  unfold askFetch; simp
@[simp] theorem askFetch_setup (s : State) (f : Fetch) (off : Nat) : (askFetch s f off).setup = s.setup := setup_of_still
    (askFetch_still _ _ _)
@[simp] theorem askFetch_mems (s : State) (f : Fetch) (off : Nat) : (askFetch s f off).mems = s.mems := mems_of_still
    (askFetch_still _ _ _)

theorem beginFetch_still (s : State) (id : Reader) (p : NPort) (addr : W64) (len : Nat) : (beginFetch s id p addr len).still =
    s.still := by
  unfold beginFetch; simp
@[simp] theorem beginFetch_setup (s : State) (id : Reader) (p : NPort) (addr : W64) (len : Nat) : (beginFetch s id p addr
    len).setup = s.setup := setup_of_still (beginFetch_still _ _ _ _ _)
@[simp] theorem beginFetch_mems (s : State) (id : Reader) (p : NPort) (addr : W64) (len : Nat) : (beginFetch s id p addr
    len).mems = s.mems := mems_of_still (beginFetch_still _ _ _ _ _)

theorem fetched_still (s : State) (id : Reader) (p : NPort) (addr : W64) (len : Nat) (k : State → HostRead → State) (h : ∀ s r,
    (k s r).still = s.still) : (fetched s id p addr len k).still = s.still := by
  unfold fetched
  split
  · exact beginFetch_still _ _ _ _ _
  · split
    · rfl
    · exact (h _ _).trans (dropFetch_still _ _)
@[simp] theorem fetched_setup (s : State) (id : Reader) (p : NPort) (addr : W64) (len : Nat) (k : State → HostRead → State) (h
    : ∀ s r, (k s r).setup = s.setup) : (fetched s id p addr len k).setup = s.setup := by
  unfold fetched
  split
  · exact beginFetch_setup _ _ _ _ _
  · split
    · rfl
    · exact (h _ _).trans (dropFetch_setup _ _)
theorem fetched_memOk {s : State} (id : Reader) (p : NPort) (addr : W64) (len : Nat) (k : State → HostRead → State) (h : ∀ s r,
    memOk s → memOk (k s r)) (hs : memOk s) : memOk (fetched s id p addr len k) := by
  unfold fetched
  split
  · exact (memOk_of_still (beginFetch_still _ _ _ _ _)).mpr hs
  · split
    · exact hs
    · exact h _ _ ((memOk_of_still (dropFetch_still _ _)).mpr hs)

theorem afterFlush_still (s : State) (q : NPort) (l : List Txn) : (afterFlush s q l).still = s.still := by
  unfold afterFlush; simp
@[simp] theorem afterFlush_setup (s : State) (q : NPort) (l : List Txn) : (afterFlush s q l).setup = s.setup := setup_of_still
    (afterFlush_still _ _ _)
@[simp] theorem afterFlush_mems (s : State) (q : NPort) (l : List Txn) : (afterFlush s q l).mems = s.mems := mems_of_still
    (afterFlush_still _ _ _)

theorem ringWrite_still (s : State) (p : NPort) (r : Rec) : (ringWrite s p r).1.still = s.still := by
  unfold ringWrite; dsimp only; (repeat' split) <;> simp
@[simp] theorem ringWrite_setup (s : State) (p : NPort) (r : Rec) : (ringWrite s p r).1.setup = s.setup := setup_of_still
    (ringWrite_still _ _ _)
@[simp] theorem ringWrite_mems (s : State) (p : NPort) (r : Rec) : (ringWrite s p r).1.mems = s.mems := mems_of_still
    (ringWrite_still _ _ _)

theorem writeRec_still (s : State) (rep : Report) (flags count : Nat) (time : W64) (detail : Nat) :
    (writeRec s rep flags count time detail).still = s.still := by
  unfold writeRec
  dsimp only
  split
  · refine (foldl_still _ _ _ fun s p => ?_).trans ?_
    · split
      · rfl
      · split <;> simp
    · exact foldl_fst_still _ _ _ fun a p => ringWrite_still _ _ _
  · exact foldl_fst_still _ _ _ fun a p => ringWrite_still _ _ _
@[simp] theorem writeRec_setup (s : State) (rep : Report) (flags : Nat) (count : Nat) (time : W64) (detail : Nat) : (writeRec s
    rep flags count time detail).setup = s.setup := setup_of_still (writeRec_still _ _ _ _ _ _)
@[simp] theorem writeRec_mems (s : State) (rep : Report) (flags : Nat) (count : Nat) (time : W64) (detail : Nat) : (writeRec s
    rep flags count time detail).mems = s.mems := mems_of_still (writeRec_still _ _ _ _ _ _)

theorem stormCount_still (s : State) (kind : Nat) : (stormCount s kind).still = s.still := by
  unfold stormCount; dsimp only; split; rfl; split <;> rfl
@[simp] theorem stormCount_setup (s : State) (kind : Nat) : (stormCount s kind).setup = s.setup := setup_of_still
    (stormCount_still _ _)
@[simp] theorem stormCount_mems (s : State) (kind : Nat) : (stormCount s kind).mems = s.mems := mems_of_still (stormCount_still
    _ _)

theorem stormReport_still (s : State) (rep : Report) : (stormReport s rep).still = s.still := by
  unfold stormReport; split <;> simp
@[simp] theorem stormReport_setup (s : State) (rep : Report) : (stormReport s rep).setup = s.setup := setup_of_still
    (stormReport_still _ _)
@[simp] theorem stormReport_mems (s : State) (rep : Report) : (stormReport s rep).mems = s.mems := mems_of_still
    (stormReport_still _ _)

theorem raise_still (s : State) (rep : Report) : (raise s rep).still = s.still := by
  unfold raise
  dsimp only
  split
  · simp
  · split
    · simp
    · split <;> simp
@[simp] theorem raise_setup (s : State) (rep : Report) : (raise s rep).setup = s.setup := setup_of_still (raise_still _ _)
@[simp] theorem raise_mems (s : State) (rep : Report) : (raise s rep).mems = s.mems := mems_of_still (raise_still _ _)

theorem darnFrame_still (s : State) : (darnFrame s).still = s.still := by
  unfold darnFrame; simp
@[simp] theorem darnFrame_setup (s : State) : (darnFrame s).setup = s.setup := setup_of_still (darnFrame_still _)
@[simp] theorem darnFrame_mems (s : State) : (darnFrame s).mems = s.mems := mems_of_still (darnFrame_still _)

theorem finish_still (s : State) (ref : DescRef) (status : Byte) (detail result : W64) (dataPorts : List NPort) : (finish s ref
    status detail result dataPorts).still = s.still := by
  unfold finish; dsimp only; (repeat' split) <;> simp
@[simp] theorem finish_setup (s : State) (ref : DescRef) (status : Byte) (detail result : W64) (dataPorts : List NPort) :
    (finish s ref status detail result dataPorts).setup = s.setup := setup_of_still (finish_still _ _ _ _ _ _)
@[simp] theorem finish_mems (s : State) (ref : DescRef) (status : Byte) (detail result : W64) (dataPorts : List NPort) :
    (finish s ref status detail result dataPorts).mems = s.mems := mems_of_still (finish_still _ _ _ _ _ _)

theorem advanceRing_still (s : State) (p : NPort) (r : RingId) (n : Nat) : (advanceRing s p r n).still = s.still := by
  induction n generalizing s with
  | zero => rfl
  | succ n ih => simp only [advanceRing]; repeat' (first | rfl | split | (rw [ih]; simp; done))
@[simp] theorem advanceRing_setup (s : State) (p : NPort) (r : RingId) (x0 : Nat) : (advanceRing s p r x0).setup = s.setup :=
    setup_of_still (advanceRing_still _ _ _ _)
@[simp] theorem advanceRing_mems (s : State) (p : NPort) (r : RingId) (x0 : Nat) : (advanceRing s p r x0).mems = s.mems :=
    mems_of_still (advanceRing_still _ _ _ _)

theorem settleRing_still (s : State) (p : NPort) (r : RingId) : (settleRing s p r).still = s.still := by
  unfold settleRing; simp
@[simp] theorem settleRing_setup (s : State) (p : NPort) (r : RingId) : (settleRing s p r).setup = s.setup := setup_of_still
    (settleRing_still _ _ _)
@[simp] theorem settleRing_mems (s : State) (p : NPort) (r : RingId) : (settleRing s p r).mems = s.mems := mems_of_still
    (settleRing_still _ _ _)

theorem complete_still (s : State) (ref : DescRef) (status : Byte) (detail result : W64) (dataPorts : List NPort) : (complete s
    ref status detail result dataPorts).still = s.still := by
  unfold complete; simp
@[simp] theorem complete_setup (s : State) (ref : DescRef) (status : Byte) (detail result : W64) (dataPorts : List NPort) :
    (complete s ref status detail result dataPorts).setup = s.setup := setup_of_still (complete_still _ _ _ _ _ _)
@[simp] theorem complete_mems (s : State) (ref : DescRef) (status : Byte) (detail result : W64) (dataPorts : List NPort) :
    (complete s ref status detail result dataPorts).mems = s.mems := mems_of_still (complete_still _ _ _ _ _ _)

theorem reject_still (s : State) (ref : DescRef) (status : Byte) (order item : Nat) : (reject s ref status order item).still =
    s.still := by
  unfold reject; simp
@[simp] theorem reject_setup (s : State) (ref : DescRef) (status : Byte) (order item : Nat) : (reject s ref status order
    item).setup = s.setup := setup_of_still (reject_still _ _ _ _ _)
@[simp] theorem reject_mems (s : State) (ref : DescRef) (status : Byte) (order item : Nat) : (reject s ref status order
    item).mems = s.mems := mems_of_still (reject_still _ _ _ _ _)

theorem acceptDesc_still (s : State) (ref : DescRef) : (acceptDesc s ref).still = s.still := by
  unfold acceptDesc; simp
@[simp] theorem acceptDesc_setup (s : State) (ref : DescRef) : (acceptDesc s ref).setup = s.setup := setup_of_still
    (acceptDesc_still _ _)
@[simp] theorem acceptDesc_mems (s : State) (ref : DescRef) : (acceptDesc s ref).mems = s.mems := mems_of_still
    (acceptDesc_still _ _)

theorem completeOk_still (s : State) (ref : DescRef) (result : W64) : (completeOk s ref result).still = s.still := by
  unfold completeOk; simp
@[simp] theorem completeOk_setup (s : State) (ref : DescRef) (result : W64) : (completeOk s ref result).setup = s.setup :=
    setup_of_still (completeOk_still _ _ _)
@[simp] theorem completeOk_mems (s : State) (ref : DescRef) (result : W64) : (completeOk s ref result).mems = s.mems :=
    mems_of_still (completeOk_still _ _ _)

theorem withDescriptor_still (s : State) (p : NPort) (r : RingId) (op : Byte) (k : State → DescRef → Desc → State)
    (h : ∀ s ref d, (k s ref d).still = s.still) : (withDescriptor s p r op k).still = s.still := by
  unfold withDescriptor; dsimp only; repeat' (first | split | (simp; done) | (rw [h]; simp; done))

@[simp] theorem withDescriptor_setup (s : State) (p : NPort) (r : RingId) (op : Byte) (k : State → DescRef → Desc → State)
    (h : ∀ s ref d, (k s ref d).setup = s.setup) : (withDescriptor s p r op k).setup = s.setup := by
  unfold withDescriptor; dsimp only
  repeat' (first | exact settleRing_setup _ _ _ | split |
    (simp [h]; done))

theorem withDescriptor_memOk {s : State} (p : NPort) (r : RingId) (op : Byte) (k : State → DescRef → Desc → State)
    (h : ∀ s ref d, memOk s → memOk (k s ref d)) (hs : memOk s) : memOk (withDescriptor s p r op k) := by
  have h0 : memOk (settleRing s p r) := (memOk_of_still (settleRing_still s p r)).mpr hs
  unfold withDescriptor; dsimp only; repeat' (first | assumption | split | (exact h _ _ _ h0))

theorem refuseRead_still (s : State) (ref : DescRef) (st : Byte) : (refuseRead s ref st).still = s.still := by
  unfold refuseRead; simp
@[simp] theorem refuseRead_setup (s : State) (ref : DescRef) (st : Byte) : (refuseRead s ref st).setup = s.setup :=
    setup_of_still (refuseRead_still _ _ _)
@[simp] theorem refuseRead_mems (s : State) (ref : DescRef) (st : Byte) : (refuseRead s ref st).mems = s.mems := mems_of_still
    (refuseRead_still _ _ _)

theorem withRead_still (s : State) (ref : DescRef) (addr : W64) (len : Nat) (k : State → List Byte → State) (h : ∀ s b, (k s
    b).still = s.still) : (withRead s ref addr len k).still = s.still := by
  unfold withRead
  refine fetched_still _ _ _ _ _ _ fun s r => ?_
  split
  · exact refuseRead_still _ _ _
  · exact h _ _
@[simp] theorem withRead_setup (s : State) (ref : DescRef) (addr : W64) (len : Nat) (k : State → List Byte → State) (h : ∀ s b,
    (k s b).setup = s.setup) : (withRead s ref addr len k).setup = s.setup := by
  unfold withRead
  refine fetched_setup _ _ _ _ _ _ fun s r => ?_
  split
  · exact refuseRead_setup _ _ _
  · exact h _ _
theorem withRead_memOk {s : State} (ref : DescRef) (addr : W64) (len : Nat) (k : State → List Byte → State) (h : ∀ s b, memOk s
    → memOk (k s b)) (hs : memOk s) : memOk (withRead s ref addr len k) := by
  unfold withRead
  refine fetched_memOk _ _ _ _ _ (fun s r hs => ?_) hs
  split
  · exact (memOk_of_still (refuseRead_still _ _ _)).mpr hs
  · exact h _ _ hs

theorem idleTick_still (s : State) : (idleTick s).still = s.still := by
  unfold idleTick; simp
@[simp] theorem idleTick_setup (s : State) : (idleTick s).setup = s.setup := setup_of_still (idleTick_still _)
@[simp] theorem idleTick_mems (s : State) : (idleTick s).mems = s.mems := mems_of_still (idleTick_still _)

theorem takeFree_still (s : State) : (takeFree s).2.still = s.still := by
  rfl
@[simp] theorem takeFree_setup (s : State) : (takeFree s).2.setup = s.setup := setup_of_still (takeFree_still _)
@[simp] theorem takeFree_mems (s : State) : (takeFree s).2.mems = s.mems := mems_of_still (takeFree_still _)

/-- Storing bytes keeps the canonical form. -/
theorem putBytes_wf {t : Tab Byte} (a : Nat) (l : List Byte) (h : twf 0 t = true) : twf 0 (putBytes t a l) = true := by
  induction l generalizing t a with
  | nil => exact h
  | cons b l ih => exact ih _ (twf_tset _ _ h)

/-- Storing a word keeps the canonical form. -/
theorem putWord_wf {m : CodeMem} (w : Nat) (d : W64) (c : Byte) (h : m.wf = true) : (putWord m w d c).wf = true := by
  simp only [CodeMem.wf, Bool.and_eq_true] at h
  simp only [putWord, CodeMem.wf, Bool.and_eq_true]
  exact ⟨putBytes_wf _ _ h.1, twf_tset _ _ h.2⟩

theorem memAt_wf {s : State} (id : MemId) (h : memOk s) : (memAt s id).wf = true := by
  obtain ⟨h1, h2, h3, h4⟩ := h
  cases id with
  | slice c => exact h1 c
  | basket c => exact h2 c
  | hamper => exact h3
  | stack => exact h4

@[simp] theorem setMem_setup (s : State) (id : MemId) (m : CodeMem) : (setMem s id m).setup = s.setup := by
  cases id <;> rfl

theorem tset_all_wf {t : Tab CodeMem} (k : Nat) {m : CodeMem} (hm : m.wf = true) (h : ∀ c, (tget {} t c).wf = true) (c : Nat) :
    (tget {} (tset {} t k m) c).wf = true := by
  rw [tget_tset]; split
  · exact hm
  · exact h c

theorem setMem_memOk {s : State} (id : MemId) {m : CodeMem} (hm : m.wf = true) (hs : memOk s) : memOk (setMem s id m) := by
  obtain ⟨h1, h2, h3, h4⟩ := hs
  cases id with
  | slice c => exact ⟨fun k => tset_all_wf c hm h1 k, h2, h3, h4⟩
  | basket c => exact ⟨h1, fun k => tset_all_wf c hm h2 k, h3, h4⟩
  | hamper => exact ⟨h1, h2, hm, h4⟩
  | stack => exact ⟨h1, h2, h3, hm⟩

theorem modEcc_still (s : State) (key : Nat) (f : EccInst → EccInst) : (modEcc s key f).still = s.still := by
  rfl
@[simp] theorem modEcc_setup (s : State) (key : Nat) (f : EccInst → EccInst) : (modEcc s key f).setup = s.setup :=
    setup_of_still (modEcc_still _ _ _)
@[simp] theorem modEcc_mems (s : State) (key : Nat) (f : EccInst → EccInst) : (modEcc s key f).mems = s.mems := mems_of_still
    (modEcc_still _ _ _)

theorem flagCandidate_still (s : State) (key addr : Nat) : (flagCandidate s key addr).still = s.still := by
  unfold flagCandidate; simp
@[simp] theorem flagCandidate_setup (s : State) (key addr : Nat) : (flagCandidate s key addr).setup = s.setup := setup_of_still
    (flagCandidate_still _ _ _)
@[simp] theorem flagCandidate_mems (s : State) (key addr : Nat) : (flagCandidate s key addr).mems = s.mems := mems_of_still
    (flagCandidate_still _ _ _)

theorem noteCorrected_still (s : State) (key addr : Nat) (y : Byte) : (noteCorrected s key addr y).still = s.still := by
  unfold noteCorrected; dsimp only; (repeat' split) <;> simp
@[simp] theorem noteCorrected_setup (s : State) (key addr : Nat) (y : Byte) : (noteCorrected s key addr y).setup = s.setup :=
    setup_of_still (noteCorrected_still _ _ _ _)
@[simp] theorem noteCorrected_mems (s : State) (key addr : Nat) (y : Byte) : (noteCorrected s key addr y).mems = s.mems :=
    mems_of_still (noteCorrected_still _ _ _ _)

theorem noteUncorrectable_still (s : State) (key addr : Nat) : (noteUncorrectable s key addr).still = s.still := by
  unfold noteUncorrectable; simp
@[simp] theorem noteUncorrectable_setup (s : State) (key addr : Nat) : (noteUncorrectable s key addr).setup = s.setup :=
    setup_of_still (noteUncorrectable_still _ _ _)
@[simp] theorem noteUncorrectable_mems (s : State) (key addr : Nat) : (noteUncorrectable s key addr).mems = s.mems :=
    mems_of_still (noteUncorrectable_still _ _ _)

theorem notePoison_still (s : State) (key : Nat) : (notePoison s key).still = s.still := by
  rfl
@[simp] theorem notePoison_setup (s : State) (key : Nat) : (notePoison s key).setup = s.setup := setup_of_still
    (notePoison_still _ _)
@[simp] theorem notePoison_mems (s : State) (key : Nat) : (notePoison s key).mems = s.mems := mems_of_still (notePoison_still _
    _)

theorem noteLink_still (s : State) (cls detail : Nat) : (noteLink s cls detail).still = s.still := by
  unfold noteLink; simp
@[simp] theorem noteLink_setup (s : State) (cls detail : Nat) : (noteLink s cls detail).setup = s.setup := setup_of_still
    (noteLink_still _ _ _)
@[simp] theorem noteLink_mems (s : State) (cls detail : Nat) : (noteLink s cls detail).mems = s.mems := mems_of_still
    (noteLink_still _ _ _)

theorem countPoison_still (s : State) (cls : Nat) (l : List (W64 × Bool)) : (countPoison s cls l).still = s.still := by
  unfold countPoison; simp
@[simp] theorem countPoison_setup (s : State) (cls : Nat) (l : List (W64 × Bool)) : (countPoison s cls l).setup = s.setup :=
    setup_of_still (countPoison_still _ _ _)
@[simp] theorem countPoison_mems (s : State) (cls : Nat) (l : List (W64 × Bool)) : (countPoison s cls l).mems = s.mems :=
    mems_of_still (countPoison_still _ _ _)

theorem crossWords_still (s : State) (cls detail : Nat) (bad : List Nat) (l : List (W64 × Bool)) : (crossWords s cls detail bad
    l).2.still = s.still := by
  unfold crossWords; simp
@[simp] theorem crossWords_setup (s : State) (cls detail : Nat) (bad : List Nat) (l : List (W64 × Bool)) : (crossWords s cls
    detail bad l).2.setup = s.setup := setup_of_still (crossWords_still _ _ _ _ _)
@[simp] theorem crossWords_mems (s : State) (cls detail : Nat) (bad : List Nat) (l : List (W64 × Bool)) : (crossWords s cls
    detail bad l).2.mems = s.mems := mems_of_still (crossWords_still _ _ _ _ _)

@[simp] theorem storeWord_setup (s : State) (id : MemId) (w : Nat) (d : W64) (c : Byte) :
    (storeWord s id w d c).setup = s.setup := by
  unfold storeWord; split <;> simp

theorem storeWord_memOk {s : State} (id : MemId) (w : Nat) (d : W64) (c : Byte) (hs : memOk s) :
    memOk (storeWord s id w d c) := by
  unfold storeWord; split
  · exact setMem_memOk id (putWord_wf _ _ _ (memAt_wf id hs)) hs
  · exact setMem_memOk id (putWord_wf _ _ _ (memAt_wf id hs)) hs
theorem storeWord_keep (s : State) (id : MemId) (w : Nat) (d : W64) (c : Byte) : Keep s (storeWord s id w d c) :=
    ⟨storeWord_setup _ _ _ _ _, storeWord_memOk _ _ _ _⟩

@[simp] theorem writeBack_setup (s : State) (id : MemId) (w : Nat) (d : W64) (c : Byte) :
    (writeBack s id w d c).setup = s.setup := by
  unfold writeBack; split
  · split <;> rfl
  · simp

theorem writeBack_memOk {s : State} (id : MemId) (w : Nat) (d : W64) (c : Byte) (hs : memOk s) :
    memOk (writeBack s id w d c) := by
  unfold writeBack; split
  · split <;> exact hs
  · exact storeWord_memOk id w d c hs
theorem writeBack_keep (s : State) (id : MemId) (w : Nat) (d : W64) (c : Byte) : Keep s (writeBack s id w d c) :=
    ⟨writeBack_setup _ _ _ _ _, writeBack_memOk _ _ _ _⟩

@[simp] theorem readWord_setup (s : State) (id : MemId) (w : Nat) : (readWord s id w).2.setup = s.setup := by
  unfold readWord; dsimp only; (repeat' split) <;> simp
theorem readWord_memOk {s : State} (id : MemId) (w : Nat) (hs : memOk s) : memOk (readWord s id w).2 := by
  unfold readWord
  try dsimp only
  repeat' (first | assumption | (with_reducible refine (memOk_of_still (noteCorrected_still _ _ _ _)).mpr ?_)
                 | (with_reducible refine (memOk_of_still (notePoison_still _ _)).mpr ?_)
                 | (with_reducible refine (memOk_of_still (noteUncorrectable_still _ _ _)).mpr ?_)
                 | (with_reducible refine writeBack_memOk _ _ _ _ ?_) | split | (intro _)
                 | (with_reducible refine foldl_memOk _ _ _ ?_ ?_) | (with_reducible refine foldl_fst_memOk _ _ _ ?_ ?_)
                 | (with_reducible refine foldl_snd_memOk _ _ _ ?_ ?_) | (simp only [memOk_mk, memsOk_eta]))
theorem readWord_keep (s : State) (id : MemId) (w : Nat) : Keep s (readWord s id w).2 := ⟨readWord_setup _ _ _, readWord_memOk
    _ _⟩

@[simp] theorem readWords_setup (s : State) (id : MemId) (w n : Nat) : (readWords s id w n).2.setup = s.setup := by
  induction n generalizing s w with
  | zero => rfl
  | succ n ih => simp only [readWords]; rw [ih]; simp

theorem readWords_memOk {s : State} (id : MemId) (w n : Nat) (hs : memOk s) : memOk (readWords s id w n).2 := by
  induction n generalizing s w with
  | zero => exact hs
  | succ n ih => exact ih _ (readWord_memOk id w hs)
theorem readWords_keep (s : State) (id : MemId) (w : Nat) (x0 : Nat) : Keep s (readWords s id w x0).2 := ⟨readWords_setup _ _ _
    _, readWords_memOk _ _ _⟩

@[simp] theorem writeWord_setup (s : State) (id : MemId) (w : Nat) (x : W64 × Bool) : (writeWord s id w x).setup = s.setup := by
  unfold writeWord; simp
theorem writeWord_memOk {s : State} (id : MemId) (w : Nat) (x : W64 × Bool) (hs : memOk s) : memOk (writeWord s id w x) := by
  unfold writeWord
  try dsimp only
  repeat' (first | assumption | (with_reducible refine storeWord_memOk _ _ _ _ ?_) | split | (intro _)
                 | (with_reducible refine foldl_memOk _ _ _ ?_ ?_) | (with_reducible refine foldl_fst_memOk _ _ _ ?_ ?_)
                 | (with_reducible refine foldl_snd_memOk _ _ _ ?_ ?_) | (simp only [memOk_mk, memsOk_eta]))
theorem writeWord_keep (s : State) (id : MemId) (w : Nat) (x : W64 × Bool) : Keep s (writeWord s id w x) := ⟨writeWord_setup _
    _ _ _, writeWord_memOk _ _ _⟩

@[simp] theorem fillZero_setup (s : State) (id : MemId) : (fillZero s id).setup = s.setup := by
  unfold fillZero; dsimp only; split <;> simp

theorem fillZero_memOk {s : State} (id : MemId) (hs : memOk s) : memOk (fillZero s id) := by
  have h := setMem_memOk id (m := {}) rfl hs
  unfold fillZero; dsimp only; split
  · exact storeWord_memOk _ _ _ _ h
  · exact h
theorem fillZero_keep (s : State) (id : MemId) : Keep s (fillZero s id) := ⟨fillZero_setup _ _, fillZero_memOk _⟩

@[simp] theorem writeWords_setup (s : State) (id : MemId) (w : Nat) (l : List (W64 × Bool)) :
    (writeWords s id w l).setup = s.setup := by
  induction l generalizing s w with
  | nil => rfl
  | cons x l ih => simp only [writeWords]; rw [ih]; simp

theorem writeWords_memOk {s : State} (id : MemId) (w : Nat) (l : List (W64 × Bool)) (hs : memOk s) :
    memOk (writeWords s id w l) := by
  induction l generalizing s w with
  | nil => exact hs
  | cons x l ih => exact ih _ (writeWord_memOk id w x hs)
theorem writeWords_keep (s : State) (id : MemId) (w : Nat) (x0 : List (W64 × Bool)) : Keep s (writeWords s id w x0) :=
    ⟨writeWords_setup _ _ _ _, writeWords_memOk _ _ _⟩

@[simp] theorem readMem_setup (s : State) (id : MemId) (a n : Nat) : (readMem s id a n).2.setup = s.setup := by
  unfold readMem; simp
theorem readMem_memOk {s : State} (id : MemId) (a n : Nat) (hs : memOk s) : memOk (readMem s id a n).2 := by
  unfold readMem
  try dsimp only
  repeat' (first | assumption | (with_reducible refine readWords_memOk _ _ _ ?_) | split | (intro _)
                 | (with_reducible refine foldl_memOk _ _ _ ?_ ?_) | (with_reducible refine foldl_fst_memOk _ _ _ ?_ ?_)
                 | (with_reducible refine foldl_snd_memOk _ _ _ ?_ ?_) | (simp only [memOk_mk, memsOk_eta]))
theorem readMem_keep (s : State) (id : MemId) (a n : Nat) : Keep s (readMem s id a n).2 := ⟨readMem_setup _ _ _ _,
    readMem_memOk _ _ _⟩

@[simp] theorem mergeWord_setup (s : State) (id : MemId) (w o : Nat) (bytes : List Byte) (p : Bool) : (mergeWord s id w o bytes
    p).setup = s.setup := by
  unfold mergeWord; simp
theorem mergeWord_memOk {s : State} (id : MemId) (w o : Nat) (bytes : List Byte) (p : Bool) (hs : memOk s) : memOk (mergeWord s
    id w o bytes p) := by
  unfold mergeWord
  try dsimp only
  repeat' (first | assumption | (with_reducible refine readWord_memOk _ _ ?_)
                 | (with_reducible refine writeWord_memOk _ _ _ ?_) | split | (intro _)
                 | (with_reducible refine foldl_memOk _ _ _ ?_ ?_) | (with_reducible refine foldl_fst_memOk _ _ _ ?_ ?_)
                 | (with_reducible refine foldl_snd_memOk _ _ _ ?_ ?_) | (simp only [memOk_mk, memsOk_eta]))
theorem mergeWord_keep (s : State) (id : MemId) (w o : Nat) (bytes : List Byte) (p : Bool) : Keep s (mergeWord s id w o bytes
    p) := ⟨mergeWord_setup _ _ _ _ _ _, mergeWord_memOk _ _ _ _ _⟩

@[simp] theorem writeMem_setup (s : State) (id : MemId) (a : Nat) (p : Bool) (n : Nat) (b : List Byte) :
    (writeMem s id a p n b).setup = s.setup := by
  induction n generalizing s a b with
  | zero => rfl
  | succ n ih => cases b with
    | nil => rfl
    | cons x b => simp only [writeMem]; rw [ih]; simp

theorem writeMem_memOk {s : State} (id : MemId) (a : Nat) (p : Bool) (n : Nat) (b : List Byte) (hs : memOk s) :
    memOk (writeMem s id a p n b) := by
  induction n generalizing s a b with
  | zero => exact hs
  | succ n ih => cases b with
    | nil => exact hs
    | cons x b => simp only [writeMem]; exact ih _ _ (mergeWord_memOk _ _ _ _ _ hs)
theorem writeMem_keep (s : State) (id : MemId) (a : Nat) (p : Bool) (x0 : Nat) (x1 : List Byte) : Keep s (writeMem s id a p x0
    x1) := ⟨writeMem_setup _ _ _ _ _ _, writeMem_memOk _ _ _ _ _⟩

@[simp] theorem writeRun_setup (s : State) (id : MemId) (a n : Nat) (b : List (Byte × Bool)) :
    (writeRun s id a n b).setup = s.setup := by
  induction n generalizing s a b with
  | zero => rfl
  | succ n ih => cases b with
    | nil => rfl
    | cons x b => simp only [writeRun]; rw [ih]; simp
theorem writeRun_memOk {s : State} (id : MemId) (a n : Nat) (b : List (Byte × Bool)) (hs : memOk s) :
    memOk (writeRun s id a n b) := by
  induction n generalizing s a b with
  | zero => exact hs
  | succ n ih => cases b with
    | nil => exact hs
    | cons x b => simp only [writeRun]; exact ih _ _ (mergeWord_memOk _ _ _ _ _ hs)
theorem writeRun_keep (s : State) (id : MemId) (a n : Nat) (b : List (Byte × Bool)) : Keep s (writeRun s id a n b) :=
  ⟨writeRun_setup _ _ _ _ _, writeRun_memOk _ _ _ _⟩

@[simp] theorem writeBytes_setup (s : State) (id : MemId) (a : Nat) (b : List Byte) (p : Bool) : (writeBytes s id a b p).setup
    = s.setup := by
  unfold writeBytes; simp
theorem writeBytes_memOk {s : State} (id : MemId) (a : Nat) (b : List Byte) (p : Bool) (hs : memOk s) : memOk (writeBytes s id
    a b p) := by
  unfold writeBytes
  try dsimp only
  repeat' (first | assumption | (with_reducible refine writeMem_memOk _ _ _ _ _ ?_) | split | (intro _)
                 | (with_reducible refine foldl_memOk _ _ _ ?_ ?_) | (with_reducible refine foldl_fst_memOk _ _ _ ?_ ?_)
                 | (with_reducible refine foldl_snd_memOk _ _ _ ?_ ?_) | (simp only [memOk_mk, memsOk_eta]))
theorem writeBytes_keep (s : State) (id : MemId) (a : Nat) (b : List Byte) (p : Bool) : Keep s (writeBytes s id a b p) :=
    ⟨writeBytes_setup _ _ _ _ _, writeBytes_memOk _ _ _ _⟩

@[simp] theorem readStack_setup (s : State) (a n : Nat) : (readStack s a n).2.setup = s.setup := by
  induction n generalizing s a with
  | zero => rfl
  | succ n ih => simp only [readStack]; rw [ih]; simp

theorem readStack_memOk {s : State} (a n : Nat) (hs : memOk s) : memOk (readStack s a n).2 := by
  induction n generalizing s a with
  | zero => exact hs
  | succ n ih => exact ih _ (readWord_memOk _ _ hs)
theorem readStack_keep (s : State) (a : Nat) (x0 : Nat) : Keep s (readStack s a x0).2 := ⟨readStack_setup _ _ _,
    readStack_memOk _ _⟩

@[simp] theorem readTable_setup (s : State) (a n : Nat) : (readTable s a n).setup = s.setup := by
  unfold readTable; simp
theorem readTable_memOk {s : State} (a n : Nat) (hs : memOk s) : memOk (readTable s a n) := by
  unfold readTable
  try dsimp only
  repeat' (first | assumption | (with_reducible refine readStack_memOk _ _ ?_) | split | (intro _)
                 | (with_reducible refine foldl_memOk _ _ _ ?_ ?_) | (with_reducible refine foldl_fst_memOk _ _ _ ?_ ?_)
                 | (with_reducible refine foldl_snd_memOk _ _ _ ?_ ?_) | (simp only [memOk_mk, memsOk_eta]))
theorem readTable_keep (s : State) (a n : Nat) : Keep s (readTable s a n) := ⟨readTable_setup _ _ _, readTable_memOk _ _⟩

@[simp] theorem writeStack_setup (s : State) (a : Nat) (l : List (W64 × Bool)) : (writeStack s a l).setup = s.setup := by
  induction l generalizing s a with
  | nil => rfl
  | cons x l ih => simp only [writeStack]; rw [ih]; simp

theorem writeStack_memOk {s : State} (a : Nat) (l : List (W64 × Bool)) (hs : memOk s) : memOk (writeStack s a l) := by
  induction l generalizing s a with
  | nil => exact hs
  | cons x l ih => exact ih _ (writeWord_memOk _ _ _ hs)
theorem writeStack_keep (s : State) (a : Nat) (x0 : List (W64 × Bool)) : Keep s (writeStack s a x0) := ⟨writeStack_setup _ _ _,
    writeStack_memOk _ _⟩

@[simp] theorem releaseDeferred_setup (s : State) : (releaseDeferred s).setup = s.setup := by
  unfold releaseDeferred
  refine foldl_setup _ _ _ fun s w => ?_
  dsimp only; repeat' (first | rfl | split | (simp; done))

theorem releaseDeferred_memOk {s : State} (hs : memOk s) : memOk (releaseDeferred s) := by
  unfold releaseDeferred
  refine foldl_memOk _ _ _ (fun s w hs => ?_) hs
  have h4 := hs.2.2.2
  dsimp only
  repeat' (first | exact hs | exact setMem_memOk _ (putWord_wf _ _ _ h4) hs | split)
theorem releaseDeferred_keep (s : State) : Keep s (releaseDeferred s) := ⟨releaseDeferred_setup _, releaseDeferred_memOk⟩

theorem reportPoison_still (s : State) (n : Nat) (station : Option Nat) : (reportPoison s n station).still = s.still := by
  unfold reportPoison; simp
@[simp] theorem reportPoison_setup (s : State) (n : Nat) (station : Option Nat) : (reportPoison s n station).setup = s.setup :=
    setup_of_still (reportPoison_still _ _ _)
@[simp] theorem reportPoison_mems (s : State) (n : Nat) (station : Option Nat) : (reportPoison s n station).mems = s.mems :=
    mems_of_still (reportPoison_still _ _ _)

theorem consumePoison_still (s : State) (n : Nat) (station : Option Nat) : (consumePoison s n station).still = s.still := by
  unfold consumePoison; simp
@[simp] theorem consumePoison_setup (s : State) (n : Nat) (station : Option Nat) : (consumePoison s n station).setup = s.setup
    := setup_of_still (consumePoison_still _ _ _)
@[simp] theorem consumePoison_mems (s : State) (n : Nat) (station : Option Nat) : (consumePoison s n station).mems = s.mems :=
    mems_of_still (consumePoison_still _ _ _)

@[simp] theorem readTile_setup (s : State) (id : MemId) (a tag kc : Nat) : (readTile s id a tag kc).2.setup = s.setup := by
  unfold readTile; simp
theorem readTile_memOk {s : State} (id : MemId) (a tag kc : Nat) (hs : memOk s) : memOk (readTile s id a tag kc).2 := by
  unfold readTile
  try dsimp only
  repeat' (first | assumption | (with_reducible refine readWords_memOk _ _ _ ?_) | split | (intro _)
                 | (with_reducible refine foldl_memOk _ _ _ ?_ ?_) | (with_reducible refine foldl_fst_memOk _ _ _ ?_ ?_)
                 | (with_reducible refine foldl_snd_memOk _ _ _ ?_ ?_) | (simp only [memOk_mk, memsOk_eta]))
theorem readTile_keep (s : State) (id : MemId) (a tag kc : Nat) : Keep s (readTile s id a tag kc).2 := ⟨readTile_setup _ _ _ _
    _, readTile_memOk _ _ _ _⟩

@[simp] theorem writePieces_setup (s : State) (id : MemId) (a : Nat) (l : List (Nat × List Byte × Bool)) : (writePieces s id a
    l).setup = s.setup := by
  induction l generalizing s with
  | nil => rfl
  | cons x l ih => simp only [writePieces]; rw [ih]; simp

theorem writePieces_memOk {s : State} (id : MemId) (a : Nat) (l : List (Nat × List Byte × Bool)) (hs : memOk s) :
    memOk (writePieces s id a l) := by
  induction l generalizing s with
  | nil => exact hs
  | cons x l ih => simp only [writePieces]; exact ih (writeBytes_memOk _ _ _ _ hs)
theorem writePieces_keep (s : State) (id : MemId) (a : Nat) (x0 : List (Nat × List Byte × Bool)) : Keep s (writePieces s id a
    x0) := ⟨writePieces_setup _ _ _ _, writePieces_memOk _ _ _⟩

@[simp] theorem writeTile_setup (s : State) (id : MemId) (a : Nat) (f : OutForm) (rows : Nat) (l : List OutBlk) : (writeTile s
    id a f rows l).setup = s.setup := by
  unfold writeTile; simp
theorem writeTile_memOk {s : State} (id : MemId) (a : Nat) (f : OutForm) (rows : Nat) (l : List OutBlk) (hs : memOk s) : memOk
    (writeTile s id a f rows l) := by
  unfold writeTile
  try dsimp only
  repeat' (first | assumption | (with_reducible refine writeWords_memOk _ _ _ ?_) | split | (intro _)
                 | (with_reducible refine foldl_memOk _ _ _ ?_ ?_) | (with_reducible refine foldl_fst_memOk _ _ _ ?_ ?_)
                 | (with_reducible refine foldl_snd_memOk _ _ _ ?_ ?_) | (simp only [memOk_mk, memsOk_eta]))
theorem writeTile_keep (s : State) (id : MemId) (a : Nat) (f : OutForm) (rows : Nat) (l : List OutBlk) : Keep s (writeTile s id
    a f rows l) := ⟨writeTile_setup _ _ _ _ _ _, writeTile_memOk _ _ _ _ _⟩

theorem coreConsumes_still (s : State) (core e : Nat) : (coreConsumes s core e).still = s.still := by
  unfold coreConsumes; split <;> simp
@[simp] theorem coreConsumes_setup (s : State) (core e : Nat) : (coreConsumes s core e).setup = s.setup := setup_of_still
    (coreConsumes_still _ _ _)
@[simp] theorem coreConsumes_mems (s : State) (core e : Nat) : (coreConsumes s core e).mems = s.mems := mems_of_still
    (coreConsumes_still _ _ _)

theorem addStats_still (s : State) (n st : Nat) (l : List Nat) : (addStats s n st l).still = s.still := by
  rfl
@[simp] theorem addStats_setup (s : State) (n st : Nat) (l : List Nat) : (addStats s n st l).setup = s.setup := setup_of_still
    (addStats_still _ _ _ _)
@[simp] theorem addStats_mems (s : State) (n st : Nat) (l : List Nat) : (addStats s n st l).mems = s.mems := mems_of_still
    (addStats_still _ _ _ _)

theorem countCensus_still (s : State) (core e : Nat) (c : Census) : (countCensus s core e c).still = s.still := by
  unfold countCensus; (repeat' split) <;> simp
@[simp] theorem countCensus_setup (s : State) (core e : Nat) (c : Census) : (countCensus s core e c).setup = s.setup :=
    setup_of_still (countCensus_still _ _ _ _)
@[simp] theorem countCensus_mems (s : State) (core e : Nat) (c : Census) : (countCensus s core e c).mems = s.mems :=
    mems_of_still (countCensus_still _ _ _ _)

theorem trailerMismatch_still (s : State) (core e : Nat) (side : TileSide) : (trailerMismatch s core e side).still = s.still :=
    by
  unfold trailerMismatch; split <;> simp
@[simp] theorem trailerMismatch_setup (s : State) (core e : Nat) (side : TileSide) : (trailerMismatch s core e side).setup =
    s.setup := setup_of_still (trailerMismatch_still _ _ _ _)
@[simp] theorem trailerMismatch_mems (s : State) (core e : Nat) (side : TileSide) : (trailerMismatch s core e side).mems =
    s.mems := mems_of_still (trailerMismatch_still _ _ _ _)

theorem coreCount_still (s : State) (core off n : Nat) : (coreCount s core off n).still = s.still := by
  rfl
@[simp] theorem coreCount_setup (s : State) (core off n : Nat) : (coreCount s core off n).setup = s.setup := setup_of_still
    (coreCount_still _ _ _ _)
@[simp] theorem coreCount_mems (s : State) (core off n : Nat) : (coreCount s core off n).mems = s.mems := mems_of_still
    (coreCount_still _ _ _ _)

theorem coreCycles_still (s : State) (core off : Nat) : (coreCycles s core off).still = s.still := by
  rfl
@[simp] theorem coreCycles_setup (s : State) (core off : Nat) : (coreCycles s core off).setup = s.setup := setup_of_still
    (coreCycles_still _ _ _)
@[simp] theorem coreCycles_mems (s : State) (core off : Nat) : (coreCycles s core off).mems = s.mems := mems_of_still
    (coreCycles_still _ _ _)

theorem stalled_still (s : State) (core e : Nat) : (stalled s core e).still = s.still := by
  unfold stalled; simp
@[simp] theorem stalled_setup (s : State) (core e : Nat) : (stalled s core e).setup = s.setup := setup_of_still (stalled_still
    _ _ _)
@[simp] theorem stalled_mems (s : State) (core e : Nat) : (stalled s core e).mems = s.mems := mems_of_still (stalled_still _ _
    _)

theorem stopRun_still (s : State) (n : Nat) (e : Ending) : (stopRun s n e).still = s.still := by
  unfold stopRun; split <;> simp
@[simp] theorem stopRun_setup (s : State) (n : Nat) (e : Ending) : (stopRun s n e).setup = s.setup := setup_of_still
    (stopRun_still _ _ _)
@[simp] theorem stopRun_mems (s : State) (n : Nat) (e : Ending) : (stopRun s n e).mems = s.mems := mems_of_still (stopRun_still
    _ _ _)

theorem haltIllegal_still (s : State) (core e : Nat) (st : Byte) : (haltIllegal s core e st).still = s.still := by
  unfold haltIllegal; split <;> simp
@[simp] theorem haltIllegal_setup (s : State) (core e : Nat) (st : Byte) : (haltIllegal s core e st).setup = s.setup :=
    setup_of_still (haltIllegal_still _ _ _ _)
@[simp] theorem haltIllegal_mems (s : State) (core e : Nat) (st : Byte) : (haltIllegal s core e st).mems = s.mems :=
    mems_of_still (haltIllegal_still _ _ _ _)

theorem postPeg_still (s : State) (core e q k : Nat) : (postPeg s core e q k).still = s.still := by
  unfold postPeg; simp
@[simp] theorem postPeg_setup (s : State) (core e q k : Nat) : (postPeg s core e q k).setup = s.setup := setup_of_still
    (postPeg_still _ _ _ _ _)
@[simp] theorem postPeg_mems (s : State) (core e q k : Nat) : (postPeg s core e q k).mems = s.mems := mems_of_still
    (postPeg_still _ _ _ _ _)

theorem retireHead_still (s : State) (core e : Nat) : (retireHead s core e).still = s.still := by
  unfold retireHead; dsimp only; (repeat' split) <;> simp
@[simp] theorem retireHead_setup (s : State) (core e : Nat) : (retireHead s core e).setup = s.setup := setup_of_still
    (retireHead_still _ _ _)
@[simp] theorem retireHead_mems (s : State) (core e : Nat) : (retireHead s core e).mems = s.mems := mems_of_still
    (retireHead_still _ _ _)

theorem passHead_still (s : State) (core e : Nat) : (passHead s core e).still = s.still := by
  unfold passHead; simp
@[simp] theorem passHead_setup (s : State) (core e : Nat) : (passHead s core e).setup = s.setup := setup_of_still
    (passHead_still _ _ _)
@[simp] theorem passHead_mems (s : State) (core e : Nat) : (passHead s core e).mems = s.mems := mems_of_still (passHead_still _
    _ _)

theorem jumpTo_still (s : State) (core e target : Nat) : (jumpTo s core e target).still = s.still := by
  rfl
@[simp] theorem jumpTo_setup (s : State) (core e target : Nat) : (jumpTo s core e target).setup = s.setup := setup_of_still
    (jumpTo_still _ _ _ _)
@[simp] theorem jumpTo_mems (s : State) (core e target : Nat) : (jumpTo s core e target).mems = s.mems := mems_of_still
    (jumpTo_still _ _ _ _)

theorem issueIf_setup (s : State) (core e fn : Nat) (free : Core → IWord → Bool) (check : State → Core → Eng → IWord → Option
    Byte)
    (effect : State → IWord → State) (h : ∀ s w, (effect s w).setup = s.setup) :
    (issueIf s core e fn free check effect).setup = s.setup := by
  unfold issueIf; dsimp only
  repeat' (first | rfl | exact setup_of_still (haltIllegal_still _ _ _ _) | split |
    (simp [h, setup_of_still (modCore_still _ _ _)]; done))

theorem issueIf_still (s : State) (core e fn : Nat) (free : Core → IWord → Bool) (check : State → Core → Eng → IWord → Option
    Byte)
    (effect : State → IWord → State) (h : ∀ s w, (effect s w).still = s.still) :
    (issueIf s core e fn free check effect).still = s.still := by
  unfold issueIf; dsimp only
  repeat' (first | rfl | exact haltIllegal_still _ _ _ _ | split | (rw [h]; simp; done) | (simp; done))

theorem issueIf_memOk {s : State} (core e fn : Nat) (free : Core → IWord → Bool)
    (check : State → Core → Eng → IWord → Option Byte) (effect : State → IWord → State)
    (h : ∀ s w, memOk s → memOk (effect s w)) (hs : memOk s) : memOk (issueIf s core e fn free check effect) := by
  unfold issueIf; dsimp only
  repeat' (first | assumption | exact (memOk_of_still (haltIllegal_still _ _ _ _)).mpr hs | split |
    (refine h _ _ ?_; exact (memOk_of_still (modCore_still _ _ _)).mpr hs) | exact (memOk_of_still (modCore_still _ _ _)).mpr hs)

theorem issue_still (s : State) (core e fn : Nat) (check : State → Core → Eng → IWord → Option Byte)
    (effect : State → IWord → State) (h : ∀ s w, (effect s w).still = s.still) :
    (issue s core e fn check effect).still = s.still := issueIf_still _ _ _ _ _ _ _ h

theorem issue_setup (s : State) (core e fn : Nat) (check : State → Core → Eng → IWord → Option Byte)
    (effect : State → IWord → State) (h : ∀ s w, (effect s w).setup = s.setup) :
    (issue s core e fn check effect).setup = s.setup := issueIf_setup _ _ _ _ _ _ _ h

theorem issue_memOk {s : State} (core e fn : Nat) (check : State → Core → Eng → IWord → Option Byte)
    (effect : State → IWord → State) (h : ∀ s w, memOk s → memOk (effect s w)) (hs : memOk s) :
    memOk (issue s core e fn check effect) := issueIf_memOk _ _ _ _ _ _ h hs

theorem launch_still (s : State) (core e : Nat) (w : IWord) (f : InFlight) (oneCycle : Bool) : (launch s core e w f
    oneCycle).still = s.still := by
  unfold launch; simp
@[simp] theorem launch_setup (s : State) (core e : Nat) (w : IWord) (f : InFlight) (oneCycle : Bool) : (launch s core e w f
    oneCycle).setup = s.setup := setup_of_still (launch_still _ _ _ _ _ _)
@[simp] theorem launch_mems (s : State) (core e : Nat) (w : IWord) (f : InFlight) (oneCycle : Bool) : (launch s core e w f
    oneCycle).mems = s.mems := mems_of_still (launch_still _ _ _ _ _ _)

theorem issued_still (s : State) (core e : Nat) (w : IWord) (f : InFlight) (oneCycle : Bool) : (issued s core e w f
    oneCycle).still = s.still := by
  unfold issued; simp
@[simp] theorem issued_setup (s : State) (core e : Nat) (w : IWord) (f : InFlight) (oneCycle : Bool) : (issued s core e w f
    oneCycle).setup = s.setup := setup_of_still (issued_still _ _ _ _ _ _)
@[simp] theorem issued_mems (s : State) (core e : Nat) (w : IWord) (f : InFlight) (oneCycle : Bool) : (issued s core e w f
    oneCycle).mems = s.mems := mems_of_still (issued_still _ _ _ _ _ _)

theorem issuedData_still (s : State) (core e : Nat) (w : IWord) (f : InFlight) : (issuedData s core e w f).still = s.still := by
  unfold issuedData; simp
@[simp] theorem issuedData_setup (s : State) (core e : Nat) (w : IWord) (f : InFlight) : (issuedData s core e w f).setup =
    s.setup := setup_of_still (issuedData_still _ _ _ _ _)
@[simp] theorem issuedData_mems (s : State) (core e : Nat) (w : IWord) (f : InFlight) : (issuedData s core e w f).mems = s.mems
    := mems_of_still (issuedData_still _ _ _ _ _)

theorem addDefect_still (s : State) (rec unit id : Nat) (src : BitVec 2) : (addDefect s rec unit id src).still = s.still := by
  unfold addDefect; simp
@[simp] theorem addDefect_setup (s : State) (rec unit id : Nat) (src : BitVec 2) : (addDefect s rec unit id src).setup =
    s.setup := setup_of_still (addDefect_still _ _ _ _ _)
@[simp] theorem addDefect_mems (s : State) (rec unit id : Nat) (src : BitVec 2) : (addDefect s rec unit id src).mems = s.mems
    := mems_of_still (addDefect_still _ _ _ _ _)

theorem fenceCluster_still (s : State) (c : Nat) : (fenceCluster s c).still = s.still := by
  unfold fenceCluster; dsimp only; (repeat' split) <;> simp
@[simp] theorem fenceCluster_setup (s : State) (c : Nat) : (fenceCluster s c).setup = s.setup := setup_of_still
    (fenceCluster_still _ _)
@[simp] theorem fenceCluster_mems (s : State) (c : Nat) : (fenceCluster s c).mems = s.mems := mems_of_still (fenceCluster_still
    _ _)

theorem spareCore_still (s : State) (rec p : Nat) : (spareCore s rec p).still = s.still := by
  unfold spareCore; dsimp only; (repeat' split) <;> simp
@[simp] theorem spareCore_setup (s : State) (rec p : Nat) : (spareCore s rec p).setup = s.setup := setup_of_still
    (spareCore_still _ _ _)
@[simp] theorem spareCore_mems (s : State) (rec p : Nat) : (spareCore s rec p).mems = s.mems := mems_of_still (spareCore_still
    _ _ _)

@[simp] theorem passDecoder_setup (s : State) (id : MemId) : (passDecoder s id).setup = s.setup := by
  unfold passDecoder; simp
theorem passDecoder_memOk {s : State} (id : MemId) (hs : memOk s) : memOk (passDecoder s id) := by
  unfold passDecoder
  try dsimp only
  repeat' (first | assumption | (with_reducible refine readWord_memOk _ _ ?_) | split | (intro _)
                 | (with_reducible refine foldl_memOk _ _ _ ?_ ?_) | (with_reducible refine foldl_fst_memOk _ _ _ ?_ ?_)
                 | (with_reducible refine foldl_snd_memOk _ _ _ ?_ ?_) | (simp only [memOk_mk, memsOk_eta]))
theorem passDecoder_keep (s : State) (id : MemId) : Keep s (passDecoder s id) := ⟨passDecoder_setup _ _, passDecoder_memOk _⟩

theorem finishSparing_keep (s : State) (x : Sparing) : Keep s (finishSparing s x) := by
  unfold finishSparing
  extract_lets moved old s1 s2 src s3
  have h1 : Keep s s1 := Keep.foldl _ _ _ fun s c => (passDecoder_keep _ _).trans (passDecoder_keep _ _)
  have h2 : Keep s1 s2 := Keep.foldl _ _ _ fun s c => by
    split
    · exact (keep_of_still (addStats_still _ _ _ _)).trans (keep_of_still (modCore_still _ _ _))
    · exact Keep.refl s
  have h3 : Keep s2 s3 := keep_of_still rfl
  exact h1.trans (h2.trans (h3.trans (keep_of_still (raise_still _ _))))
@[simp] theorem finishSparing_setup (s : State) (x : Sparing) : (finishSparing s x).setup = s.setup := (finishSparing_keep s
    x).1
theorem finishSparing_memOk {s : State} (x : Sparing) (hs : memOk s) : memOk (finishSparing s x) := (finishSparing_keep s x).2
    hs

theorem modArr_still (s : State) (core : Nat) (g : Bool) (f : Arr → Arr) : (modArr s core g f).still = s.still := by
  rfl
@[simp] theorem modArr_setup (s : State) (core : Nat) (g : Bool) (f : Arr → Arr) : (modArr s core g f).setup = s.setup :=
    setup_of_still (modArr_still _ _ _ _)
@[simp] theorem modArr_mems (s : State) (core : Nat) (g : Bool) (f : Arr → Arr) : (modArr s core g f).mems = s.mems :=
    mems_of_still (modArr_still _ _ _ _)

theorem readTiles_keep (s : State) (id : MemId) (tag kc : Nat) (x0 : List Int) : Keep s (readTiles s id tag kc x0).2 := by
  induction x0 generalizing s with
  | nil => exact Keep.refl s
  | cons a l ih => exact (readTile_keep _ _ _ _ _).trans (ih _)
@[simp] theorem readTiles_setup (s : State) (id : MemId) (tag kc : Nat) (x0 : List Int) : (readTiles s id tag kc x0).2.setup =
    s.setup := (readTiles_keep s id tag kc x0).1
theorem readTiles_memOk {s : State} (id : MemId) (tag kc : Nat) (x0 : List Int) (hs : memOk s) : memOk (readTiles s id tag kc
    x0).2 := (readTiles_keep s id tag kc x0).2 hs

theorem noteTrailers_still (s : State) (core e : Nat) (side : TileSide) (l : List Tile) : (noteTrailers s core e side l).still
    = s.still := by
  unfold noteTrailers; simp
@[simp] theorem noteTrailers_setup (s : State) (core e : Nat) (side : TileSide) (l : List Tile) : (noteTrailers s core e side
    l).setup = s.setup := setup_of_still (noteTrailers_still _ _ _ _ _)
@[simp] theorem noteTrailers_mems (s : State) (core e : Nat) (side : TileSide) (l : List Tile) : (noteTrailers s core e side
    l).mems = s.mems := mems_of_still (noteTrailers_still _ _ _ _ _)

theorem arithmeticFault_still (s : State) (core : Nat) : (arithmeticFault s core).still = s.still := by
  unfold arithmeticFault; simp
@[simp] theorem arithmeticFault_setup (s : State) (core : Nat) : (arithmeticFault s core).setup = s.setup := setup_of_still
    (arithmeticFault_still _ _)
@[simp] theorem arithmeticFault_mems (s : State) (core : Nat) : (arithmeticFault s core).mems = s.mems := mems_of_still
    (arithmeticFault_still _ _)

theorem faultUnresolved_still (s : State) (core : Nat) : (faultUnresolved s core).still = s.still := by
  unfold faultUnresolved; simp
@[simp] theorem faultUnresolved_setup (s : State) (core : Nat) : (faultUnresolved s core).setup = s.setup := setup_of_still
    (faultUnresolved_still _ _)
@[simp] theorem faultUnresolved_mems (s : State) (core : Nat) : (faultUnresolved s core).mems = s.mems := mems_of_still
    (faultUnresolved_still _ _)

theorem holdRedo_still (s : State) (core : Nat) (r : Redo) : (holdRedo s core r).still = s.still := by
  unfold holdRedo; simp
@[simp] theorem holdRedo_setup (s : State) (core : Nat) (r : Redo) : (holdRedo s core r).setup = s.setup := setup_of_still
    (holdRedo_still _ _ _)
@[simp] theorem holdRedo_mems (s : State) (core : Nat) (r : Redo) : (holdRedo s core r).mems = s.mems := mems_of_still
    (holdRedo_still _ _ _)

@[simp] theorem mmActs_setup (s : State) (core : Nat) (g : Bool) (w : IWord) : (mmActs s core g w).2.setup = s.setup := by
  unfold mmActs; simp
theorem mmActs_memOk {s : State} (core : Nat) (g : Bool) (w : IWord) (hs : memOk s) : memOk (mmActs s core g w).2 := by
  unfold mmActs
  try dsimp only
  repeat' (first | assumption | (with_reducible refine readTiles_memOk _ _ _ _ ?_) | split | (intro _)
                 | (with_reducible refine foldl_memOk _ _ _ ?_ ?_) | (with_reducible refine foldl_fst_memOk _ _ _ ?_ ?_)
                 | (with_reducible refine foldl_snd_memOk _ _ _ ?_ ?_) | (simp only [memOk_mk, memsOk_eta]))
theorem mmActs_keep (s : State) (core : Nat) (g : Bool) (w : IWord) : Keep s (mmActs s core g w).2 := ⟨mmActs_setup _ _ _ _,
    mmActs_memOk _ _ _⟩

theorem mmPass_still (s : State) (core : Nat) (g : Bool) (x : MmJob) (ups : List Upset) (j : Nat) (rows : List MmRow) : (mmPass
    s core g x ups j rows).1.still = s.still := by
  unfold mmPass; simp
@[simp] theorem mmPass_setup (s : State) (core : Nat) (g : Bool) (x : MmJob) (ups : List Upset) (j : Nat) (rows : List MmRow) :
    (mmPass s core g x ups j rows).1.setup = s.setup := setup_of_still (mmPass_still _ _ _ _ _ _ _)
@[simp] theorem mmPass_mems (s : State) (core : Nat) (g : Bool) (x : MmJob) (ups : List Upset) (j : Nat) (rows : List MmRow) :
    (mmPass s core g x ups j rows).1.mems = s.mems := mems_of_still (mmPass_still _ _ _ _ _ _ _)

theorem mmEnd_still (s : State) (core : Nat) (g : Bool) (w : IWord) (bad : Bool) : (mmEnd s core g w bad).still = s.still := by
  unfold mmEnd; simp
@[simp] theorem mmEnd_setup (s : State) (core : Nat) (g : Bool) (w : IWord) (bad : Bool) : (mmEnd s core g w bad).setup =
    s.setup := setup_of_still (mmEnd_still _ _ _ _ _)
@[simp] theorem mmEnd_mems (s : State) (core : Nat) (g : Bool) (w : IWord) (bad : Bool) : (mmEnd s core g w bad).mems = s.mems
    := mems_of_still (mmEnd_still _ _ _ _ _)

@[simp] theorem mmEffect_setup (core : Nat) (g : Bool) (fault : ArrayFault) (s : State) (w : IWord) : (mmEffect core g fault s
    w).setup = s.setup := by
  unfold mmEffect; dsimp only; (repeat' split) <;> simp
theorem mmEffect_memOk {s : State} (core : Nat) (g : Bool) (fault : ArrayFault) (w : IWord) (hs : memOk s) : memOk (mmEffect
    core g fault s w) := by
  unfold mmEffect
  try dsimp only
  repeat' (first | assumption | (with_reducible refine (memOk_of_still (holdRedo_still _ _ _)).mpr ?_)
                 | (with_reducible refine mmActs_memOk _ _ _ ?_)
                 | (with_reducible refine (memOk_of_still (mmEnd_still _ _ _ _ _)).mpr ?_)
                 | (with_reducible refine (memOk_of_still (mmPass_still _ _ _ _ _ _ _)).mpr ?_)
                 | (with_reducible refine (memOk_of_still (modArr_still _ _ _ _)).mpr ?_)
                 | (with_reducible refine (memOk_of_still (noteTrailers_still _ _ _ _ _)).mpr ?_)
                 | (with_reducible refine readTiles_memOk _ _ _ _ ?_)
                 | (with_reducible refine (memOk_of_still (trailerMismatch_still _ _ _ _)).mpr ?_) | split | (intro _)
                 | (with_reducible refine foldl_memOk _ _ _ ?_ ?_) | (with_reducible refine foldl_fst_memOk _ _ _ ?_ ?_)
                 | (with_reducible refine foldl_snd_memOk _ _ _ ?_ ?_) | (simp only [memOk_mk, memsOk_eta]))
theorem mmEffect_keep (core : Nat) (g : Bool) (fault : ArrayFault) (s : State) (w : IWord) : Keep s (mmEffect core g fault s w)
    := ⟨mmEffect_setup _ _ _ _ _, mmEffect_memOk _ _ _ _⟩

@[simp] theorem mmRedo_setup (core : Nat) (g : Bool) (r : Redo) (s : State) : (mmRedo core g r s).setup = s.setup := by
  unfold mmRedo; dsimp only; (repeat' split) <;> simp
theorem mmRedo_memOk {s : State} (core : Nat) (g : Bool) (r : Redo) (hs : memOk s) : memOk (mmRedo core g r s) := by
  unfold mmRedo
  try dsimp only
  repeat' (first | assumption | (with_reducible refine (memOk_of_still (faultUnresolved_still _ _)).mpr ?_)
                 | (with_reducible refine mmActs_memOk _ _ _ ?_)
                 | (with_reducible refine (memOk_of_still (mmEnd_still _ _ _ _ _)).mpr ?_)
                 | (with_reducible refine (memOk_of_still (mmPass_still _ _ _ _ _ _ _)).mpr ?_) | split | (intro _)
                 | (with_reducible refine foldl_memOk _ _ _ ?_ ?_) | (with_reducible refine foldl_fst_memOk _ _ _ ?_ ?_)
                 | (with_reducible refine foldl_snd_memOk _ _ _ ?_ ?_) | (simp only [memOk_mk, memsOk_eta]))
theorem mmRedo_keep (core : Nat) (g : Bool) (r : Redo) (s : State) : Keep s (mmRedo core g r s) := ⟨mmRedo_setup _ _ _ _,
    mmRedo_memOk _ _ _⟩

theorem skipAudit_still (s : State) (n core st : Nat) : (skipAudit s n core st).still = s.still := by
  rfl
@[simp] theorem skipAudit_setup (s : State) (n core st : Nat) : (skipAudit s n core st).setup = s.setup := setup_of_still
    (skipAudit_still _ _ _ _)
@[simp] theorem skipAudit_mems (s : State) (n core st : Nat) : (skipAudit s n core st).mems = s.mems := mems_of_still
    (skipAudit_still _ _ _ _)

theorem auditTile_still (s : State) (n core : Nat) (a : Audit) (bf16In : Bool) (ys zs : List Acc) : (auditTile s n core a
    bf16In ys zs).still = s.still := by
  unfold auditTile; simp
@[simp] theorem auditTile_setup (s : State) (n core : Nat) (a : Audit) (bf16In : Bool) (ys zs : List Acc) : (auditTile s n core
    a bf16In ys zs).setup = s.setup := setup_of_still (auditTile_still _ _ _ _ _ _ _)
@[simp] theorem auditTile_mems (s : State) (n core : Nat) (a : Audit) (bf16In : Bool) (ys zs : List Acc) : (auditTile s n core
    a bf16In ys zs).mems = s.mems := mems_of_still (auditTile_still _ _ _ _ _ _ _)

theorem noteTile_still (s : State) (core e : Nat) (f : OutForm) (addr : Nat) (begins : Bool) (blks : List OutBlk) (rows : List
    (Option (List Acc))) : (noteTile s core e f addr begins blks rows).still = s.still := by
  unfold noteTile; dsimp only; (repeat' split) <;> simp
@[simp] theorem noteTile_setup (s : State) (core e : Nat) (f : OutForm) (addr : Nat) (begins : Bool) (blks : List OutBlk) (rows
    : List (Option (List Acc))) : (noteTile s core e f addr begins blks rows).setup = s.setup := setup_of_still (noteTile_still
    _ _ _ _ _ _ _ _)
@[simp] theorem noteTile_mems (s : State) (core e : Nat) (f : OutForm) (addr : Nat) (begins : Bool) (blks : List OutBlk) (rows
    : List (Option (List Acc))) : (noteTile s core e f addr begins blks rows).mems = s.mems := mems_of_still (noteTile_still _
    _ _ _ _ _ _ _)

@[simp] theorem drainTile_setup (s : State) (core e : Nat) (f : OutForm) (addr : Nat) (rows : List (Option (List Acc))) :
    (drainTile s core e f addr rows).1.setup = s.setup := by
  unfold drainTile; simp
theorem drainTile_memOk {s : State} (core e : Nat) (f : OutForm) (addr : Nat) (rows : List (Option (List Acc))) (hs : memOk s)
    : memOk (drainTile s core e f addr rows).1 := by
  unfold drainTile
  try dsimp only
  repeat' (first | assumption | (with_reducible refine (memOk_of_still (coreConsumes_still _ _ _)).mpr ?_)
                 | (with_reducible refine (memOk_of_still (countCensus_still _ _ _ _)).mpr ?_)
                 | (with_reducible refine (memOk_of_still (modCore_still _ _ _)).mpr ?_)
                 | (with_reducible refine (memOk_of_still (noteTile_still _ _ _ _ _ _ _ _)).mpr ?_)
                 | (with_reducible refine writeTile_memOk _ _ _ _ _ ?_) | split | (intro _)
                 | (with_reducible refine foldl_memOk _ _ _ ?_ ?_) | (with_reducible refine foldl_fst_memOk _ _ _ ?_ ?_)
                 | (with_reducible refine foldl_snd_memOk _ _ _ ?_ ?_) | (simp only [memOk_mk, memsOk_eta]))
theorem drainTile_keep (s : State) (core e : Nat) (f : OutForm) (addr : Nat) (rows : List (Option (List Acc))) : Keep s
    (drainTile s core e f addr rows).1 := ⟨drainTile_setup _ _ _ _ _ _, drainTile_memOk _ _ _ _ _⟩

theorem addValues_keep (s : State) (core addr n : Nat) (l : List W32) : Keep s (addValues s core addr n l).1 := by
  induction n generalizing s addr l with
  | zero => exact Keep.refl s
  | succ n ih =>
    unfold addValues; dsimp only
    exact (readMem_keep _ _ _ _).trans ((writeBytes_keep _ _ _ _ _).trans (ih _ _ _))
theorem writeVector_keep (s : State) (core e addr : Nat) (add : Bool) (n : Nat) (l : List (W32 × Bool)) :
    Keep s (writeVector s core e addr add n l) := by
  unfold writeVector; dsimp only
  split
  · exact writeBytes_keep _ _ _ _ _
  · split
    · split
      · exact (addValues_keep _ _ _ _ _).trans (keep_of_still (coreConsumes_still _ _ _))
      · exact addValues_keep _ _ _ _ _
    · exact writeBytes_keep _ _ _ _ _
@[simp] theorem writeVector_setup (s : State) (core e addr : Nat) (add : Bool) (n : Nat) (l : List (W32 × Bool)) :
    (writeVector s core e addr add n l).setup = s.setup := (writeVector_keep s core e addr add n l).1
theorem writeVector_memOk {s : State} (core e addr : Nat) (add : Bool) (n : Nat) (l : List (W32 × Bool)) (hs : memOk s) :
    memOk (writeVector s core e addr add n l) := (writeVector_keep s core e addr add n l).2 hs

@[simp] theorem pokeStack_setup (s : State) (a : Nat) (b : List Byte) : (pokeStack s a b).setup = s.setup := by
  unfold pokeStack; simp
theorem pokeStack_memOk {s : State} (a : Nat) (b : List Byte) (hs : memOk s) : memOk (pokeStack s a b) := by
  unfold pokeStack
  try dsimp only
  repeat' (first | assumption | (with_reducible refine writeStack_memOk _ _ ?_) | split | (intro _)
                 | (with_reducible refine foldl_memOk _ _ _ ?_ ?_) | (with_reducible refine foldl_fst_memOk _ _ _ ?_ ?_)
                 | (with_reducible refine foldl_snd_memOk _ _ _ ?_ ?_) | (simp only [memOk_mk, memsOk_eta]))
theorem pokeStack_keep (s : State) (a : Nat) (b : List Byte) : Keep s (pokeStack s a b) := ⟨pokeStack_setup _ _ _,
    pokeStack_memOk _ _⟩

@[simp] theorem zeroStack_setup (s : State) (a n : Nat) : (zeroStack s a n).setup = s.setup := by
  unfold zeroStack; simp
theorem zeroStack_memOk {s : State} (a n : Nat) (hs : memOk s) : memOk (zeroStack s a n) := by
  unfold zeroStack
  try dsimp only
  repeat' (first | assumption | (with_reducible refine writeStack_memOk _ _ ?_) | split | (intro _)
                 | (with_reducible refine foldl_memOk _ _ _ ?_ ?_) | (with_reducible refine foldl_fst_memOk _ _ _ ?_ ?_)
                 | (with_reducible refine foldl_snd_memOk _ _ _ ?_ ?_) | (simp only [memOk_mk, memsOk_eta]))
theorem zeroStack_keep (s : State) (a n : Nat) : Keep s (zeroStack s a n) := ⟨zeroStack_setup _ _ _, zeroStack_memOk _ _⟩

@[simp] theorem setPb_setup (s : State) (id : Nat) (e : PbEntry) : (setPb s id e).setup = s.setup := by
  unfold setPb; simp
theorem setPb_memOk {s : State} (id : Nat) (e : PbEntry) (hs : memOk s) : memOk (setPb s id e) := by
  unfold setPb
  try dsimp only
  repeat' (first | assumption | (with_reducible refine pokeStack_memOk _ _ ?_) | split | (intro _)
                 | (with_reducible refine foldl_memOk _ _ _ ?_ ?_) | (with_reducible refine foldl_fst_memOk _ _ _ ?_ ?_)
                 | (with_reducible refine foldl_snd_memOk _ _ _ ?_ ?_) | (simp only [memOk_mk, memsOk_eta]))
theorem setPb_keep (s : State) (id : Nat) (e : PbEntry) : Keep s (setPb s id e) := ⟨setPb_setup _ _ _, setPb_memOk _ _⟩

@[simp] theorem withTables_setup (s : State) (ref : DescRef) (part : Nat) (l : List (Nat × Nat)) (k : State → State) (h : ∀ s,
    (k s).setup = s.setup) : (withTables s ref part l k).setup = s.setup := by
  unfold withTables
  split
  · rfl
  · dsimp only
    split
    · refine (refuseRead_setup _ _ _).trans ((reportPoison_setup _ _ _).trans ?_)
      exact foldl_setup _ _ _ fun _ _ => readTable_setup _ _ _
    · exact (h _).trans (foldl_setup _ _ _ fun _ _ => readTable_setup _ _ _)
theorem withTables_memOk {s : State} (ref : DescRef) (part : Nat) (l : List (Nat × Nat)) (k : State → State) (h : ∀ s, memOk s
    → memOk (k s)) (hs : memOk s) : memOk (withTables s ref part l k) := by
  have h0 : memOk (l.foldl (fun s x => readTable s x.1 x.2) s) := foldl_memOk _ _ _ (fun _ _ => readTable_memOk _ _) hs
  unfold withTables
  split
  · exact hs
  · dsimp only
    split
    · exact (memOk_of_still ((refuseRead_still _ _ _).trans (reportPoison_still _ _ _))).mpr h0
    · exact h _ h0

@[simp] theorem withIds_setup (s : State) (ref : DescRef) (d : Desc) (k : State → List Nat → State) (h : ∀ s l, (k s l).setup =
    s.setup) : (withIds s ref d k).setup = s.setup := by
  unfold withIds; dsimp only
  repeat' split
  iterate 3 exact reject_setup _ _ _ _ _
  refine withRead_setup _ _ _ _ _ fun s b => withTables_setup _ _ _ _ _ fun s => ?_
  split
  · exact reject_setup _ _ _ _ _
  · exact h _ _
theorem withIds_memOk {s : State} (ref : DescRef) (d : Desc) (k : State → List Nat → State) (h : ∀ s l, memOk s → memOk (k s
    l)) (hs : memOk s) : memOk (withIds s ref d k) := by
  have hr : ∀ s st o x, memOk s → memOk (reject s ref st o x) := fun s st o x hs => (memOk_of_still (reject_still _ _ _ _ _)).mpr hs
  unfold withIds; dsimp only
  repeat' split
  iterate 3 exact hr _ _ _ _ hs
  refine withRead_memOk _ _ _ _ (fun s b hs => withTables_memOk _ _ _ _ (fun s hs => ?_) hs) hs
  split
  · exact hr _ _ _ _ hs
  · exact h _ _ hs

theorem addXfer_still (s : State) (x : Xfer) : (addXfer s x).still = s.still := by
  rfl
@[simp] theorem addXfer_setup (s : State) (x : Xfer) : (addXfer s x).setup = s.setup := setup_of_still (addXfer_still _ _)
@[simp] theorem addXfer_mems (s : State) (x : Xfer) : (addXfer s x).mems = s.mems := mems_of_still (addXfer_still _ _)

theorem answer_still (s : State) (a : Access) (st : Byte) (data : W32) : (answer s a st data).still = s.still := by
  unfold answer; simp
@[simp] theorem answer_setup (s : State) (a : Access) (st : Byte) (data : W32) : (answer s a st data).setup = s.setup :=
    setup_of_still (answer_still _ _ _ _)
@[simp] theorem answer_mems (s : State) (a : Access) (st : Byte) (data : W32) : (answer s a st data).mems = s.mems :=
    mems_of_still (answer_still _ _ _ _)

theorem setupWrite_still (s : State) (a : Access) (off : Nat) (f : State → Byte × State)
    (h : ∀ s, (f s).2.still = s.still) : (setupWrite s a off f).still = s.still := by
  unfold setupWrite; dsimp only
  repeat' (first | split | (simp; done) | (refine (answer_still _ _ _ _).trans ((h _).trans ?_); simp; done))

theorem setupWrite_setup (s : State) (a : Access) (off : Nat) (f : State → Byte × State)
    (h : ∀ s, (f s).2.setup = s.setup) : (setupWrite s a off f).setup = s.setup := by
  unfold setupWrite; dsimp only; repeat' (first | split | (simp [h]; done))

theorem setupWrite_memOk {s : State} (a : Access) (off : Nat) (f : State → Byte × State)
    (h : ∀ s, memOk s → memOk (f s).2) (hs : memOk s) : memOk (setupWrite s a off f) := by
  have hs' : ∀ g, memOk (modNal s a.port g) := fun g => (memOk_of_still (modNal_still _ _ _)).mpr hs
  unfold setupWrite; dsimp only
  repeat' (first | split | (refine (memOk_of_still (answer_still _ _ _ _)).mpr ?_; first | exact hs | exact h _ (hs' _) | exact hs' _))

theorem readDescs_still (s : State) (p : NPort) (r : RingId) (n : Nat) : (readDescs s p r n).still = s.still := by
  induction n generalizing s with
  | zero => rfl
  | succ n ih => simp only [readDescs]; split; rfl; rw [ih]; simp
@[simp] theorem readDescs_setup (s : State) (p : NPort) (r : RingId) (x0 : Nat) : (readDescs s p r x0).setup = s.setup :=
    setup_of_still (readDescs_still _ _ _ _)
@[simp] theorem readDescs_mems (s : State) (p : NPort) (r : RingId) (x0 : Nat) : (readDescs s p r x0).mems = s.mems :=
    mems_of_still (readDescs_still _ _ _ _)

theorem ringDoorbell_still (s : State) (port : NPort) (body : W64) : (ringDoorbell s port body).still = s.still := by
  unfold ringDoorbell; dsimp only; (repeat' split) <;> simp
@[simp] theorem ringDoorbell_setup (s : State) (port : NPort) (body : W64) : (ringDoorbell s port body).setup = s.setup :=
    setup_of_still (ringDoorbell_still _ _ _)
@[simp] theorem ringDoorbell_mems (s : State) (port : NPort) (body : W64) : (ringDoorbell s port body).mems = s.mems :=
    mems_of_still (ringDoorbell_still _ _ _)

theorem pressAnswer_still (s : State) (a : Access) (st : Byte) : (pressAnswer s a st).still = s.still := by
  unfold pressAnswer; simp
@[simp] theorem pressAnswer_setup (s : State) (a : Access) (st : Byte) : (pressAnswer s a st).setup = s.setup := setup_of_still
    (pressAnswer_still _ _ _)
@[simp] theorem pressAnswer_mems (s : State) (a : Access) (st : Byte) : (pressAnswer s a st).mems = s.mems := mems_of_still
    (pressAnswer_still _ _ _)

theorem foldCtl_still (s : State) (p : NPort) (v rsv : W32) (waits : Bool) (f : State → Byte × State)
    (h : (f s).2.still = s.still) : (foldCtl s p v rsv waits f).2.still = s.still := by
  unfold foldCtl; repeat' (first | rfl | split | exact h)

theorem readLocal_keep (s : State) (u off : Nat) (x0 : Nat) : Keep s (readLocal s u off x0).2 := by
  induction x0 generalizing s off with
  | zero => exact Keep.refl s
  | succ n ih =>
    refine Keep.trans ?_ (ih _ _)
    split
    · exact readWord_keep _ _ _
    · exact keep_of_still (takeFree_still _)
@[simp] theorem readLocal_setup (s : State) (u off : Nat) (x0 : Nat) : (readLocal s u off x0).2.setup = s.setup :=
    (readLocal_keep s u off x0).1
theorem readLocal_memOk {s : State} (u off : Nat) (x0 : Nat) (hs : memOk s) : memOk (readLocal s u off x0).2 := (readLocal_keep
    s u off x0).2 hs

@[simp] theorem putStores_setup (s : State) (u : Nat) (l : Stores) : (putStores s u l).setup = s.setup := by
  unfold putStores; simp
theorem putStores_memOk {s : State} (u : Nat) (l : Stores) (hs : memOk s) : memOk (putStores s u l) := by
  unfold putStores
  try dsimp only
  repeat' (first | assumption | (with_reducible refine writeRun_memOk _ _ _ _ ?_) | split | (intro _)
                 | (with_reducible refine foldl_memOk _ _ _ ?_ ?_) | (with_reducible refine foldl_fst_memOk _ _ _ ?_ ?_)
                 | (with_reducible refine foldl_snd_memOk _ _ _ ?_ ?_) | (simp only [memOk_mk, memsOk_eta]))
theorem putStores_keep (s : State) (u : Nat) (l : Stores) : Keep s (putStores s u l) := ⟨putStores_setup _ _ _, putStores_memOk
    _ _⟩

theorem readRuns_keep (s : State) (u off len n : Nat) : Keep s (readRuns s u off len n).2 :=
  Keep.foldl_snd _ _ ([], s) fun _ _ => readLocal_keep _ _ _ _
@[simp] theorem readRuns_setup (s : State) (u off len n : Nat) : (readRuns s u off len n).2.setup = s.setup :=
    (readRuns_keep s u off len n).1
theorem readRuns_memOk {s : State} (u off len n : Nat) (hs : memOk s) : memOk (readRuns s u off len n).2 :=
    (readRuns_keep s u off len n).2 hs

theorem readCarriers_keep (s : State) (u off : Nat) (n : Nat) : Keep s (readCarriers s u off n).2 := by
  unfold readCarriers
  exact readRuns_keep s u off 1024 _
@[simp] theorem readCarriers_setup (s : State) (u off : Nat) (n : Nat) : (readCarriers s u off n).2.setup = s.setup :=
    (readCarriers_keep s u off n).1
theorem readCarriers_memOk {s : State} (u off : Nat) (n : Nat) (hs : memOk s) : memOk (readCarriers s u off n).2 :=
    (readCarriers_keep s u off n).2 hs

@[simp] theorem gemvTiles_setup (s : State) (u : Nat) (w : List W32) (nt : Nat) : (gemvTiles s u w nt).2.setup = s.setup := by
  unfold gemvTiles; simp
theorem gemvTiles_memOk {s : State} (u : Nat) (w : List W32) (nt : Nat) (hs : memOk s) : memOk (gemvTiles s u w nt).2 := by
  unfold gemvTiles
  try dsimp only
  repeat' (first | assumption | (with_reducible refine readLocal_memOk _ _ _ ?_) | split | (intro _)
                 | (with_reducible refine foldl_memOk _ _ _ ?_ ?_) | (with_reducible refine foldl_fst_memOk _ _ _ ?_ ?_)
                 | (with_reducible refine foldl_snd_memOk _ _ _ ?_ ?_) | (simp only [memOk_mk, memsOk_eta]))
theorem gemvTiles_keep (s : State) (u : Nat) (w : List W32) (nt : Nat) : Keep s (gemvTiles s u w nt).2 := ⟨gemvTiles_setup _ _
    _ _, gemvTiles_memOk _ _ _⟩

@[simp] theorem gemvValues_setup (s : State) (u : Nat) (w : List W32) (vscale : W32) : (gemvValues s u w vscale).2.setup =
    s.setup := by
  unfold gemvValues; dsimp only; (repeat' split) <;> simp
theorem gemvValues_memOk {s : State} (u : Nat) (w : List W32) (vscale : W32) (hs : memOk s) : memOk (gemvValues s u w vscale).2
    := by
  unfold gemvValues
  try dsimp only
  repeat' (first | assumption | (with_reducible refine gemvTiles_memOk _ _ _ ?_)
                 | (with_reducible refine readCarriers_memOk _ _ _ ?_) | split | (intro _)
                 | (with_reducible refine foldl_memOk _ _ _ ?_ ?_) | (with_reducible refine foldl_fst_memOk _ _ _ ?_ ?_)
                 | (with_reducible refine foldl_snd_memOk _ _ _ ?_ ?_) | (simp only [memOk_mk, memsOk_eta]))
theorem gemvValues_keep (s : State) (u : Nat) (w : List W32) (vscale : W32) : Keep s (gemvValues s u w vscale).2 :=
    ⟨gemvValues_setup _ _ _ _, gemvValues_memOk _ _ _⟩

@[simp] theorem readLists_setup (s : State) (u : Nat) (w : List W32) : (readLists s u w).setup = s.setup := by
  unfold readLists; simp
theorem readLists_memOk {s : State} (u : Nat) (w : List W32) (hs : memOk s) : memOk (readLists s u w) := by
  unfold readLists
  try dsimp only
  repeat' (first | assumption | (with_reducible refine readTable_memOk _ _ ?_) | split | (intro _)
                 | (with_reducible refine foldl_memOk _ _ _ ?_ ?_) | (with_reducible refine foldl_fst_memOk _ _ _ ?_ ?_)
                 | (with_reducible refine foldl_snd_memOk _ _ _ ?_ ?_) | (simp only [memOk_mk, memsOk_eta]))
theorem readLists_keep (s : State) (u : Nat) (w : List W32) : Keep s (readLists s u w) := ⟨readLists_setup _ _ _,
    readLists_memOk _ _⟩

@[simp] theorem localBytes_setup (s : State) (u off n : Nat) : (localBytes s u off n).2.setup = s.setup := by
  unfold localBytes; simp
theorem localBytes_memOk {s : State} (u off n : Nat) (hs : memOk s) : memOk (localBytes s u off n).2 := by
  unfold localBytes
  try dsimp only
  repeat' (first | assumption | (with_reducible refine readLocal_memOk _ _ _ ?_) | split | (intro _)
                 | (with_reducible refine foldl_memOk _ _ _ ?_ ?_) | (with_reducible refine foldl_fst_memOk _ _ _ ?_ ?_)
                 | (with_reducible refine foldl_snd_memOk _ _ _ ?_ ?_) | (simp only [memOk_mk, memsOk_eta]))
theorem localBytes_keep (s : State) (u off n : Nat) : Keep s (localBytes s u off n).2 := ⟨localBytes_setup _ _ _ _,
    localBytes_memOk _ _ _⟩

theorem readTokens_keep (s : State) (u tag d : Nat) (x0 : List (List (Nat × Nat))) : Keep s (readTokens s u tag d x0).2 := by
  induction x0 generalizing s with
  | nil => exact Keep.refl s
  | cons a l ih =>
    exact (localBytes_keep _ _ _ _).trans ((localBytes_keep _ _ _ _).trans ((localBytes_keep _ _ _ _).trans
      ((localBytes_keep _ _ _ _).trans (ih _))))
@[simp] theorem readTokens_setup (s : State) (u tag d : Nat) (x0 : List (List (Nat × Nat))) : (readTokens s u tag d x0).2.setup
    = s.setup := (readTokens_keep s u tag d x0).1
theorem readTokens_memOk {s : State} (u tag d : Nat) (x0 : List (List (Nat × Nat))) (hs : memOk s) : memOk (readTokens s u tag
    d x0).2 := (readTokens_keep s u tag d x0).2 hs

@[simp] theorem attnValues_setup (s : State) (u : Nat) (w : List W32) (vscale : W32) : (attnValues s u w vscale).2.setup =
    s.setup := by
  unfold attnValues; simp
theorem attnValues_memOk {s : State} (u : Nat) (w : List W32) (vscale : W32) (hs : memOk s) : memOk (attnValues s u w vscale).2
    := by
  unfold attnValues
  try dsimp only
  repeat' (first | assumption | (with_reducible refine readTokens_memOk _ _ _ _ ?_) | split | (intro _)
                 | (with_reducible refine foldl_memOk _ _ _ ?_ ?_) | (with_reducible refine foldl_fst_memOk _ _ _ ?_ ?_)
                 | (with_reducible refine foldl_snd_memOk _ _ _ ?_ ?_) | (simp only [memOk_mk, memsOk_eta]))
theorem attnValues_keep (s : State) (u : Nat) (w : List W32) (vscale : W32) : Keep s (attnValues s u w vscale).2 :=
    ⟨attnValues_setup _ _ _ _, attnValues_memOk _ _ _⟩

@[simp] theorem commitStores_setup (s : State) (u : Nat) (w : List W32) : (commitStores s u w).2.setup = s.setup := by
  unfold commitStores; simp
theorem commitStores_memOk {s : State} (u : Nat) (w : List W32) (hs : memOk s) : memOk (commitStores s u w).2 := by
  unfold commitStores
  try dsimp only
  repeat' (first | assumption | (with_reducible refine localBytes_memOk _ _ _ ?_) | split | (intro _)
                 | (with_reducible refine foldl_memOk _ _ _ ?_ ?_) | (with_reducible refine foldl_fst_memOk _ _ _ ?_ ?_)
                 | (with_reducible refine foldl_snd_memOk _ _ _ ?_ ?_) | (simp only [memOk_mk, memsOk_eta]))
theorem commitStores_keep (s : State) (u : Nat) (w : List W32) : Keep s (commitStores s u w).2 := ⟨commitStores_setup _ _ _,
    commitStores_memOk _ _⟩

@[simp] theorem runOp_setup (s : State) (u : Nat) (o : Op) : (runOp s u o).2.setup = s.setup := by
  unfold runOp; dsimp only; (repeat' split) <;> simp
theorem runOp_memOk {s : State} (u : Nat) (o : Op) (hs : memOk s) : memOk (runOp s u o).2 := by
  unfold runOp
  try dsimp only
  repeat' (first | assumption | (with_reducible refine attnValues_memOk _ _ _ ?_)
                 | (with_reducible refine commitStores_memOk _ _ ?_) | (with_reducible refine gemvValues_memOk _ _ _ ?_)
                 | (with_reducible refine readCarriers_memOk _ _ _ ?_) | (with_reducible refine readLists_memOk _ _ ?_)
                 | (with_reducible refine readLocal_memOk _ _ _ ?_) | split | (intro _)
                 | (with_reducible refine foldl_memOk _ _ _ ?_ ?_) | (with_reducible refine foldl_fst_memOk _ _ _ ?_ ?_)
                 | (with_reducible refine foldl_snd_memOk _ _ _ ?_ ?_) | (simp only [memOk_mk, memsOk_eta]))
theorem runOp_keep (s : State) (u : Nat) (o : Op) : Keep s (runOp s u o).2 := ⟨runOp_setup _ _ _, runOp_memOk _ _⟩

@[simp] theorem setTail_setup (s : State) (a : Nat) (t : Tail) : (setTail s a t).setup = s.setup := by
  unfold setTail; simp
theorem setTail_memOk {s : State} (a : Nat) (t : Tail) (hs : memOk s) : memOk (setTail s a t) := by
  unfold setTail
  try dsimp only
  repeat' (first | assumption | (with_reducible refine pokeStack_memOk _ _ ?_) | split | (intro _)
                 | (with_reducible refine foldl_memOk _ _ _ ?_ ?_) | (with_reducible refine foldl_fst_memOk _ _ _ ?_ ?_)
                 | (with_reducible refine foldl_snd_memOk _ _ _ ?_ ?_) | (simp only [memOk_mk, memsOk_eta]))
theorem setTail_keep (s : State) (a : Nat) (t : Tail) : Keep s (setTail s a t) := ⟨setTail_setup _ _ _, setTail_memOk _ _⟩

@[simp] theorem setPlist_setup (s : State) (a k v : Nat) : (setPlist s a k v).setup = s.setup := by
  unfold setPlist; simp
theorem setPlist_memOk {s : State} (a k v : Nat) (hs : memOk s) : memOk (setPlist s a k v) := by
  unfold setPlist
  try dsimp only
  repeat' (first | assumption | (with_reducible refine mergeWord_memOk _ _ _ _ _ ?_) | split | (intro _)
                 | (with_reducible refine foldl_memOk _ _ _ ?_ ?_) | (with_reducible refine foldl_fst_memOk _ _ _ ?_ ?_)
                 | (with_reducible refine foldl_snd_memOk _ _ _ ?_ ?_) | (simp only [memOk_mk, memsOk_eta]))
theorem setPlist_keep (s : State) (a k v : Nat) : Keep s (setPlist s a k v) := ⟨setPlist_setup _ _ _ _, setPlist_memOk _ _ _⟩

@[simp] theorem setPage_setup (s : State) (a : Nat) (p : Page) (bad : Bool) : (setPage s a p bad).setup = s.setup := by
  unfold setPage; simp
theorem setPage_memOk {s : State} (a : Nat) (p : Page) (bad : Bool) (hs : memOk s) : memOk (setPage s a p bad) := by
  unfold setPage
  try dsimp only
  repeat' (first | assumption | (with_reducible refine writeStack_memOk _ _ ?_) | split | (intro _)
                 | (with_reducible refine foldl_memOk _ _ _ ?_ ?_) | (with_reducible refine foldl_fst_memOk _ _ _ ?_ ?_)
                 | (with_reducible refine foldl_snd_memOk _ _ _ ?_ ?_) | (simp only [memOk_mk, memsOk_eta]))
theorem setPage_keep (s : State) (a : Nat) (p : Page) (bad : Bool) : Keep s (setPage s a p bad) := ⟨setPage_setup _ _ _ _,
    setPage_memOk _ _ _⟩

theorem modKv_still (s : State) (site : Nat) (f : KvSite → KvSite) : (modKv s site f).still = s.still := by
  rfl
@[simp] theorem modKv_setup (s : State) (site : Nat) (f : KvSite → KvSite) : (modKv s site f).setup = s.setup := setup_of_still
    (modKv_still _ _ _)
@[simp] theorem modKv_mems (s : State) (site : Nat) (f : KvSite → KvSite) : (modKv s site f).mems = s.mems := mems_of_still
    (modKv_still _ _ _)

@[simp] theorem setRing_setup (s : State) (u : Nat) (head tail used : Nat) : (setRing s u head tail used).setup = s.setup := by
  unfold setRing; simp
theorem setRing_memOk {s : State} (u : Nat) (head tail used : Nat) (hs : memOk s) : memOk (setRing s u head tail used) := by
  unfold setRing
  try dsimp only
  repeat' (first | assumption | (with_reducible refine pokeStack_memOk _ _ ?_) | split | (intro _)
                 | (with_reducible refine foldl_memOk _ _ _ ?_ ?_) | (with_reducible refine foldl_fst_memOk _ _ _ ?_ ?_)
                 | (with_reducible refine foldl_snd_memOk _ _ _ ?_ ?_) | (simp only [memOk_mk, memsOk_eta]))
theorem setRing_keep (s : State) (u : Nat) (head tail used : Nat) : Keep s (setRing s u head tail used) := ⟨setRing_setup _ _ _
    _ _, setRing_memOk _ _ _ _⟩

theorem tailAdvance_keep (s : State) (u : Nat) (x0 : Nat) : Keep s (tailAdvance s u x0) := by
  induction x0 generalizing s with
  | zero => exact Keep.refl s
  | succ n ih =>
    simp only [tailAdvance]
    split
    · exact Keep.refl s
    · split
      · exact Keep.refl s
      · exact (setRing_keep _ _ _ _ _).trans ((keep_of_still (modNbu_still _ _ _)).trans (ih _))
@[simp] theorem tailAdvance_setup (s : State) (u : Nat) (x0 : Nat) : (tailAdvance s u x0).setup = s.setup := (tailAdvance_keep
    s u x0).1
theorem tailAdvance_memOk {s : State} (u : Nat) (x0 : Nat) (hs : memOk s) : memOk (tailAdvance s u x0) := (tailAdvance_keep s u
    x0).2 hs

@[simp] theorem settleLog_setup (s : State) (u : Nat) : (settleLog s u).setup = s.setup := by
  unfold settleLog; simp
theorem settleLog_memOk {s : State} (u : Nat) (hs : memOk s) : memOk (settleLog s u) := by
  unfold settleLog
  try dsimp only
  repeat' (first | assumption | (with_reducible refine tailAdvance_memOk _ _ ?_) | split | (intro _)
                 | (with_reducible refine foldl_memOk _ _ _ ?_ ?_) | (with_reducible refine foldl_fst_memOk _ _ _ ?_ ?_)
                 | (with_reducible refine foldl_snd_memOk _ _ _ ?_ ?_) | (simp only [memOk_mk, memsOk_eta]))
theorem settleLog_keep (s : State) (u : Nat) : Keep s (settleLog s u) := ⟨settleLog_setup _ _, settleLog_memOk _⟩

theorem startNext_still (s : State) (u : Nat) : (startNext s u).still = s.still := by
  unfold startNext; split <;> simp
@[simp] theorem startNext_setup (s : State) (u : Nat) : (startNext s u).setup = s.setup := setup_of_still (startNext_still _ _)
@[simp] theorem startNext_mems (s : State) (u : Nat) : (startNext s u).mems = s.mems := mems_of_still (startNext_still _ _)

@[simp] theorem serveAccess_setup (s : State) (a : StackAccess) : (serveAccess s a).setup = s.setup := by
  unfold serveAccess; simp
theorem serveAccess_memOk {s : State} (a : StackAccess) (hs : memOk s) : memOk (serveAccess s a) := by
  unfold serveAccess
  try dsimp only
  repeat' (first | assumption | (with_reducible refine readStack_memOk _ _ ?_)
                 | (with_reducible refine writeStack_memOk _ _ ?_) | split | (intro _)
                 | (with_reducible refine foldl_memOk _ _ _ ?_ ?_) | (with_reducible refine foldl_fst_memOk _ _ _ ?_ ?_)
                 | (with_reducible refine foldl_snd_memOk _ _ _ ?_ ?_) | (simp only [memOk_mk, memsOk_eta]))
theorem serveAccess_keep (s : State) (a : StackAccess) : Keep s (serveAccess s a) := ⟨serveAccess_setup _ _, serveAccess_memOk
    _⟩

@[simp] theorem releaseHeld_setup (s : State) (u : Nat) : (releaseHeld s u).setup = s.setup := by
  unfold releaseHeld; simp
theorem releaseHeld_memOk {s : State} (u : Nat) (hs : memOk s) : memOk (releaseHeld s u) := by
  unfold releaseHeld
  try dsimp only
  repeat' (first | assumption | (with_reducible refine (memOk_of_still (modNbu_still _ _ _)).mpr ?_)
                 | (with_reducible refine serveAccess_memOk _ ?_) | split | (intro _)
                 | (with_reducible refine foldl_memOk _ _ _ ?_ ?_) | (with_reducible refine foldl_fst_memOk _ _ _ ?_ ?_)
                 | (with_reducible refine foldl_snd_memOk _ _ _ ?_ ?_) | (simp only [memOk_mk, memsOk_eta]))
theorem releaseHeld_keep (s : State) (u : Nat) : Keep s (releaseHeld s u) := ⟨releaseHeld_setup _ _, releaseHeld_memOk _⟩

theorem nextTurn_still (s : State) (u : Nat) : (nextTurn s u).still = s.still := by
  unfold nextTurn; simp
@[simp] theorem nextTurn_setup (s : State) (u : Nat) : (nextTurn s u).setup = s.setup := setup_of_still (nextTurn_still _ _)
@[simp] theorem nextTurn_mems (s : State) (u : Nat) : (nextTurn s u).mems = s.mems := mems_of_still (nextTurn_still _ _)

@[simp] theorem serveQueue_setup (s : State) (u n : Nat) : (serveQueue s u n).setup = s.setup := by
  unfold serveQueue; simp
theorem serveQueue_memOk {s : State} (u n : Nat) (hs : memOk s) : memOk (serveQueue s u n) := by
  unfold serveQueue
  try dsimp only
  repeat' (first | assumption | (with_reducible refine (memOk_of_still (modNbu_still _ _ _)).mpr ?_)
                 | (with_reducible refine serveAccess_memOk _ ?_) | split | (intro _)
                 | (with_reducible refine foldl_memOk _ _ _ ?_ ?_) | (with_reducible refine foldl_fst_memOk _ _ _ ?_ ?_)
                 | (with_reducible refine foldl_snd_memOk _ _ _ ?_ ?_) | (simp only [memOk_mk, memsOk_eta]))
theorem serveQueue_keep (s : State) (u n : Nat) : Keep s (serveQueue s u n) := ⟨serveQueue_setup _ _ _, serveQueue_memOk _ _⟩

@[simp] theorem idleQueue_setup (s : State) (u : Nat) : (idleQueue s u).setup = s.setup := by
  unfold idleQueue; simp
theorem idleQueue_memOk {s : State} (u : Nat) (hs : memOk s) : memOk (idleQueue s u) := by
  unfold idleQueue
  try dsimp only
  repeat' (first | assumption | (with_reducible refine serveQueue_memOk _ _ ?_) | split | (intro _)
                 | (with_reducible refine foldl_memOk _ _ _ ?_ ?_) | (with_reducible refine foldl_fst_memOk _ _ _ ?_ ?_)
                 | (with_reducible refine foldl_snd_memOk _ _ _ ?_ ?_) | (simp only [memOk_mk, memsOk_eta]))
theorem idleQueue_keep (s : State) (u : Nat) : Keep s (idleQueue s u) := ⟨idleQueue_setup _ _, idleQueue_memOk _⟩

theorem removeOp_keep (s : State) (u i : Nat) (status : Byte) (torn : Bool) : Keep s (removeOp s u i status torn) := by
  unfold removeOp; dsimp only
  split
  · exact Keep.refl s
  · refine ((((Keep.trans ?_ (releaseDeferred_keep _)).trans (releaseHeld_keep _ _)).trans (serveQueue_keep _ _ _)).trans
      (keep_of_still (nextTurn_still _ _))).trans (idleQueue_keep _ _)
    exact keep_of_still (modNbu_still _ _ _)
@[simp] theorem removeOp_setup (s : State) (u i : Nat) (status : Byte) (torn : Bool) : (removeOp s u i status torn).setup =
    s.setup := (removeOp_keep s u i status torn).1
theorem removeOp_memOk {s : State} (u i : Nat) (status : Byte) (torn : Bool) (hs : memOk s) : memOk (removeOp s u i status
    torn) := (removeOp_keep s u i status torn).2 hs

theorem settleJobs_still (s : State) : (settleJobs s).still = s.still := by
  unfold settleJobs; (repeat' (first | rfl | (simp; done) | split | (refine (foldl_still _ _ _ ?_).trans ?_) | (intro _ _)))
@[simp] theorem settleJobs_setup (s : State) : (settleJobs s).setup = s.setup := setup_of_still (settleJobs_still _)
@[simp] theorem settleJobs_mems (s : State) : (settleJobs s).mems = s.mems := mems_of_still (settleJobs_still _)

theorem stopTrigger_still (s : State) (n : Nat) (begun : Option W64) (e : Ending) : (stopTrigger s n begun e).still = s.still
    := by
  unfold stopTrigger; split <;> simp
@[simp] theorem stopTrigger_setup (s : State) (n : Nat) (begun : Option W64) (e : Ending) : (stopTrigger s n begun e).setup =
    s.setup := setup_of_still (stopTrigger_still _ _ _ _)
@[simp] theorem stopTrigger_mems (s : State) (n : Nat) (begun : Option W64) (e : Ending) : (stopTrigger s n begun e).mems =
    s.mems := mems_of_still (stopTrigger_still _ _ _ _)

theorem closePage_keep (s : State) (u : Nat) (o : Op) (status : Byte) : Keep s (closePage s u o status) := by
  unfold closePage
  split
  · exact Keep.refl s
  · next a _ =>
    have h0 := readTable_keep s a.toNat 8
    have h1 : ∀ p k, Keep s (if p = true then reportPoison (readTable s a.toNat 8) o.source.part.val k else readTable s a.toNat 8) :=
      fun p k => Keep.ite _ (h0.trans (keep_of_still (reportPoison_still _ _ _))) h0
    dsimp only
    split
    · exact ((h1 _ _).trans (setPage_keep _ _ _ _)).trans (keep_of_still (modKv_still _ _ _))
    · have h2 := fun t p b r => (h1 t r).trans ((setPage_keep _ a.toNat p b).trans (keep_of_still (raise_still _
        { kind := kCommitFailed, unit := uNbu, id := u, part := some o.source.part.val, status })))
      split
      · exact (h2 _ _ _ _).trans (keep_of_still rfl)
      · exact (h2 _ _ _ _).trans (keep_of_still (stopTrigger_still _ _ _ _))
@[simp] theorem closePage_setup (s : State) (u : Nat) (o : Op) (status : Byte) : (closePage s u o status).setup = s.setup :=
    (closePage_keep s u o status).1
theorem closePage_memOk {s : State} (u : Nat) (o : Op) (status : Byte) (hs : memOk s) : memOk (closePage s u o status) :=
    (closePage_keep s u o status).2 hs

@[simp] theorem tearOp_setup (s : State) (u : Nat) (o : Op) : (tearOp s u o).setup = s.setup := by
  unfold tearOp; simp
theorem tearOp_memOk {s : State} (u : Nat) (o : Op) (hs : memOk s) : memOk (tearOp s u o) := by
  unfold tearOp
  try dsimp only
  repeat' (first | assumption | (with_reducible refine putStores_memOk _ _ ?_) | (with_reducible refine runOp_memOk _ _ ?_)
                 | (with_reducible refine (memOk_of_still (takeFree_still _)).mpr ?_) | split | (intro _)
                 | (with_reducible refine foldl_memOk _ _ _ ?_ ?_) | (with_reducible refine foldl_fst_memOk _ _ _ ?_ ?_)
                 | (with_reducible refine foldl_snd_memOk _ _ _ ?_ ?_) | (simp only [memOk_mk, memsOk_eta]))
theorem tearOp_keep (s : State) (u : Nat) (o : Op) : Keep s (tearOp s u o) := ⟨tearOp_setup _ _ _, tearOp_memOk _ _⟩

@[simp] theorem dropOp_setup (s : State) (u i : Nat) (status : Byte) (detail : W64) : (dropOp s u i status detail).setup =
    s.setup := by
  unfold dropOp; dsimp only; (repeat' split) <;> simp
theorem dropOp_memOk {s : State} (u i : Nat) (status : Byte) (detail : W64) (hs : memOk s) : memOk (dropOp s u i status detail)
    := by
  unfold dropOp
  try dsimp only
  repeat' (first | assumption | (with_reducible refine closePage_memOk _ _ _ ?_)
                 | (with_reducible refine (memOk_of_still (complete_still _ _ _ _ _ _)).mpr ?_)
                 | (with_reducible refine removeOp_memOk _ _ _ _ ?_) | (with_reducible refine tearOp_memOk _ _ ?_) | split
                 | (intro _) | (with_reducible refine foldl_memOk _ _ _ ?_ ?_)
                 | (with_reducible refine foldl_fst_memOk _ _ _ ?_ ?_) | (with_reducible refine foldl_snd_memOk _ _ _ ?_ ?_)
                 | (simp only [memOk_mk, memsOk_eta]))
theorem dropOp_keep (s : State) (u i : Nat) (status : Byte) (detail : W64) : Keep s (dropOp s u i status detail) :=
    ⟨dropOp_setup _ _ _ _ _, dropOp_memOk _ _ _ _⟩

theorem abandonRun_still (s : State) (o : Op) : (abandonRun s o).still = s.still := by
  unfold abandonRun; split <;> simp
@[simp] theorem abandonRun_setup (s : State) (o : Op) : (abandonRun s o).setup = s.setup := setup_of_still (abandonRun_still _
    _)
@[simp] theorem abandonRun_mems (s : State) (o : Op) : (abandonRun s o).mems = s.mems := mems_of_still (abandonRun_still _ _)

@[simp] theorem acceptOp_setup (s : State) (u : Nat) (o : Op) : (acceptOp s u o).setup = s.setup := by
  unfold acceptOp; simp
theorem acceptOp_memOk {s : State} (u : Nat) (o : Op) (hs : memOk s) : memOk (acceptOp s u o) := by
  unfold acceptOp
  try dsimp only
  repeat' (first | assumption | (with_reducible refine (memOk_of_still (abandonRun_still _ _)).mpr ?_)
                 | (with_reducible refine dropOp_memOk _ _ _ _ ?_)
                 | (with_reducible refine (memOk_of_still (modNbu_still _ _ _)).mpr ?_)
                 | (with_reducible refine (memOk_of_still (startNext_still _ _)).mpr ?_) | split | (intro _)
                 | (with_reducible refine foldl_memOk _ _ _ ?_ ?_) | (with_reducible refine foldl_fst_memOk _ _ _ ?_ ?_)
                 | (with_reducible refine foldl_snd_memOk _ _ _ ?_ ?_) | (simp only [memOk_mk, memsOk_eta]))
theorem acceptOp_keep (s : State) (u : Nat) (o : Op) : Keep s (acceptOp s u o) := ⟨acceptOp_setup _ _ _, acceptOp_memOk _ _⟩

@[simp] theorem putList4_setup (s : State) (u off : Nat) (l : List (Nat × Bool)) : (putList4 s u off l).setup = s.setup := by
  unfold putList4; simp
theorem putList4_memOk {s : State} (u off : Nat) (l : List (Nat × Bool)) (hs : memOk s) : memOk (putList4 s u off l) := by
  unfold putList4
  try dsimp only
  repeat' (first | assumption | (with_reducible refine writeStack_memOk _ _ ?_) | split | (intro _)
                 | (with_reducible refine foldl_memOk _ _ _ ?_ ?_) | (with_reducible refine foldl_fst_memOk _ _ _ ?_ ?_)
                 | (with_reducible refine foldl_snd_memOk _ _ _ ?_ ?_) | (simp only [memOk_mk, memsOk_eta]))
theorem putList4_keep (s : State) (u off : Nat) (l : List (Nat × Bool)) : Keep s (putList4 s u off l) := ⟨putList4_setup _ _ _
    _, putList4_memOk _ _ _⟩

theorem refuseCommit_still (s : State) (c : Commit) : (refuseCommit s c).still = s.still := by
  unfold refuseCommit; split <;> simp
@[simp] theorem refuseCommit_setup (s : State) (c : Commit) : (refuseCommit s c).setup = s.setup := setup_of_still
    (refuseCommit_still _ _)
@[simp] theorem refuseCommit_mems (s : State) (c : Commit) : (refuseCommit s c).mems = s.mems := mems_of_still
    (refuseCommit_still _ _)

theorem tryCommit_keep {s t : State} {c : Commit} (h : tryCommit s c = some t) : Keep s t := by
  unfold tryCommit at h
  extract_lets tb a bad s1 x p l o at h
  have h1 : Keep s s1 := (readTable_keep _ _ _).trans (readTable_keep _ _ _)
  split at h
  · have h := Option.some.inj h
    subst h
    exact h1.trans (keep_of_still (refuseCommit_still _ _))
  · split at h
    · have h := Option.some.inj h
      subst h
      exact h1
    · split at h
      · have h := Option.some.inj h
        subst h
        exact h1.trans ((setPage_keep _ _ _ _).trans ((setTail_keep _ _ _).trans (keep_of_still (modKv_still _ _ _))))
      · split at h
        · cases h
        · have h := Option.some.inj h
          subst h
          exact h1.trans ((readTable_keep _ _ _).trans
            ((putList4_keep _ _ _ _).trans ((setTail_keep _ _ _).trans (acceptOp_keep _ _ _))))

theorem commitPage_keep (s : State) (c : Commit) : Keep s (commitPage s c) := by
  unfold commitPage
  split
  · next h => exact tryCommit_keep h
  · exact Keep.unless _ (keep_of_still rfl)
@[simp] theorem commitPage_setup (s : State) (c : Commit) : (commitPage s c).setup = s.setup := (commitPage_keep s c).1
theorem commitPage_memOk {s : State} (c : Commit) (hs : memOk s) : memOk (commitPage s c) := (commitPage_keep s c).2 hs

theorem drainLog_keep (s : State) (u : Nat) (part : PartId) (station : Nat) (begun : Option W64) (fuel : Nat) : Keep s
    (drainLog s u part station begun fuel) := by
  induction fuel generalizing s with
  | zero => exact Keep.refl s
  | succ n ih =>
    unfold drainLog
    repeat' split
    all_goals first
      | exact Keep.refl s
      | exact ((commitPage_keep _ _).trans (keep_of_still (settleLog_still _ _))).trans (ih _)
      | exact ((commitPage_keep _ _).trans (settleLog_keep _ _)).trans (ih _)
@[simp] theorem drainLog_setup (s : State) (u : Nat) (part : PartId) (station : Nat) (begun : Option W64) (fuel : Nat) :
    (drainLog s u part station begun fuel).setup = s.setup := (drainLog_keep s u part station begun fuel).1
theorem drainLog_memOk {s : State} (u : Nat) (part : PartId) (station : Nat) (begun : Option W64) (fuel : Nat) (hs : memOk s) :
    memOk (drainLog s u part station begun fuel) := (drainLog_keep s u part station begun fuel).2 hs

@[simp] theorem checkLog_setup (s : State) (u : Nat) (part : PartId) (station : Nat) (begun : Option W64) : (checkLog s u part
    station begun).setup = s.setup := by
  unfold checkLog; simp
theorem checkLog_memOk {s : State} (u : Nat) (part : PartId) (station : Nat) (begun : Option W64) (hs : memOk s) : memOk
    (checkLog s u part station begun) := by
  unfold checkLog
  try dsimp only
  repeat' (first | assumption | (with_reducible refine drainLog_memOk _ _ _ _ _ ?_)
                 | (with_reducible refine settleLog_memOk _ ?_) | split | (intro _)
                 | (with_reducible refine foldl_memOk _ _ _ ?_ ?_) | (with_reducible refine foldl_fst_memOk _ _ _ ?_ ?_)
                 | (with_reducible refine foldl_snd_memOk _ _ _ ?_ ?_) | (simp only [memOk_mk, memsOk_eta]))
theorem checkLog_keep (s : State) (u : Nat) (part : PartId) (station : Nat) (begun : Option W64) : Keep s (checkLog s u part
    station begun) := ⟨checkLog_setup _ _ _ _ _, checkLog_memOk _ _ _ _⟩

@[simp] theorem commitEnds_setup (s : State) (u : Nat) (o : Op) (status : Byte) : (commitEnds s u o status).setup = s.setup :=
    by
  unfold commitEnds; split <;> simp
theorem commitEnds_memOk {s : State} (u : Nat) (o : Op) (status : Byte) (hs : memOk s) : memOk (commitEnds s u o status) := by
  unfold commitEnds
  try dsimp only
  repeat' (first | assumption | (with_reducible refine checkLog_memOk _ _ _ _ ?_)
                 | (with_reducible refine closePage_memOk _ _ _ ?_)
                 | (with_reducible refine (memOk_of_still (settleJobs_still _)).mpr ?_) | split | (intro _)
                 | (with_reducible refine foldl_memOk _ _ _ ?_ ?_) | (with_reducible refine foldl_fst_memOk _ _ _ ?_ ?_)
                 | (with_reducible refine foldl_snd_memOk _ _ _ ?_ ?_) | (simp only [memOk_mk, memsOk_eta]))
theorem commitEnds_keep (s : State) (u : Nat) (o : Op) (status : Byte) : Keep s (commitEnds s u o status) := ⟨commitEnds_setup
    _ _ _ _, commitEnds_memOk _ _ _⟩

@[simp] theorem failOp_setup (s : State) (u i : Nat) (status : Byte) (detail : W64) : (failOp s u i status detail).setup =
    s.setup := by
  unfold failOp; dsimp only; (repeat' split) <;> simp
theorem failOp_memOk {s : State} (u i : Nat) (status : Byte) (detail : W64) (hs : memOk s) : memOk (failOp s u i status detail)
    := by
  unfold failOp
  try dsimp only
  repeat' (first | assumption | (with_reducible refine checkLog_memOk _ _ _ _ ?_)
                 | (with_reducible refine dropOp_memOk _ _ _ _ ?_)
                 | (with_reducible refine (memOk_of_still (settleJobs_still _)).mpr ?_) | split | (intro _)
                 | (with_reducible refine foldl_memOk _ _ _ ?_ ?_) | (with_reducible refine foldl_fst_memOk _ _ _ ?_ ?_)
                 | (with_reducible refine foldl_snd_memOk _ _ _ ?_ ?_) | (simp only [memOk_mk, memsOk_eta]))
theorem failOp_keep (s : State) (u i : Nat) (status : Byte) (detail : W64) : Keep s (failOp s u i status detail) :=
    ⟨failOp_setup _ _ _ _ _, failOp_memOk _ _ _ _⟩

@[simp] theorem abandonOp_setup (s : State) (u i : Nat) : (abandonOp s u i).setup = s.setup := by
  unfold abandonOp; split <;> simp
theorem abandonOp_memOk {s : State} (u i : Nat) (hs : memOk s) : memOk (abandonOp s u i) := by
  unfold abandonOp
  try dsimp only
  repeat' (first | assumption | (with_reducible refine (memOk_of_still (abandonRun_still _ _)).mpr ?_)
                 | (with_reducible refine failOp_memOk _ _ _ _ ?_) | split | (intro _)
                 | (with_reducible refine foldl_memOk _ _ _ ?_ ?_) | (with_reducible refine foldl_fst_memOk _ _ _ ?_ ?_)
                 | (with_reducible refine foldl_snd_memOk _ _ _ ?_ ?_) | (simp only [memOk_mk, memsOk_eta]))
theorem abandonOp_keep (s : State) (u i : Nat) : Keep s (abandonOp s u i) := ⟨abandonOp_setup _ _ _, abandonOp_memOk _ _⟩

theorem abandonOps_keep (s : State) (u : Nat) (x0 : Nat) : Keep s (abandonOps s u x0) := by
  induction x0 generalizing s with
  | zero => exact Keep.refl s
  | succ n ih => exact (abandonOp_keep s u n).trans (ih _)
@[simp] theorem abandonOps_setup (s : State) (u : Nat) (x0 : Nat) : (abandonOps s u x0).setup = s.setup := (abandonOps_keep s u
    x0).1
theorem abandonOps_memOk {s : State} (u : Nat) (x0 : Nat) (hs : memOk s) : memOk (abandonOps s u x0) := (abandonOps_keep s u
    x0).2 hs

theorem failOpsOf_keep (s : State) (u : Nat) (p : Op → Bool) (status : Byte) (detail : W64) (x0 : Nat) :
    Keep s (failOpsOf s u p status detail x0) := by
  induction x0 generalizing s with
  | zero => exact Keep.refl s
  | succ n ih =>
    refine Keep.trans ?_ (ih _)
    split
    · exact Keep.when _ (failOp_keep _ _ _ _ _)
    · exact Keep.refl s
@[simp] theorem failOpsOf_setup (s : State) (u : Nat) (p : Op → Bool) (status : Byte) (detail : W64) (x0 : Nat) : (failOpsOf s
    u p status detail x0).setup = s.setup := (failOpsOf_keep s u p status detail x0).1
theorem failOpsOf_memOk {s : State} (u : Nat) (p : Op → Bool) (status : Byte) (detail : W64) (x0 : Nat) (hs : memOk s) : memOk
    (failOpsOf s u p status detail x0) := (failOpsOf_keep s u p status detail x0).2 hs

@[simp] theorem failOps_setup (s : State) (p : Op → Bool) (status : Byte) (detail : W64) : (failOps s p status detail).setup =
    s.setup := by
  unfold failOps; simp
theorem failOps_memOk {s : State} (p : Op → Bool) (status : Byte) (detail : W64) (hs : memOk s) : memOk (failOps s p status
    detail) := by
  unfold failOps
  try dsimp only
  repeat' (first | assumption | (with_reducible refine failOpsOf_memOk _ _ _ _ _ ?_) | split | (intro _)
                 | (with_reducible refine foldl_memOk _ _ _ ?_ ?_) | (with_reducible refine foldl_fst_memOk _ _ _ ?_ ?_)
                 | (with_reducible refine foldl_snd_memOk _ _ _ ?_ ?_) | (simp only [memOk_mk, memsOk_eta]))
theorem failOps_keep (s : State) (p : Op → Bool) (status : Byte) (detail : W64) : Keep s (failOps s p status detail) :=
    ⟨failOps_setup _ _ _ _, failOps_memOk _ _ _⟩

end Sys2Proof.Machine
end

