-- ==== Sys2Proof/Laws/KeepsLink.lean ====
section
/-! SUPPORT. What each operation keeps: the links, rings, transfers, runs, ports, packets and barriers. An operation of this
list leaves the queue, the applied settings, the fold and the semaphore as they were (`_setup`), and either leaves the memories
too (`_still`, `_mems`) or keeps their canonical form (`_memOk`, `_keep`). -/

namespace Sys2Proof.Machine

theorem modHdr_still (s : State) (c : Nat) (f : Hdr → Hdr) : (modHdr s c f).still = s.still := by
  rfl
@[simp] theorem modHdr_setup (s : State) (c : Nat) (f : Hdr → Hdr) : (modHdr s c f).setup = s.setup := setup_of_still
    (modHdr_still _ _ _)
@[simp] theorem modHdr_mems (s : State) (c : Nat) (f : Hdr → Hdr) : (modHdr s c f).mems = s.mems := mems_of_still (modHdr_still
    _ _ _)

theorem modAvs_still (s : State) (a : Nat) (f : Avs → Avs) : (modAvs s a f).still = s.still := by
  rfl
@[simp] theorem modAvs_setup (s : State) (a : Nat) (f : Avs → Avs) : (modAvs s a f).setup = s.setup := setup_of_still
    (modAvs_still _ _ _)
@[simp] theorem modAvs_mems (s : State) (a : Nat) (f : Avs → Avs) : (modAvs s a f).mems = s.mems := mems_of_still (modAvs_still
    _ _ _)

theorem avsWrite_still (s : State) (a : Nat) : (avsWrite s a).still = s.still := by
  rfl
@[simp] theorem avsWrite_setup (s : State) (a : Nat) : (avsWrite s a).setup = s.setup := setup_of_still (avsWrite_still _ _)
@[simp] theorem avsWrite_mems (s : State) (a : Nat) : (avsWrite s a).mems = s.mems := mems_of_still (avsWrite_still _ _)

theorem avsWant_still (s : State) (a mv : Nat) : (avsWant s a mv).still = s.still := by
  rfl
@[simp] theorem avsWant_setup (s : State) (a mv : Nat) : (avsWant s a mv).setup = s.setup := setup_of_still (avsWant_still _ _
    _)
@[simp] theorem avsWant_mems (s : State) (a mv : Nat) : (avsWant s a mv).mems = s.mems := mems_of_still (avsWant_still _ _ _)

theorem retarget_still (s : State) (falls : Bool) : (retarget s falls).still = s.still := by
  unfold retarget; simp
@[simp] theorem retarget_setup (s : State) (falls : Bool) : (retarget s falls).setup = s.setup := setup_of_still
    (retarget_still _ _)
@[simp] theorem retarget_mems (s : State) (falls : Bool) : (retarget s falls).mems = s.mems := mems_of_still (retarget_still _
    _)

theorem avsReadback_still (s : State) (a : Nat) (mv : Option Nat) (alert : Bool) : (avsReadback s a mv alert).still = s.still
    := by
  unfold avsReadback; simp
@[simp] theorem avsReadback_setup (s : State) (a : Nat) (mv : Option Nat) (alert : Bool) : (avsReadback s a mv alert).setup =
    s.setup := setup_of_still (avsReadback_still _ _ _ _)
@[simp] theorem avsReadback_mems (s : State) (a : Nat) (mv : Option Nat) (alert : Bool) : (avsReadback s a mv alert).mems =
    s.mems := mems_of_still (avsReadback_still _ _ _ _)

theorem avsStart_still (s : State) (a : Nat) : (avsStart s a).still = s.still := by
  rfl
@[simp] theorem avsStart_setup (s : State) (a : Nat) : (avsStart s a).setup = s.setup := setup_of_still (avsStart_still _ _)
@[simp] theorem avsStart_mems (s : State) (a : Nat) : (avsStart s a).mems = s.mems := mems_of_still (avsStart_still _ _)

theorem turnOn_still (s : State) (c : Nat) : (turnOn s c).still = s.still := by
  rfl
@[simp] theorem turnOn_setup (s : State) (c : Nat) : (turnOn s c).setup = s.setup := setup_of_still (turnOn_still _ _)
@[simp] theorem turnOn_mems (s : State) (c : Nat) : (turnOn s c).mems = s.mems := mems_of_still (turnOn_still _ _)

theorem turnOff_still (s : State) (c : Nat) : (turnOff s c).still = s.still := by
  rfl
@[simp] theorem turnOff_setup (s : State) (c : Nat) : (turnOff s c).setup = s.setup := setup_of_still (turnOff_still _ _)
@[simp] theorem turnOff_mems (s : State) (c : Nat) : (turnOff s c).mems = s.mems := mems_of_still (turnOff_still _ _)

theorem modLk_still (s : State) (l : Link) (f : Lk → Lk) : (modLk s l f).still = s.still := by
  unfold modLk; split <;> simp
@[simp] theorem modLk_setup (s : State) (l : Link) (f : Lk → Lk) : (modLk s l f).setup = s.setup := setup_of_still (modLk_still
    _ _ _)
@[simp] theorem modLk_mems (s : State) (l : Link) (f : Lk → Lk) : (modLk s l f).mems = s.mems := mems_of_still (modLk_still _ _
    _)

theorem portCount_still (s : State) (l : Link) (off n : Nat) : (portCount s l off n).still = s.still := by
  unfold portCount; split <;> simp
@[simp] theorem portCount_setup (s : State) (l : Link) (off n : Nat) : (portCount s l off n).setup = s.setup := setup_of_still
    (portCount_still _ _ _ _)
@[simp] theorem portCount_mems (s : State) (l : Link) (off n : Nat) : (portCount s l off n).mems = s.mems := mems_of_still
    (portCount_still _ _ _ _)

theorem raisePort_still (s : State) (l : Link) (nalson myarn detail : Nat) : (raisePort s l nalson myarn detail).still =
    s.still := by
  unfold raisePort; split <;> simp
@[simp] theorem raisePort_setup (s : State) (l : Link) (nalson myarn detail : Nat) : (raisePort s l nalson myarn detail).setup
    = s.setup := setup_of_still (raisePort_still _ _ _ _ _)
@[simp] theorem raisePort_mems (s : State) (l : Link) (nalson myarn detail : Nat) : (raisePort s l nalson myarn detail).mems =
    s.mems := mems_of_still (raisePort_still _ _ _ _ _)

theorem control_still (s : State) (l : Link) (b : List Byte) : (control s l b).still = s.still := by
  unfold control; simp
@[simp] theorem control_setup (s : State) (l : Link) (b : List Byte) : (control s l b).setup = s.setup := setup_of_still
    (control_still _ _ _)
@[simp] theorem control_mems (s : State) (l : Link) (b : List Byte) : (control s l b).mems = s.mems := mems_of_still
    (control_still _ _ _)

theorem linkEvent_still (s : State) (p : NPort) (event : Nat) : (linkEvent s p event).still = s.still := by
  unfold linkEvent; simp
@[simp] theorem linkEvent_setup (s : State) (p : NPort) (event : Nat) : (linkEvent s p event).setup = s.setup := setup_of_still
    (linkEvent_still _ _ _)
@[simp] theorem linkEvent_mems (s : State) (p : NPort) (event : Nat) : (linkEvent s p event).mems = s.mems := mems_of_still
    (linkEvent_still _ _ _)

theorem beginRetrain_still (s : State) (l : Link) (cause : Byte) : (beginRetrain s l cause).still = s.still := by
  unfold beginRetrain; simp
@[simp] theorem beginRetrain_setup (s : State) (l : Link) (cause : Byte) : (beginRetrain s l cause).setup = s.setup :=
    setup_of_still (beginRetrain_still _ _ _)
@[simp] theorem beginRetrain_mems (s : State) (l : Link) (cause : Byte) : (beginRetrain s l cause).mems = s.mems :=
    mems_of_still (beginRetrain_still _ _ _)

theorem protocolError_still (s : State) (l : Link) : (protocolError s l).still = s.still := by
  unfold protocolError; simp
@[simp] theorem protocolError_setup (s : State) (l : Link) : (protocolError s l).setup = s.setup := setup_of_still
    (protocolError_still _ _)
@[simp] theorem protocolError_mems (s : State) (l : Link) : (protocolError s l).mems = s.mems := mems_of_still
    (protocolError_still _ _)

theorem startReplay_still (s : State) (l : Link) : (startReplay s l).still = s.still := by
  unfold startReplay; simp
@[simp] theorem startReplay_setup (s : State) (l : Link) : (startReplay s l).setup = s.setup := setup_of_still
    (startReplay_still _ _)
@[simp] theorem startReplay_mems (s : State) (l : Link) : (startReplay s l).mems = s.mems := mems_of_still (startReplay_still _
    _)

theorem noteRtt_still (s : State) (l : Link) (q : BitVec 12) : (noteRtt s l q).still = s.still := by
  unfold noteRtt; dsimp only; (repeat' split) <;> simp
@[simp] theorem noteRtt_setup (s : State) (l : Link) (q : BitVec 12) : (noteRtt s l q).setup = s.setup := setup_of_still
    (noteRtt_still _ _ _)
@[simp] theorem noteRtt_mems (s : State) (l : Link) (q : BitVec 12) : (noteRtt s l q).mems = s.mems := mems_of_still
    (noteRtt_still _ _ _)

theorem sendNak_still (s : State) (l : Link) : (sendNak s l).still = s.still := by
  unfold sendNak; simp
@[simp] theorem sendNak_setup (s : State) (l : Link) : (sendNak s l).setup = s.setup := setup_of_still (sendNak_still _ _)
@[simp] theorem sendNak_mems (s : State) (l : Link) : (sendNak s l).mems = s.mems := mems_of_still (sendNak_still _ _)

theorem discardFlit_still (s : State) (l : Link) : (discardFlit s l).still = s.still := by
  unfold discardFlit; simp
@[simp] theorem discardFlit_setup (s : State) (l : Link) : (discardFlit s l).setup = s.setup := setup_of_still
    (discardFlit_still _ _)
@[simp] theorem discardFlit_mems (s : State) (l : Link) : (discardFlit s l).mems = s.mems := mems_of_still (discardFlit_still _
    _)

theorem takeCodeword_still (s : State) (l : Link) (errors : List (Fin 544)) : (takeCodeword s l errors).2.still = s.still := by
  unfold takeCodeword; split <;> simp
@[simp] theorem takeCodeword_setup (s : State) (l : Link) (errors : List (Fin 544)) : (takeCodeword s l errors).2.setup =
    s.setup := setup_of_still (takeCodeword_still _ _ _)
@[simp] theorem takeCodeword_mems (s : State) (l : Link) (errors : List (Fin 544)) : (takeCodeword s l errors).2.mems = s.mems
    := mems_of_still (takeCodeword_still _ _ _)

theorem passCodeword_still (s : State) (l : Link) (f : Flit) : (passCodeword s l f).2.still = s.still := by
  unfold passCodeword; dsimp only; (repeat' split) <;> simp
@[simp] theorem passCodeword_setup (s : State) (l : Link) (f : Flit) : (passCodeword s l f).2.setup = s.setup := setup_of_still
    (passCodeword_still _ _ _)
@[simp] theorem passCodeword_mems (s : State) (l : Link) (f : Flit) : (passCodeword s l f).2.mems = s.mems := mems_of_still
    (passCodeword_still _ _ _)

theorem noteEnds_still (s : State) (l : Link) (ids : List Nat) : (noteEnds s l ids).still = s.still := by
  unfold noteEnds; (repeat' (first | rfl | (simp; done) | split | (refine (foldl_still _ _ _ ?_).trans ?_) | (intro _ _)))
@[simp] theorem noteEnds_setup (s : State) (l : Link) (ids : List Nat) : (noteEnds s l ids).setup = s.setup := setup_of_still
    (noteEnds_still _ _ _)
@[simp] theorem noteEnds_mems (s : State) (l : Link) (ids : List Nat) : (noteEnds s l ids).mems = s.mems := mems_of_still
    (noteEnds_still _ _ _)

theorem returnUnits_still (s : State) (input : Option MPort) (c : Nat) (p : Packet) : (returnUnits s input c p).still = s.still
    := by
  unfold returnUnits; split <;> simp
@[simp] theorem returnUnits_setup (s : State) (input : Option MPort) (c : Nat) (p : Packet) : (returnUnits s input c p).setup =
    s.setup := setup_of_still (returnUnits_still _ _ _ _)
@[simp] theorem returnUnits_mems (s : State) (input : Option MPort) (c : Nat) (p : Packet) : (returnUnits s input c p).mems =
    s.mems := mems_of_still (returnUnits_still _ _ _ _)

theorem startPacket_still {s t : State} {p : MPort} {c : Nat} {o : OutPkt} {rest : List OutPkt}
    (h : startPacket s p c o rest = some t) : t.still = s.still := by
  unfold startPacket at h
  have e1 : ∀ s : State, (if c = 0 ∧ (lkAt s (.myarn p)).credits.getD 0 0 = 0 then
      modMya s p.val (fun x => { x with stallSince := some (x.stallSince.getD s.time) }) else s).still = s.still := by
    intro s; split <;> rfl
  have e2 : ∀ s : State, (match o.xfer with
      | some x => if o.pkt.kind = 3 then noteEnds s (.myarn p) [x] else s
      | none => s).still = s.still := by
    intro s; repeat' (first | rfl | split | exact noteEnds_still _ _ _)
  dsimp only at h
  split at h
  · cases h
    exact (returnUnits_still _ _ _ _).trans ((e1 _).trans ((portCount_still _ _ _ _).trans
      ((e2 _).trans ((modLk_still _ _ _).trans (modMya_still _ _ _)))))
  · cases h

theorem loadNext_still {s t : State} {l : Link} (h : loadNext s l = some t) : t.still = s.still := by
  have g : ∀ {p : MPort} {c : Nat} {l : List OutPkt} {t : State},
      (match l with | o :: r => startPacket s p c o r | [] => none) = some t → t.still = s.still := by
    intro p c l t h
    split at h
    · exact startPacket_still h
    · cases h
  cases l with
  | nalson p =>
    simp only [loadNext] at h
    split at h
    · cases h
    · cases h; rfl
  | myarn p =>
    simp only [loadNext] at h
    split at h
    · next h2 => cases h; exact g h2
    · split at h
      · next h2 => cases h; exact g h2
      · exact g h

theorem fillSlots_still (s : State) (l : Link) (n : Nat) : (fillSlots s l n).still = s.still := by
  induction n generalizing s with
  | zero => rfl
  | succ n ih =>
    simp only [fillSlots]
    split
    · rfl
    · split
      · next h => rw [ih, loadNext_still h]
      · rfl
@[simp] theorem fillSlots_setup (s : State) (l : Link) (x0 : Nat) : (fillSlots s l x0).setup = s.setup := setup_of_still
    (fillSlots_still _ _ _)
@[simp] theorem fillSlots_mems (s : State) (l : Link) (x0 : Nat) : (fillSlots s l x0).mems = s.mems := mems_of_still
    (fillSlots_still _ _ _)

theorem emit_still (s : State) (l : Link) (kind seq : Nat) (payload : List Byte) (f : Lk → Lk) : (emit s l kind seq payload
    f).still = s.still := by
  unfold emit; simp
@[simp] theorem emit_setup (s : State) (l : Link) (kind seq : Nat) (payload : List Byte) (f : Lk → Lk) : (emit s l kind seq
    payload f).setup = s.setup := setup_of_still (emit_still _ _ _ _ _ _)
@[simp] theorem emit_mems (s : State) (l : Link) (kind seq : Nat) (payload : List Byte) (f : Lk → Lk) : (emit s l kind seq
    payload f).mems = s.mems := mems_of_still (emit_still _ _ _ _ _ _)

theorem transmit_still (s : State) (l : Link) : (transmit s l).still = s.still := by
  unfold transmit; dsimp only; (repeat' split) <;> simp
@[simp] theorem transmit_setup (s : State) (l : Link) : (transmit s l).setup = s.setup := setup_of_still (transmit_still _ _)
@[simp] theorem transmit_mems (s : State) (l : Link) : (transmit s l).mems = s.mems := mems_of_still (transmit_still _ _)

theorem takeHeader_still {s t : State} {l : Link} {hd : W64} (h : takeHeader s l hd = some t) : t.still = s.still := by
  unfold takeHeader at h
  have e1 : ∀ (s : State) (b : Bool), (if b = true then startReplay s l else s).still = s.still := by
    intro s b; split <;> simp
  split at h
  · cases h
  · dsimp only at h
    split at h
    · cases h
    · have h := Option.some.inj h
      subst h
      refine (e1 _ _).trans ?_
      have e2 : ∀ s : State, (match l with
          | .myarn p => if (lkAt s l).credits.getD 0 0 = 0 then s
              else modMya s p.val (fun n => { n with stallSince := none, stallSeen := false })
          | .nalson _ => s).still = s.still := by
        intro s; repeat' (first | rfl | split)
      refine (e2 _).trans ((modLk_still _ _ _).trans ?_)
      split
      · exact (noteEnds_still _ _ _).trans ((modLk_still _ _ _).trans (noteRtt_still _ _ _))
      · rfl

theorem checkFlit_still (s : State) (l : Link) (f : Flit) : (checkFlit s l f).2.still = s.still := by
  unfold checkFlit; dsimp only; (repeat' split) <;> simp
@[simp] theorem checkFlit_setup (s : State) (l : Link) (f : Flit) : (checkFlit s l f).2.setup = s.setup := setup_of_still
    (checkFlit_still _ _ _)
@[simp] theorem checkFlit_mems (s : State) (l : Link) (f : Flit) : (checkFlit s l f).2.mems = s.mems := mems_of_still
    (checkFlit_still _ _ _)

theorem acceptFlit_still (s0 s : State) (l : Link) (f : Flit) (h : s.still = s0.still) :
    (acceptFlit s0 s l f).still = s0.still := by
  unfold acceptFlit; dsimp only
  split
  · exact protocolError_still _ _
  · split
    · exact (transmit_still _ _).trans ((modLk_still _ _ _).trans h)
    · exact (modLk_still _ _ _).trans h

theorem receiveFlit_still (s : State) (l : Link) (kind : Nat) (f : Flit) : (receiveFlit s l kind f).still = s.still := by
  unfold receiveFlit; dsimp only
  have hc := checkFlit_still s l f
  split
  · rfl
  · split
    · split
      · exact (discardFlit_still _ _).trans hc
      · exact hc
    · split
      · exact hc
      · split
        · exact (protocolError_still _ _).trans hc
        · next t h =>
          have ht := (takeHeader_still h).trans hc
          split
          · exact ht
          · split
            · exact (discardFlit_still _ _).trans ht
            · exact (acceptFlit_still _ _ _ _ (takeHeader_still h)).trans hc
@[simp] theorem receiveFlit_setup (s : State) (l : Link) (kind : Nat) (f : Flit) : (receiveFlit s l kind f).setup = s.setup :=
  setup_of_still (receiveFlit_still _ _ _ _)
@[simp] theorem receiveFlit_mems (s : State) (l : Link) (kind : Nat) (f : Flit) : (receiveFlit s l kind f).mems = s.mems :=
  mems_of_still (receiveFlit_still _ _ _ _)

theorem receiveControl_still (s : State) (l : Link) (type : Nat) (phases : List LinkPhase) (f : Flit)
    (k : State → List Byte → State) (h : ∀ s b, (k s b).still = s.still) :
    (receiveControl s l type phases f k).still = s.still := by
  unfold receiveControl; dsimp only
  have hc := checkFlit_still s l f
  split
  · rfl
  · split
    · exact hc
    · split
      · exact (protocolError_still _ _).trans hc
      · next t ht =>
        split
        · exact (h _ _).trans ((takeHeader_still ht).trans hc)
        · exact (takeHeader_still ht).trans hc
theorem receiveControl_setup (s : State) (l : Link) (type : Nat) (phases : List LinkPhase) (f : Flit)
    (k : State → List Byte → State) (h : ∀ s b, (k s b).still = s.still) :
    (receiveControl s l type phases f k).setup = s.setup := setup_of_still (receiveControl_still _ _ _ _ _ _ h)
theorem receiveControl_memOk {s : State} (l : Link) (type : Nat) (phases : List LinkPhase) (f : Flit)
    (k : State → List Byte → State) (h : ∀ s b, (k s b).still = s.still) (hs : memOk s) :
    memOk (receiveControl s l type phases f k) := (memOk_of_still (receiveControl_still _ _ _ _ _ _ h)).mpr hs

theorem failNalLane_still (s : State) (port : NPort) (lane : Nat) : (failNalLane s port lane).still = s.still := by
  unfold failNalLane; simp
@[simp] theorem failNalLane_setup (s : State) (port : NPort) (lane : Nat) : (failNalLane s port lane).setup = s.setup :=
    setup_of_still (failNalLane_still _ _ _)
@[simp] theorem failNalLane_mems (s : State) (port : NPort) (lane : Nat) : (failNalLane s port lane).mems = s.mems :=
    mems_of_still (failNalLane_still _ _ _)

theorem beginTraining_still (s : State) (l : Link) : (beginTraining s l).still = s.still := by
  unfold beginTraining; simp
@[simp] theorem beginTraining_setup (s : State) (l : Link) : (beginTraining s l).setup = s.setup := setup_of_still
    (beginTraining_still _ _)
@[simp] theorem beginTraining_mems (s : State) (l : Link) : (beginTraining s l).mems = s.mems := mems_of_still
    (beginTraining_still _ _)

theorem levelMismatch_still (s : State) (l : Link) (levels : BitVec 16) : (levelMismatch s l levels).still = s.still := by
  unfold levelMismatch; simp
@[simp] theorem levelMismatch_setup (s : State) (l : Link) (levels : BitVec 16) : (levelMismatch s l levels).setup = s.setup :=
    setup_of_still (levelMismatch_still _ _ _)
@[simp] theorem levelMismatch_mems (s : State) (l : Link) (levels : BitVec 16) : (levelMismatch s l levels).mems = s.mems :=
    mems_of_still (levelMismatch_still _ _ _)

theorem beginFull_still (s : State) (l : Link) : (beginFull s l).still = s.still := by
  unfold beginFull; simp
@[simp] theorem beginFull_setup (s : State) (l : Link) : (beginFull s l).setup = s.setup := setup_of_still (beginFull_still _ _)
@[simp] theorem beginFull_mems (s : State) (l : Link) : (beginFull s l).mems = s.mems := mems_of_still (beginFull_still _ _)

theorem modDesc_still (s : State) (p : NPort) (r : RingId) (k : Nat) (f : Desc → Desc) : (modDesc s p r k f).still = s.still :=
    by
  rfl
@[simp] theorem modDesc_setup (s : State) (p : NPort) (r : RingId) (k : Nat) (f : Desc → Desc) : (modDesc s p r k f).setup =
    s.setup := setup_of_still (modDesc_still _ _ _ _ _)
@[simp] theorem modDesc_mems (s : State) (p : NPort) (r : RingId) (k : Nat) (f : Desc → Desc) : (modDesc s p r k f).mems =
    s.mems := mems_of_still (modDesc_still _ _ _ _ _)

theorem descRead_still (s : State) (p : NPort) (r : RingId) (k : Nat) (res : Option Byte) (w : List (W64 × Bool)) : (descRead s
    p r k res w).still = s.still := by
  unfold descRead; simp
@[simp] theorem descRead_setup (s : State) (p : NPort) (r : RingId) (k : Nat) (res : Option Byte) (w : List (W64 × Bool)) :
    (descRead s p r k res w).setup = s.setup := setup_of_still (descRead_still _ _ _ _ _ _)
@[simp] theorem descRead_mems (s : State) (p : NPort) (r : RingId) (k : Nat) (res : Option Byte) (w : List (W64 × Bool)) :
    (descRead s p r k res w).mems = s.mems := mems_of_still (descRead_still _ _ _ _ _ _)

theorem dropXfer_still (s : State) (id : Nat) : (dropXfer s id).still = s.still := by
  rfl
@[simp] theorem dropXfer_setup (s : State) (id : Nat) : (dropXfer s id).setup = s.setup := setup_of_still (dropXfer_still _ _)
@[simp] theorem dropXfer_mems (s : State) (id : Nat) : (dropXfer s id).mems = s.mems := mems_of_still (dropXfer_still _ _)

theorem endXfer_still (s : State) (id : Nat) (e : Ending) : (endXfer s id e).still = s.still := by
  unfold endXfer; (repeat' split) <;> simp
@[simp] theorem endXfer_setup (s : State) (id : Nat) (e : Ending) : (endXfer s id e).setup = s.setup := setup_of_still
    (endXfer_still _ _ _)
@[simp] theorem endXfer_mems (s : State) (id : Nat) (e : Ending) : (endXfer s id e).mems = s.mems := mems_of_still
    (endXfer_still _ _ _)

theorem failRead_still (s : State) (id off : Nat) (unsupported : Bool) : (failRead s id off unsupported).still = s.still := by
  unfold failRead; simp
@[simp] theorem failRead_setup (s : State) (id off : Nat) (unsupported : Bool) : (failRead s id off unsupported).setup =
    s.setup := setup_of_still (failRead_still _ _ _ _)
@[simp] theorem failRead_mems (s : State) (id off : Nat) (unsupported : Bool) : (failRead s id off unsupported).mems = s.mems
    := mems_of_still (failRead_still _ _ _ _)

theorem fetchRead_still (s : State) (no off : Nat) (res : Option Byte) (w : List (W64 × Bool)) : (fetchRead s no off res
    w).still = s.still := by
  unfold fetchRead; dsimp only; (repeat' split) <;> simp
@[simp] theorem fetchRead_setup (s : State) (no off : Nat) (res : Option Byte) (w : List (W64 × Bool)) : (fetchRead s no off
    res w).setup = s.setup := setup_of_still (fetchRead_still _ _ _ _ _)
@[simp] theorem fetchRead_mems (s : State) (no off : Nat) (res : Option Byte) (w : List (W64 × Bool)) : (fetchRead s no off res
    w).mems = s.mems := mems_of_still (fetchRead_still _ _ _ _ _)

theorem readDone_still (s : State) (p : NPort) (m : Mrd) (res : Option Byte) : (readDone s p m res).still = s.still := by
  unfold readDone; (repeat' split) <;> simp
@[simp] theorem readDone_setup (s : State) (p : NPort) (m : Mrd) (res : Option Byte) : (readDone s p m res).setup = s.setup :=
    setup_of_still (readDone_still _ _ _ _)
@[simp] theorem readDone_mems (s : State) (p : NPort) (m : Mrd) (res : Option Byte) : (readDone s p m res).mems = s.mems :=
    mems_of_still (readDone_still _ _ _ _)

theorem freeRead_still (s : State) (p : NPort) (tag : Nat) : (freeRead s p tag).still = s.still := by
  rfl
@[simp] theorem freeRead_setup (s : State) (p : NPort) (tag : Nat) : (freeRead s p tag).setup = s.setup := setup_of_still
    (freeRead_still _ _ _)
@[simp] theorem freeRead_mems (s : State) (p : NPort) (tag : Nat) : (freeRead s p tag).mems = s.mems := mems_of_still
    (freeRead_still _ _ _)

theorem ringCfgWrite_still (s : State) (q p : NPort) (r : RingId) (v : W32) : (ringCfgWrite s q p r v).2.still = s.still := by
  unfold ringCfgWrite; dsimp only; (repeat' split) <;> simp
@[simp] theorem ringCfgWrite_setup (s : State) (q p : NPort) (r : RingId) (v : W32) : (ringCfgWrite s q p r v).2.setup =
    s.setup := setup_of_still (ringCfgWrite_still _ _ _ _ _)
@[simp] theorem ringCfgWrite_mems (s : State) (q p : NPort) (r : RingId) (v : W32) : (ringCfgWrite s q p r v).2.mems = s.mems
    := mems_of_still (ringCfgWrite_still _ _ _ _ _)

theorem errCfgWrite_still (s : State) (q p : NPort) (v : W32) : (errCfgWrite s q p v).2.still = s.still := by
  unfold errCfgWrite; dsimp only; (repeat' split) <;> simp
@[simp] theorem errCfgWrite_setup (s : State) (q p : NPort) (v : W32) : (errCfgWrite s q p v).2.setup = s.setup :=
    setup_of_still (errCfgWrite_still _ _ _ _)
@[simp] theorem errCfgWrite_mems (s : State) (q p : NPort) (v : W32) : (errCfgWrite s q p v).2.mems = s.mems := mems_of_still
    (errCfgWrite_still _ _ _ _)

theorem setXfer_still (s : State) (id : Nat) (x : Xfer) : (setXfer s id x).still = s.still := by
  rfl
@[simp] theorem setXfer_setup (s : State) (id : Nat) (x : Xfer) : (setXfer s id x).setup = s.setup := setup_of_still
    (setXfer_still _ _ _)
@[simp] theorem setXfer_mems (s : State) (id : Nat) (x : Xfer) : (setXfer s id x).mems = s.mems := mems_of_still (setXfer_still
    _ _ _)

theorem setBuf_still (s : State) (n k : Nat) (b : HBuf) : (setBuf s n k b).still = s.still := by
  rfl
@[simp] theorem setBuf_setup (s : State) (n k : Nat) (b : HBuf) : (setBuf s n k b).setup = s.setup := setup_of_still
    (setBuf_still _ _ _ _)
@[simp] theorem setBuf_mems (s : State) (n k : Nat) (b : HBuf) : (setBuf s n k b).mems = s.mems := mems_of_still (setBuf_still
    _ _ _ _)

@[simp] theorem bufPut_setup (s : State) (n k : Nat) (l : List (W64 × Bool)) : (bufPut s n k l).setup = s.setup := by
  unfold bufPut; dsimp only; (repeat' split) <;> simp
theorem bufPut_memOk {s : State} (n k : Nat) (l : List (W64 × Bool)) (hs : memOk s) : memOk (bufPut s n k l) := by
  unfold bufPut
  try dsimp only
  repeat' (first | assumption | (with_reducible refine (memOk_of_still (setBuf_still _ _ _ _)).mpr ?_)
                 | (with_reducible refine writeWord_memOk _ _ _ ?_) | split | (intro _)
                 | (with_reducible refine foldl_memOk _ _ _ ?_ ?_) | (with_reducible refine foldl_fst_memOk _ _ _ ?_ ?_)
                 | (with_reducible refine foldl_snd_memOk _ _ _ ?_ ?_) | (simp only [memOk_mk, memsOk_eta]))
theorem bufPut_keep (s : State) (n k : Nat) (l : List (W64 × Bool)) : Keep s (bufPut s n k l) := ⟨bufPut_setup _ _ _ _,
    bufPut_memOk _ _ _⟩

theorem bufRead_keep (s : State) (b : HBuf) (o : Nat) (x0 : Nat) : Keep s (bufRead s b o x0).2 := by
  induction x0 generalizing s o with
  | zero => exact Keep.refl s
  | succ n ih => exact (readWord_keep _ _ _).trans (ih _ _)
@[simp] theorem bufRead_setup (s : State) (b : HBuf) (o : Nat) (x0 : Nat) : (bufRead s b o x0).2.setup = s.setup :=
    (bufRead_keep s b o x0).1
theorem bufRead_memOk {s : State} (b : HBuf) (o : Nat) (x0 : Nat) (hs : memOk s) : memOk (bufRead s b o x0).2 := (bufRead_keep
    s b o x0).2 hs

@[simp] theorem bufGet_setup (s : State) (n k words : Nat) : (bufGet s n k words).2.setup = s.setup := by
  unfold bufGet; dsimp only; (repeat' split) <;> simp
theorem bufGet_memOk {s : State} (n k words : Nat) (hs : memOk s) : memOk (bufGet s n k words).2 := by
  unfold bufGet
  try dsimp only
  repeat' (first | assumption | (with_reducible refine bufRead_memOk _ _ _ ?_)
                 | (with_reducible refine (memOk_of_still (setBuf_still _ _ _ _)).mpr ?_) | split | (intro _)
                 | (with_reducible refine foldl_memOk _ _ _ ?_ ?_) | (with_reducible refine foldl_fst_memOk _ _ _ ?_ ?_)
                 | (with_reducible refine foldl_snd_memOk _ _ _ ?_ ?_) | (simp only [memOk_mk, memsOk_eta]))
theorem bufGet_keep (s : State) (n k words : Nat) : Keep s (bufGet s n k words).2 := ⟨bufGet_setup _ _ _ _, bufGet_memOk _ _ _⟩

theorem sendHost_still (s : State) (p : NPort) (addr : W64) (n : Nat) (b : List Byte) :
    (sendHost s p addr n b).still = s.still := by
  induction n generalizing s addr b with
  | zero => rfl
  | succ n ih => cases b with
    | nil => rfl
    | cons x b => simp only [sendHost]; rw [ih]; simp
@[simp] theorem sendHost_setup (s : State) (p : NPort) (addr : W64) (x0 : Nat) (x1 : List Byte) : (sendHost s p addr x0
    x1).setup = s.setup := setup_of_still (sendHost_still _ _ _ _ _)
@[simp] theorem sendHost_mems (s : State) (p : NPort) (addr : W64) (x0 : Nat) (x1 : List Byte) : (sendHost s p addr x0 x1).mems
    = s.mems := mems_of_still (sendHost_still _ _ _ _ _)

theorem finishOut_still (s : State) (id : Nat) (x : Xfer) (result : W64) : (finishOut s id x result).still = s.still := by
  unfold finishOut; (repeat' split) <;> simp
@[simp] theorem finishOut_setup (s : State) (id : Nat) (x : Xfer) (result : W64) : (finishOut s id x result).setup = s.setup :=
    setup_of_still (finishOut_still _ _ _ _)
@[simp] theorem finishOut_mems (s : State) (id : Nat) (x : Xfer) (result : W64) : (finishOut s id x result).mems = s.mems :=
    mems_of_still (finishOut_still _ _ _ _)

theorem askNext_still (s : State) (id : Nat) (x : Xfer) (p : NPort) (addr left : Nat) : (askNext s id x p addr left).still =
    s.still := by
  unfold askNext; simp
@[simp] theorem askNext_setup (s : State) (id : Nat) (x : Xfer) (p : NPort) (addr left : Nat) : (askNext s id x p addr
    left).setup = s.setup := setup_of_still (askNext_still _ _ _ _ _ _)
@[simp] theorem askNext_mems (s : State) (id : Nat) (x : Xfer) (p : NPort) (addr left : Nat) : (askNext s id x p addr
    left).mems = s.mems := mems_of_still (askNext_still _ _ _ _ _ _)

@[simp] theorem readCrossing_setup (s : State) (a n : Nat) (bad : List Nat) : (readCrossing s a n bad).2.setup = s.setup := by
  unfold readCrossing; simp
theorem readCrossing_memOk {s : State} (a n : Nat) (bad : List Nat) (hs : memOk s) : memOk (readCrossing s a n bad).2 := by
  unfold readCrossing
  try dsimp only
  repeat' (first | assumption | (with_reducible refine (memOk_of_still (crossWords_still _ _ _ _ _)).mpr ?_)
                 | (with_reducible refine readStack_memOk _ _ ?_) | split | (intro _)
                 | (with_reducible refine foldl_memOk _ _ _ ?_ ?_) | (with_reducible refine foldl_fst_memOk _ _ _ ?_ ?_)
                 | (with_reducible refine foldl_snd_memOk _ _ _ ?_ ?_) | (simp only [memOk_mk, memsOk_eta]))
theorem readCrossing_keep (s : State) (a n : Nat) (bad : List Nat) : Keep s (readCrossing s a n bad).2 := ⟨readCrossing_setup _
    _ _ _, readCrossing_memOk _ _ _⟩

@[simp] theorem getCrossing_setup (s : State) (n k words : Nat) (bad : List Nat) : (getCrossing s n k words bad).2.setup =
    s.setup := by
  unfold getCrossing; simp
theorem getCrossing_memOk {s : State} (n k words : Nat) (bad : List Nat) (hs : memOk s) : memOk (getCrossing s n k words bad).2
    := by
  unfold getCrossing
  try dsimp only
  repeat' (first | assumption | (with_reducible refine bufGet_memOk _ _ _ ?_)
                 | (with_reducible refine (memOk_of_still (crossWords_still _ _ _ _ _)).mpr ?_) | split | (intro _)
                 | (with_reducible refine foldl_memOk _ _ _ ?_ ?_) | (with_reducible refine foldl_fst_memOk _ _ _ ?_ ?_)
                 | (with_reducible refine foldl_snd_memOk _ _ _ ?_ ?_) | (simp only [memOk_mk, memsOk_eta]))
theorem getCrossing_keep (s : State) (n k words : Nat) (bad : List Nat) : Keep s (getCrossing s n k words bad).2 :=
    ⟨getCrossing_setup _ _ _ _ _, getCrossing_memOk _ _ _ _⟩

@[simp] theorem stepCopyIn_setup (s : State) (id : Nat) (x : Xfer) (bad : List Nat) : (stepCopyIn s id x bad).setup = s.setup
    := by
  unfold stepCopyIn; dsimp only; (repeat' split) <;> simp
theorem stepCopyIn_memOk {s : State} (id : Nat) (x : Xfer) (bad : List Nat) (hs : memOk s) : memOk (stepCopyIn s id x bad) := by
  unfold stepCopyIn
  try dsimp only
  repeat' (first | assumption | (with_reducible refine (memOk_of_still (askNext_still _ _ _ _ _ _)).mpr ?_)
                 | (with_reducible refine (memOk_of_still (complete_still _ _ _ _ _ _)).mpr ?_)
                 | (with_reducible refine (memOk_of_still (crossWords_still _ _ _ _ _)).mpr ?_)
                 | (with_reducible refine (memOk_of_still (dropXfer_still _ _)).mpr ?_)
                 | (with_reducible refine (memOk_of_still (setXfer_still _ _ _)).mpr ?_)
                 | (with_reducible refine writeStack_memOk _ _ ?_) | split | (intro _)
                 | (with_reducible refine foldl_memOk _ _ _ ?_ ?_) | (with_reducible refine foldl_fst_memOk _ _ _ ?_ ?_)
                 | (with_reducible refine foldl_snd_memOk _ _ _ ?_ ?_) | (simp only [memOk_mk, memsOk_eta]))
theorem stepCopyIn_keep (s : State) (id : Nat) (x : Xfer) (bad : List Nat) : Keep s (stepCopyIn s id x bad) :=
    ⟨stepCopyIn_setup _ _ _ _, stepCopyIn_memOk _ _ _⟩

@[simp] theorem stepCopyOut_setup (s : State) (id : Nat) (x : Xfer) (bad : List Nat) : (stepCopyOut s id x bad).setup = s.setup
    := by
  unfold stepCopyOut; simp
theorem stepCopyOut_memOk {s : State} (id : Nat) (x : Xfer) (bad : List Nat) (hs : memOk s) : memOk (stepCopyOut s id x bad) :=
    by
  unfold stepCopyOut
  try dsimp only
  repeat' (first | assumption | (with_reducible refine (memOk_of_still (finishOut_still _ _ _ _)).mpr ?_)
                 | (with_reducible refine readCrossing_memOk _ _ _ ?_)
                 | (with_reducible refine (memOk_of_still (sendHost_still _ _ _ _ _)).mpr ?_)
                 | (with_reducible refine (memOk_of_still (setXfer_still _ _ _)).mpr ?_) | split | (intro _)
                 | (with_reducible refine foldl_memOk _ _ _ ?_ ?_) | (with_reducible refine foldl_fst_memOk _ _ _ ?_ ?_)
                 | (with_reducible refine foldl_snd_memOk _ _ _ ?_ ?_) | (simp only [memOk_mk, memsOk_eta]))
theorem stepCopyOut_keep (s : State) (id : Nat) (x : Xfer) (bad : List Nat) : Keep s (stepCopyOut s id x bad) :=
    ⟨stepCopyOut_setup _ _ _ _, stepCopyOut_memOk _ _ _⟩

@[simp] theorem stepGrad_setup (s : State) (id : Nat) (x : Xfer) (bad : List Nat) : (stepGrad s id x bad).setup = s.setup := by
  unfold stepGrad; simp
theorem stepGrad_memOk {s : State} (id : Nat) (x : Xfer) (bad : List Nat) (hs : memOk s) : memOk (stepGrad s id x bad) := by
  unfold stepGrad
  try dsimp only
  repeat' (first | assumption | (with_reducible refine (memOk_of_still (finishOut_still _ _ _ _)).mpr ?_)
                 | (with_reducible refine readCrossing_memOk _ _ _ ?_)
                 | (with_reducible refine (memOk_of_still (sendHost_still _ _ _ _ _)).mpr ?_)
                 | (with_reducible refine (memOk_of_still (setXfer_still _ _ _)).mpr ?_) | split | (intro _)
                 | (with_reducible refine foldl_memOk _ _ _ ?_ ?_) | (with_reducible refine foldl_fst_memOk _ _ _ ?_ ?_)
                 | (with_reducible refine foldl_snd_memOk _ _ _ ?_ ?_) | (simp only [memOk_mk, memsOk_eta]))
theorem stepGrad_keep (s : State) (id : Nat) (x : Xfer) (bad : List Nat) : Keep s (stepGrad s id x bad) := ⟨stepGrad_setup _ _
    _ _, stepGrad_memOk _ _ _⟩

theorem queuePacket_still (s : State) (p : MPort) (c : Nat) (o : OutPkt) : (queuePacket s p c o).still = s.still := by
  rfl
@[simp] theorem queuePacket_setup (s : State) (p : MPort) (c : Nat) (o : OutPkt) : (queuePacket s p c o).setup = s.setup :=
    setup_of_still (queuePacket_still _ _ _ _)
@[simp] theorem queuePacket_mems (s : State) (p : MPort) (c : Nat) (o : OutPkt) : (queuePacket s p c o).mems = s.mems :=
    mems_of_still (queuePacket_still _ _ _ _)

@[simp] theorem stepMyaWrite_setup (s : State) (id : Nat) (x : Xfer) (stream : BitVec 16) (route : List W64) (bad : List Nat) :
    (stepMyaWrite s id x stream route bad).setup = s.setup := by
  unfold stepMyaWrite; simp
theorem stepMyaWrite_memOk {s : State} (id : Nat) (x : Xfer) (stream : BitVec 16) (route : List W64) (bad : List Nat) (hs :
    memOk s) : memOk (stepMyaWrite s id x stream route bad) := by
  unfold stepMyaWrite
  try dsimp only
  repeat' (first | assumption | (with_reducible refine (memOk_of_still (queuePacket_still _ _ _ _)).mpr ?_)
                 | (with_reducible refine readCrossing_memOk _ _ _ ?_)
                 | (with_reducible refine (memOk_of_still (setXfer_still _ _ _)).mpr ?_) | split | (intro _)
                 | (with_reducible refine foldl_memOk _ _ _ ?_ ?_) | (with_reducible refine foldl_fst_memOk _ _ _ ?_ ?_)
                 | (with_reducible refine foldl_snd_memOk _ _ _ ?_ ?_) | (simp only [memOk_mk, memsOk_eta]))
theorem stepMyaWrite_keep (s : State) (id : Nat) (x : Xfer) (stream : BitVec 16) (route : List W64) (bad : List Nat) : Keep s
    (stepMyaWrite s id x stream route bad) := ⟨stepMyaWrite_setup _ _ _ _ _ _, stepMyaWrite_memOk _ _ _ _ _⟩

theorem notePort_still (s : State) (n : Nat) (p : NPort) : (notePort s n p).still = s.still := by
  rfl
@[simp] theorem notePort_setup (s : State) (n : Nat) (p : NPort) : (notePort s n p).setup = s.setup := setup_of_still
    (notePort_still _ _ _)
@[simp] theorem notePort_mems (s : State) (n : Nat) (p : NPort) : (notePort s n p).mems = s.mems := mems_of_still
    (notePort_still _ _ _)

theorem eitherWrite_still (s : State) (p : NPort) (t : Txn) : (eitherWrite s p t).still = s.still := by
  rfl
@[simp] theorem eitherWrite_setup (s : State) (p : NPort) (t : Txn) : (eitherWrite s p t).setup = s.setup := setup_of_still
    (eitherWrite_still _ _ _)
@[simp] theorem eitherWrite_mems (s : State) (p : NPort) (t : Txn) : (eitherWrite s p t).mems = s.mems := mems_of_still
    (eitherWrite_still _ _ _)

@[simp] theorem stepStackIn_setup (s : State) (id : Nat) (x : Xfer) (n k : Nat) (st : Station) (sm : Stream) (base : Nat) (bad
    : List Nat) : (stepStackIn s id x n k st sm base bad).setup = s.setup := by
  unfold stepStackIn; split <;> simp
theorem stepStackIn_memOk {s : State} (id : Nat) (x : Xfer) (n k : Nat) (st : Station) (sm : Stream) (base : Nat) (bad : List
    Nat) (hs : memOk s) : memOk (stepStackIn s id x n k st sm base bad) := by
  unfold stepStackIn
  try dsimp only
  repeat' (first | assumption | (with_reducible refine bufPut_memOk _ _ _ ?_)
                 | (with_reducible refine readCrossing_memOk _ _ _ ?_)
                 | (with_reducible refine (memOk_of_still (setXfer_still _ _ _)).mpr ?_) | split | (intro _)
                 | (with_reducible refine foldl_memOk _ _ _ ?_ ?_) | (with_reducible refine foldl_fst_memOk _ _ _ ?_ ?_)
                 | (with_reducible refine foldl_snd_memOk _ _ _ ?_ ?_) | (simp only [memOk_mk, memsOk_eta]))
theorem stepStackIn_keep (s : State) (id : Nat) (x : Xfer) (n k : Nat) (st : Station) (sm : Stream) (base : Nat) (bad : List
    Nat) : Keep s (stepStackIn s id x n k st sm base bad) := ⟨stepStackIn_setup _ _ _ _ _ _ _ _ _, stepStackIn_memOk _ _ _ _ _
    _ _ _⟩

@[simp] theorem stepStackOut_setup (s : State) (id : Nat) (x : Xfer) (n k : Nat) (st : Station) (sm : Stream) (base : Nat) (bad
    : List Nat) : (stepStackOut s id x n k st sm base bad).setup = s.setup := by
  unfold stepStackOut; split <;> simp
theorem stepStackOut_memOk {s : State} (id : Nat) (x : Xfer) (n k : Nat) (st : Station) (sm : Stream) (base : Nat) (bad : List
    Nat) (hs : memOk s) : memOk (stepStackOut s id x n k st sm base bad) := by
  unfold stepStackOut
  try dsimp only
  repeat' (first | assumption | (with_reducible refine bufGet_memOk _ _ _ ?_)
                 | (with_reducible refine (memOk_of_still (crossWords_still _ _ _ _ _)).mpr ?_)
                 | (with_reducible refine (memOk_of_still (raise_still _ _)).mpr ?_)
                 | (with_reducible refine (memOk_of_still (setXfer_still _ _ _)).mpr ?_)
                 | (with_reducible refine (memOk_of_still (stopRun_still _ _ _)).mpr ?_)
                 | (with_reducible refine writeStack_memOk _ _ ?_) | split | (intro _)
                 | (with_reducible refine foldl_memOk _ _ _ ?_ ?_) | (with_reducible refine foldl_fst_memOk _ _ _ ?_ ?_)
                 | (with_reducible refine foldl_snd_memOk _ _ _ ?_ ?_) | (simp only [memOk_mk, memsOk_eta]))
theorem stepStackOut_keep (s : State) (id : Nat) (x : Xfer) (n k : Nat) (st : Station) (sm : Stream) (base : Nat) (bad : List
    Nat) : Keep s (stepStackOut s id x n k st sm base bad) := ⟨stepStackOut_setup _ _ _ _ _ _ _ _ _, stepStackOut_memOk _ _ _ _
    _ _ _ _⟩

@[simp] theorem stepHostIn_setup (s : State) (id : Nat) (x : Xfer) (n k : Nat) (st : Station) (sm : Stream) (base : Nat) (bad :
    List Nat) : (stepHostIn s id x n k st sm base bad).setup = s.setup := by
  unfold stepHostIn; split <;> simp
theorem stepHostIn_memOk {s : State} (id : Nat) (x : Xfer) (n k : Nat) (st : Station) (sm : Stream) (base : Nat) (bad : List
    Nat) (hs : memOk s) : memOk (stepHostIn s id x n k st sm base bad) := by
  unfold stepHostIn
  try dsimp only
  repeat' (first | assumption | (with_reducible refine (memOk_of_still (askNext_still _ _ _ _ _ _)).mpr ?_)
                 | (with_reducible refine bufPut_memOk _ _ _ ?_)
                 | (with_reducible refine (memOk_of_still (crossWords_still _ _ _ _ _)).mpr ?_)
                 | (with_reducible refine (memOk_of_still (setXfer_still _ _ _)).mpr ?_) | split | (intro _)
                 | (with_reducible refine foldl_memOk _ _ _ ?_ ?_) | (with_reducible refine foldl_fst_memOk _ _ _ ?_ ?_)
                 | (with_reducible refine foldl_snd_memOk _ _ _ ?_ ?_) | (simp only [memOk_mk, memsOk_eta]))
theorem stepHostIn_keep (s : State) (id : Nat) (x : Xfer) (n k : Nat) (st : Station) (sm : Stream) (base : Nat) (bad : List
    Nat) : Keep s (stepHostIn s id x n k st sm base bad) := ⟨stepHostIn_setup _ _ _ _ _ _ _ _ _, stepHostIn_memOk _ _ _ _ _ _ _
    _⟩

@[simp] theorem stepHostOut_setup (s : State) (id : Nat) (x : Xfer) (n k : Nat) (st : Station) (sm : Stream) (base : Nat) (bad
    : List Nat) : (stepHostOut s id x n k st sm base bad).setup = s.setup := by
  unfold stepHostOut; dsimp only; (repeat' split) <;> simp
theorem stepHostOut_memOk {s : State} (id : Nat) (x : Xfer) (n k : Nat) (st : Station) (sm : Stream) (base : Nat) (bad : List
    Nat) (hs : memOk s) : memOk (stepHostOut s id x n k st sm base bad) := by
  unfold stepHostOut
  try dsimp only
  repeat' (first | assumption | (with_reducible refine (memOk_of_still (eitherWrite_still _ _ _)).mpr ?_)
                 | (with_reducible refine getCrossing_memOk _ _ _ _ ?_)
                 | (with_reducible refine (memOk_of_still (modPart_still _ _ _)).mpr ?_)
                 | (with_reducible refine (memOk_of_still (notePort_still _ _ _)).mpr ?_)
                 | (with_reducible refine (memOk_of_still (pushTxn_still _ _ _)).mpr ?_)
                 | (with_reducible refine (memOk_of_still (raise_still _ _)).mpr ?_)
                 | (with_reducible refine (memOk_of_still (setXfer_still _ _ _)).mpr ?_) | split | (intro _)
                 | (with_reducible refine foldl_memOk _ _ _ ?_ ?_) | (with_reducible refine foldl_fst_memOk _ _ _ ?_ ?_)
                 | (with_reducible refine foldl_snd_memOk _ _ _ ?_ ?_) | (simp only [memOk_mk, memsOk_eta]))
theorem stepHostOut_keep (s : State) (id : Nat) (x : Xfer) (n k : Nat) (st : Station) (sm : Stream) (base : Nat) (bad : List
    Nat) : Keep s (stepHostOut s id x n k st sm base bad) := ⟨stepHostOut_setup _ _ _ _ _ _ _ _ _, stepHostOut_memOk _ _ _ _ _
    _ _ _⟩

@[simp] theorem stepMyarnOut_setup (s : State) (id : Nat) (x : Xfer) (n k : Nat) (st : Station) (sm : Stream) (bad : List Nat)
    : (stepMyarnOut s id x n k st sm bad).setup = s.setup := by
  unfold stepMyarnOut; split <;> simp
theorem stepMyarnOut_memOk {s : State} (id : Nat) (x : Xfer) (n k : Nat) (st : Station) (sm : Stream) (bad : List Nat) (hs :
    memOk s) : memOk (stepMyarnOut s id x n k st sm bad) := by
  unfold stepMyarnOut
  try dsimp only
  repeat' (first | assumption | (with_reducible refine getCrossing_memOk _ _ _ _ ?_)
                 | (with_reducible refine (memOk_of_still (queuePacket_still _ _ _ _)).mpr ?_)
                 | (with_reducible refine (memOk_of_still (setXfer_still _ _ _)).mpr ?_) | split | (intro _)
                 | (with_reducible refine foldl_memOk _ _ _ ?_ ?_) | (with_reducible refine foldl_fst_memOk _ _ _ ?_ ?_)
                 | (with_reducible refine foldl_snd_memOk _ _ _ ?_ ?_) | (simp only [memOk_mk, memsOk_eta]))
theorem stepMyarnOut_keep (s : State) (id : Nat) (x : Xfer) (n k : Nat) (st : Station) (sm : Stream) (bad : List Nat) : Keep s
    (stepMyarnOut s id x n k st sm bad) := ⟨stepMyarnOut_setup _ _ _ _ _ _ _ _, stepMyarnOut_memOk _ _ _ _ _ _ _⟩

@[simp] theorem stepStream_setup (s : State) (id : Nat) (x : Xfer) (n k : Nat) (sink : Bool) (bad : List Nat) : (stepStream s
    id x n k sink bad).setup = s.setup := by
  unfold stepStream; dsimp only; (repeat' split) <;> simp
theorem stepStream_memOk {s : State} (id : Nat) (x : Xfer) (n k : Nat) (sink : Bool) (bad : List Nat) (hs : memOk s) : memOk
    (stepStream s id x n k sink bad) := by
  unfold stepStream
  try dsimp only
  repeat' (first | assumption | (with_reducible refine stepHostIn_memOk _ _ _ _ _ _ _ _ ?_)
                 | (with_reducible refine stepHostOut_memOk _ _ _ _ _ _ _ _ ?_)
                 | (with_reducible refine stepMyarnOut_memOk _ _ _ _ _ _ _ ?_)
                 | (with_reducible refine stepStackIn_memOk _ _ _ _ _ _ _ _ ?_)
                 | (with_reducible refine stepStackOut_memOk _ _ _ _ _ _ _ _ ?_) | split | (intro _)
                 | (with_reducible refine foldl_memOk _ _ _ ?_ ?_) | (with_reducible refine foldl_fst_memOk _ _ _ ?_ ?_)
                 | (with_reducible refine foldl_snd_memOk _ _ _ ?_ ?_) | (simp only [memOk_mk, memsOk_eta]))
theorem stepStream_keep (s : State) (id : Nat) (x : Xfer) (n k : Nat) (sink : Bool) (bad : List Nat) : Keep s (stepStream s id
    x n k sink bad) := ⟨stepStream_setup _ _ _ _ _ _ _, stepStream_memOk _ _ _ _ _ _⟩

theorem endLoad_still (s : State) (n : Nat) (l : Load) (e : Ending) : (endLoad s n l e).still = s.still := by
  unfold endLoad; simp
@[simp] theorem endLoad_setup (s : State) (n : Nat) (l : Load) (e : Ending) : (endLoad s n l e).setup = s.setup :=
    setup_of_still (endLoad_still _ _ _ _)
@[simp] theorem endLoad_mems (s : State) (n : Nat) (l : Load) (e : Ending) : (endLoad s n l e).mems = s.mems := mems_of_still
    (endLoad_still _ _ _ _)

@[simp] theorem writeSubs_setup (s : State) (core : Nat) (b : List Byte) (sec : CoreSec) : (writeSubs s core b sec).setup =
    s.setup := by
  unfold writeSubs; simp
theorem writeSubs_memOk {s : State} (core : Nat) (b : List Byte) (sec : CoreSec) (hs : memOk s) : memOk (writeSubs s core b
    sec) := by
  unfold writeSubs
  try dsimp only
  repeat' (first | assumption | (with_reducible refine writeWords_memOk _ _ _ ?_) | split | (intro _)
                 | (with_reducible refine foldl_memOk _ _ _ ?_ ?_) | (with_reducible refine foldl_fst_memOk _ _ _ ?_ ?_)
                 | (with_reducible refine foldl_snd_memOk _ _ _ ?_ ?_) | (simp only [memOk_mk, memsOk_eta]))
theorem writeSubs_keep (s : State) (core : Nat) (b : List Byte) (sec : CoreSec) : Keep s (writeSubs s core b sec) :=
    ⟨writeSubs_setup _ _ _ _, writeSubs_memOk _ _ _⟩

@[simp] theorem finishLoad_setup (s : State) (n : Nat) (l : Load) (b : List Byte) : (finishLoad s n l b).setup = s.setup := by
  unfold finishLoad; simp
theorem finishLoad_memOk {s : State} (n : Nat) (l : Load) (b : List Byte) (hs : memOk s) : memOk (finishLoad s n l b) := by
  unfold finishLoad
  try dsimp only
  repeat' (first | assumption | (with_reducible refine (memOk_of_still (completeOk_still _ _ _)).mpr ?_)
                 | (with_reducible refine (memOk_of_still (modCore_still _ _ _)).mpr ?_)
                 | (with_reducible refine (memOk_of_still (modNbu_still _ _ _)).mpr ?_)
                 | (with_reducible refine (memOk_of_still (modPart_still _ _ _)).mpr ?_)
                 | (with_reducible refine writeSubs_memOk _ _ _ ?_) | split | (intro _)
                 | (with_reducible refine foldl_memOk _ _ _ ?_ ?_) | (with_reducible refine foldl_fst_memOk _ _ _ ?_ ?_)
                 | (with_reducible refine foldl_snd_memOk _ _ _ ?_ ?_) | (simp only [memOk_mk, memsOk_eta]))
theorem finishLoad_keep (s : State) (n : Nat) (l : Load) (b : List Byte) : Keep s (finishLoad s n l b) := ⟨finishLoad_setup _ _
    _ _, finishLoad_memOk _ _ _⟩

theorem withdrawBanks_still (s : State) : (withdrawBanks s).still = s.still := by
  rfl
@[simp] theorem withdrawBanks_setup (s : State) : (withdrawBanks s).setup = s.setup := setup_of_still (withdrawBanks_still _)
@[simp] theorem withdrawBanks_mems (s : State) : (withdrawBanks s).mems = s.mems := mems_of_still (withdrawBanks_still _)

@[simp] theorem readPlans_setup (s : State) (n : Nat) : (readPlans s n).2.setup = s.setup := by
  unfold readPlans; split <;> simp
theorem readPlans_memOk {s : State} (n : Nat) (hs : memOk s) : memOk (readPlans s n).2 := by
  unfold readPlans
  try dsimp only
  repeat' (first | assumption | (with_reducible refine readMem_memOk _ _ _ ?_) | split | (intro _)
                 | (with_reducible refine foldl_memOk _ _ _ ?_ ?_) | (with_reducible refine foldl_fst_memOk _ _ _ ?_ ?_)
                 | (with_reducible refine foldl_snd_memOk _ _ _ ?_ ?_) | (simp only [memOk_mk, memsOk_eta]))
theorem readPlans_keep (s : State) (n : Nat) : Keep s (readPlans s n).2 := ⟨readPlans_setup _ _, readPlans_memOk _⟩

theorem acceptRun_still (s : State) (n : Nat) (ref : DescRef) (seq : W32) (img : Image) (es : List (List Byte)) :
    (acceptRun s n ref seq img es).still = s.still := by
  unfold acceptRun
  exact (acceptDesc_still _ _).trans ((retarget_still _ _).trans ((modPart_still _ _ _).trans (withdrawBanks_still _)))
@[simp] theorem acceptRun_setup (s : State) (n : Nat) (ref : DescRef) (seq : W32) (img : Image) (es : List (List Byte)) :
    (acceptRun s n ref seq img es).setup = s.setup := setup_of_still (acceptRun_still _ _ _ _ _ _)
@[simp] theorem acceptRun_mems (s : State) (n : Nat) (ref : DescRef) (seq : W32) (img : Image) (es : List (List Byte)) :
    (acceptRun s n ref seq img es).mems = s.mems := mems_of_still (acceptRun_still _ _ _ _ _ _)

theorem freshBars_still (s : State) (n : Nat) : (freshBars s n).still = s.still := by
  rfl
@[simp] theorem freshBars_setup (s : State) (n : Nat) : (freshBars s n).setup = s.setup := setup_of_still (freshBars_still _ _)
@[simp] theorem freshBars_mems (s : State) (n : Nat) : (freshBars s n).mems = s.mems := mems_of_still (freshBars_still _ _)

@[simp] theorem readGains_setup (s : State) (l : List (Nat × Nat × Nat)) : (readGains s l).2.setup = s.setup := by
  unfold readGains; simp
theorem readGains_memOk {s : State} (l : List (Nat × Nat × Nat)) (hs : memOk s) : memOk (readGains s l).2 := by
  unfold readGains
  try dsimp only
  repeat' (first | assumption | (with_reducible refine readStack_memOk _ _ ?_) | split | (intro _)
                 | (with_reducible refine foldl_memOk _ _ _ ?_ ?_) | (with_reducible refine foldl_fst_memOk _ _ _ ?_ ?_)
                 | (with_reducible refine foldl_snd_memOk _ _ _ ?_ ?_) | (simp only [memOk_mk, memsOk_eta]))
theorem readGains_keep (s : State) (l : List (Nat × Nat × Nat)) : Keep s (readGains s l).2 := ⟨readGains_setup _ _,
    readGains_memOk _⟩

theorem beginRun_keep (s : State) (n : Nat) (r : Run) (img : Image) : Keep s (beginRun s n r img) := by
  unfold beginRun
  extract_lets p fallen held copies gains s0 block s1 s2 s3 s4 s5 s6 src s7
  have h0 : Keep s s0 := readGains_keep _ _
  have h1 : Keep s0 s1 := keep_of_still (modCores_still _ _ _)
  have h2 : Keep s1 s2 := Keep.foldl _ _ _ fun s c => Keep.foldl _ _ _ fun s k => keep_of_still (modCore_still _ _ _)
  have h3 : Keep s2 s3 := Keep.foldl _ _ _ fun s c => writeWords_keep _ _ _ _
  have h4 : Keep s3 s4 := keep_of_still rfl
  have h5 : Keep s4 s5 := keep_of_still (freshBars_still _ _)
  have h6 : Keep s5 s6 := Keep.foldl _ _ _ fun s x => keep_of_still (addXfer_still _ _)
  have h7 : Keep s6 s7 := keep_of_still rfl
  exact h0.trans (h1.trans (h2.trans (h3.trans (h4.trans (h5.trans (h6.trans (h7.trans (keep_of_still (modPart_still _ _ _)))))))))
@[simp] theorem beginRun_setup (s : State) (n : Nat) (r : Run) (img : Image) : (beginRun s n r img).setup = s.setup :=
    (beginRun_keep s n r img).1
theorem beginRun_memOk {s : State} (n : Nat) (r : Run) (img : Image) (hs : memOk s) : memOk (beginRun s n r img) :=
    (beginRun_keep s n r img).2 hs

theorem drainFlight_still (s : State) (core e n : Nat) : (drainFlight s core e n).still = s.still := by
  induction n generalizing s with
  | zero => rfl
  | succ n ih => rw [drainFlight, ih]; simp
@[simp] theorem drainFlight_setup (s : State) (core e : Nat) (x0 : Nat) : (drainFlight s core e x0).setup = s.setup :=
    setup_of_still (drainFlight_still _ _ _ _)
@[simp] theorem drainFlight_mems (s : State) (core e : Nat) (x0 : Nat) : (drainFlight s core e x0).mems = s.mems :=
    mems_of_still (drainFlight_still _ _ _ _)

theorem drainPart_still (s : State) (n : Nat) : (drainPart s n).still = s.still := by
  unfold drainPart; simp
@[simp] theorem drainPart_setup (s : State) (n : Nat) : (drainPart s n).setup = s.setup := setup_of_still (drainPart_still _ _)
@[simp] theorem drainPart_mems (s : State) (n : Nat) : (drainPart s n).mems = s.mems := mems_of_still (drainPart_still _ _)

theorem clearRun_still (s : State) (n : Nat) : (clearRun s n).still = s.still := by
  rfl
@[simp] theorem clearRun_setup (s : State) (n : Nat) : (clearRun s n).setup = s.setup := setup_of_still (clearRun_still _ _)
@[simp] theorem clearRun_mems (s : State) (n : Nat) : (clearRun s n).mems = s.mems := mems_of_still (clearRun_still _ _)

theorem writeGrad_keep (s : State) (n st which m : Nat) (e : PbEntry) : Keep s (writeGrad s n st which m e) := by
  unfold writeGrad
  split
  · exact Keep.refl s
  · exact Keep.foldl _ _ _ fun s t => writeStack_keep _ _ _
@[simp] theorem writeGrad_setup (s : State) (n st which m : Nat) (e : PbEntry) : (writeGrad s n st which m e).setup = s.setup
    := (writeGrad_keep s n st which m e).1
theorem writeGrad_memOk {s : State} (n st which m : Nat) (e : PbEntry) (hs : memOk s) : memOk (writeGrad s n st which m e) :=
    (writeGrad_keep s n st which m e).2 hs

@[simp] theorem writeGrads_setup (s : State) (n : Nat) (r : Run) (img : Image) : (writeGrads s n r img).setup = s.setup := by
  unfold writeGrads; simp
theorem writeGrads_memOk {s : State} (n : Nat) (r : Run) (img : Image) (hs : memOk s) : memOk (writeGrads s n r img) := by
  unfold writeGrads
  try dsimp only
  repeat' (first | assumption | (with_reducible refine writeGrad_memOk _ _ _ _ _ ?_) | split | (intro _)
                 | (with_reducible refine foldl_memOk _ _ _ ?_ ?_) | (with_reducible refine foldl_fst_memOk _ _ _ ?_ ?_)
                 | (with_reducible refine foldl_snd_memOk _ _ _ ?_ ?_) | (simp only [memOk_mk, memsOk_eta]))
theorem writeGrads_keep (s : State) (n : Nat) (r : Run) (img : Image) : Keep s (writeGrads s n r img) := ⟨writeGrads_setup _ _
    _ _, writeGrads_memOk _ _ _⟩

@[simp] theorem finishRun_setup (s : State) (n : Nat) (r : Run) (e : Ending) : (finishRun s n r e).setup = s.setup := by
  unfold finishRun; dsimp only; (repeat' split) <;> simp
theorem finishRun_memOk {s : State} (n : Nat) (r : Run) (e : Ending) (hs : memOk s) : memOk (finishRun s n r e) := by
  unfold finishRun
  try dsimp only
  repeat' (first | assumption | (with_reducible refine (memOk_of_still (clearRun_still _ _)).mpr ?_)
                 | (with_reducible refine (memOk_of_still (complete_still _ _ _ _ _ _)).mpr ?_)
                 | (with_reducible refine (memOk_of_still (drainPart_still _ _)).mpr ?_)
                 | (with_reducible refine failOps_memOk _ _ _ ?_)
                 | (with_reducible refine (memOk_of_still (modCores_still _ _ _)).mpr ?_)
                 | (with_reducible refine (memOk_of_still (modPart_still _ _ _)).mpr ?_)
                 | (with_reducible refine (memOk_of_still (raise_still _ _)).mpr ?_)
                 | (with_reducible refine writeGrads_memOk _ _ _ ?_) | split | (intro _)
                 | (with_reducible refine foldl_memOk _ _ _ ?_ ?_) | (with_reducible refine foldl_fst_memOk _ _ _ ?_ ?_)
                 | (with_reducible refine foldl_snd_memOk _ _ _ ?_ ?_) | (simp only [memOk_mk, memsOk_eta]))
theorem finishRun_keep (s : State) (n : Nat) (r : Run) (e : Ending) : Keep s (finishRun s n r e) := ⟨finishRun_setup _ _ _ _,
    finishRun_memOk _ _ _⟩

theorem beginReset_still (s : State) (n : Nat) (refs : List DescRef) : (beginReset s n refs).still = s.still := by
  unfold beginReset; (repeat' split) <;> simp
@[simp] theorem beginReset_setup (s : State) (n : Nat) (refs : List DescRef) : (beginReset s n refs).setup = s.setup :=
    setup_of_still (beginReset_still _ _ _)
@[simp] theorem beginReset_mems (s : State) (n : Nat) (refs : List DescRef) : (beginReset s n refs).mems = s.mems :=
    mems_of_still (beginReset_still _ _ _)

theorem retireTags_still (s : State) (n : Nat) : (retireTags s n).still = s.still := by
  rfl
@[simp] theorem retireTags_setup (s : State) (n : Nat) : (retireTags s n).setup = s.setup := setup_of_still (retireTags_still _
    _)
@[simp] theorem retireTags_mems (s : State) (n : Nat) : (retireTags s n).mems = s.mems := mems_of_still (retireTags_still _ _)

@[simp] theorem wipeMems_setup (s : State) (l : List Nat) : (wipeMems s l).setup = s.setup := by
  unfold wipeMems; simp
theorem wipeMems_memOk {s : State} (l : List Nat) (hs : memOk s) : memOk (wipeMems s l) := by
  unfold wipeMems
  try dsimp only
  repeat' (first | assumption | (with_reducible refine fillZero_memOk _ ?_) | split | (intro _)
                 | (with_reducible refine foldl_memOk _ _ _ ?_ ?_) | (with_reducible refine foldl_fst_memOk _ _ _ ?_ ?_)
                 | (with_reducible refine foldl_snd_memOk _ _ _ ?_ ?_) | (simp only [memOk_mk, memsOk_eta]))
theorem wipeMems_keep (s : State) (l : List Nat) : Keep s (wipeMems s l) := ⟨wipeMems_setup _ _, wipeMems_memOk _⟩

theorem disarm_still (s : State) (n : Nat) : (disarm s n).still = s.still := by
  unfold disarm; simp
@[simp] theorem disarm_setup (s : State) (n : Nat) : (disarm s n).setup = s.setup := setup_of_still (disarm_still _ _)
@[simp] theorem disarm_mems (s : State) (n : Nat) : (disarm s n).mems = s.mems := mems_of_still (disarm_still _ _)

@[simp] theorem wipePart_setup (s : State) (n : Nat) : (wipePart s n).setup = s.setup := by
  unfold wipePart; simp
theorem wipePart_memOk {s : State} (n : Nat) (hs : memOk s) : memOk (wipePart s n) := by
  unfold wipePart
  try dsimp only
  repeat' (first | assumption | (with_reducible refine (memOk_of_still (clearRun_still _ _)).mpr ?_)
                 | (with_reducible refine (memOk_of_still (disarm_still _ _)).mpr ?_)
                 | (with_reducible refine (memOk_of_still (dropFetch_still _ _)).mpr ?_)
                 | (with_reducible refine (memOk_of_still (modCores_still _ _ _)).mpr ?_)
                 | (with_reducible refine (memOk_of_still (modPart_still _ _ _)).mpr ?_)
                 | (with_reducible refine received_memOk _ _ ?_)
                 | (with_reducible refine (memOk_of_still (retireTags_still _ _)).mpr ?_)
                 | (with_reducible refine wipeMems_memOk _ ?_) | split | (intro _)
                 | (with_reducible refine foldl_memOk _ _ _ ?_ ?_) | (with_reducible refine foldl_fst_memOk _ _ _ ?_ ?_)
                 | (with_reducible refine foldl_snd_memOk _ _ _ ?_ ?_) | (simp only [memOk_mk, memsOk_eta]))
theorem wipePart_keep (s : State) (n : Nat) : Keep s (wipePart s n) := ⟨wipePart_setup _ _, wipePart_memOk _⟩

theorem endBound_still (s : State) (p : NPort) : (endBound s p).still = s.still := by
  unfold endBound; (repeat' (first | rfl | (simp; done) | split | (refine (foldl_still _ _ _ ?_).trans ?_) | (intro _ _)))
@[simp] theorem endBound_setup (s : State) (p : NPort) : (endBound s p).setup = s.setup := setup_of_still (endBound_still _ _)
@[simp] theorem endBound_mems (s : State) (p : NPort) : (endBound s p).mems = s.mems := mems_of_still (endBound_still _ _)

theorem askAgain_still (s : State) (m : Mrd) : (askAgain s m).still = s.still := by
  unfold askAgain; (repeat' split) <;> simp
@[simp] theorem askAgain_setup (s : State) (m : Mrd) : (askAgain s m).setup = s.setup := setup_of_still (askAgain_still _ _)
@[simp] theorem askAgain_mems (s : State) (m : Mrd) : (askAgain s m).mems = s.mems := mems_of_still (askAgain_still _ _)

theorem stopRings_still (s : State) (p : NPort) : (stopRings s p).still = s.still := by
  unfold stopRings; simp
@[simp] theorem stopRings_setup (s : State) (p : NPort) : (stopRings s p).setup = s.setup := setup_of_still (stopRings_still _
    _)
@[simp] theorem stopRings_mems (s : State) (p : NPort) : (stopRings s p).mems = s.mems := mems_of_still (stopRings_still _ _)

theorem carryOver_still (s : State) (p : NPort) : (carryOver s p).still = s.still := by
  unfold carryOver; (repeat' (first | rfl | (simp; done) | split | (refine (foldl_still _ _ _ ?_).trans ?_) | (intro _ _)))
@[simp] theorem carryOver_setup (s : State) (p : NPort) : (carryOver s p).setup = s.setup := setup_of_still (carryOver_still _
    _)
@[simp] theorem carryOver_mems (s : State) (p : NPort) : (carryOver s p).mems = s.mems := mems_of_still (carryOver_still _ _)

theorem failFetches_still (s : State) (p : NPort) : (failFetches s p).still = s.still := by
  unfold failFetches; (repeat' (first | rfl | (simp; done) | split | (refine (foldl_still _ _ _ ?_).trans ?_) | (intro _ _)))
@[simp] theorem failFetches_setup (s : State) (p : NPort) : (failFetches s p).setup = s.setup := setup_of_still
    (failFetches_still _ _)
@[simp] theorem failFetches_mems (s : State) (p : NPort) : (failFetches s p).mems = s.mems := mems_of_still (failFetches_still
    _ _)

theorem eitherTake_still (s : State) (q : NPort) (t : Txn) : (nalDown.eitherTake s q t).still = s.still := by
  unfold nalDown.eitherTake; split <;> simp

theorem nalDown_still (s : State) (p : NPort) : (nalDown s p).still = s.still := by
  unfold nalDown
  refine (endBound_still _ _).trans ((foldl_still _ _ _ fun s m => ?_).trans ((failFetches_still _ _).trans ?_))
  · split <;> simp
  · split
    · exact (foldl_still _ _ _ fun s x => eitherTake_still _ _ _).trans ((pushTxns_still _ _ _).trans
        ((carryOver_still _ _).trans ((stopRings_still _ _).trans ((linkEvent_still _ _ _).trans
        ((raise_still _ _).trans ((portCount_still _ _ _ _).trans (modNal_still _ _ _)))))))
    · exact (askRead_still _ _ _).trans ((foldl_still _ _ _ fun s x => eitherTake_still _ _ _).trans ((pushTxns_still _ _ _).trans
        ((carryOver_still _ _).trans ((stopRings_still _ _).trans ((linkEvent_still _ _ _).trans
        ((raise_still _ _).trans ((portCount_still _ _ _ _).trans (modNal_still _ _ _))))))))
@[simp] theorem nalDown_setup (s : State) (p : NPort) : (nalDown s p).setup = s.setup := setup_of_still (nalDown_still _ _)
@[simp] theorem nalDown_mems (s : State) (p : NPort) : (nalDown s p).mems = s.mems := mems_of_still (nalDown_still _ _)

theorem stopSenders_still (s : State) (p : MPort) : (stopSenders s p).still = s.still := by
  unfold stopSenders; (repeat' (first | rfl | (simp; done) | split | (refine (foldl_still _ _ _ ?_).trans ?_) | (intro _ _)))
@[simp] theorem stopSenders_setup (s : State) (p : MPort) : (stopSenders s p).setup = s.setup := setup_of_still
    (stopSenders_still _ _)
@[simp] theorem stopSenders_mems (s : State) (p : MPort) : (stopSenders s p).mems = s.mems := mems_of_still (stopSenders_still
    _ _)

theorem endWrites_still (s : State) (p : MPort) : (endWrites s p).still = s.still := by
  unfold endWrites; (repeat' (first | rfl | (simp; done) | split | (refine (foldl_still _ _ _ ?_).trans ?_) | (intro _ _)))
@[simp] theorem endWrites_setup (s : State) (p : MPort) : (endWrites s p).setup = s.setup := setup_of_still (endWrites_still _
    _)
@[simp] theorem endWrites_mems (s : State) (p : MPort) : (endWrites s p).mems = s.mems := mems_of_still (endWrites_still _ _)

theorem myaDown_still (s : State) (p : MPort) : (myaDown s p).still = s.still := by
  have hd : ∀ c (s : State) (o : OutPkt), (match o.input with
    | some i => returnUnits (portCount s (.myarn i) 0x48 1) o.input c o.pkt
    | none => s).still = s.still := by
    intro c s o; split <;> simp
  unfold myaDown
  refine (endWrites_still _ _).trans ((stopSenders_still _ _).trans ((foldl_still _ _ _ (hd 2)).trans
    ((foldl_still _ _ _ (hd 1)).trans ((foldl_still _ _ _ (hd 0)).trans ?_))))
  simp
@[simp] theorem myaDown_setup (s : State) (p : MPort) : (myaDown s p).setup = s.setup := setup_of_still (myaDown_still _ _)
@[simp] theorem myaDown_mems (s : State) (p : MPort) : (myaDown s p).mems = s.mems := mems_of_still (myaDown_still _ _)

theorem linkDown_still (s : State) (x0 : Link) : (linkDown s x0).still = s.still := by
  unfold linkDown; split <;> simp
@[simp] theorem linkDown_setup (s : State) (x0 : Link) : (linkDown s x0).setup = s.setup := setup_of_still (linkDown_still _ _)
@[simp] theorem linkDown_mems (s : State) (x0 : Link) : (linkDown s x0).mems = s.mems := mems_of_still (linkDown_still _ _)

theorem sendDown_still (s : State) (l : Link) (cause : Byte) : (sendDown s l cause).still = s.still := by
  unfold sendDown; simp
@[simp] theorem sendDown_setup (s : State) (l : Link) (cause : Byte) : (sendDown s l cause).setup = s.setup := setup_of_still
    (sendDown_still _ _ _)
@[simp] theorem sendDown_mems (s : State) (l : Link) (cause : Byte) : (sendDown s l cause).mems = s.mems := mems_of_still
    (sendDown_still _ _ _)

theorem failMyaLane_still (s : State) (port : MPort) (lane : Nat) : (failMyaLane s port lane).still = s.still := by
  unfold failMyaLane; simp
@[simp] theorem failMyaLane_setup (s : State) (port : MPort) (lane : Nat) : (failMyaLane s port lane).setup = s.setup :=
    setup_of_still (failMyaLane_still _ _ _)
@[simp] theorem failMyaLane_mems (s : State) (port : MPort) (lane : Nat) : (failMyaLane s port lane).mems = s.mems :=
    mems_of_still (failMyaLane_still _ _ _)

theorem sendAnswers_still (s : State) (p : NPort) (n : Nat) : (sendAnswers s p n).still = s.still := by
  induction n generalizing s with
  | zero => rfl
  | succ n ih => simp only [sendAnswers]; split; rw [ih]; simp; rfl
@[simp] theorem sendAnswers_setup (s : State) (p : NPort) (x0 : Nat) : (sendAnswers s p x0).setup = s.setup := setup_of_still
    (sendAnswers_still _ _ _)
@[simp] theorem sendAnswers_mems (s : State) (p : NPort) (x0 : Nat) : (sendAnswers s p x0).mems = s.mems := mems_of_still
    (sendAnswers_still _ _ _)

theorem nalCtl_still (s : State) (q n : NPort) (v : W32) : (nalCtl s q n v).2.still = s.still := by
  unfold nalCtl; (repeat' split) <;> simp
@[simp] theorem nalCtl_setup (s : State) (q n : NPort) (v : W32) : (nalCtl s q n v).2.setup = s.setup := setup_of_still
    (nalCtl_still _ _ _ _)
@[simp] theorem nalCtl_mems (s : State) (q n : NPort) (v : W32) : (nalCtl s q n v).2.mems = s.mems := mems_of_still
    (nalCtl_still _ _ _ _)

theorem closePort_still (s : State) (p : NPort) : (closePort s p).still = s.still := by
  unfold closePort; simp
@[simp] theorem closePort_setup (s : State) (p : NPort) : (closePort s p).setup = s.setup := setup_of_still (closePort_still _
    _)
@[simp] theorem closePort_mems (s : State) (p : NPort) : (closePort s p).mems = s.mems := mems_of_still (closePort_still _ _)

theorem nalCtlWrite_still (s : State) (a : Access) (n : NPort) (v : W32) : (nalCtlWrite s a n v).still = s.still := by
  unfold nalCtlWrite
  try dsimp only
  repeat' (first | rfl | (with_reducible refine (closePort_still _ _).trans ?_)
                 | (with_reducible refine (modNal_still _ _ _).trans ?_)
                 | (with_reducible refine (nalCtl_still _ _ _ _).trans ?_)
                 | (with_reducible refine (sendAnswers_still _ _ _).trans ?_)
                 | (with_reducible refine (sendDown_still _ _ _).trans ?_)
                 | (with_reducible refine (setupWrite_still _ _ _ _ ?_).trans ?_) | split
                 | (with_reducible refine (foldl_still _ _ _ ?_).trans ?_)
                 | (with_reducible refine (foldl_fst_still _ _ _ ?_).trans ?_)
                 | (with_reducible refine (foldl_snd_still _ _ _ ?_).trans ?_) | (intro _) | (simp; done))
@[simp] theorem nalCtlWrite_setup (s : State) (a : Access) (n : NPort) (v : W32) : (nalCtlWrite s a n v).setup = s.setup :=
    setup_of_still (nalCtlWrite_still _ _ _ _)
@[simp] theorem nalCtlWrite_mems (s : State) (a : Access) (n : NPort) (v : W32) : (nalCtlWrite s a n v).mems = s.mems :=
    mems_of_still (nalCtlWrite_still _ _ _ _)

theorem dropPacket_still (s : State) (port : MPort) (p : Packet) (kind : Nat) : (dropPacket s port p kind).still = s.still := by
  unfold dropPacket; simp
@[simp] theorem dropPacket_setup (s : State) (port : MPort) (p : Packet) (kind : Nat) : (dropPacket s port p kind).setup =
    s.setup := setup_of_still (dropPacket_still _ _ _ _)
@[simp] theorem dropPacket_mems (s : State) (port : MPort) (p : Packet) (kind : Nat) : (dropPacket s port p kind).mems = s.mems
    := mems_of_still (dropPacket_still _ _ _ _)

theorem arrivePacket_keep (s : State) (port : MPort) (p : Packet) (kind : Byte) (f : State → Nat → Option State)
    (h : ∀ s n u, f s n = some u → Keep s u) : Keep s (arrivePacket s port p kind f) := by
  unfold arrivePacket
  split
  · exact Keep.refl s
  · extract_lets t
    have ht : Keep s t := keep_of_still (portCount_still _ _ _ _)
    split
    · exact ht.trans (keep_of_still (dropPacket_still _ _ _ _))
    · exact ht.trans (keep_of_still (queuePacket_still _ _ _ _))
    · split
      · exact ht.trans (keep_of_still (dropPacket_still _ _ _ _))
      · split
        · next e => exact ht.trans ((h _ _ _ e).trans (keep_of_still (returnUnits_still _ _ _ _)))
        · exact Keep.refl s

@[simp] theorem modRecv_setup (s : State) (key : Nat) (f : Strm → Strm) : (modRecv s key f).setup = s.setup := by
  rfl
theorem modRecv_memOk {s : State} (key : Nat) (f : Strm → Strm) (hs : memOk s) : memOk (modRecv s key f) := by
  unfold modRecv
  try dsimp only
  repeat' (first | assumption | (with_reducible refine received_memOk _ _ ?_) | split | (intro _)
                 | (with_reducible refine foldl_memOk _ _ _ ?_ ?_) | (with_reducible refine foldl_fst_memOk _ _ _ ?_ ?_)
                 | (with_reducible refine foldl_snd_memOk _ _ _ ?_ ?_) | (simp only [memOk_mk, memsOk_eta]))
theorem modRecv_keep (s : State) (key : Nat) (f : Strm → Strm) : Keep s (modRecv s key f) := ⟨modRecv_setup _ _ _,
    modRecv_memOk _ _⟩

@[simp] theorem breakStream_setup (s : State) (key : Nat) (st : Option Byte) : (breakStream s key st).setup = s.setup := by
  unfold breakStream; dsimp only; (repeat' split) <;> simp
theorem breakStream_memOk {s : State} (key : Nat) (st : Option Byte) (hs : memOk s) : memOk (breakStream s key st) := by
  unfold breakStream
  try dsimp only
  repeat' (first | assumption | (with_reducible refine modRecv_memOk _ _ ?_)
                 | (with_reducible refine (memOk_of_still (stopRun_still _ _ _)).mpr ?_)
                 | (with_reducible refine (memOk_of_still (takeFree_still _)).mpr ?_) | split | (intro _)
                 | (with_reducible refine foldl_memOk _ _ _ ?_ ?_) | (with_reducible refine foldl_fst_memOk _ _ _ ?_ ?_)
                 | (with_reducible refine foldl_snd_memOk _ _ _ ?_ ?_) | (simp only [memOk_mk, memsOk_eta]))
theorem breakStream_keep (s : State) (key : Nat) (st : Option Byte) : Keep s (breakStream s key st) := ⟨breakStream_setup _ _
    _, breakStream_memOk _ _⟩

@[simp] theorem discard_setup (s : State) (h : Held) (st : Option Byte) : (discard s h st).setup = s.setup := by
  unfold discard; simp
theorem discard_memOk {s : State} (h : Held) (st : Option Byte) (hs : memOk s) : memOk (discard s h st) := by
  unfold discard
  try dsimp only
  repeat' (first | assumption | (with_reducible refine breakStream_memOk _ _ ?_)
                 | (with_reducible refine (memOk_of_still (portCount_still _ _ _ _)).mpr ?_)
                 | (with_reducible refine (memOk_of_still (raise_still _ _)).mpr ?_)
                 | (with_reducible refine (memOk_of_still (takeFree_still _)).mpr ?_) | split | (intro _)
                 | (with_reducible refine foldl_memOk _ _ _ ?_ ?_) | (with_reducible refine foldl_fst_memOk _ _ _ ?_ ?_)
                 | (with_reducible refine foldl_snd_memOk _ _ _ ?_ ?_) | (simp only [memOk_mk, memsOk_eta]))
theorem discard_keep (s : State) (h : Held) (st : Option Byte) : Keep s (discard s h st) := ⟨discard_setup _ _ _, discard_memOk
    _ _⟩

@[simp] theorem commitAnnounce_setup (s : State) (h : Held) : (commitAnnounce s h).setup = s.setup := by
  unfold commitAnnounce; dsimp only; (repeat' split) <;> simp
theorem commitAnnounce_memOk {s : State} (h : Held) (hs : memOk s) : memOk (commitAnnounce s h) := by
  unfold commitAnnounce
  try dsimp only
  repeat' (first | assumption | (with_reducible refine discard_memOk _ _ ?_)
                 | (with_reducible refine (memOk_of_still (pushTxn_still _ _ _)).mpr ?_)
                 | (with_reducible refine writeStack_memOk _ _ ?_) | split | (intro _)
                 | (with_reducible refine foldl_memOk _ _ _ ?_ ?_) | (with_reducible refine foldl_fst_memOk _ _ _ ?_ ?_)
                 | (with_reducible refine foldl_snd_memOk _ _ _ ?_ ?_) | (simp only [memOk_mk, memsOk_eta]))
theorem commitAnnounce_keep (s : State) (h : Held) : Keep s (commitAnnounce s h) := ⟨commitAnnounce_setup _ _,
    commitAnnounce_memOk _⟩

theorem settleHeld_keep (s : State) (key : Nat) (x0 : Nat) : Keep s (settleHeld s key x0) := by
  induction x0 generalizing s with
  | zero => exact Keep.refl s
  | succ n ih =>
    simp only [settleHeld]
    have h0 : ∀ h : Held, Keep s { s with held := s.held.erase h } := fun h => keep_of_still rfl
    split
    · exact Keep.refl s
    · refine Keep.ite _ ((h0 _).trans ((discard_keep _ _ _).trans (ih _))) ?_
      refine Keep.ite _ ((h0 _).trans ((discard_keep _ _ _).trans (ih _))) ?_
      exact Keep.ite _ ((h0 _).trans ((commitAnnounce_keep _ _).trans (ih _))) (Keep.refl s)
@[simp] theorem settleHeld_setup (s : State) (key : Nat) (x0 : Nat) : (settleHeld s key x0).setup = s.setup := (settleHeld_keep
    s key x0).1
theorem settleHeld_memOk {s : State} (key : Nat) (x0 : Nat) (hs : memOk s) : memOk (settleHeld s key x0) := (settleHeld_keep s
    key x0).2 hs

@[simp] theorem received_setup (s : State) (key : Nat) (p : Packet) : (received s key p).setup = s.setup := by
  unfold received; simp
theorem received_memOk {s : State} (key : Nat) (p : Packet) (hs : memOk s) : memOk (received s key p) := by
  unfold received
  try dsimp only
  repeat' (first | assumption | (with_reducible refine modRecv_memOk _ _ ?_)
                 | (with_reducible refine settleHeld_memOk _ _ ?_) | split | (intro _)
                 | (with_reducible refine foldl_memOk _ _ _ ?_ ?_) | (with_reducible refine foldl_fst_memOk _ _ _ ?_ ?_)
                 | (with_reducible refine foldl_snd_memOk _ _ _ ?_ ?_) | (simp only [memOk_mk, memsOk_eta]))
theorem received_keep (s : State) (key : Nat) (p : Packet) : Keep s (received s key p) := ⟨received_setup _ _ _, received_memOk
    _ _⟩

theorem barSend_still (s : State) (r : Route) (kind : Byte) (index : Nat) (gen : W32) : (barSend s r kind index gen).still =
    s.still := by
  unfold barSend; simp
@[simp] theorem barSend_setup (s : State) (r : Route) (kind : Byte) (index : Nat) (gen : W32) : (barSend s r kind index
    gen).setup = s.setup := setup_of_still (barSend_still _ _ _ _ _)
@[simp] theorem barSend_mems (s : State) (r : Route) (kind : Byte) (index : Nat) (gen : W32) : (barSend s r kind index
    gen).mems = s.mems := mems_of_still (barSend_still _ _ _ _ _)

theorem freeEngine_still (s : State) (core e k : Nat) (g : W32) : (freeEngine s core e k g).still = s.still := by
  unfold freeEngine; simp
@[simp] theorem freeEngine_setup (s : State) (core e k : Nat) (g : W32) : (freeEngine s core e k g).setup = s.setup :=
    setup_of_still (freeEngine_still _ _ _ _ _)
@[simp] theorem freeEngine_mems (s : State) (core e k : Nat) (g : W32) : (freeEngine s core e k g).mems = s.mems :=
    mems_of_still (freeEngine_still _ _ _ _ _)

theorem freeEngines_still (s : State) (k : Nat) (g : W32) : (freeEngines s k g).still = s.still := by
  unfold freeEngines; simp
@[simp] theorem freeEngines_setup (s : State) (k : Nat) (g : W32) : (freeEngines s k g).setup = s.setup := setup_of_still
    (freeEngines_still _ _ _)
@[simp] theorem freeEngines_mems (s : State) (k : Nat) (g : W32) : (freeEngines s k g).mems = s.mems := mems_of_still
    (freeEngines_still _ _ _)

theorem releaseBar_still (s : State) (k : Nat) : (releaseBar s k).still = s.still := by
  unfold releaseBar; simp
@[simp] theorem releaseBar_setup (s : State) (k : Nat) : (releaseBar s k).setup = s.setup := setup_of_still (releaseBar_still _
    _)
@[simp] theorem releaseBar_mems (s : State) (k : Nat) : (releaseBar s k).mems = s.mems := mems_of_still (releaseBar_still _ _)

theorem settleBar_still (s : State) (k : Nat) : (settleBar s k).still = s.still := by
  unfold settleBar; simp
@[simp] theorem settleBar_setup (s : State) (k : Nat) : (settleBar s k).setup = s.setup := setup_of_still (settleBar_still _ _)
@[simp] theorem settleBar_mems (s : State) (k : Nat) : (settleBar s k).mems = s.mems := mems_of_still (settleBar_still _ _)

theorem barDrop_still (s : State) (port : MPort) (k kind detail : Nat) : (barDrop s port k kind detail).still = s.still := by
  unfold barDrop; simp
@[simp] theorem barDrop_setup (s : State) (port : MPort) (k kind detail : Nat) : (barDrop s port k kind detail).setup = s.setup
    := setup_of_still (barDrop_still _ _ _ _ _)
@[simp] theorem barDrop_mems (s : State) (port : MPort) (k kind detail : Nat) : (barDrop s port k kind detail).mems = s.mems :=
    mems_of_still (barDrop_still _ _ _ _ _)

end Sys2Proof.Machine
end

