-- ==== Sys2Proof/Laws/KeepsDevice.lean ====
section
/-! SUPPORT. What each operation keeps: the power budget, the mesh, the press, the root of trust, heat, frames, start-up and hold-up. An operation of this
list leaves the queue, the applied settings, the fold and the semaphore as they were (`_setup`), and either leaves the memories
too (`_still`, `_mems`) or keeps their canonical form (`_memOk`, `_keep`). -/

namespace Sys2Proof.Machine

theorem noteCap_still (s : State) : (noteCap s).still = s.still := by
  unfold noteCap; simp
@[simp] theorem noteCap_setup (s : State) : (noteCap s).setup = s.setup := setup_of_still (noteCap_still _)
@[simp] theorem noteCap_mems (s : State) : (noteCap s).mems = s.mems := mems_of_still (noteCap_still _)

theorem power_still (s : State) (p : Power) : ({ s with power := p } : State).still = s.still := rfl

theorem raiseIf_still (s : State) (c : Prop) [Decidable c] (rep : Report) : (if c then raise s rep else s).still = s.still := by
  split
  · exact raise_still _ _
  · rfl

theorem setBudgets_still (s : State) (room : Int) (total : Nat) (l : List Nat) :
    (setBudgets s room total l).still = s.still := by
  induction l generalizing s with
  | nil => rfl
  | cons x l ih =>
    unfold setBudgets
    refine (ih _).trans ?_
    exact (raiseIf_still _ _ _).trans (power_still _ _)
@[simp] theorem setBudgets_setup (s : State) (room : Int) (total : Nat) (x0 : List Nat) : (setBudgets s room total x0).setup =
    s.setup := setup_of_still (setBudgets_still _ _ _ _)
@[simp] theorem setBudgets_mems (s : State) (room : Int) (total : Nat) (x0 : List Nat) : (setBudgets s room total x0).mems =
    s.mems := mems_of_still (setBudgets_still _ _ _ _)

theorem budgetFrame_still (s : State) (p : Nat) (hot : Bool) : (budgetFrame s p hot).still = s.still := by
  unfold budgetFrame; dsimp only; (repeat' split) <;> simp
@[simp] theorem budgetFrame_setup (s : State) (p : Nat) (hot : Bool) : (budgetFrame s p hot).setup = s.setup := setup_of_still
    (budgetFrame_still _ _ _)
@[simp] theorem budgetFrame_mems (s : State) (p : Nat) (hot : Bool) : (budgetFrame s p hot).mems = s.mems := mems_of_still
    (budgetFrame_still _ _ _)

theorem hold56_still (s : State) : (hold56 s).still = s.still := by
  rfl
@[simp] theorem hold56_setup (s : State) : (hold56 s).setup = s.setup := setup_of_still (hold56_still _)
@[simp] theorem hold56_mems (s : State) : (hold56 s).mems = s.mems := mems_of_still (hold56_still _)

theorem fillL2_keep (s : State) (c : Nat) : Keep s (fillL2 s c) := by
  unfold fillL2
  exact Keep.foldl _ _ _ fun s k => (fillZero_keep _ _).trans (keep_of_still (modCore_still _ _ _))
@[simp] theorem fillL2_setup (s : State) (c : Nat) : (fillL2 s c).setup = s.setup := (fillL2_keep s c).1
theorem fillL2_memOk {s : State} (c : Nat) (hs : memOk s) : memOk (fillL2 s c) := (fillL2_keep s c).2 hs

theorem runStage_keep (s : State) (c : Nat) : Keep s (runStage s c) := by
  unfold runStage
  exact (keep_of_still (modHdr_still _ _ _)).trans (Keep.unless _ (fillL2_keep _ _))
@[simp] theorem runStage_setup (s : State) (c : Nat) : (runStage s c).setup = s.setup := (runStage_keep s c).1
theorem runStage_memOk {s : State} (c : Nat) (hs : memOk s) : memOk (runStage s c) := (runStage_keep s c).2 hs

theorem droopFrame_still (s : State) : (droopFrame s).still = s.still := by
  unfold droopFrame; dsimp only
  refine (foldl_still _ _ _ fun s n => ?_).trans rfl
  split <;> simp
@[simp] theorem droopFrame_setup (s : State) : (droopFrame s).setup = s.setup := setup_of_still (droopFrame_still _)
@[simp] theorem droopFrame_mems (s : State) : (droopFrame s).mems = s.mems := mems_of_still (droopFrame_still _)

theorem stepArm_still (s : State) (core e : Nat) : (stepArm s core e).still = s.still := by
  rfl
@[simp] theorem stepArm_setup (s : State) (core e : Nat) : (stepArm s core e).setup = s.setup := setup_of_still (stepArm_still
    _ _ _)
@[simp] theorem stepArm_mems (s : State) (core e : Nat) : (stepArm s core e).mems = s.mems := mems_of_still (stepArm_still _ _
    _)

theorem channelCount_still (s : State) (a : Arm) (b : Beat) : (channelCount s a b).still = s.still := by
  unfold channelCount; simp
@[simp] theorem channelCount_setup (s : State) (a : Arm) (b : Beat) : (channelCount s a b).setup = s.setup := setup_of_still
    (channelCount_still _ _ _)
@[simp] theorem channelCount_mems (s : State) (a : Arm) (b : Beat) : (channelCount s a b).mems = s.mems := mems_of_still
    (channelCount_still _ _ _)

@[simp] theorem takeBeat_setup (s : State) (n core e : Nat) : (takeBeat s n core e).2.setup = s.setup := by
  unfold takeBeat; dsimp only; (repeat' split) <;> simp
theorem takeBeat_memOk {s : State} (n core e : Nat) (hs : memOk s) : memOk (takeBeat s n core e).2 := by
  unfold takeBeat
  try dsimp only
  repeat' (first | assumption | (with_reducible refine (memOk_of_still (channelCount_still _ _ _)).mpr ?_)
                 | (with_reducible refine (memOk_of_still (modPart_still _ _ _)).mpr ?_)
                 | (with_reducible refine readWords_memOk _ _ _ ?_)
                 | (with_reducible refine (memOk_of_still (stepArm_still _ _ _)).mpr ?_) | split | (intro _)
                 | (with_reducible refine foldl_memOk _ _ _ ?_ ?_) | (with_reducible refine foldl_fst_memOk _ _ _ ?_ ?_)
                 | (with_reducible refine foldl_snd_memOk _ _ _ ?_ ?_) | (simp only [memOk_mk, memsOk_eta]))
theorem takeBeat_keep (s : State) (n core e : Nat) : Keep s (takeBeat s n core e).2 := ⟨takeBeat_setup _ _ _ _, takeBeat_memOk
    _ _ _⟩

theorem takeBeats_keep (s : State) (n core : Nat) (x0 : List Nat) : Keep s (takeBeats s n core x0).2 := by
  induction x0 generalizing s with
  | nil => exact Keep.refl s
  | cons e l ih => exact (takeBeat_keep _ _ _ _).trans (ih _)
@[simp] theorem takeBeats_setup (s : State) (n core : Nat) (x0 : List Nat) : (takeBeats s n core x0).2.setup = s.setup :=
    (takeBeats_keep s n core x0).1
theorem takeBeats_memOk {s : State} (n core : Nat) (x0 : List Nat) (hs : memOk s) : memOk (takeBeats s n core x0).2 :=
    (takeBeats_keep s n core x0).2 hs

@[simp] theorem deliver_setup (s : State) (n core e port : Nat) (b : Option Beat) : (deliver s n core e port b).setup = s.setup
    := by
  unfold deliver; (repeat' split) <;> simp_all
theorem deliver_memOk {s : State} (n core e port : Nat) (b : Option Beat) (hs : memOk s) : memOk (deliver s n core e port b) :=
    by
  unfold deliver
  try dsimp only
  repeat' (first | assumption | (with_reducible refine (memOk_of_still (channelCount_still _ _ _)).mpr ?_)
                 | (with_reducible refine (memOk_of_still (modPart_still _ _ _)).mpr ?_)
                 | (with_reducible refine writeWords_memOk _ _ _ ?_) | split | (intro _)
                 | (with_reducible refine foldl_memOk _ _ _ ?_ ?_) | (with_reducible refine foldl_fst_memOk _ _ _ ?_ ?_)
                 | (with_reducible refine foldl_snd_memOk _ _ _ ?_ ?_) | (simp only [memOk_mk, memsOk_eta]))
theorem deliver_keep (s : State) (n core e port : Nat) (b : Option Beat) : Keep s (deliver s n core e port b) := ⟨deliver_setup
    _ _ _ _ _ _, deliver_memOk _ _ _ _ _⟩

theorem leave_still (s : State) (n c core i : Nat) (p : Place) (t : PlanStep) (bad : List LinkWord) (word : Nat → Option Beat)
    (l : List Nat) : (leave s n c core i p t bad word l).2.still = s.still := by
  induction l generalizing s with
  | nil => rfl
  | cons o l ih =>
    unfold leave
    split
    · exact ih _
    · exact (ih _).trans (crossWords_still _ _ _ _ _)

theorem moveCore_keep (s : State) (n c core i : Nat) (t : PlanStep) (bad : List LinkWord) (inp : Nat → Option Beat) : Keep s
    (moveCore s n c core i t bad inp).2 := by
  unfold moveCore; dsimp only
  have h1 : ∀ w, Keep s (leave (takeBeats s n core t.sends).2 n c core i (placeIn s n i) t bad w (upFrom 0 5)).2 := fun w =>
    (takeBeats_keep _ _ _ _).trans (keep_of_still (leave_still _ _ _ _ _ _ _ _ _ _))
  have h2 : ∀ u, Keep u (((upFrom 0 5).filter t.delivers).foldl (fun s x => deliver s n core (t.recvOf x) x (inp x)) u) :=
    fun u => Keep.foldl _ _ _ fun s x => deliver_keep _ _ _ _ _ _
  split
  · exact (h1 _).trans (h2 _)
  · exact (h1 _).trans ((h2 _).trans (Keep.foldl _ _ _ fun s e => keep_of_still (stepArm_still _ _ _)))
@[simp] theorem moveCore_setup (s : State) (n c core i : Nat) (t : PlanStep) (bad : List LinkWord) (inp : Nat → Option Beat) :
    (moveCore s n c core i t bad inp).2.setup = s.setup := (moveCore_keep s n c core i t bad inp).1
theorem moveCore_memOk {s : State} (n c core i : Nat) (t : PlanStep) (bad : List LinkWord) (inp : Nat → Option Beat) (hs :
    memOk s) : memOk (moveCore s n c core i t bad inp).2 := (moveCore_keep s n c core i t bad inp).2 hs

@[simp] theorem readStep_setup (s : State) (core i : Nat) : (readStep s core i).setup = s.setup := by
  unfold readStep; simp
theorem readStep_memOk {s : State} (core i : Nat) (hs : memOk s) : memOk (readStep s core i) := by
  unfold readStep
  try dsimp only
  repeat' (first | assumption | (with_reducible refine readMem_memOk _ _ _ ?_) | split | (intro _)
                 | (with_reducible refine foldl_memOk _ _ _ ?_ ?_) | (with_reducible refine foldl_fst_memOk _ _ _ ?_ ?_)
                 | (with_reducible refine foldl_snd_memOk _ _ _ ?_ ?_) | (simp only [memOk_mk, memsOk_eta]))
theorem readStep_keep (s : State) (core i : Nat) : Keep s (readStep s core i) := ⟨readStep_setup _ _ _, readStep_memOk _ _⟩

theorem moveCores_keep (s : State) (n c : Nat) (bad : List LinkWord) (due : List Flight) (x0 : List (Nat × Nat)) : Keep s
    (moveCores s n c bad due x0).2 := by
  induction x0 generalizing s with
  | nil => exact Keep.refl s
  | cons x l ih =>
    obtain ⟨core, i⟩ := x
    refine Keep.trans ?_ (ih _)
    refine Keep.trans ?_ (keep_of_still (modCore_still _ _ _))
    have h0 : ∀ o : Option PlanStep, Keep s (match o with
        | some t => moveCore s n c core i t bad (inputOf s core i due)
        | none => ([], s)).2 := by
      intro o
      split
      · exact moveCore_keep _ _ _ _ _ _ _ _
      · exact Keep.refl s
    exact Keep.ite _ (h0 _) ((h0 _).trans (readStep_keep _ _ _))
@[simp] theorem moveCores_setup (s : State) (n c : Nat) (bad : List LinkWord) (due : List Flight) (x0 : List (Nat × Nat)) :
    (moveCores s n c bad due x0).2.setup = s.setup := (moveCores_keep s n c bad due x0).1
theorem moveCores_memOk {s : State} (n c : Nat) (bad : List LinkWord) (due : List Flight) (x0 : List (Nat × Nat)) (hs : memOk
    s) : memOk (moveCores s n c bad due x0).2 := (moveCores_keep s n c bad due x0).2 hs

theorem depart_keep (s : State) (n c : Nat) (bad : List LinkWord) (x0 : List (Nat × Nat × Nat)) : Keep s (depart s n c bad
    x0).2 := by
  induction x0 generalizing s with
  | nil => exact Keep.refl s
  | cons x l ih => exact ((bufGet_keep s n x.2.2 8).trans (keep_of_still (crossWords_still _ _ _ _ _))).trans (ih _)
@[simp] theorem depart_setup (s : State) (n c : Nat) (bad : List LinkWord) (x0 : List (Nat × Nat × Nat)) : (depart s n c bad
    x0).2.setup = s.setup := (depart_keep s n c bad x0).1
theorem depart_memOk {s : State} (n c : Nat) (bad : List LinkWord) (x0 : List (Nat × Nat × Nat)) (hs : memOk s) : memOk (depart
    s n c bad x0).2 := (depart_keep s n c bad x0).2 hs

theorem modRun_still (s : State) (n : Nat) (f : Run → Run) : (modRun s n f).still = s.still := by
  rfl
@[simp] theorem modRun_setup (s : State) (n : Nat) (f : Run → Run) : (modRun s n f).setup = s.setup := setup_of_still
    (modRun_still _ _ _)
@[simp] theorem modRun_mems (s : State) (n : Nat) (f : Run → Run) : (modRun s n f).mems = s.mems := mems_of_still (modRun_still
    _ _ _)

@[simp] theorem advance_setup (s : State) (n : Nat) (r : Run) (bad : List LinkWord) : (advance s n r bad).setup = s.setup := by
  unfold advance
  try dsimp only
  repeat' (first | rfl | (with_reducible refine (bufPut_setup _ _ _ _).trans ?_)
                 | (with_reducible refine (depart_setup _ _ _ _ _).trans ?_)
                 | (with_reducible refine (modPart_setup _ _ _).trans ?_)
                 | (with_reducible refine (modRun_setup _ _ _).trans ?_)
                 | (with_reducible refine (moveCores_setup _ _ _ _ _ _).trans ?_) | split
                 | (with_reducible refine (foldl_setup _ _ _ ?_).trans ?_)
                 | (with_reducible refine (foldl_fst_setup _ _ _ ?_).trans ?_)
                 | (with_reducible refine (foldl_snd_setup _ _ _ ?_).trans ?_) | (intro _) | (simp; done))
theorem advance_memOk {s : State} (n : Nat) (r : Run) (bad : List LinkWord) (hs : memOk s) : memOk (advance s n r bad) := by
  unfold advance
  try dsimp only
  repeat' (first | assumption | (with_reducible refine bufPut_memOk _ _ _ ?_)
                 | (with_reducible refine depart_memOk _ _ _ _ ?_)
                 | (with_reducible refine (memOk_of_still (modPart_still _ _ _)).mpr ?_)
                 | (with_reducible refine (memOk_of_still (modRun_still _ _ _)).mpr ?_)
                 | (with_reducible refine moveCores_memOk _ _ _ _ _ ?_) | split | (intro _)
                 | (with_reducible refine foldl_memOk _ _ _ ?_ ?_) | (with_reducible refine foldl_fst_memOk _ _ _ ?_ ?_)
                 | (with_reducible refine foldl_snd_memOk _ _ _ ?_ ?_) | (simp only [memOk_mk, memsOk_eta]))
theorem advance_keep (s : State) (n : Nat) (r : Run) (bad : List LinkWord) : Keep s (advance s n r bad) := ⟨advance_setup _ _ _
    _, advance_memOk _ _ _⟩

theorem exclude_still (s : State) (n : Nat) : (exclude s n).still = s.still := by
  unfold exclude; simp
@[simp] theorem exclude_setup (s : State) (n : Nat) : (exclude s n).setup = s.setup := setup_of_still (exclude_still _ _)
@[simp] theorem exclude_mems (s : State) (n : Nat) : (exclude s n).mems = s.mems := mems_of_still (exclude_still _ _)

theorem bubbleCycle_still (s : State) (n cause : Nat) : (bubbleCycle s n cause).still = s.still := by
  unfold bubbleCycle; simp
@[simp] theorem bubbleCycle_setup (s : State) (n cause : Nat) : (bubbleCycle s n cause).setup = s.setup := setup_of_still
    (bubbleCycle_still _ _ _)
@[simp] theorem bubbleCycle_mems (s : State) (n cause : Nat) : (bubbleCycle s n cause).mems = s.mems := mems_of_still
    (bubbleCycle_still _ _ _)

theorem holdCycle_still (s : State) (n : Nat) : (holdCycle s n).still = s.still := by
  unfold holdCycle; simp
@[simp] theorem holdCycle_setup (s : State) (n : Nat) : (holdCycle s n).setup = s.setup := setup_of_still (holdCycle_still _ _)
@[simp] theorem holdCycle_mems (s : State) (n : Nat) : (holdCycle s n).mems = s.mems := mems_of_still (holdCycle_still _ _)

theorem slipCycle_still (s : State) (n cause who : Nat) : (slipCycle s n cause who).still = s.still := by
  unfold slipCycle; simp
@[simp] theorem slipCycle_setup (s : State) (n cause who : Nat) : (slipCycle s n cause who).setup = s.setup := setup_of_still
    (slipCycle_still _ _ _ _)
@[simp] theorem slipCycle_mems (s : State) (n cause who : Nat) : (slipCycle s n cause who).mems = s.mems := mems_of_still
    (slipCycle_still _ _ _ _)

theorem barrierTime_still (s : State) (n : Nat) : (barrierTime s n).still = s.still := by
  unfold barrierTime; simp
@[simp] theorem barrierTime_setup (s : State) (n : Nat) : (barrierTime s n).setup = s.setup := setup_of_still
    (barrierTime_still _ _)
@[simp] theorem barrierTime_mems (s : State) (n : Nat) : (barrierTime s n).mems = s.mems := mems_of_still (barrierTime_still _
    _)

theorem wallCounts_still (s : State) (n : Nat) : (wallCounts s n).still = s.still := by
  unfold wallCounts; simp
@[simp] theorem wallCounts_setup (s : State) (n : Nat) : (wallCounts s n).setup = s.setup := setup_of_still (wallCounts_still _
    _)
@[simp] theorem wallCounts_mems (s : State) (n : Nat) : (wallCounts s n).mems = s.mems := mems_of_still (wallCounts_still _ _)

theorem slipFrame_still (s : State) : (slipFrame s).still = s.still := by
  unfold slipFrame
  exact foldl_still _ _ _ fun s n => by
    extract_lets x beyond w s1
    split
    · exact (raise_still s1 _).trans (modPart_still _ _ _)
    · exact modPart_still _ _ _
@[simp] theorem slipFrame_setup (s : State) : (slipFrame s).setup = s.setup := setup_of_still (slipFrame_still _)
@[simp] theorem slipFrame_mems (s : State) : (slipFrame s).mems = s.mems := mems_of_still (slipFrame_still _)

theorem replaceRing_still (s : State) (k : Nat) : (replaceRing s k).still = s.still := by
  unfold replaceRing; simp
@[simp] theorem replaceRing_setup (s : State) (k : Nat) : (replaceRing s k).setup = s.setup := setup_of_still
    (replaceRing_still _ _)
@[simp] theorem replaceRing_mems (s : State) (k : Nat) : (replaceRing s k).mems = s.mems := mems_of_still (replaceRing_still _
    _)

theorem failRing_still (s : State) (k : Nat) : (failRing s k).still = s.still := by
  unfold failRing; simp
@[simp] theorem failRing_setup (s : State) (k : Nat) : (failRing s k).setup = s.setup := setup_of_still (failRing_still _ _)
@[simp] theorem failRing_mems (s : State) (k : Nat) : (failRing s k).mems = s.mems := mems_of_still (failRing_still _ _)

theorem poisonRing_still (s : State) (k : Nat) : (poisonRing s k).still = s.still := by
  unfold poisonRing; simp
@[simp] theorem poisonRing_setup (s : State) (k : Nat) : (poisonRing s k).setup = s.setup := setup_of_still (poisonRing_still _
    _)
@[simp] theorem poisonRing_mems (s : State) (k : Nat) : (poisonRing s k).mems = s.mems := mems_of_still (poisonRing_still _ _)

theorem beginReplay_still (s : State) (k : Nat) : (beginReplay s k).still = s.still := by
  unfold beginReplay; simp
@[simp] theorem beginReplay_setup (s : State) (k : Nat) : (beginReplay s k).setup = s.setup := setup_of_still
    (beginReplay_still _ _)
@[simp] theorem beginReplay_mems (s : State) (k : Nat) : (beginReplay s k).mems = s.mems := mems_of_still (beginReplay_still _
    _)

theorem releaseCluster_keep (s : State) (c : Nat) : Keep s (releaseCluster s c) := by
  unfold releaseCluster
  exact (keep_of_still (turnOff_still _ _)).trans (Keep.foldl _ _ _ fun s k => fillZero_keep _ _)
@[simp] theorem releaseCluster_setup (s : State) (c : Nat) : (releaseCluster s c).setup = s.setup := (releaseCluster_keep s c).1
theorem releaseCluster_memOk {s : State} (c : Nat) (hs : memOk s) : memOk (releaseCluster s c) := (releaseCluster_keep s c).2 hs

theorem setUpPart_still (s : State) (n : Nat) : (setUpPart s n).still = s.still := by
  rfl
@[simp] theorem setUpPart_setup (s : State) (n : Nat) : (setUpPart s n).setup = s.setup := setup_of_still (setUpPart_still _ _)
@[simp] theorem setUpPart_mems (s : State) (n : Nat) : (setUpPart s n).mems = s.mems := mems_of_still (setUpPart_still _ _)

theorem moveClusters_keep (s : State) (n : Nat) (old new : W32) (first : Bool) : Keep s (moveClusters s n old new first) := by
  unfold moveClusters
  split
  · exact Keep.foldl _ _ _ fun s c => releaseCluster_keep _ _
  · exact (Keep.foldl _ _ _ fun s c => keep_of_still (turnOn_still _ _)).trans (Keep.when _ (keep_of_still (setUpPart_still _ _)))
@[simp] theorem moveClusters_setup (s : State) (n : Nat) (old new : W32) (first : Bool) : (moveClusters s n old new
    first).setup = s.setup := (moveClusters_keep s n old new first).1
theorem moveClusters_memOk {s : State} (n : Nat) (old new : W32) (first : Bool) (hs : memOk s) : memOk (moveClusters s n old
    new first) := (moveClusters_keep s n old new first).2 hs

theorem enableMya_still (s : State) (old : State) (p : MPort) : (enableMya s old p).still = s.still := by
  unfold enableMya; simp
@[simp] theorem enableMya_setup (s : State) (old : State) (p : MPort) : (enableMya s old p).setup = s.setup := setup_of_still
    (enableMya_still _ _ _)
@[simp] theorem enableMya_mems (s : State) (old : State) (p : MPort) : (enableMya s old p).mems = s.mems := mems_of_still
    (enableMya_still _ _ _)

theorem pressCap_still (s : State) (old : State) : (pressCap s old).still = s.still := by
  unfold pressCap; simp
@[simp] theorem pressCap_setup (s : State) (old : State) : (pressCap s old).setup = s.setup := setup_of_still (pressCap_still _
    _)
@[simp] theorem pressCap_mems (s : State) (old : State) : (pressCap s old).mems = s.mems := mems_of_still (pressCap_still _ _)

theorem pressTest_still (s : State) (old : State) : (pressTest s old).still = s.still := by
  unfold pressTest; simp
@[simp] theorem pressTest_setup (s : State) (old : State) : (pressTest s old).setup = s.setup := setup_of_still
    (pressTest_still _ _)
@[simp] theorem pressTest_mems (s : State) (old : State) : (pressTest s old).mems = s.mems := mems_of_still (pressTest_still _
    _)

theorem scrub_still (s : State) (p : Tab Scrub) : ({ s with scrub := p } : State).still = s.still := rfl

theorem pressScrub_still (s : State) (old : State) : (pressScrub s old).still = s.still := by
  unfold pressScrub
  refine foldl_still _ _ _ fun s x => ?_
  split
  · rfl
  · exact scrub_still _ _
@[simp] theorem pressScrub_setup (s : State) (old : State) : (pressScrub s old).setup = s.setup := setup_of_still
    (pressScrub_still _ _)
@[simp] theorem pressScrub_mems (s : State) (old : State) : (pressScrub s old).mems = s.mems := mems_of_still (pressScrub_still
    _ _)

@[simp] theorem zeroKv_setup (s : State) : (zeroKv s).setup = s.setup := by
  unfold zeroKv; simp
theorem zeroKv_memOk {s : State}  (hs : memOk s) : memOk (zeroKv s) := by
  unfold zeroKv
  try dsimp only
  repeat' (first | assumption | (with_reducible refine (memOk_of_still (modNbu_still _ _ _)).mpr ?_)
                 | (with_reducible refine zeroStack_memOk _ _ ?_) | split | (intro _)
                 | (with_reducible refine foldl_memOk _ _ _ ?_ ?_) | (with_reducible refine foldl_fst_memOk _ _ _ ?_ ?_)
                 | (with_reducible refine foldl_snd_memOk _ _ _ ?_ ?_) | (simp only [memOk_mk, memsOk_eta]))
theorem zeroKv_keep (s : State) : Keep s (zeroKv s) := ⟨zeroKv_setup _, zeroKv_memOk⟩

theorem pressFills_keep (s : State) (old : State) : Keep s (pressFills s old) := by
  unfold pressFills
  extract_lets s1 s2
  have h1 : Keep s s1 := Keep.when _ ⟨rfl, fun h => ⟨h.1, h.2.1, h.2.2.1, rfl⟩⟩
  have h2 : Keep s1 s2 := Keep.when _ (zeroKv_keep _)
  exact h1.trans (h2.trans (Keep.when _ (zeroStack_keep _ _ _)))
@[simp] theorem pressFills_setup (s : State) (old : State) : (pressFills s old).setup = s.setup := (pressFills_keep s old).1
theorem pressFills_memOk {s : State} (old : State) (hs : memOk s) : memOk (pressFills s old) := (pressFills_keep s old).2 hs

theorem modRot_still (s : State) (f : Rot → Rot) : (modRot s f).still = s.still := by
  rfl
@[simp] theorem modRot_setup (s : State) (f : Rot → Rot) : (modRot s f).setup = s.setup := setup_of_still (modRot_still _ _)
@[simp] theorem modRot_mems (s : State) (f : Rot → Rot) : (modRot s f).mems = s.mems := mems_of_still (modRot_still _ _)

theorem draw_still (s : State) : (draw s).2.still = s.still := by
  rfl
@[simp] theorem draw_setup (s : State) : (draw s).2.setup = s.setup := setup_of_still (draw_still _)
@[simp] theorem draw_mems (s : State) : (draw s).2.mems = s.mems := mems_of_still (draw_still _)

theorem newNonce_still (s : State) : (newNonce s).still = s.still := by
  rfl
@[simp] theorem newNonce_setup (s : State) : (newNonce s).setup = s.setup := setup_of_still (newNonce_still _)
@[simp] theorem newNonce_mems (s : State) : (newNonce s).mems = s.mems := mems_of_still (newNonce_still _)

theorem modTherm_still (s : State) (f : Therm → Therm) : (modTherm s f).still = s.still := by
  rfl
@[simp] theorem modTherm_setup (s : State) (f : Therm → Therm) : (modTherm s f).setup = s.setup := setup_of_still
    (modTherm_still _ _)
@[simp] theorem modTherm_mems (s : State) (f : Therm → Therm) : (modTherm s f).mems = s.mems := mems_of_still (modTherm_still _
    _)

theorem modSensor_still (s : State) (i : Nat) (f : Sensor → Sensor) : (modSensor s i f).still = s.still := by
  rfl
@[simp] theorem modSensor_setup (s : State) (i : Nat) (f : Sensor → Sensor) : (modSensor s i f).setup = s.setup :=
    setup_of_still (modSensor_still _ _ _)
@[simp] theorem modSensor_mems (s : State) (i : Nat) (f : Sensor → Sensor) : (modSensor s i f).mems = s.mems := mems_of_still
    (modSensor_still _ _ _)

theorem faultySensor_still (s : State) (i : Nat) : (faultySensor s i).still = s.still := by
  unfold faultySensor; simp
@[simp] theorem faultySensor_setup (s : State) (i : Nat) : (faultySensor s i).setup = s.setup := setup_of_still
    (faultySensor_still _ _)
@[simp] theorem faultySensor_mems (s : State) (i : Nat) : (faultySensor s i).mems = s.mems := mems_of_still (faultySensor_still
    _ _)

theorem takeReading_still (s : State) (i : Nat) (v : Option (BitVec 16)) : (takeReading s i v).still = s.still := by
  unfold takeReading; split <;> simp
@[simp] theorem takeReading_setup (s : State) (i : Nat) (v : Option (BitVec 16)) : (takeReading s i v).setup = s.setup :=
    setup_of_still (takeReading_still _ _ _)
@[simp] theorem takeReading_mems (s : State) (i : Nat) (v : Option (BitVec 16)) : (takeReading s i v).mems = s.mems :=
    mems_of_still (takeReading_still _ _ _)

theorem noteDeviation_still (s : State) (i : Nat) : (noteDeviation s i).still = s.still := by
  rfl
@[simp] theorem noteDeviation_setup (s : State) (i : Nat) : (noteDeviation s i).setup = s.setup := setup_of_still
    (noteDeviation_still _ _)
@[simp] theorem noteDeviation_mems (s : State) (i : Nat) : (noteDeviation s i).mems = s.mems := mems_of_still
    (noteDeviation_still _ _)

theorem setThermal_still (s : State) : (setThermal s).still = s.still := by
  rfl
@[simp] theorem setThermal_setup (s : State) : (setThermal s).setup = s.setup := setup_of_still (setThermal_still _)
@[simp] theorem setThermal_mems (s : State) : (setThermal s).mems = s.mems := mems_of_still (setThermal_still _)

theorem darken_still (s : State) (n : Nat) : (darken s n).still = s.still := by
  unfold darken; simp
@[simp] theorem darken_setup (s : State) (n : Nat) : (darken s n).setup = s.setup := setup_of_still (darken_still _ _)
@[simp] theorem darken_mems (s : State) (n : Nat) : (darken s n).mems = s.mems := mems_of_still (darken_still _ _)

theorem haltPart_still (s : State) (n : Nat) : (haltPart s n).still = s.still := by
  unfold haltPart; simp
@[simp] theorem haltPart_setup (s : State) (n : Nat) : (haltPart s n).setup = s.setup := setup_of_still (haltPart_still _ _)
@[simp] theorem haltPart_mems (s : State) (n : Nat) : (haltPart s n).mems = s.mems := mems_of_still (haltPart_still _ _)

theorem thermalHalts_still (s : State) : (thermalHalts s).still = s.still := by
  unfold thermalHalts; simp
@[simp] theorem thermalHalts_setup (s : State) : (thermalHalts s).setup = s.setup := setup_of_still (thermalHalts_still _)
@[simp] theorem thermalHalts_mems (s : State) : (thermalHalts s).mems = s.mems := mems_of_still (thermalHalts_still _)

theorem noteCool_still (s : State) : (noteCool s).still = s.still := by
  rfl
@[simp] theorem noteCool_setup (s : State) : (noteCool s).setup = s.setup := setup_of_still (noteCool_still _)
@[simp] theorem noteCool_mems (s : State) : (noteCool s).mems = s.mems := mems_of_still (noteCool_still _)

theorem loseAir_still (s : State) (why : Loss) : (loseAir s why).still = s.still := by
  unfold loseAir; simp
@[simp] theorem loseAir_setup (s : State) (why : Loss) : (loseAir s why).setup = s.setup := setup_of_still (loseAir_still _ _)
@[simp] theorem loseAir_mems (s : State) (why : Loss) : (loseAir s why).mems = s.mems := mems_of_still (loseAir_still _ _)

theorem takeTach_still (s : State) (rpm idle : List Nat) (f : Nat) : (takeTach s rpm idle f).still = s.still := by
  rfl
@[simp] theorem takeTach_setup (s : State) (rpm idle : List Nat) (f : Nat) : (takeTach s rpm idle f).setup = s.setup :=
    setup_of_still (takeTach_still _ _ _ _)
@[simp] theorem takeTach_mems (s : State) (rpm idle : List Nat) (f : Nat) : (takeTach s rpm idle f).mems = s.mems :=
    mems_of_still (takeTach_still _ _ _ _)

theorem airCap_still (s : State) (m : Int) : (airCap s m).2.still = s.still := by
  unfold airCap; dsimp only; (repeat' split) <;> simp
@[simp] theorem airCap_setup (s : State) (m : Int) : (airCap s m).2.setup = s.setup := setup_of_still (airCap_still _ _)
@[simp] theorem airCap_mems (s : State) (m : Int) : (airCap s m).2.mems = s.mems := mems_of_still (airCap_still _ _)

theorem degrade_still (s : State) (m : Int) : (degrade s m).still = s.still := by
  unfold degrade; simp
@[simp] theorem degrade_setup (s : State) (m : Int) : (degrade s m).setup = s.setup := setup_of_still (degrade_still _ _)
@[simp] theorem degrade_mems (s : State) (m : Int) : (degrade s m).mems = s.mems := mems_of_still (degrade_still _ _)

theorem reviewSensor_still (s : State) (i : Nat) : (reviewSensor s i).still = s.still := by
  unfold reviewSensor; simp
@[simp] theorem reviewSensor_setup (s : State) (i : Nat) : (reviewSensor s i).setup = s.setup := setup_of_still
    (reviewSensor_still _ _)
@[simp] theorem reviewSensor_mems (s : State) (i : Nat) : (reviewSensor s i).mems = s.mems := mems_of_still (reviewSensor_still
    _ _)

theorem review_still (s : State) : (review s).still = s.still := by
  unfold review; simp
@[simp] theorem review_setup (s : State) : (review s).setup = s.setup := setup_of_still (review_still _)
@[simp] theorem review_mems (s : State) : (review s).mems = s.mems := mems_of_still (review_still _)

theorem ageCtl_still (s : State) (v : W32) : (ageCtl s v).2.still = s.still := by
  unfold ageCtl; (repeat' split) <;> simp
@[simp] theorem ageCtl_setup (s : State) (v : W32) : (ageCtl s v).2.setup = s.setup := setup_of_still (ageCtl_still _ _)
@[simp] theorem ageCtl_mems (s : State) (v : W32) : (ageCtl s v).2.mems = s.mems := mems_of_still (ageCtl_still _ _)

theorem statFrame_still (s : State) : (statFrame s).still = s.still := by
  rfl
@[simp] theorem statFrame_setup (s : State) : (statFrame s).setup = s.setup := setup_of_still (statFrame_still _)
@[simp] theorem statFrame_mems (s : State) : (statFrame s).mems = s.mems := mems_of_still (statFrame_still _)

theorem bubbleFrame_still (s : State) : (bubbleFrame s).still = s.still := by
  unfold bubbleFrame
  exact (still_power _ _).trans (foldl_still _ _ _ fun s n => modPart_still _ _ _)
@[simp] theorem bubbleFrame_setup (s : State) : (bubbleFrame s).setup = s.setup := setup_of_still (bubbleFrame_still _)
@[simp] theorem bubbleFrame_mems (s : State) : (bubbleFrame s).mems = s.mems := mems_of_still (bubbleFrame_still _)

theorem domainFrame_still (s : State) (l : List DomainSample) : (domainFrame s l).still = s.still := by
  unfold domainFrame; simp
@[simp] theorem domainFrame_setup (s : State) (l : List DomainSample) : (domainFrame s l).setup = s.setup := setup_of_still
    (domainFrame_still _ _)
@[simp] theorem domainFrame_mems (s : State) (l : List DomainSample) : (domainFrame s l).mems = s.mems := mems_of_still
    (domainFrame_still _ _)

theorem kvFrame_still (s : State) : (kvFrame s).still = s.still := by
  rfl
@[simp] theorem kvFrame_setup (s : State) : (kvFrame s).setup = s.setup := setup_of_still (kvFrame_still _)
@[simp] theorem kvFrame_mems (s : State) : (kvFrame s).mems = s.mems := mems_of_still (kvFrame_still _)

theorem steerWire_still (s : State) (w : WireCount) : (steerWire s w).still = s.still := by
  unfold steerWire; simp
@[simp] theorem steerWire_setup (s : State) (w : WireCount) : (steerWire s w).setup = s.setup := setup_of_still
    (steerWire_still _ _)
@[simp] theorem steerWire_mems (s : State) (w : WireCount) : (steerWire s w).mems = s.mems := mems_of_still (steerWire_still _
    _)

theorem laneFrame_still (s : State) (l : Link) (lane count : Nat) : (laneFrame s l lane count).still = s.still := by
  unfold laneFrame; dsimp only; (repeat' split) <;> simp
@[simp] theorem laneFrame_setup (s : State) (l : Link) (lane count : Nat) : (laneFrame s l lane count).setup = s.setup :=
    setup_of_still (laneFrame_still _ _ _ _)
@[simp] theorem laneFrame_mems (s : State) (l : Link) (lane count : Nat) : (laneFrame s l lane count).mems = s.mems :=
    mems_of_still (laneFrame_still _ _ _ _)

theorem lanesFrame_still (symbols : List (Link × Nat × Nat)) (s : State) (l : Link) : (lanesFrame symbols s l).still = s.still
    := by
  unfold lanesFrame; simp
@[simp] theorem lanesFrame_setup (symbols : List (Link × Nat × Nat)) (s : State) (l : Link) : (lanesFrame symbols s l).setup =
    s.setup := setup_of_still (lanesFrame_still _ _ _)
@[simp] theorem lanesFrame_mems (symbols : List (Link × Nat × Nat)) (s : State) (l : Link) : (lanesFrame symbols s l).mems =
    s.mems := mems_of_still (lanesFrame_still _ _ _)

theorem stackFrame_still (s : State) (n : Nat) (t : Option Byte) : (stackFrame s n t).still = s.still := by
  unfold stackFrame; split <;> simp
@[simp] theorem stackFrame_setup (s : State) (n : Nat) (t : Option Byte) : (stackFrame s n t).setup = s.setup := setup_of_still
    (stackFrame_still _ _ _)
@[simp] theorem stackFrame_mems (s : State) (n : Nat) (t : Option Byte) : (stackFrame s n t).mems = s.mems := mems_of_still
    (stackFrame_still _ _ _)

theorem monitorFrame_still (s : State) (m : Nat) (v : W32) : (monitorFrame s m v).still = s.still := by
  rfl
@[simp] theorem monitorFrame_setup (s : State) (m : Nat) (v : W32) : (monitorFrame s m v).setup = s.setup := setup_of_still
    (monitorFrame_still _ _ _)
@[simp] theorem monitorFrame_mems (s : State) (m : Nat) (v : W32) : (monitorFrame s m v).mems = s.mems := mems_of_still
    (monitorFrame_still _ _ _)

theorem setCross_still (s : State) (g : Crossing) (x : Cross) : (setCross s g x).still = s.still := by
  rfl
@[simp] theorem setCross_setup (s : State) (g : Crossing) (x : Cross) : (setCross s g x).setup = s.setup := setup_of_still
    (setCross_still _ _ _)
@[simp] theorem setCross_mems (s : State) (g : Crossing) (x : Cross) : (setCross s g x).mems = s.mems := mems_of_still
    (setCross_still _ _ _)

theorem stepCodes_still (s : State) : (stepCodes s).still = s.still := by
  rfl
@[simp] theorem stepCodes_setup (s : State) : (stepCodes s).setup = s.setup := setup_of_still (stepCodes_still _)
@[simp] theorem stepCodes_mems (s : State) : (stepCodes s).mems = s.mems := mems_of_still (stepCodes_still _)

theorem modBoot_still (s : State) (f : Boot → Boot) : (modBoot s f).still = s.still := by
  rfl
@[simp] theorem modBoot_setup (s : State) (f : Boot → Boot) : (modBoot s f).setup = s.setup := setup_of_still (modBoot_still _
    _)
@[simp] theorem modBoot_mems (s : State) (f : Boot → Boot) : (modBoot s f).mems = s.mems := mems_of_still (modBoot_still _ _)

theorem adopt_still (s : State) (img : List Byte) (k : Nat) : (adopt s img k).still = s.still := by
  rfl
@[simp] theorem adopt_setup (s : State) (img : List Byte) (k : Nat) : (adopt s img k).setup = s.setup := setup_of_still
    (adopt_still _ _ _)
@[simp] theorem adopt_mems (s : State) (img : List Byte) (k : Nat) : (adopt s img k).mems = s.mems := mems_of_still
    (adopt_still _ _ _)

theorem readStore_still (s : State) : (readStore s).still = s.still := by
  unfold readStore; simp
@[simp] theorem readStore_setup (s : State) : (readStore s).setup = s.setup := setup_of_still (readStore_still _)
@[simp] theorem readStore_mems (s : State) : (readStore s).mems = s.mems := mems_of_still (readStore_still _)

theorem bootRom_still (s : State) : (bootRom s).still = s.still := by
  unfold bootRom; dsimp only; (repeat' split) <;> simp
@[simp] theorem bootRom_setup (s : State) : (bootRom s).setup = s.setup := setup_of_still (bootRom_still _)
@[simp] theorem bootRom_mems (s : State) : (bootRom s).mems = s.mems := mems_of_still (bootRom_still _)

theorem noteFailure_still (s : State) (u : Nat × Nat) : (noteFailure s u).still = s.still := by
  unfold noteFailure; simp
@[simp] theorem noteFailure_setup (s : State) (u : Nat × Nat) : (noteFailure s u).setup = s.setup := setup_of_still
    (noteFailure_still _ _)
@[simp] theorem noteFailure_mems (s : State) (u : Nat × Nat) : (noteFailure s u).mems = s.mems := mems_of_still
    (noteFailure_still _ _)

theorem anomaly_still (s : State) (u : Nat × Nat) : (anomaly s u).still = s.still := by
  unfold anomaly; simp
@[simp] theorem anomaly_setup (s : State) (u : Nat × Nat) : (anomaly s u).setup = s.setup := setup_of_still (anomaly_still _ _)
@[simp] theorem anomaly_mems (s : State) (u : Nat × Nat) : (anomaly s u).mems = s.mems := mems_of_still (anomaly_still _ _)

theorem strike_still (s : State) (unit id key : Nat) : (strike s unit id key).still = s.still := by
  unfold strike; simp
@[simp] theorem strike_setup (s : State) (unit id key : Nat) : (strike s unit id key).setup = s.setup := setup_of_still
    (strike_still _ _ _ _)
@[simp] theorem strike_mems (s : State) (unit id key : Nat) : (strike s unit id key).mems = s.mems := mems_of_still
    (strike_still _ _ _ _)

theorem loadMicrocode_still (s : State) (cores nbus : List Nat) : (loadMicrocode s cores nbus).still = s.still := by
  unfold loadMicrocode; simp
@[simp] theorem loadMicrocode_setup (s : State) (cores nbus : List Nat) : (loadMicrocode s cores nbus).setup = s.setup :=
    setup_of_still (loadMicrocode_still _ _ _)
@[simp] theorem loadMicrocode_mems (s : State) (cores nbus : List Nat) : (loadMicrocode s cores nbus).mems = s.mems :=
    mems_of_still (loadMicrocode_still _ _ _)

theorem layRows_still (s : State) (bad : List Nat) : (layRows s bad).still = s.still := by
  unfold layRows; simp
@[simp] theorem layRows_setup (s : State) (bad : List Nat) : (layRows s bad).setup = s.setup := setup_of_still (layRows_still _
    _)
@[simp] theorem layRows_mems (s : State) (bad : List Nat) : (layRows s bad).mems = s.mems := mems_of_still (layRows_still _ _)

theorem startFence_still (s : State) (c : Nat) : (startFence s c).still = s.still := by
  unfold startFence; simp
@[simp] theorem startFence_setup (s : State) (c : Nat) : (startFence s c).setup = s.setup := setup_of_still (startFence_still _
    _)
@[simp] theorem startFence_mems (s : State) (c : Nat) : (startFence s c).mems = s.mems := mems_of_still (startFence_still _ _)

theorem reconcile_still (s : State) (now : List (Nat × Nat)) (softCores softNbus : List Nat) : (reconcile s now softCores
    softNbus).still = s.still := by
  unfold reconcile; simp
@[simp] theorem reconcile_setup (s : State) (now : List (Nat × Nat)) (softCores softNbus : List Nat) : (reconcile s now
    softCores softNbus).setup = s.setup := setup_of_still (reconcile_still _ _ _ _)
@[simp] theorem reconcile_mems (s : State) (now : List (Nat × Nat)) (softCores softNbus : List Nat) : (reconcile s now
    softCores softNbus).mems = s.mems := mems_of_still (reconcile_still _ _ _ _)

theorem trainPorts_still (s : State) (l : List Link) : (trainPorts s l).still = s.still := by
  unfold trainPorts; simp
@[simp] theorem trainPorts_setup (s : State) (l : List Link) : (trainPorts s l).setup = s.setup := setup_of_still
    (trainPorts_still _ _)
@[simp] theorem trainPorts_mems (s : State) (l : List Link) : (trainPorts s l).mems = s.mems := mems_of_still (trainPorts_still
    _ _)

theorem stepFour_still (s : State) (r : StartResults) : (stepFour s r).still = s.still := by
  unfold stepFour; simp
@[simp] theorem stepFour_setup (s : State) (r : StartResults) : (stepFour s r).setup = s.setup := setup_of_still
    (stepFour_still _ _)
@[simp] theorem stepFour_mems (s : State) (r : StartResults) : (stepFour s r).mems = s.mems := mems_of_still (stepFour_still _
    _)

theorem beginPatrols_still (s : State) : (beginPatrols s).still = s.still := by
  rfl
@[simp] theorem beginPatrols_setup (s : State) : (beginPatrols s).setup = s.setup := setup_of_still (beginPatrols_still _)
@[simp] theorem beginPatrols_mems (s : State) : (beginPatrols s).mems = s.mems := mems_of_still (beginPatrols_still _)

theorem release_still (s : State) : (release s).still = s.still := by
  unfold release
  refine (trainPorts_still _ _).trans ((modBoot_still _ _).trans ?_)
  have e : ∀ s : State, (if s.boot.lifeImage = true then
      modBoot { s with fwUpdate := some { desc := none, image := s.boot.image } } (fun b => { b with flash := [] })
    else s).still = s.still := by
    intro s; split <;> rfl
  exact (e _).trans ((modRot_still _ _).trans (beginPatrols_still _))
@[simp] theorem release_setup (s : State) : (release s).setup = s.setup := setup_of_still (release_still _)
@[simp] theorem release_mems (s : State) : (release s).mems = s.mems := mems_of_still (release_still _)

theorem lifeWrite_still (s : State) (a : Access) (off : Nat) (f : State → Byte × State)
    (h : ∀ s, (f s).2.still = s.still) : (lifeWrite s a off f).still = s.still := by
  unfold lifeWrite; dsimp only
  split
  · exact answer_still _ _ _ _
  · split
    · refine (answer_still _ _ _ _).trans ((h _).trans ?_); simp
    · simp

theorem lifeGo_still (s : State) (p : NPort) (v : W32) : (lifeGo s p v).2.still = s.still := by
  unfold lifeGo; (repeat' split) <;> simp
@[simp] theorem lifeGo_setup (s : State) (p : NPort) (v : W32) : (lifeGo s p v).2.setup = s.setup := setup_of_still
    (lifeGo_still _ _ _)
@[simp] theorem lifeGo_mems (s : State) (p : NPort) (v : W32) : (lifeGo s p v).2.mems = s.mems := mems_of_still (lifeGo_still _
    _ _)

theorem resumeReads_still (s : State) : (resumeReads s).still = s.still := by
  unfold resumeReads
  exact foldl_still _ _ _ fun s p => foldl_still _ _ _ fun s k => readDescs_still _ _ _ _
@[simp] theorem resumeReads_setup (s : State) : (resumeReads s).setup = s.setup := setup_of_still (resumeReads_still _)
@[simp] theorem resumeReads_mems (s : State) : (resumeReads s).mems = s.mems := mems_of_still (resumeReads_still _)

theorem loseHem_still (s : State) (n : Nat) : (loseHem s n).still = s.still := by
  rfl
@[simp] theorem loseHem_setup (s : State) (n : Nat) : (loseHem s n).setup = s.setup := setup_of_still (loseHem_still _ _)
@[simp] theorem loseHem_mems (s : State) (n : Nat) : (loseHem s n).mems = s.mems := mems_of_still (loseHem_still _ _)

theorem loseXfers_still (s : State) : (loseXfers s).still = s.still := by
  unfold loseXfers; (repeat' (first | rfl | (simp; done) | split | (refine (foldl_still _ _ _ ?_).trans ?_) | (intro _ _)))
@[simp] theorem loseXfers_setup (s : State) : (loseXfers s).setup = s.setup := setup_of_still (loseXfers_still _)
@[simp] theorem loseXfers_mems (s : State) : (loseXfers s).mems = s.mems := mems_of_still (loseXfers_still _)

theorem loseLoads_still (s : State) : (loseLoads s).still = s.still := by
  unfold loseLoads; simp
@[simp] theorem loseLoads_setup (s : State) : (loseLoads s).setup = s.setup := setup_of_still (loseLoads_still _)
@[simp] theorem loseLoads_mems (s : State) : (loseLoads s).mems = s.mems := mems_of_still (loseLoads_still _)

theorem beginHemReset_keep (s : State) (desc : Option DescRef) : Keep s (beginHemReset s desc) := by
  unfold beginHemReset
  extract_lets s1 torn s2 s3
  have h1 : Keep s s1 := keep_of_still rfl
  have h3 : Keep s2 s3 := Keep.foldl _ _ _ fun s n => Keep.when _ (keep_of_still (loseHem_still _ _))
  exact h1.trans ((failOps_keep _ _ _ _).trans (h3.trans ((keep_of_still (loseLoads_still _)).trans
    ((keep_of_still (loseXfers_still _)).trans (Keep.foldl _ _ _ fun s l => keep_of_still (beginRetrain_still _ _ _))))))
@[simp] theorem beginHemReset_setup (s : State) (desc : Option DescRef) : (beginHemReset s desc).setup = s.setup :=
    (beginHemReset_keep s desc).1
theorem beginHemReset_memOk {s : State} (desc : Option DescRef) (hs : memOk s) : memOk (beginHemReset s desc) :=
    (beginHemReset_keep s desc).2 hs

@[simp] theorem endOperations_setup (s : State) (st : Byte) : (endOperations s st).setup = s.setup := by
  unfold endOperations; simp
theorem endOperations_memOk {s : State} (st : Byte) (hs : memOk s) : memOk (endOperations s st) := by
  unfold endOperations
  try dsimp only
  repeat' (first | assumption | (with_reducible refine failOps_memOk _ _ _ ?_)
                 | (with_reducible refine (memOk_of_still (stopRun_still _ _ _)).mpr ?_) | split | (intro _)
                 | (with_reducible refine foldl_memOk _ _ _ ?_ ?_) | (with_reducible refine foldl_fst_memOk _ _ _ ?_ ?_)
                 | (with_reducible refine foldl_snd_memOk _ _ _ ?_ ?_) | (simp only [memOk_mk, memsOk_eta]))
theorem endOperations_keep (s : State) (st : Byte) : Keep s (endOperations s st) := ⟨endOperations_setup _ _,
    endOperations_memOk _⟩

@[simp] theorem lateRelock_setup (s : State) (c : ClockId) : (lateRelock s c).setup = s.setup := by
  unfold lateRelock; split <;> simp
theorem lateRelock_memOk {s : State} (c : ClockId) (hs : memOk s) : memOk (lateRelock s c) := by
  unfold lateRelock
  try dsimp only
  repeat' (first | assumption | (with_reducible refine abandonOps_memOk _ _ ?_)
                 | (with_reducible refine (memOk_of_still (modNbu_still _ _ _)).mpr ?_)
                 | (with_reducible refine (memOk_of_still (modPart_still _ _ _)).mpr ?_)
                 | (with_reducible refine (memOk_of_still (raise_still _ _)).mpr ?_) | split | (intro _)
                 | (with_reducible refine foldl_memOk _ _ _ ?_ ?_) | (with_reducible refine foldl_fst_memOk _ _ _ ?_ ?_)
                 | (with_reducible refine foldl_snd_memOk _ _ _ ?_ ?_) | (simp only [memOk_mk, memsOk_eta]))
theorem lateRelock_keep (s : State) (c : ClockId) : Keep s (lateRelock s c) := ⟨lateRelock_setup _ _, lateRelock_memOk _⟩

theorem alertWrite_still (s : State) (v : W32) : (alertWrite s v).2.still = s.still := by
  unfold alertWrite; split <;> simp
@[simp] theorem alertWrite_setup (s : State) (v : W32) : (alertWrite s v).2.setup = s.setup := setup_of_still (alertWrite_still
    _ _)
@[simp] theorem alertWrite_mems (s : State) (v : W32) : (alertWrite s v).2.mems = s.mems := mems_of_still (alertWrite_still _ _)

theorem modHup_still (s : State) (f : Hup → Hup) : (modHup s f).still = s.still := by
  rfl
@[simp] theorem modHup_setup (s : State) (f : Hup → Hup) : (modHup s f).setup = s.setup := setup_of_still (modHup_still _ _)
@[simp] theorem modHup_mems (s : State) (f : Hup → Hup) : (modHup s f).mems = s.mems := mems_of_still (modHup_still _ _)

theorem packReport_still (s : State) (kind : Nat) : (packReport s kind).still = s.still := by
  unfold packReport; simp
@[simp] theorem packReport_setup (s : State) (kind : Nat) : (packReport s kind).setup = s.setup := setup_of_still
    (packReport_still _ _)
@[simp] theorem packReport_mems (s : State) (kind : Nat) : (packReport s kind).mems = s.mems := mems_of_still (packReport_still
    _ _)

theorem settlePack_still (s : State) : (settlePack s).still = s.still := by
  unfold settlePack; simp
@[simp] theorem settlePack_setup (s : State) : (settlePack s).setup = s.setup := setup_of_still (settlePack_still _)
@[simp] theorem settlePack_mems (s : State) : (settlePack s).mems = s.mems := mems_of_still (settlePack_still _)

theorem guaranteeNow_still (s : State) : (guaranteeNow s).still = s.still := by
  unfold guaranteeNow; simp
@[simp] theorem guaranteeNow_setup (s : State) : (guaranteeNow s).setup = s.setup := setup_of_still (guaranteeNow_still _)
@[simp] theorem guaranteeNow_mems (s : State) : (guaranteeNow s).mems = s.mems := mems_of_still (guaranteeNow_still _)

theorem endTest_still (s : State) : (endTest s).still = s.still := by
  rfl
@[simp] theorem endTest_setup (s : State) : (endTest s).setup = s.setup := setup_of_still (endTest_still _)
@[simp] theorem endTest_mems (s : State) : (endTest s).mems = s.mems := mems_of_still (endTest_still _)

theorem packOpen_still (s : State) : (packOpen s).still = s.still := by
  unfold packOpen; simp
@[simp] theorem packOpen_setup (s : State) : (packOpen s).setup = s.setup := setup_of_still (packOpen_still _)
@[simp] theorem packOpen_mems (s : State) : (packOpen s).mems = s.mems := mems_of_still (packOpen_still _)

theorem storeCounters_still (s : State) : (storeCounters s).still = s.still := by
  rfl
@[simp] theorem storeCounters_setup (s : State) : (storeCounters s).setup = s.setup := setup_of_still (storeCounters_still _)
@[simp] theorem storeCounters_mems (s : State) : (storeCounters s).mems = s.mems := mems_of_still (storeCounters_still _)

theorem sample_still (s : State) (mv : Nat) : (sample s mv).still = s.still := by
  unfold sample; dsimp only; (repeat' split) <;> simp
@[simp] theorem sample_setup (s : State) (mv : Nat) : (sample s mv).setup = s.setup := setup_of_still (sample_still _ _)
@[simp] theorem sample_mems (s : State) (mv : Nat) : (sample s mv).mems = s.mems := mems_of_still (sample_still _ _)

theorem beginAuth_still (s : State) : (beginAuth s).still = s.still := by
  rfl
@[simp] theorem beginAuth_setup (s : State) : (beginAuth s).setup = s.setup := setup_of_still (beginAuth_still _)
@[simp] theorem beginAuth_mems (s : State) : (beginAuth s).mems = s.mems := mems_of_still (beginAuth_still _)

theorem authFailed_still (s : State) : (authFailed s).still = s.still := by
  unfold authFailed; simp
@[simp] theorem authFailed_setup (s : State) : (authFailed s).setup = s.setup := setup_of_still (authFailed_still _)
@[simp] theorem authFailed_mems (s : State) : (authFailed s).mems = s.mems := mems_of_still (authFailed_still _)

theorem testCtl_still (s : State) (v : W32) : (testCtl s v).2.still = s.still := by
  unfold testCtl; (repeat' split) <;> simp
@[simp] theorem testCtl_setup (s : State) (v : W32) : (testCtl s v).2.setup = s.setup := setup_of_still (testCtl_still _ _)
@[simp] theorem testCtl_mems (s : State) (v : W32) : (testCtl s v).2.mems = s.mems := mems_of_still (testCtl_still _ _)

theorem acceptLoss_still (s : State) (tripped : Bool) : (acceptLoss s tripped).still = s.still := by
  unfold acceptLoss; simp
@[simp] theorem acceptLoss_setup (s : State) (tripped : Bool) : (acceptLoss s tripped).setup = s.setup := setup_of_still
    (acceptLoss_still _ _)
@[simp] theorem acceptLoss_mems (s : State) (tripped : Bool) : (acceptLoss s tripped).mems = s.mems := mems_of_still
    (acceptLoss_still _ _)

theorem shiftTimers_still (s : State) (d : W64) : (shiftTimers s d).still = s.still := by
  rfl
@[simp] theorem shiftTimers_setup (s : State) (d : W64) : (shiftTimers s d).setup = s.setup := setup_of_still
    (shiftTimers_still _ _)
@[simp] theorem shiftTimers_mems (s : State) (d : W64) : (shiftTimers s d).mems = s.mems := mems_of_still (shiftTimers_still _
    _)

theorem lastWill_still (s : State) (byEnergy : Bool) : (lastWill s byEnergy).still = s.still := by
  unfold lastWill
  refine (modHup_still _ _).trans ((foldl_still _ _ _ fun s l => modLk_still _ _ _).trans ((retarget_still _ _).trans
    ((foldl_still _ _ _ fun s c => turnOff_still _ _).trans (storeCounters_still _))))
@[simp] theorem lastWill_setup (s : State) (byEnergy : Bool) : (lastWill s byEnergy).setup = s.setup := setup_of_still
    (lastWill_still _ _)
@[simp] theorem lastWill_mems (s : State) (byEnergy : Bool) : (lastWill s byEnergy).mems = s.mems := mems_of_still
    (lastWill_still _ _)

end Sys2Proof.Machine
end

