-- ==== Sys2Proof/Laws/KeepsUnits.lean ====
section
/-! SUPPORT. What each operation keeps: the near-bank units, the key and value store, scrub, the register map, vectors, rows and the sequencer. An operation of this
list leaves the queue, the applied settings, the fold and the semaphore as they were (`_setup`), and either leaves the memories
too (`_still`, `_mems`) or keeps their canonical form (`_memOk`, `_keep`). -/

namespace Sys2Proof.Machine

theorem refreshed_still (s : State) (u bank : Nat) : (refreshed s u bank).still = s.still := by
  rfl
@[simp] theorem refreshed_setup (s : State) (u bank : Nat) : (refreshed s u bank).setup = s.setup := setup_of_still
    (refreshed_still _ _ _)
@[simp] theorem refreshed_mems (s : State) (u bank : Nat) : (refreshed s u bank).mems = s.mems := mems_of_still
    (refreshed_still _ _ _)

theorem forceRefresh_still (s : State) (u bank : Nat) : (forceRefresh s u bank).still = s.still := by
  rfl
@[simp] theorem forceRefresh_setup (s : State) (u bank : Nat) : (forceRefresh s u bank).setup = s.setup := setup_of_still
    (forceRefresh_still _ _ _)
@[simp] theorem forceRefresh_mems (s : State) (u bank : Nat) : (forceRefresh s u bank).mems = s.mems := mems_of_still
    (forceRefresh_still _ _ _)

theorem rowBoundary_still (s : State) (u : Nat) (nextBanks : List Nat) : (rowBoundary s u nextBanks).still = s.still := by
  unfold rowBoundary; split <;> simp
@[simp] theorem rowBoundary_setup (s : State) (u : Nat) (nextBanks : List Nat) : (rowBoundary s u nextBanks).setup = s.setup :=
    setup_of_still (rowBoundary_still _ _ _)
@[simp] theorem rowBoundary_mems (s : State) (u : Nat) (nextBanks : List Nat) : (rowBoundary s u nextBanks).mems = s.mems :=
    mems_of_still (rowBoundary_still _ _ _)

theorem modInvoke_still (s : State) (n k : Nat) (f : Invoke → Invoke) : (modInvoke s n k f).still = s.still := by
  rfl
@[simp] theorem modInvoke_setup (s : State) (n k : Nat) (f : Invoke → Invoke) : (modInvoke s n k f).setup = s.setup :=
    setup_of_still (modInvoke_still _ _ _ _)
@[simp] theorem modInvoke_mems (s : State) (n k : Nat) (f : Invoke → Invoke) : (modInvoke s n k f).mems = s.mems :=
    mems_of_still (modInvoke_still _ _ _ _)

@[simp] theorem acceptStation_setup (s : State) (u : Nat) : (acceptStation s u).setup = s.setup := by
  unfold acceptStation; dsimp only; (repeat' split) <;> simp
theorem acceptStation_memOk {s : State} (u : Nat) (hs : memOk s) : memOk (acceptStation s u) := by
  unfold acceptStation
  try dsimp only
  repeat' (first | assumption | (with_reducible refine acceptOp_memOk _ _ ?_)
                 | (with_reducible refine (memOk_of_still (modInvoke_still _ _ _ _)).mpr ?_)
                 | (with_reducible refine (memOk_of_still (stopRun_still _ _ _)).mpr ?_) | split | (intro _)
                 | (with_reducible refine foldl_memOk _ _ _ ?_ ?_) | (with_reducible refine foldl_fst_memOk _ _ _ ?_ ?_)
                 | (with_reducible refine foldl_snd_memOk _ _ _ ?_ ?_) | (simp only [memOk_mk, memsOk_eta]))
theorem acceptStation_keep (s : State) (u : Nat) : Keep s (acceptStation s u) := ⟨acceptStation_setup _ _, acceptStation_memOk
    _⟩

theorem acceptStations_keep (s : State) (u : Nat) (x0 : Nat) : Keep s (acceptStations s u x0) := by
  induction x0 generalizing s with
  | zero => exact Keep.refl s
  | succ n ih => exact (acceptStation_keep s u).trans (ih _)
@[simp] theorem acceptStations_setup (s : State) (u : Nat) (x0 : Nat) : (acceptStations s u x0).setup = s.setup :=
    (acceptStations_keep s u x0).1
theorem acceptStations_memOk {s : State} (u : Nat) (x0 : Nat) (hs : memOk s) : memOk (acceptStations s u x0) :=
    (acceptStations_keep s u x0).2 hs

@[simp] theorem finishWrites_setup (s : State) (u : Nat) (o : Op) : (finishWrites s u o).setup = s.setup := by
  unfold finishWrites; dsimp only; (repeat' split) <;> simp
theorem finishWrites_memOk {s : State} (u : Nat) (o : Op) (hs : memOk s) : memOk (finishWrites s u o) := by
  unfold finishWrites
  try dsimp only
  repeat' (first | assumption | (with_reducible refine (memOk_of_still (consumePoison_still _ _ _)).mpr ?_)
                 | (with_reducible refine idleQueue_memOk _ ?_)
                 | (with_reducible refine (memOk_of_still (modNbu_still _ _ _)).mpr ?_)
                 | (with_reducible refine putStores_memOk _ _ ?_)
                 | (with_reducible refine (memOk_of_still (raise_still _ _)).mpr ?_)
                 | (with_reducible refine (memOk_of_still (reportPoison_still _ _ _)).mpr ?_)
                 | (with_reducible refine runOp_memOk _ _ ?_) | split | (intro _)
                 | (with_reducible refine foldl_memOk _ _ _ ?_ ?_) | (with_reducible refine foldl_fst_memOk _ _ _ ?_ ?_)
                 | (with_reducible refine foldl_snd_memOk _ _ _ ?_ ?_) | (simp only [memOk_mk, memsOk_eta]))
theorem finishWrites_keep (s : State) (u : Nat) (o : Op) : Keep s (finishWrites s u o) := ⟨finishWrites_setup _ _ _,
    finishWrites_memOk _ _⟩

@[simp] theorem fenceNbu_setup (s : State) (rec u : Nat) : (fenceNbu s rec u).setup = s.setup := by
  unfold fenceNbu; simp
theorem fenceNbu_memOk {s : State} (rec u : Nat) (hs : memOk s) : memOk (fenceNbu s rec u) := by
  unfold fenceNbu
  try dsimp only
  repeat' (first | assumption | (with_reducible refine abandonOps_memOk _ _ ?_)
                 | (with_reducible refine (memOk_of_still (addDefect_still _ _ _ _ _)).mpr ?_)
                 | (with_reducible refine (memOk_of_still (modNbu_still _ _ _)).mpr ?_)
                 | (with_reducible refine (memOk_of_still (nextTurn_still _ _)).mpr ?_)
                 | (with_reducible refine (memOk_of_still (raise_still _ _)).mpr ?_) | split | (intro _)
                 | (with_reducible refine foldl_memOk _ _ _ ?_ ?_) | (with_reducible refine foldl_fst_memOk _ _ _ ?_ ?_)
                 | (with_reducible refine foldl_snd_memOk _ _ _ ?_ ?_) | (simp only [memOk_mk, memsOk_eta]))
theorem fenceNbu_keep (s : State) (rec u : Nat) : Keep s (fenceNbu s rec u) := ⟨fenceNbu_setup _ _ _, fenceNbu_memOk _ _⟩

@[simp] theorem takeTiles_setup (s : State) (n k : Nat) (need : Nat) (given : List (W64 × Bool)) : (takeTiles s n k need
    given).2.setup = s.setup := by
  unfold takeTiles; dsimp only; (repeat' split) <;> simp
theorem takeTiles_memOk {s : State} (n k : Nat) (need : Nat) (given : List (W64 × Bool)) (hs : memOk s) : memOk (takeTiles s n
    k need given).2 := by
  unfold takeTiles
  try dsimp only
  repeat' (first | assumption | (with_reducible refine bufGet_memOk _ _ _ ?_) | split | (intro _)
                 | (with_reducible refine foldl_memOk _ _ _ ?_ ?_) | (with_reducible refine foldl_fst_memOk _ _ _ ?_ ?_)
                 | (with_reducible refine foldl_snd_memOk _ _ _ ?_ ?_) | (simp only [memOk_mk, memsOk_eta]))
theorem takeTiles_keep (s : State) (n k : Nat) (need : Nat) (given : List (W64 × Bool)) : Keep s (takeTiles s n k need given).2
    := ⟨takeTiles_setup _ _ _ _ _, takeTiles_memOk _ _ _ _⟩

theorem hemPut_still (s : State) (n k : Nat) (l : List (W64 × Bool)) : (hemPut s n k l).still = s.still := by
  rfl
@[simp] theorem hemPut_setup (s : State) (n k : Nat) (l : List (W64 × Bool)) : (hemPut s n k l).setup = s.setup :=
    setup_of_still (hemPut_still _ _ _ _)
@[simp] theorem hemPut_mems (s : State) (n k : Nat) (l : List (W64 × Bool)) : (hemPut s n k l).mems = s.mems := mems_of_still
    (hemPut_still _ _ _ _)

@[simp] theorem hemDrain_setup (s : State) (n k : Nat) (x : Stream) : (hemDrain s n k x).setup = s.setup := by
  unfold hemDrain; dsimp only; (repeat' split) <;> simp
theorem hemDrain_memOk {s : State} (n k : Nat) (x : Stream) (hs : memOk s) : memOk (hemDrain s n k x) := by
  unfold hemDrain
  try dsimp only
  repeat' (first | assumption | (with_reducible refine bufPut_memOk _ _ _ ?_) | split | (intro _)
                 | (with_reducible refine foldl_memOk _ _ _ ?_ ?_) | (with_reducible refine foldl_fst_memOk _ _ _ ?_ ?_)
                 | (with_reducible refine foldl_snd_memOk _ _ _ ?_ ?_) | (simp only [memOk_mk, memsOk_eta]))
theorem hemDrain_keep (s : State) (n k : Nat) (x : Stream) : Keep s (hemDrain s n k x) := ⟨hemDrain_setup _ _ _ _,
    hemDrain_memOk _ _ _⟩

@[simp] theorem deliverOut_setup (s : State) (n k : Nat) (img : Image) (l : List (W64 × Bool)) : (deliverOut s n k img l).setup
    = s.setup := by
  unfold deliverOut; simp
theorem deliverOut_memOk {s : State} (n k : Nat) (img : Image) (l : List (W64 × Bool)) (hs : memOk s) : memOk (deliverOut s n k
    img l) := by
  unfold deliverOut
  try dsimp only
  repeat' (first | assumption | (with_reducible refine hemDrain_memOk _ _ _ ?_)
                 | (with_reducible refine (memOk_of_still (hemPut_still _ _ _ _)).mpr ?_) | split | (intro _)
                 | (with_reducible refine foldl_memOk _ _ _ ?_ ?_) | (with_reducible refine foldl_fst_memOk _ _ _ ?_ ?_)
                 | (with_reducible refine foldl_snd_memOk _ _ _ ?_ ?_) | (simp only [memOk_mk, memsOk_eta]))
theorem deliverOut_keep (s : State) (n k : Nat) (img : Image) (l : List (W64 × Bool)) : Keep s (deliverOut s n k img l) :=
    ⟨deliverOut_setup _ _ _ _ _, deliverOut_memOk _ _ _ _⟩

@[simp] theorem placeAccess_setup (s : State) (a : StackAccess) : (placeAccess s a).setup = s.setup := by
  unfold placeAccess; simp
theorem placeAccess_memOk {s : State} (a : StackAccess) (hs : memOk s) : memOk (placeAccess s a) := by
  unfold placeAccess
  try dsimp only
  repeat' (first | assumption | (with_reducible refine (memOk_of_still (modNbu_still _ _ _)).mpr ?_)
                 | (with_reducible refine serveAccess_memOk _ ?_) | split | (intro _)
                 | (with_reducible refine foldl_memOk _ _ _ ?_ ?_) | (with_reducible refine foldl_fst_memOk _ _ _ ?_ ?_)
                 | (with_reducible refine foldl_snd_memOk _ _ _ ?_ ?_) | (simp only [memOk_mk, memsOk_eta]))
theorem placeAccess_keep (s : State) (a : StackAccess) : Keep s (placeAccess s a) := ⟨placeAccess_setup _ _, placeAccess_memOk
    _⟩

theorem writeRow_keep (s : State) (u units : Nat) (r : LogRow) (bytes : List (Byte × Bool)) : Keep s (writeRow s u units r
    bytes).2 := by
  unfold writeRow
  extract_lets s0 x pad at_ s1 s2 s3
  have h2 : Keep s1 s2 := Keep.unless _ (zeroStack_keep _ _ _)
  exact (readTable_keep _ _ _).trans ((setRing_keep _ _ _ _ _).trans
    (h2.trans ((keep_of_still (modNbu_still _ _ _)).trans (writeStack_keep _ _ _))))
@[simp] theorem writeRow_setup (s : State) (u units : Nat) (r : LogRow) (bytes : List (Byte × Bool)) : (writeRow s u units r
    bytes).2.setup = s.setup := (writeRow_keep s u units r bytes).1
theorem writeRow_memOk {s : State} (u units : Nat) (r : LogRow) (bytes : List (Byte × Bool)) (hs : memOk s) : memOk (writeRow s
    u units r bytes).2 := (writeRow_keep s u units r bytes).2 hs

theorem noteOcc_still (s : State) (u : Nat) : (noteOcc s u).still = s.still := by
  rfl
@[simp] theorem noteOcc_setup (s : State) (u : Nat) : (noteOcc s u).setup = s.setup := setup_of_still (noteOcc_still _ _)
@[simp] theorem noteOcc_mems (s : State) (u : Nat) : (noteOcc s u).mems = s.mems := mems_of_still (noteOcc_still _ _)

theorem packHead_still (s : State) (job : AppendJob) (tiles : List Tile) (r j : Nat) :
    (packHead s job tiles r j).2.still = s.still := by
  unfold packHead
  extract_lets v tag stoch f k w c s1
  have h0 : f.2.still = s.still := by
    show (if stoch = true then takeFree s else (0, s)).2.still = s.still
    split
    · exact takeFree_still s
    · rfl
  have h1 : s1.still = s.still := (addStats_still _ _ _ _).trans h0
  dsimp only
  split
  · exact (consumePoison_still _ _ _).trans h1
  · exact h1
@[simp] theorem packHead_setup (s : State) (job : AppendJob) (tiles : List Tile) (r j : Nat) :
    (packHead s job tiles r j).2.setup = s.setup := setup_of_still (packHead_still _ _ _ _ _)
@[simp] theorem packHead_mems (s : State) (job : AppendJob) (tiles : List Tile) (r j : Nat) :
    (packHead s job tiles r j).2.mems = s.mems := mems_of_still (packHead_still _ _ _ _ _)

@[simp] theorem storeDirect_setup (s : State) (t : BlockTable) (a pa : Nat) (x : Tail) (p : Page) (parts : List (List (Byte ×
    Bool))) : (storeDirect s t a pa x p parts).setup = s.setup := by
  unfold storeDirect; simp
theorem storeDirect_memOk {s : State} (t : BlockTable) (a pa : Nat) (x : Tail) (p : Page) (parts : List (List (Byte × Bool)))
    (hs : memOk s) : memOk (storeDirect s t a pa x p parts) := by
  unfold storeDirect
  try dsimp only
  repeat' (first | assumption | (with_reducible refine (memOk_of_still (modKv_still _ _ _)).mpr ?_)
                 | (with_reducible refine putStores_memOk _ _ ?_) | (with_reducible refine setPage_memOk _ _ _ ?_)
                 | (with_reducible refine setTail_memOk _ _ ?_) | split | (intro _)
                 | (with_reducible refine foldl_memOk _ _ _ ?_ ?_) | (with_reducible refine foldl_fst_memOk _ _ _ ?_ ?_)
                 | (with_reducible refine foldl_snd_memOk _ _ _ ?_ ?_) | (simp only [memOk_mk, memsOk_eta]))
theorem storeDirect_keep (s : State) (t : BlockTable) (a pa : Nat) (x : Tail) (p : Page) (parts : List (List (Byte × Bool))) :
    Keep s (storeDirect s t a pa x p parts) := ⟨storeDirect_setup _ _ _ _ _ _ _, storeDirect_memOk _ _ _ _ _ _⟩

@[simp] theorem storeLogged_setup (s : State) (job : AppendJob) (j u a : Nat) (x : Tail) (parts : List (List (Byte × Bool))) :
    (storeLogged s job j u a x parts).setup = s.setup := by
  unfold storeLogged; simp
theorem storeLogged_memOk {s : State} (job : AppendJob) (j u a : Nat) (x : Tail) (parts : List (List (Byte × Bool))) (hs :
    memOk s) : memOk (storeLogged s job j u a x parts) := by
  unfold storeLogged
  try dsimp only
  repeat' (first | assumption | (with_reducible refine (memOk_of_still (modKv_still _ _ _)).mpr ?_)
                 | (with_reducible refine (memOk_of_still (noteOcc_still _ _)).mpr ?_)
                 | (with_reducible refine setPlist_memOk _ _ _ ?_) | (with_reducible refine setTail_memOk _ _ ?_)
                 | (with_reducible refine writeRow_memOk _ _ _ _ ?_) | split | (intro _)
                 | (with_reducible refine foldl_memOk _ _ _ ?_ ?_) | (with_reducible refine foldl_fst_memOk _ _ _ ?_ ?_)
                 | (with_reducible refine foldl_snd_memOk _ _ _ ?_ ?_) | (simp only [memOk_mk, memsOk_eta]))
theorem storeLogged_keep (s : State) (job : AppendJob) (j u a : Nat) (x : Tail) (parts : List (List (Byte × Bool))) : Keep s
    (storeLogged s job j u a x parts) := ⟨storeLogged_setup _ _ _ _ _ _ _, storeLogged_memOk _ _ _ _ _ _⟩

theorem storeToken_keep (s : State) (job : AppendJob) (j a pa : Nat) (x : Tail) (p : Page) (parts : List (List (Byte × Bool)))
    : Keep s (storeToken s job j a pa x p parts) := by
  unfold storeToken; dsimp only
  refine Keep.trans (Keep.trans ?_ (Keep.when _ (commitPage_keep _ _))) (Keep.unless _ (checkLog_keep _ _ _ _ _))
  exact Keep.ite _ (storeDirect_keep _ _ _ _ _ _ _) (storeLogged_keep _ _ _ _ _ _ _)
@[simp] theorem storeToken_setup (s : State) (job : AppendJob) (j a pa : Nat) (x : Tail) (p : Page) (parts : List (List (Byte ×
    Bool))) : (storeToken s job j a pa x p parts).setup = s.setup := (storeToken_keep s job j a pa x p parts).1
theorem storeToken_memOk {s : State} (job : AppendJob) (j a pa : Nat) (x : Tail) (p : Page) (parts : List (List (Byte × Bool)))
    (hs : memOk s) : memOk (storeToken s job j a pa x p parts) := (storeToken_keep s job j a pa x p parts).2 hs

theorem appendOne_keep (s : State) (job : AppendJob) (tiles : List Tile) (r j : Nat) : Keep s (appendOne s job tiles r j).2 :=
    by
  unfold appendOne; dsimp only
  have g : ∀ {c : Prop} [Decidable c] {x y : Appended × State}, Keep s x.2 → Keep s y.2 → Keep s (if c then x else y).2 := by
    intro c _ x y hx hy; split
    · exact hx
    · exact hy
  have hp : ∀ {t : State}, Keep s t → Keep s (consumePoison t job.part.val (some job.station)) := fun h =>
    h.trans (keep_of_still (consumePoison_still _ _ _))
  have h1 : Keep s (readTable s (job.table.tail job.seq (job.st.par 2) (job.st.par 4 + j)) 16) := readTable_keep _ _ _
  refine g (hp h1) (g h1 (g h1 ?_))
  have h2 := fun a n => h1.trans (readTable_keep _ a n)
  refine g (hp (h2 _ _)) (g (h2 _ _) (g (h2 _ _) (g (h2 _ _) (g (h2 _ _) (g (hp ((h2 _ _).trans (readTable_keep _ _ _))) (g (h2 _ _) ?_))))))
  exact (h2 _ _).trans ((keep_of_still (packHead_still _ _ _ _ _)).trans (storeToken_keep _ _ _ _ _ _ _ _))
@[simp] theorem appendOne_setup (s : State) (job : AppendJob) (tiles : List Tile) (r j : Nat) : (appendOne s job tiles r
    j).2.setup = s.setup := (appendOne_keep s job tiles r j).1
theorem appendOne_memOk {s : State} (job : AppendJob) (tiles : List Tile) (r j : Nat) (hs : memOk s) : memOk (appendOne s job
    tiles r j).2 := (appendOne_keep s job tiles r j).2 hs

theorem modAppend_still (s : State) (n k : Nat) (f : Append → Append) : (modAppend s n k f).still = s.still := by
  rfl
@[simp] theorem modAppend_setup (s : State) (n k : Nat) (f : Append → Append) : (modAppend s n k f).setup = s.setup :=
    setup_of_still (modAppend_still _ _ _ _)
@[simp] theorem modAppend_mems (s : State) (n k : Nat) (f : Append → Append) : (modAppend s n k f).mems = s.mems :=
    mems_of_still (modAppend_still _ _ _ _)

theorem noteFull_still (s : State) (n k u : Nat) (waits : Bool) : (noteFull s n k u waits).still = s.still := by
  unfold noteFull; simp
@[simp] theorem noteFull_setup (s : State) (n k u : Nat) (waits : Bool) : (noteFull s n k u waits).setup = s.setup :=
    setup_of_still (noteFull_still _ _ _ _ _)
@[simp] theorem noteFull_mems (s : State) (n k u : Nat) (waits : Bool) : (noteFull s n k u waits).mems = s.mems :=
    mems_of_still (noteFull_still _ _ _ _ _)

theorem appendHeads_keep (s : State) (job : AppendJob) (tiles : List Tile) (r : Nat) (x0 : Nat) :
    Keep s (appendHeads s job tiles r x0) := by
  induction x0 generalizing s with
  | zero => exact Keep.refl s
  | succ n ih =>
    simp only [appendHeads]
    split
    · exact Keep.refl s
    · next a ha =>
      split
      · exact keep_of_still (modAppend_still _ _ _ _)
      · have h := appendOne_keep s job tiles r a.head
        split
        · next e => rw [e] at h; exact h.trans ((keep_of_still (modAppend_still _ _ _ _)).trans (ih _))
        · next e =>
          rw [e] at h
          refine h.trans (Keep.trans ?_ (keep_of_still (modAppend_still _ _ _ _)))
          exact Keep.when _ (keep_of_still (noteFull_still _ _ _ _ _))
        · next e =>
          rw [e] at h
          exact h.trans ((keep_of_still (raise_still _ _)).trans (keep_of_still (stopRun_still _ _ _)))
@[simp] theorem appendHeads_setup (s : State) (job : AppendJob) (tiles : List Tile) (r : Nat) (x0 : Nat) : (appendHeads s job
    tiles r x0).setup = s.setup := (appendHeads_keep s job tiles r x0).1
theorem appendHeads_memOk {s : State} (job : AppendJob) (tiles : List Tile) (r : Nat) (x0 : Nat) (hs : memOk s) : memOk
    (appendHeads s job tiles r x0) := (appendHeads_keep s job tiles r x0).2 hs

theorem appendRow_keep (s : State) (n k : Nat) (st : Station) (a : Append) (x : Stream) (words : List (W64 × Bool)) (fresh :
    Bool)
    (t : BlockTable) (map : List Byte) : Keep s (appendRow s n k st a x words fresh t map) := by
  unfold appendRow
  extract_lets tiles s2 rows next b rep fail s3
  have g2 : Keep s s2 := Keep.when _ (keep_of_still (raise_still _ _))
  have gn : ∀ s, Keep s (next s) := fun s => keep_of_still (modAppend_still _ _ _ _)
  have gf : ∀ b, Keep s2 (fail b) := fun b => (keep_of_still (raise_still _ _)).trans (keep_of_still (stopRun_still _ _ _))
  have g3 : Keep s2 s3 := by
    refine Keep.ite _ (gf _) ?_
    split
    · exact keep_of_still (modAppend_still _ _ _ _)
    · exact Keep.ite _ (gf _) (appendHeads_keep _ _ _ _ _)
  refine g2.trans (Keep.ite _ (gn _) (g3.trans ?_))
  clear_value s3
  split
  · exact Keep.when _ (gn _)
  · exact Keep.refl _
@[simp] theorem appendRow_setup (s : State) (n k : Nat) (st : Station) (a : Append) (x : Stream) (words : List (W64 × Bool))
    (fresh : Bool) (t : BlockTable) (map : List Byte) : (appendRow s n k st a x words fresh t map).setup = s.setup :=
    (appendRow_keep s n k st a x words fresh t map).1
theorem appendRow_memOk {s : State} (n k : Nat) (st : Station) (a : Append) (x : Stream) (words : List (W64 × Bool)) (fresh :
    Bool) (t : BlockTable) (map : List Byte) (hs : memOk s) : memOk (appendRow s n k st a x words fresh t map) :=
    (appendRow_keep s n k st a x words fresh t map).2 hs

theorem appendStep_keep (s : State) (n k : Nat) : Keep s (appendStep s n k) := by
  unfold appendStep
  split
  · next run st a x xs h1 h2 h3 h4 =>
    refine Keep.unless _ ?_
    extract_lets need r words s1
    have g1 : Keep s s1 := by
      refine Keep.trans (t := r.2) ?_ (keep_of_still (modAppend_still _ _ _ _))
      show Keep s (if a.words.length < need then takeTiles s n k (need - a.words.length) [] else ([], s)).2
      split
      · exact takeTiles_keep _ _ _ _ _
      · exact Keep.refl s
    refine Keep.ite _ g1 (g1.trans ?_)
    split
    · exact Keep.refl _
    · exact appendRow_keep _ _ _ _ _ _ _ _ _ _
  · exact Keep.refl s
@[simp] theorem appendStep_setup (s : State) (n k : Nat) : (appendStep s n k).setup = s.setup := (appendStep_keep s n k).1
theorem appendStep_memOk {s : State} (n k : Nat) (hs : memOk s) : memOk (appendStep s n k) := (appendStep_keep s n k).2 hs

theorem appendAllRows_keep (s : State) (n k : Nat) (x0 : Nat) : Keep s (appendAllRows s n k x0) := by
  induction x0 generalizing s with
  | zero => exact Keep.refl s
  | succ m ih =>
    have h := appendStep_keep s n k
    simp only [appendAllRows]
    split
    · split
      · exact h
      · exact h.trans (ih _)
    · exact h
@[simp] theorem appendAllRows_setup (s : State) (n k : Nat) (x0 : Nat) : (appendAllRows s n k x0).setup = s.setup :=
    (appendAllRows_keep s n k x0).1
theorem appendAllRows_memOk {s : State} (n k : Nat) (x0 : Nat) (hs : memOk s) : memOk (appendAllRows s n k x0) :=
    (appendAllRows_keep s n k x0).2 hs

theorem modDecode_still (s : State) (n k : Nat) (f : Decode → Decode) : (modDecode s n k f).still = s.still := by
  rfl
@[simp] theorem modDecode_setup (s : State) (n k : Nat) (f : Decode → Decode) : (modDecode s n k f).setup = s.setup :=
    setup_of_still (modDecode_still _ _ _ _)
@[simp] theorem modDecode_mems (s : State) (n k : Nat) (f : Decode → Decode) : (modDecode s n k f).mems = s.mems :=
    mems_of_still (modDecode_still _ _ _ _)

theorem modPiece_still (s : State) (n k row head u : Nat) (f : Piece → Piece) : (modPiece s n k row head u f).still = s.still
    := by
  rfl
@[simp] theorem modPiece_setup (s : State) (n k row head u : Nat) (f : Piece → Piece) : (modPiece s n k row head u f).setup =
    s.setup := setup_of_still (modPiece_still _ _ _ _ _ _ _)
@[simp] theorem modPiece_mems (s : State) (n k row head u : Nat) (f : Piece → Piece) : (modPiece s n k row head u f).mems =
    s.mems := mems_of_still (modPiece_still _ _ _ _ _ _ _)

@[simp] theorem tryPiece_setup (s : State) (n k : Nat) (dec : Decode) (p : Piece) : (tryPiece s n k dec p).setup = s.setup := by
  unfold tryPiece; dsimp only; (repeat' split) <;> simp
theorem tryPiece_memOk {s : State} (n k : Nat) (dec : Decode) (p : Piece) (hs : memOk s) : memOk (tryPiece s n k dec p) := by
  unfold tryPiece
  try dsimp only
  repeat' (first | assumption | (with_reducible refine acceptOp_memOk _ _ ?_)
                 | (with_reducible refine (memOk_of_still (issued_still _ _ _ _ _ _)).mpr ?_)
                 | (with_reducible refine (memOk_of_still (modKv_still _ _ _)).mpr ?_)
                 | (with_reducible refine (memOk_of_still (modNbu_still _ _ _)).mpr ?_)
                 | (with_reducible refine (memOk_of_still (modPiece_still _ _ _ _ _ _ _)).mpr ?_)
                 | (with_reducible refine pokeStack_memOk _ _ ?_) | (with_reducible refine putList4_memOk _ _ _ ?_) | split
                 | (intro _) | (with_reducible refine foldl_memOk _ _ _ ?_ ?_)
                 | (with_reducible refine foldl_fst_memOk _ _ _ ?_ ?_) | (with_reducible refine foldl_snd_memOk _ _ _ ?_ ?_)
                 | (simp only [memOk_mk, memsOk_eta]))
theorem tryPiece_keep (s : State) (n k : Nat) (dec : Decode) (p : Piece) : Keep s (tryPiece s n k dec p) := ⟨tryPiece_setup _ _
    _ _ _, tryPiece_memOk _ _ _ _⟩

@[simp] theorem deliverDecode_setup (s : State) (n k : Nat) : (deliverDecode s n k).setup = s.setup := by
  unfold deliverDecode; dsimp only; (repeat' split) <;> simp
theorem deliverDecode_memOk {s : State} (n k : Nat) (hs : memOk s) : memOk (deliverDecode s n k) := by
  unfold deliverDecode
  try dsimp only
  repeat' (first | assumption | (with_reducible refine deliverOut_memOk _ _ _ _ ?_)
                 | (with_reducible refine (memOk_of_still (modInvoke_still _ _ _ _)).mpr ?_) | split | (intro _)
                 | (with_reducible refine foldl_memOk _ _ _ ?_ ?_) | (with_reducible refine foldl_fst_memOk _ _ _ ?_ ?_)
                 | (with_reducible refine foldl_snd_memOk _ _ _ ?_ ?_) | (simp only [memOk_mk, memsOk_eta]))
theorem deliverDecode_keep (s : State) (n k : Nat) : Keep s (deliverDecode s n k) := ⟨deliverDecode_setup _ _ _,
    deliverDecode_memOk _ _⟩

theorem beginDecode_keep (s : State) (n k : Nat) (j : DecodeJob) (x : Stream) (number : Nat) (words : List (W64 × Bool)) : Keep
    s (beginDecode s n k j x number words) := by
  unfold beginDecode
  extract_lets g s1 rows keys plans s2 s3 dec src s4
  have h1 : Keep s s1 := Keep.when _ (keep_of_still (raise_still _ _))
  have h2 : Keep s1 s2 := Keep.foldl _ _ _ fun s y => by
    split
    · exact Keep.foldl _ _ _ fun s x => readTable_keep _ _ _
    · exact Keep.refl s
  have h3 : Keep s2 s3 := Keep.foldl _ _ _ fun s y => by
    split
    · exact Keep.ite _ (keep_of_still (consumePoison_still _ _ _)) (keep_of_still (raise_still _ _))
    · exact Keep.refl s
  have h4 : Keep s3 src := keep_of_still (modInvoke_still s3 n k _)
  have h5 : Keep src s4 := keep_of_still (still_decodes _ _)
  have h6 : Keep s4 (dec.pieces.foldl (fun s p => tryPiece s n k dec p) s4) := Keep.foldl _ _ _ fun s p => tryPiece_keep _ _ _ _ _
  exact h1.trans (h2.trans (h3.trans (h4.trans (h5.trans (h6.trans (deliverDecode_keep _ _ _))))))
@[simp] theorem beginDecode_setup (s : State) (n k : Nat) (j : DecodeJob) (x : Stream) (number : Nat) (words : List (W64 ×
    Bool)) : (beginDecode s n k j x number words).setup = s.setup := (beginDecode_keep s n k j x number words).1
theorem beginDecode_memOk {s : State} (n k : Nat) (j : DecodeJob) (x : Stream) (number : Nat) (words : List (W64 × Bool)) (hs :
    memOk s) : memOk (beginDecode s n k j x number words) := (beginDecode_keep s n k j x number words).2 hs

@[simp] theorem noteDue_setup (s : State) (n k partner : Nat) : (noteDue s n k partner).setup = s.setup := by
  unfold noteDue; dsimp only; (repeat' split) <;> simp
theorem noteDue_memOk {s : State} (n k partner : Nat) (hs : memOk s) : memOk (noteDue s n k partner) := by
  unfold noteDue
  try dsimp only
  repeat' (first | assumption | (with_reducible refine appendAllRows_memOk _ _ _ ?_)
                 | (with_reducible refine (memOk_of_still (modInvoke_still _ _ _ _)).mpr ?_) | split | (intro _)
                 | (with_reducible refine foldl_memOk _ _ _ ?_ ?_) | (with_reducible refine foldl_fst_memOk _ _ _ ?_ ?_)
                 | (with_reducible refine foldl_snd_memOk _ _ _ ?_ ?_) | (simp only [memOk_mk, memsOk_eta]))
theorem noteDue_keep (s : State) (n k partner : Nat) : Keep s (noteDue s n k partner) := ⟨noteDue_setup _ _ _ _, noteDue_memOk
    _ _ _⟩

theorem acceptCommit_keep {s t : State} {u : Nat} (h : acceptCommit s u = some t) : Keep s t := by
  unfold acceptCommit at h
  cases hf : s.commits.find? (fun c => commitNbu s c == u) with
  | none => rw [hf] at h; cases h
  | some c =>
    rw [hf] at h
    exact (keep_of_still (t := { s with commits := s.commits.filter (fun d => d != c) }) rfl).trans (tryCommit_keep h)

@[simp] theorem takePiece_setup (s : State) (u n k : Nat) (o : Op) (row head : Nat) : (takePiece s u n k o row head).setup =
    s.setup := by
  unfold takePiece; simp
theorem takePiece_memOk {s : State} (u n k : Nat) (o : Op) (row head : Nat) (hs : memOk s) : memOk (takePiece s u n k o row
    head) := by
  unfold takePiece
  try dsimp only
  repeat' (first | assumption | (with_reducible refine deliverDecode_memOk _ _ ?_)
                 | (with_reducible refine (memOk_of_still (modPiece_still _ _ _ _ _ _ _)).mpr ?_)
                 | (with_reducible refine readCarriers_memOk _ _ _ ?_) | split | (intro _)
                 | (with_reducible refine foldl_memOk _ _ _ ?_ ?_) | (with_reducible refine foldl_fst_memOk _ _ _ ?_ ?_)
                 | (with_reducible refine foldl_snd_memOk _ _ _ ?_ ?_) | (simp only [memOk_mk, memsOk_eta]))
theorem takePiece_keep (s : State) (u n k : Nat) (o : Op) (row head : Nat) : Keep s (takePiece s u n k o row head) :=
    ⟨takePiece_setup _ _ _ _ _ _ _, takePiece_memOk _ _ _ _ _ _⟩

@[simp] theorem completeOp_setup (s : State) (u : Nat) (o : Op) (status : Byte) : (completeOp s u o status).setup = s.setup :=
    by
  unfold completeOp; dsimp only; (repeat' split) <;> simp
theorem completeOp_memOk {s : State} (u : Nat) (o : Op) (status : Byte) (hs : memOk s) : memOk (completeOp s u o status) := by
  unfold completeOp
  try dsimp only
  repeat' (first | assumption | (with_reducible refine checkLog_memOk _ ?_)
                 | (with_reducible refine commitEnds_memOk _ _ _ ?_)
                 | (with_reducible refine (memOk_of_still (complete_still _ _ _ _ _ _)).mpr ?_)
                 | (with_reducible refine removeOp_memOk _ _ _ _ ?_)
                 | (with_reducible refine (memOk_of_still (stopRun_still _ _ _)).mpr ?_)
                 | (with_reducible refine takePiece_memOk _ _ _ _ _ _ ?_) | split | (intro _)
                 | (with_reducible refine foldl_memOk _ _ _ ?_ ?_) | (with_reducible refine foldl_fst_memOk _ _ _ ?_ ?_)
                 | (with_reducible refine foldl_snd_memOk _ _ _ ?_ ?_) | (simp only [memOk_mk, memsOk_eta]))
theorem completeOp_keep (s : State) (u : Nat) (o : Op) (status : Byte) : Keep s (completeOp s u o status) := ⟨completeOp_setup
    _ _ _ _, completeOp_memOk _ _ _⟩

@[simp] theorem withSequences_setup (s : State) (ref : DescRef) (d : Desc) (k : State → BlockTable → List Nat → State) (h : ∀ s
    t l, (k s t l).setup = s.setup) : (withSequences s ref d k).setup = s.setup := by
  unfold withSequences; dsimp only
  repeat' split
  iterate 5 exact reject_setup _ _ _ _ _
  refine withRead_setup _ _ _ _ _ fun s b => withTables_setup _ _ _ _ _ fun s => ?_
  repeat' split
  iterate 2 exact reject_setup _ _ _ _ _
  exact h _ _ _
theorem withSequences_memOk {s : State} (ref : DescRef) (d : Desc) (k : State → BlockTable → List Nat → State) (h : ∀ s t l,
    memOk s → memOk (k s t l)) (hs : memOk s) : memOk (withSequences s ref d k) := by
  have hr : ∀ s st o x, memOk s → memOk (reject s ref st o x) := fun s st o x hs => (memOk_of_still (reject_still _ _ _ _ _)).mpr hs
  unfold withSequences; dsimp only
  repeat' split
  iterate 5 exact hr _ _ _ _ hs
  refine withRead_memOk _ _ _ _ (fun s b hs => withTables_memOk _ _ _ _ (fun s hs => ?_) hs) hs
  repeat' split
  iterate 2 exact hr _ _ _ _ hs
  exact h _ _ _ hs

theorem modScrub_still (s : State) (c : ScrubClass) (f : Scrub → Scrub) : (modScrub s c f).still = s.still := by
  rfl
@[simp] theorem modScrub_setup (s : State) (c : ScrubClass) (f : Scrub → Scrub) : (modScrub s c f).setup = s.setup :=
    setup_of_still (modScrub_still _ _ _)
@[simp] theorem modScrub_mems (s : State) (c : ScrubClass) (f : Scrub → Scrub) : (modScrub s c f).mems = s.mems :=
    mems_of_still (modScrub_still _ _ _)

theorem scrubWords_keep (s : State) (a : Nat) (x0 : Nat) (x1 : Nat × Nat × Nat) : Keep s (scrubWords s a x0 x1).2 := by
  induction x0 generalizing s a x1 with
  | zero => exact Keep.refl s
  | succ n ih => exact (readWord_keep _ _ _).trans (ih _ _ _)
@[simp] theorem scrubWords_setup (s : State) (a : Nat) (x0 : Nat) (x1 : Nat × Nat × Nat) : (scrubWords s a x0 x1).2.setup =
    s.setup := (scrubWords_keep s a x0 x1).1
theorem scrubWords_memOk {s : State} (a : Nat) (x0 : Nat) (x1 : Nat × Nat × Nat) (hs : memOk s) : memOk (scrubWords s a x0
    x1).2 := (scrubWords_keep s a x0 x1).2 hs

theorem applyRepair_keep (s : State) (r : Repair) : Keep s (applyRepair s r) := by
  unfold applyRepair
  extract_lets x s1 s2
  exact (readWords_keep _ _ _ _).trans ((writeWords_keep _ _ _ _).trans ((keep_of_still (modEcc_still s1 _ _)).trans
    (Keep.unless _ (keep_of_still (addDefect_still _ _ _ _ _)))))
@[simp] theorem applyRepair_setup (s : State) (r : Repair) : (applyRepair s r).setup = s.setup := (applyRepair_keep s r).1
theorem applyRepair_memOk {s : State} (r : Repair) (hs : memOk s) : memOk (applyRepair s r) := (applyRepair_keep s r).2 hs

theorem poisonCarrier_still (s : State) (c k : Nat) : (poisonCarrier s c k).still = s.still := by
  unfold poisonCarrier; simp
@[simp] theorem poisonCarrier_setup (s : State) (c k : Nat) : (poisonCarrier s c k).setup = s.setup := setup_of_still
    (poisonCarrier_still _ _ _)
@[simp] theorem poisonCarrier_mems (s : State) (c k : Nat) : (poisonCarrier s c k).mems = s.mems := mems_of_still
    (poisonCarrier_still _ _ _)

theorem failTackSeam_still (s : State) : (failTackSeam s).still = s.still := by
  unfold failTackSeam; simp
@[simp] theorem failTackSeam_setup (s : State) : (failTackSeam s).setup = s.setup := setup_of_still (failTackSeam_still _)
@[simp] theorem failTackSeam_mems (s : State) : (failTackSeam s).mems = s.mems := mems_of_still (failTackSeam_still _)

theorem stopMyarn_still (s : State) (p : MPort) : (stopMyarn s p).still = s.still := by
  unfold stopMyarn
  refine (myaDown_still _ _).trans (foldl_still _ _ _ fun s x => ?_)
  repeat' (first | rfl | split | (simp; done))
@[simp] theorem stopMyarn_setup (s : State) (p : MPort) : (stopMyarn s p).setup = s.setup := setup_of_still (stopMyarn_still _
    _)
@[simp] theorem stopMyarn_mems (s : State) (p : MPort) : (stopMyarn s p).mems = s.mems := mems_of_still (stopMyarn_still _ _)

theorem loseDecoder_keep (s : State) (d : Decoder) (second : Bool) : Keep s (loseDecoder s d second) := by
  cases d with
  | slice p => exact keep_of_still (spareCore_still _ _ _)
  | basket p => exact keep_of_still (spareCore_still _ _ _)
  | channel p => exact keep_of_still (spareCore_still _ _ _)
  | seamRing k =>
    simp only [loseDecoder]
    split
    · have h : ∀ t : State, t.still = s.still → Keep s (match (addDefect t kCheckerFault uRing 8 2).units.ring8 with
          | some j => failRing (addDefect t kCheckerFault uRing 8 2) j
          | none => addDefect t kCheckerFault uRing 8 2) := by
        intro t ht
        have ha : Keep s (addDefect t kCheckerFault uRing 8 2) := (keep_of_still ht).trans (keep_of_still (addDefect_still _ _ _ _ _))
        split
        · exact ha.trans (keep_of_still (failRing_still _ _))
        · exact ha
      exact h _ rfl
    · exact Keep.unless _ (Keep.ite _ (keep_of_still (replaceRing_still _ _)) (keep_of_still (failRing_still _ _)))
  | hamperBank b =>
    simp only [loseDecoder]
    refine Keep.unless _ ?_
    exact (keep_of_still (t := { s with units := { s.units with hamperNext := s.units.hamperNext ++ [b.val] } }) rfl).trans
      (keep_of_still (addDefect_still _ _ _ _ _))
  | stackPort n => exact (keep_of_still (addDefect_still _ _ _ _ _)).trans (keep_of_still (modStk_still _ _ _))
  | stitchLink c d => exact Keep.when _ (keep_of_still (poisonCarrier_still _ _ _))
  | hemDrop c d => exact Keep.when _ (keep_of_still (poisonCarrier_still _ _ _))
  | tackLink c d => exact Keep.when _ (keep_of_still (poisonCarrier_still _ _ _))
  | tackSeam => exact Keep.when _ (keep_of_still (failTackSeam_still _))
  | accumulator p => exact Keep.when _ (keep_of_still (spareCore_still _ _ _))
  | vectorBuffer p => exact Keep.when _ (keep_of_still (spareCore_still _ _ _))
  | mangle e =>
    exact Keep.when _ ((Keep.foldl _ _ _ fun s x => Keep.when _ (keep_of_still (endXfer_still _ _ _))).trans
      (keep_of_still (poisonCarrier_still _ _ _)))
  | myarnReceive p => exact Keep.when _ ((keep_of_still (stopMyarn_still _ _)).trans (keep_of_still (poisonCarrier_still _ _ _)))
  | nbu u => exact Keep.when _ (fenceNbu_keep _ _ _)
@[simp] theorem loseDecoder_setup (s : State) (d : Decoder) (second : Bool) : (loseDecoder s d second).setup = s.setup :=
    (loseDecoder_keep s d second).1
theorem loseDecoder_memOk {s : State} (d : Decoder) (second : Bool) (hs : memOk s) : memOk (loseDecoder s d second) :=
    (loseDecoder_keep s d second).2 hs

theorem checkerFault_keep (s : State) (d : Decoder) : Keep s (checkerFault s d) := by
  unfold checkerFault
  extract_lets u second s1 src s2
  have h1 : Keep s s1 := keep_of_still (raise_still _ _)
  have h2 : Keep s1 s2 := Keep.unless _ (keep_of_still (still_mesh _ _))
  have h3 : Keep s2 (loseDecoder s2 d second) := loseDecoder_keep _ _ _
  exact h1.trans (h2.trans h3)
@[simp] theorem checkerFault_setup (s : State) (d : Decoder) : (checkerFault s d).setup = s.setup := (checkerFault_keep s d).1
theorem checkerFault_memOk {s : State} (d : Decoder) (hs : memOk s) : memOk (checkerFault s d) := (checkerFault_keep s d).2 hs

theorem armFlip_still (s : State) : (armFlip s).2.still = s.still := by
  unfold armFlip; dsimp only; (repeat' split) <;> simp
@[simp] theorem armFlip_setup (s : State) : (armFlip s).2.setup = s.setup := setup_of_still (armFlip_still _)
@[simp] theorem armFlip_mems (s : State) : (armFlip s).2.mems = s.mems := mems_of_still (armFlip_still _)

theorem splitGo_keep (s : State) (read : Bool) : Keep s (splitGo s read).2 := by
  unfold splitGo
  extract_lets a w x
  refine Keep.guard _ _ _ (Keep.guard _ _ _ (Keep.guard _ _ _ (Keep.guard _ _ _ ?_)))
  split
  · exact keep_of_still (still_ecct _ _)
  · exact ⟨setMem_setup _ _ _, fun h => setMem_memOk _ (putWord_wf _ _ _ h.2.2.2) h⟩
@[simp] theorem splitGo_setup (s : State) (read : Bool) : (splitGo s read).2.setup = s.setup := (splitGo_keep s read).1
theorem splitGo_memOk {s : State} (read : Bool) (hs : memOk s) : memOk (splitGo s read).2 := (splitGo_keep s read).2 hs

theorem ecctTake_keep (s : State) (off : Nat) (v : W32) : Keep s (ecctTake s off v).2 := by
  have hg : ∀ b, Keep s (if bitAt v 0 then splitGo s b else (ok, s)).2 := fun b => by
    split
    · exact splitGo_keep s b
    · exact Keep.refl s
  have ha : Keep s (if bitAt v 0 then armFlip s else (ok, s)).2 := by
    split
    · exact keep_of_still (armFlip_still s)
    · exact Keep.refl s
  unfold ecctTake
  extract_lets put
  split
  all_goals first
    | exact keep_of_still rfl
    | skip
  · split
    · exact ha.trans (keep_of_still rfl)
    · exact ha
  · have hr := hg (bitAt v 1)
    split
    · exact hr.trans (keep_of_still rfl)
    · exact hr
@[simp] theorem ecctTake_setup (s : State) (off : Nat) (v : W32) : (ecctTake s off v).2.setup = s.setup := (ecctTake_keep s off
    v).1
theorem ecctTake_memOk {s : State} (off : Nat) (v : W32) (hs : memOk s) : memOk (ecctTake s off v).2 := (ecctTake_keep s off
    v).2 hs

@[simp] theorem ecctWrite_setup (s : State) (p : NPort) (off : Nat) (v : W32) : (ecctWrite s p off v).2.setup = s.setup := by
  unfold ecctWrite; (repeat' (first | rfl | (simp; done) | split | (refine (foldl_setup _ _ _ ?_).trans ?_) | (intro _ _)))
theorem ecctWrite_memOk {s : State} (p : NPort) (off : Nat) (v : W32) (hs : memOk s) : memOk (ecctWrite s p off v).2 := by
  unfold ecctWrite
  try dsimp only
  repeat' (first | assumption | (with_reducible refine ecctTake_memOk _ _ ?_) | split | (intro _)
                 | (with_reducible refine foldl_memOk _ _ _ ?_ ?_) | (with_reducible refine foldl_fst_memOk _ _ _ ?_ ?_)
                 | (with_reducible refine foldl_snd_memOk _ _ _ ?_ ?_) | (simp only [memOk_mk, memsOk_eta]))
theorem ecctWrite_keep (s : State) (p : NPort) (off : Nat) (v : W32) : Keep s (ecctWrite s p off v).2 := ⟨ecctWrite_setup _ _ _
    _, ecctWrite_memOk _ _ _⟩

theorem writeHalf_still (s : State) (p : NPort) (base off : Nat) (now : W64) (v : W32) (lowBad : Option Byte) (busy : Bool)
    (put : W64 → State → State) (h : ∀ x s, (put x s).still = s.still) :
    (writeHalf s p base off now v lowBad busy put).2.still = s.still := by
  unfold writeHalf; dsimp only
  split
  · repeat' (first | rfl | split)
  · split
    · rfl
    · exact (h _ _).trans (modNal_still _ _ _)

theorem ringRegWrite_still (s : State) (q p : NPort) (off : Nat) (v : W32) : (ringRegWrite s q p off v).2.still = s.still := by
  unfold ringRegWrite; dsimp only
  repeat' (first | rfl | split | exact writeHalf_still _ _ _ _ _ _ _ _ _ (fun _ _ => rfl) | exact ringCfgWrite_still _ _ _ _ _ |
    exact errCfgWrite_still _ _ _ _)
@[simp] theorem ringRegWrite_setup (s : State) (q p : NPort) (off : Nat) (v : W32) : (ringRegWrite s q p off v).2.setup =
    s.setup := setup_of_still (ringRegWrite_still _ _ _ _ _)
@[simp] theorem ringRegWrite_mems (s : State) (q p : NPort) (off : Nat) (v : W32) : (ringRegWrite s q p off v).2.mems = s.mems
    := mems_of_still (ringRegWrite_still _ _ _ _ _)

theorem selWrite_still (s : State) (p : NPort) (v : W32) : (selWrite s p v).2.still = s.still := by
  unfold selWrite; split <;> simp
@[simp] theorem selWrite_setup (s : State) (p : NPort) (v : W32) : (selWrite s p v).2.setup = s.setup := setup_of_still
    (selWrite_still _ _ _)
@[simp] theorem selWrite_mems (s : State) (p : NPort) (v : W32) : (selWrite s p v).2.mems = s.mems := mems_of_still
    (selWrite_still _ _ _)

theorem lifeReg_still (s : State) (p : NPort) (off : Nat) (v : W32) : (lifeReg s p off v).2.still = s.still := by
  unfold lifeReg; (repeat' (first | rfl | (simp; done) | split | (refine (foldl_still _ _ _ ?_).trans ?_) | (intro _ _)))
@[simp] theorem lifeReg_setup (s : State) (p : NPort) (off : Nat) (v : W32) : (lifeReg s p off v).2.setup = s.setup :=
    setup_of_still (lifeReg_still _ _ _ _)
@[simp] theorem lifeReg_mems (s : State) (p : NPort) (off : Nat) (v : W32) : (lifeReg s p off v).2.mems = s.mems :=
    mems_of_still (lifeReg_still _ _ _ _)

theorem mgmtAnswer_still (s : State) (data : W32) (st : Byte) : (mgmtAnswer s data st).still = s.still := by
  rfl
@[simp] theorem mgmtAnswer_setup (s : State) (data : W32) (st : Byte) : (mgmtAnswer s data st).setup = s.setup :=
    setup_of_still (mgmtAnswer_still _ _ _)
@[simp] theorem mgmtAnswer_mems (s : State) (data : W32) (st : Byte) : (mgmtAnswer s data st).mems = s.mems := mems_of_still
    (mgmtAnswer_still _ _ _)

theorem mgmtWrite_still (s : State) (off : Nat) (v : W32) : (mgmtWrite s off v).2.still = s.still := by
  unfold mgmtWrite; (repeat' split) <;> simp
@[simp] theorem mgmtWrite_setup (s : State) (off : Nat) (v : W32) : (mgmtWrite s off v).2.setup = s.setup := setup_of_still
    (mgmtWrite_still _ _ _)
@[simp] theorem mgmtWrite_mems (s : State) (off : Nat) (v : W32) : (mgmtWrite s off v).2.mems = s.mems := mems_of_still
    (mgmtWrite_still _ _ _)

theorem residueMismatch_still (s : State) (core : Nat) : (residueMismatch s core).still = s.still := by
  unfold residueMismatch; simp
@[simp] theorem residueMismatch_setup (s : State) (core : Nat) : (residueMismatch s core).setup = s.setup := setup_of_still
    (residueMismatch_still _ _)
@[simp] theorem residueMismatch_mems (s : State) (core : Nat) : (residueMismatch s core).mems = s.mems := mems_of_still
    (residueMismatch_still _ _)

theorem underResidue_keep (core e : Nat) (fault : ResidueFault) (effect : Bool → State → IWord → State) (s : State) (w : IWord)
    (h : ∀ b s w, Keep s (effect b s w)) : Keep s (underResidue core e fault effect s w) := by
  have hm : ∀ s, Keep s (residueMismatch s core) := fun s => keep_of_still (residueMismatch_still _ _)
  unfold underResidue
  split
  · exact h _ _ _
  · exact (hm _).trans (h _ _ _)
  · exact ((hm _).trans (hm _)).trans (keep_of_still (holdRedo_still _ _ _))
  · exact ((hm _).trans (hm _)).trans (keep_of_still (holdRedo_still _ _ _))

theorem residueRedo_keep (core : Nat) (r : Redo) (effect : Bool → State → IWord → State) (s : State)
    (h : ∀ b s w, Keep s (effect b s w)) : Keep s (residueRedo core r effect s) := by
  unfold residueRedo
  exact Keep.ite _ ((keep_of_still (residueMismatch_still _ _)).trans ((h _ _ _).trans (keep_of_still (faultUnresolved_still _ _))))
    (h _ _ _)

theorem tileForm_still (s : State) (core addr : Nat) (begins : Bool) (f : OutForm) : (tileForm s core addr begins f).2.still =
    s.still := by
  unfold tileForm; dsimp only; (repeat' split) <;> simp
@[simp] theorem tileForm_setup (s : State) (core addr : Nat) (begins : Bool) (f : OutForm) : (tileForm s core addr begins
    f).2.setup = s.setup := setup_of_still (tileForm_still _ _ _ _ _)
@[simp] theorem tileForm_mems (s : State) (core addr : Nat) (begins : Bool) (f : OutForm) : (tileForm s core addr begins
    f).2.mems = s.mems := mems_of_still (tileForm_still _ _ _ _ _)

theorem appendTrailer_keep (s : State) (core addr : Nat) (f : OutForm) (count map rows : Nat) : Keep s (appendTrailer s core
    addr f count map rows) := by
  unfold appendTrailer
  exact (writeBytes_keep _ _ _ _ _).trans ((writeBytes_keep _ _ _ _ _).trans (writeBytes_keep _ _ _ _ _))
@[simp] theorem appendTrailer_setup (s : State) (core addr : Nat) (f : OutForm) (count map rows : Nat) : (appendTrailer s core
    addr f count map rows).setup = s.setup := (appendTrailer_keep s core addr f count map rows).1
theorem appendTrailer_memOk {s : State} (core addr : Nat) (f : OutForm) (count map rows : Nat) (hs : memOk s) : memOk
    (appendTrailer s core addr f count map rows) := (appendTrailer_keep s core addr f count map rows).2 hs

@[simp] theorem rowTrailer_setup (s : State) (core addr : Nat) (f : OutForm) (begins : Bool) (count map rows : Nat) :
    (rowTrailer s core addr f begins count map rows).setup = s.setup := by
  unfold rowTrailer; simp
theorem rowTrailer_memOk {s : State} (core addr : Nat) (f : OutForm) (begins : Bool) (count map rows : Nat) (hs : memOk s) :
    memOk (rowTrailer s core addr f begins count map rows) := by
  unfold rowTrailer
  try dsimp only
  repeat' (first | assumption | (with_reducible refine appendTrailer_memOk _ _ _ _ _ _ ?_)
                 | (with_reducible refine writeBytes_memOk _ _ _ _ ?_) | split | (intro _)
                 | (with_reducible refine foldl_memOk _ _ _ ?_ ?_) | (with_reducible refine foldl_fst_memOk _ _ _ ?_ ?_)
                 | (with_reducible refine foldl_snd_memOk _ _ _ ?_ ?_) | (simp only [memOk_mk, memsOk_eta]))
theorem rowTrailer_keep (s : State) (core addr : Nat) (f : OutForm) (begins : Bool) (count map rows : Nat) : Keep s (rowTrailer
    s core addr f begins count map rows) := ⟨rowTrailer_setup _ _ _ _ _ _ _ _, rowTrailer_memOk _ _ _ _ _ _ _⟩

@[simp] theorem appendRows_setup (s : State) (core e : Nat) (f : OutForm) (addr r0 : Nat) (rows : List (Option (List Acc))) :
    (appendRows s core e f addr r0 rows).1.setup = s.setup := by
  unfold appendRows; simp
theorem appendRows_memOk {s : State} (core e : Nat) (f : OutForm) (addr r0 : Nat) (rows : List (Option (List Acc))) (hs : memOk
    s) : memOk (appendRows s core e f addr r0 rows).1 := by
  unfold appendRows
  try dsimp only
  repeat' (first | assumption | (with_reducible refine (memOk_of_still (coreConsumes_still _ _ _)).mpr ?_)
                 | (with_reducible refine (memOk_of_still (countCensus_still _ _ _ _)).mpr ?_)
                 | (with_reducible refine (memOk_of_still (modCore_still _ _ _)).mpr ?_)
                 | (with_reducible refine readTile_memOk _ _ _ _ ?_)
                 | (with_reducible refine rowTrailer_memOk _ _ _ _ _ _ _ ?_)
                 | (with_reducible refine (memOk_of_still (tileForm_still _ _ _ _ _)).mpr ?_)
                 | (with_reducible refine (memOk_of_still (trailerMismatch_still _ _ _ _)).mpr ?_)
                 | (with_reducible refine writePieces_memOk _ _ _ ?_) | split | (intro _)
                 | (with_reducible refine foldl_memOk _ _ _ ?_ ?_) | (with_reducible refine foldl_fst_memOk _ _ _ ?_ ?_)
                 | (with_reducible refine foldl_snd_memOk _ _ _ ?_ ?_) | (simp only [memOk_mk, memsOk_eta]))
theorem appendRows_keep (s : State) (core e : Nat) (f : OutForm) (addr r0 : Nat) (rows : List (Option (List Acc))) : Keep s
    (appendRows s core e f addr r0 rows).1 := ⟨appendRows_setup _ _ _ _ _ _ _, appendRows_memOk _ _ _ _ _ _⟩

@[simp] theorem mvEffect_setup (core : Nat) (bad : Bool) (s : State) (w : IWord) : (mvEffect core bad s w).setup = s.setup := by
  unfold mvEffect; simp
theorem mvEffect_memOk {s : State} (core : Nat) (bad : Bool) (w : IWord) (hs : memOk s) : memOk (mvEffect core bad s w) := by
  unfold mvEffect
  try dsimp only
  repeat' (first | assumption | (with_reducible refine (memOk_of_still (coreConsumes_still _ _ _)).mpr ?_)
                 | (with_reducible refine (memOk_of_still (issuedData_still _ _ _ _ _)).mpr ?_)
                 | (with_reducible refine (memOk_of_still (modCore_still _ _ _)).mpr ?_)
                 | (with_reducible refine (memOk_of_still (noteTrailers_still _ _ _ _ _)).mpr ?_)
                 | (with_reducible refine readTiles_memOk _ _ _ _ ?_)
                 | (with_reducible refine (memOk_of_still (trailerMismatch_still _ _ _ _)).mpr ?_) | split | (intro _)
                 | (with_reducible refine foldl_memOk _ _ _ ?_ ?_) | (with_reducible refine foldl_fst_memOk _ _ _ ?_ ?_)
                 | (with_reducible refine foldl_snd_memOk _ _ _ ?_ ?_) | (simp only [memOk_mk, memsOk_eta]))
theorem mvEffect_keep (core : Nat) (bad : Bool) (s : State) (w : IWord) : Keep s (mvEffect core bad s w) := ⟨mvEffect_setup _ _
    _ _, mvEffect_memOk _ _ _⟩

theorem setVreg_still (s : State) (core v : Nat) (l : List Acc) : (setVreg s core v l).still = s.still := by
  rfl
@[simp] theorem setVreg_setup (s : State) (core v : Nat) (l : List Acc) : (setVreg s core v l).setup = s.setup :=
    setup_of_still (setVreg_still _ _ _ _)
@[simp] theorem setVreg_mems (s : State) (core v : Nat) (l : List Acc) : (setVreg s core v l).mems = s.mems := mems_of_still
    (setVreg_still _ _ _ _)

theorem vectorEffect_still (core : Nat) (bad : Bool) (s : State) (w : IWord) : (vectorEffect core bad s w).still = s.still := by
  unfold vectorEffect; simp
@[simp] theorem vectorEffect_setup (core : Nat) (bad : Bool) (s : State) (w : IWord) : (vectorEffect core bad s w).setup =
    s.setup := setup_of_still (vectorEffect_still _ _ _ _)
@[simp] theorem vectorEffect_mems (core : Nat) (bad : Bool) (s : State) (w : IWord) : (vectorEffect core bad s w).mems = s.mems
    := mems_of_still (vectorEffect_still _ _ _ _)

theorem appendAll_keep (s : State) (core : Nat) (f : OutForm) (row : Nat) (x0 : List Int) (x1 : List (List Acc)) :
    Keep s (appendAll s core f row x0 x1) := by
  induction x0 generalizing s x1 with
  | nil => exact Keep.refl s
  | cons a l ih => cases x1 with
    | nil => exact Keep.refl s
    | cons r rs => exact (appendRows_keep s core 6 f a.toNat row [some r]).trans (ih _ _)
@[simp] theorem appendAll_setup (s : State) (core : Nat) (f : OutForm) (row : Nat) (x0 : List Int) (x1 : List (List Acc)) :
    (appendAll s core f row x0 x1).setup = s.setup := (appendAll_keep s core f row x0 x1).1
theorem appendAll_memOk {s : State} (core : Nat) (f : OutForm) (row : Nat) (x0 : List Int) (x1 : List (List Acc)) (hs : memOk
    s) : memOk (appendAll s core f row x0 x1) := (appendAll_keep s core f row x0 x1).2 hs

@[simp] theorem rowEffect_setup (core : Nat) (bad : Bool) (s : State) (w : IWord) : (rowEffect core bad s w).setup = s.setup :=
    by
  unfold rowEffect; simp
theorem rowEffect_memOk {s : State} (core : Nat) (bad : Bool) (w : IWord) (hs : memOk s) : memOk (rowEffect core bad s w) := by
  unfold rowEffect
  try dsimp only
  repeat' (first | assumption | (with_reducible refine appendAll_memOk _ _ _ _ _ ?_)
                 | (with_reducible refine (memOk_of_still (coreConsumes_still _ _ _)).mpr ?_)
                 | (with_reducible refine (memOk_of_still (issuedData_still _ _ _ _ _)).mpr ?_)
                 | (with_reducible refine (memOk_of_still (modCore_still _ _ _)).mpr ?_)
                 | (with_reducible refine (memOk_of_still (noteTrailers_still _ _ _ _ _)).mpr ?_)
                 | (with_reducible refine readTiles_memOk _ _ _ _ ?_) | split | (intro _)
                 | (with_reducible refine foldl_memOk _ _ _ ?_ ?_) | (with_reducible refine foldl_fst_memOk _ _ _ ?_ ?_)
                 | (with_reducible refine foldl_snd_memOk _ _ _ ?_ ?_) | (simp only [memOk_mk, memsOk_eta]))
theorem rowEffect_keep (core : Nat) (bad : Bool) (s : State) (w : IWord) : Keep s (rowEffect core bad s w) := ⟨rowEffect_setup
    _ _ _ _, rowEffect_memOk _ _ _⟩

theorem readVals_keep (s : State) (core a : Nat) (x0 : Nat) : Keep s (readVals s core a x0).2 := by
  induction x0 generalizing s a with
  | zero => exact Keep.refl s
  | succ n ih => exact (readMem_keep _ _ _ _).trans (ih _ _)
@[simp] theorem readVals_setup (s : State) (core a : Nat) (x0 : Nat) : (readVals s core a x0).2.setup = s.setup :=
    (readVals_keep s core a x0).1
theorem readVals_memOk {s : State} (core a : Nat) (x0 : Nat) (hs : memOk s) : memOk (readVals s core a x0).2 := (readVals_keep
    s core a x0).2 hs

theorem readCarrier_keep (s : State) (core a i : Nat) (x0 : Nat) : Keep s (readCarrier s core a i x0).2 := by
  induction x0 generalizing s i with
  | zero => exact Keep.refl s
  | succ n ih => exact (readVals_keep _ _ _ _).trans (ih _ _)
@[simp] theorem readCarrier_setup (s : State) (core a i : Nat) (x0 : Nat) : (readCarrier s core a i x0).2.setup = s.setup :=
    (readCarrier_keep s core a i x0).1
theorem readCarrier_memOk {s : State} (core a i : Nat) (x0 : Nat) (hs : memOk s) : memOk (readCarrier s core a i x0).2 :=
    (readCarrier_keep s core a i x0).2 hs

@[simp] theorem appendHalf_setup (s : State) (core : Nat) (f : OutForm) (addr row h : Nat) (l : List Acc) : (appendHalf s core
    f addr row h l).setup = s.setup := by
  unfold appendHalf; simp
theorem appendHalf_memOk {s : State} (core : Nat) (f : OutForm) (addr row h : Nat) (l : List Acc) (hs : memOk s) : memOk
    (appendHalf s core f addr row h l) := by
  unfold appendHalf
  try dsimp only
  repeat' (first | assumption | (with_reducible refine (memOk_of_still (coreConsumes_still _ _ _)).mpr ?_)
                 | (with_reducible refine (memOk_of_still (countCensus_still _ _ _ _)).mpr ?_)
                 | (with_reducible refine (memOk_of_still (modCore_still _ _ _)).mpr ?_)
                 | (with_reducible refine readTile_memOk _ _ _ _ ?_)
                 | (with_reducible refine rowTrailer_memOk _ _ _ _ _ _ _ ?_)
                 | (with_reducible refine (memOk_of_still (tileForm_still _ _ _ _ _)).mpr ?_)
                 | (with_reducible refine (memOk_of_still (trailerMismatch_still _ _ _ _)).mpr ?_)
                 | (with_reducible refine writePieces_memOk _ _ _ ?_) | split | (intro _)
                 | (with_reducible refine foldl_memOk _ _ _ ?_ ?_) | (with_reducible refine foldl_fst_memOk _ _ _ ?_ ?_)
                 | (with_reducible refine foldl_snd_memOk _ _ _ ?_ ?_) | (simp only [memOk_mk, memsOk_eta]))
theorem appendHalf_keep (s : State) (core : Nat) (f : OutForm) (addr row h : Nat) (l : List Acc) : Keep s (appendHalf s core f
    addr row h l) := ⟨appendHalf_setup _ _ _ _ _ _ _, appendHalf_memOk _ _ _ _ _ _⟩

theorem appendHalves_keep (s : State) (core : Nat) (f : OutForm) (dst row c : Nat) (x0 : Nat) (x1 : List Acc) :
    Keep s (appendHalves s core f dst row c x0 x1) := by
  induction x0 generalizing s c x1 with
  | zero => exact Keep.refl s
  | succ n ih => exact (appendHalf_keep _ _ _ _ _ _ _).trans (ih _ _ _)
@[simp] theorem appendHalves_setup (s : State) (core : Nat) (f : OutForm) (dst row c : Nat) (x0 : Nat) (x1 : List Acc) :
    (appendHalves s core f dst row c x0 x1).setup = s.setup := (appendHalves_keep s core f dst row c x0 x1).1
theorem appendHalves_memOk {s : State} (core : Nat) (f : OutForm) (dst row c : Nat) (x0 : Nat) (x1 : List Acc) (hs : memOk s) :
    memOk (appendHalves s core f dst row c x0 x1) := (appendHalves_keep s core f dst row c x0 x1).2 hs

@[simp] theorem combineMerge_setup (s : State) (core st row head : Nat) (src : List Nat) (dst : Nat) : (combineMerge s core st
    row head src dst).setup = s.setup := by
  unfold combineMerge; dsimp only; (repeat' split) <;> simp
theorem combineMerge_memOk {s : State} (core st row head : Nat) (src : List Nat) (dst : Nat) (hs : memOk s) : memOk
    (combineMerge s core st row head src dst) := by
  unfold combineMerge
  try dsimp only
  repeat' (first | assumption | (with_reducible refine appendHalves_memOk _ _ _ _ _ _ _ ?_)
                 | (with_reducible refine (memOk_of_still (coreConsumes_still _ _ _)).mpr ?_)
                 | (with_reducible refine readCarrier_memOk _ _ _ _ ?_) | split | (intro _)
                 | (with_reducible refine foldl_memOk _ _ _ ?_ ?_) | (with_reducible refine foldl_fst_memOk _ _ _ ?_ ?_)
                 | (with_reducible refine foldl_snd_memOk _ _ _ ?_ ?_) | (simp only [memOk_mk, memsOk_eta]))
theorem combineMerge_keep (s : State) (core st row head : Nat) (src : List Nat) (dst : Nat) : Keep s (combineMerge s core st
    row head src dst) := ⟨combineMerge_setup _ _ _ _ _ _ _, combineMerge_memOk _ _ _ _ _ _⟩

@[simp] theorem rowAcross_setup (s : State) (core : Nat) (side : TileSide) (tag kc a row n : Nat) : (rowAcross s core side tag
    kc a row n).2.setup = s.setup := by
  unfold rowAcross; simp
theorem rowAcross_memOk {s : State} (core : Nat) (side : TileSide) (tag kc a row n : Nat) (hs : memOk s) : memOk (rowAcross s
    core side tag kc a row n).2 := by
  unfold rowAcross
  try dsimp only
  repeat' (first | assumption | (with_reducible refine (memOk_of_still (noteTrailers_still _ _ _ _ _)).mpr ?_)
                 | (with_reducible refine readTiles_memOk _ _ _ _ ?_) | split | (intro _)
                 | (with_reducible refine foldl_memOk _ _ _ ?_ ?_) | (with_reducible refine foldl_fst_memOk _ _ _ ?_ ?_)
                 | (with_reducible refine foldl_snd_memOk _ _ _ ?_ ?_) | (simp only [memOk_mk, memsOk_eta]))
theorem rowAcross_keep (s : State) (core : Nat) (side : TileSide) (tag kc a row n : Nat) : Keep s (rowAcross s core side tag kc
    a row n).2 := ⟨rowAcross_setup _ _ _ _ _ _ _ _, rowAcross_memOk _ _ _ _ _ _ _⟩

@[simp] theorem backwardStep_setup (s : State) (core st row dy saved dst : Nat) : (backwardStep s core st row dy saved
    dst).setup = s.setup := by
  unfold backwardStep; dsimp only; (repeat' split) <;> simp
theorem backwardStep_memOk {s : State} (core st row dy saved dst : Nat) (hs : memOk s) : memOk (backwardStep s core st row dy
    saved dst) := by
  unfold backwardStep
  try dsimp only
  repeat' (first | assumption | (with_reducible refine appendAll_memOk _ _ _ _ _ ?_)
                 | (with_reducible refine (memOk_of_still (coreConsumes_still _ _ _)).mpr ?_)
                 | (with_reducible refine (memOk_of_still (modCore_still _ _ _)).mpr ?_)
                 | (with_reducible refine rowAcross_memOk _ _ _ _ _ _ _ ?_) | split | (intro _)
                 | (with_reducible refine foldl_memOk _ _ _ ?_ ?_) | (with_reducible refine foldl_fst_memOk _ _ _ ?_ ?_)
                 | (with_reducible refine foldl_snd_memOk _ _ _ ?_ ?_) | (simp only [memOk_mk, memsOk_eta]))
theorem backwardStep_keep (s : State) (core st row dy saved dst : Nat) : Keep s (backwardStep s core st row dy saved dst) :=
    ⟨backwardStep_setup _ _ _ _ _ _ _, backwardStep_memOk _ _ _ _ _ _⟩

theorem redoCore_keep (s : State) (core : Nat) : Keep s (redoCore s core) := by
  unfold redoCore
  split
  · extract_lets t
    have ht : Keep s t := keep_of_still (modCore_still _ _ _)
    split
    · exact ht
    · refine ht.trans ?_
      split
      · exact mmRedo_keep _ _ _ _
      · exact mmRedo_keep _ _ _ _
      · exact residueRedo_keep _ _ _ _ fun b s w => mvEffect_keep _ _ _ _
      · refine residueRedo_keep _ _ _ _ fun b s w => ?_
        split
        · exact keep_of_still (vectorEffect_still _ _ _ _)
        · exact rowEffect_keep _ _ _ _
  · exact Keep.refl s
@[simp] theorem redoCore_setup (s : State) (core : Nat) : (redoCore s core).setup = s.setup := (redoCore_keep s core).1
theorem redoCore_memOk {s : State} (core : Nat) (hs : memOk s) : memOk (redoCore s core) := (redoCore_keep s core).2 hs

theorem setSreg_still (s : State) (core r : Nat) (v : W32) : (setSreg s core r v).still = s.still := by
  unfold setSreg; simp
@[simp] theorem setSreg_setup (s : State) (core r : Nat) (v : W32) : (setSreg s core r v).setup = s.setup := setup_of_still
    (setSreg_still _ _ _ _)
@[simp] theorem setSreg_mems (s : State) (core r : Nat) (v : W32) : (setSreg s core r v).mems = s.mems := mems_of_still
    (setSreg_still _ _ _ _)

theorem armEntry_still (s : State) (core : Nat) (w : IWord) : (armEntry s core w).still = s.still := by
  unfold armEntry; simp
@[simp] theorem armEntry_setup (s : State) (core : Nat) (w : IWord) : (armEntry s core w).setup = s.setup := setup_of_still
    (armEntry_still _ _ _)
@[simp] theorem armEntry_mems (s : State) (core : Nat) (w : IWord) : (armEntry s core w).mems = s.mems := mems_of_still
    (armEntry_still _ _ _)

theorem sliceCommandError_still (s : State) (core : Nat) : (sliceCommandError s core).still = s.still := by
  unfold sliceCommandError; simp
@[simp] theorem sliceCommandError_setup (s : State) (core : Nat) : (sliceCommandError s core).setup = s.setup := setup_of_still
    (sliceCommandError_still _ _)
@[simp] theorem sliceCommandError_mems (s : State) (core : Nat) : (sliceCommandError s core).mems = s.mems := mems_of_still
    (sliceCommandError_still _ _)

end Sys2Proof.Machine
end

