-- ==== Sys2Proof/Laws/State.lean ====
section
/-! SUPPORT. One law per field per update: what the operations that change one field of State leave alone, and what the units read
afterwards. -/

namespace Sys2Proof.Machine

/-! modPart -/

@[simp] theorem modPart_variant (s : State) (n : Nat) (f : Part → Part) : (modPart s n f).variant = s.variant := rfl
@[simp] theorem modPart_aon (s : State) (n : Nat) (f : Part → Part) : (modPart s n f).aon = s.aon := rfl
@[simp] theorem modPart_time (s : State) (n : Nat) (f : Part → Part) : (modPart s n f).time = s.time := rfl
@[simp] theorem modPart_frames (s : State) (n : Nat) (f : Part → Part) : (modPart s n f).frames = s.frames := rfl
@[simp] theorem modPart_pins (s : State) (n : Nat) (f : Part → Part) : (modPart s n f).pins = s.pins := rfl
@[simp] theorem modPart_boot (s : State) (n : Nat) (f : Part → Part) : (modPart s n f).boot = s.boot := rfl
@[simp] theorem modPart_units (s : State) (n : Nat) (f : Part → Part) : (modPart s n f).units = s.units := rfl
@[simp] theorem modPart_fwVersion (s : State) (n : Nat) (f : Part → Part) : (modPart s n f).fwVersion = s.fwVersion := rfl
@[simp] theorem modPart_moduleId (s : State) (n : Nat) (f : Part → Part) : (modPart s n f).moduleId = s.moduleId := rfl
@[simp] theorem modPart_staged (s : State) (n : Nat) (f : Part → Part) : (modPart s n f).staged = s.staged := rfl
@[simp] theorem modPart_sem (s : State) (n : Nat) (f : Part → Part) : (modPart s n f).sem = s.sem := rfl
@[simp] theorem modPart_fold (s : State) (n : Nat) (f : Part → Part) : (modPart s n f).fold = s.fold := rfl
@[simp] theorem modPart_mgmt (s : State) (n : Nat) (f : Part → Part) : (modPart s n f).mgmt = s.mgmt := rfl
@[simp] theorem modPart_mgmtOut (s : State) (n : Nat) (f : Part → Part) : (modPart s n f).mgmtOut = s.mgmtOut := rfl
@[simp] theorem modPart_nal (s : State) (n : Nat) (f : Part → Part) : (modPart s n f).nal = s.nal := rfl
@[simp] theorem modPart_rings (s : State) (n : Nat) (f : Part → Part) : (modPart s n f).rings = s.rings := rfl
@[simp] theorem modPart_errRings (s : State) (n : Nat) (f : Part → Part) : (modPart s n f).errRings = s.errRings := rfl
@[simp] theorem modPart_mya (s : State) (n : Nat) (f : Part → Part) : (modPart s n f).mya = s.mya := rfl
@[simp] theorem modPart_sent (s : State) (n : Nat) (f : Part → Part) : (modPart s n f).sent = s.sent := rfl
@[simp] theorem modPart_received (s : State) (n : Nat) (f : Part → Part) : (modPart s n f).received = s.received := rfl
@[simp] theorem modPart_held (s : State) (n : Nat) (f : Part → Part) : (modPart s n f).held = s.held := rfl
@[simp] theorem modPart_bars (s : State) (n : Nat) (f : Part → Part) : (modPart s n f).bars = s.bars := rfl
@[simp] theorem modPart_cores (s : State) (n : Nat) (f : Part → Part) : (modPart s n f).cores = s.cores := rfl
@[simp] theorem modPart_slices (s : State) (n : Nat) (f : Part → Part) : (modPart s n f).slices = s.slices := rfl
@[simp] theorem modPart_baskets (s : State) (n : Nat) (f : Part → Part) : (modPart s n f).baskets = s.baskets := rfl
@[simp] theorem modPart_hamper (s : State) (n : Nat) (f : Part → Part) : (modPart s n f).hamper = s.hamper := rfl
@[simp] theorem modPart_stack (s : State) (n : Nat) (f : Part → Part) : (modPart s n f).stack = s.stack := rfl
@[simp] theorem modPart_deferred (s : State) (n : Nat) (f : Part → Part) : (modPart s n f).deferred = s.deferred := rfl
@[simp] theorem modPart_ecc (s : State) (n : Nat) (f : Part → Part) : (modPart s n f).ecc = s.ecc := rfl
@[simp] theorem modPart_scrub (s : State) (n : Nat) (f : Part → Part) : (modPart s n f).scrub = s.scrub := rfl
@[simp] theorem modPart_ecct (s : State) (n : Nat) (f : Part → Part) : (modPart s n f).ecct = s.ecct := rfl
@[simp] theorem modPart_stk (s : State) (n : Nat) (f : Part → Part) : (modPart s n f).stk = s.stk := rfl
@[simp] theorem modPart_banks (s : State) (n : Nat) (f : Part → Part) : (modPart s n f).banks = s.banks := rfl
@[simp] theorem modPart_nbus (s : State) (n : Nat) (f : Part → Part) : (modPart s n f).nbus = s.nbus := rfl
@[simp] theorem modPart_kv (s : State) (n : Nat) (f : Part → Part) : (modPart s n f).kv = s.kv := rfl
@[simp] theorem modPart_kvFull (s : State) (n : Nat) (f : Part → Part) : (modPart s n f).kvFull = s.kvFull := rfl
@[simp] theorem modPart_appends (s : State) (n : Nat) (f : Part → Part) : (modPart s n f).appends = s.appends := rfl
@[simp] theorem modPart_decodes (s : State) (n : Nat) (f : Part → Part) : (modPart s n f).decodes = s.decodes := rfl
@[simp] theorem modPart_invokes (s : State) (n : Nat) (f : Part → Part) : (modPart s n f).invokes = s.invokes := rfl
@[simp] theorem modPart_commits (s : State) (n : Nat) (f : Part → Part) : (modPart s n f).commits = s.commits := rfl
@[simp] theorem modPart_kvJobs (s : State) (n : Nat) (f : Part → Part) : (modPart s n f).kvJobs = s.kvJobs := rfl
@[simp] theorem modPart_repairs (s : State) (n : Nat) (f : Part → Part) : (modPart s n f).repairs = s.repairs := rfl
@[simp] theorem modPart_hemOut (s : State) (n : Nat) (f : Part → Part) : (modPart s n f).hemOut = s.hemOut := rfl
@[simp] theorem modPart_xfers (s : State) (n : Nat) (f : Part → Part) : (modPart s n f).xfers = s.xfers := rfl
@[simp] theorem modPart_nextXfer (s : State) (n : Nat) (f : Part → Part) : (modPart s n f).nextXfer = s.nextXfer := rfl
@[simp] theorem modPart_fetches (s : State) (n : Nat) (f : Part → Part) : (modPart s n f).fetches = s.fetches := rfl
@[simp] theorem modPart_mesh (s : State) (n : Nat) (f : Part → Part) : (modPart s n f).mesh = s.mesh := rfl
@[simp] theorem modPart_crossings (s : State) (n : Nat) (f : Part → Part) : (modPart s n f).crossings = s.crossings := rfl
@[simp] theorem modPart_sparings (s : State) (n : Nat) (f : Part → Part) : (modPart s n f).sparings = s.sparings := rfl
@[simp] theorem modPart_power (s : State) (n : Nat) (f : Part → Part) : (modPart s n f).power = s.power := rfl
@[simp] theorem modPart_therm (s : State) (n : Nat) (f : Part → Part) : (modPart s n f).therm = s.therm := rfl
@[simp] theorem modPart_hup (s : State) (n : Nat) (f : Part → Part) : (modPart s n f).hup = s.hup := rfl
@[simp] theorem modPart_rot (s : State) (n : Nat) (f : Part → Part) : (modPart s n f).rot = s.rot := rfl
@[simp] theorem modPart_darn (s : State) (n : Nat) (f : Part → Part) : (modPart s n f).darn = s.darn := rfl
@[simp] theorem modPart_hemReset (s : State) (n : Nat) (f : Part → Part) : (modPart s n f).hemReset = s.hemReset := rfl
@[simp] theorem modPart_devReset (s : State) (n : Nat) (f : Part → Part) : (modPart s n f).devReset = s.devReset := rfl
@[simp] theorem modPart_fwUpdate (s : State) (n : Nat) (f : Part → Part) : (modPart s n f).fwUpdate = s.fwUpdate := rfl
@[simp] theorem modPart_oscLost (s : State) (n : Nat) (f : Part → Part) : (modPart s n f).oscLost = s.oscLost := rfl
@[simp] theorem modPart_pllLost (s : State) (n : Nat) (f : Part → Part) : (modPart s n f).pllLost = s.pllLost := rfl
@[simp] theorem modPart_free (s : State) (n : Nat) (f : Part → Part) : (modPart s n f).free = s.free := rfl
@[simp] theorem modPart_pending (s : State) (n : Nat) (f : Part → Part) : (modPart s n f).pending = s.pending := rfl
@[simp] theorem coreAt_modPart (s : State) (n : Nat) (f : Part → Part) (k : Nat) : coreAt (modPart s n f) k = coreAt s k := rfl
@[simp] theorem nalAt_modPart (s : State) (n : Nat) (f : Part → Part) (k : NPort) : nalAt (modPart s n f) k = nalAt s k := rfl
@[simp] theorem myaAt_modPart (s : State) (n : Nat) (f : Part → Part) (k : Nat) : myaAt (modPart s n f) k = myaAt s k := rfl
@[simp] theorem ringAt_modPart (s : State) (n : Nat) (f : Part → Part) (k : NPort) (j : RingId) : ringAt (modPart s n f) k j = ringAt s k j := rfl
@[simp] theorem errAt_modPart (s : State) (n : Nat) (f : Part → Part) (k : NPort) : errAt (modPart s n f) k = errAt s k := rfl
@[simp] theorem nbuAt_modPart (s : State) (n : Nat) (f : Part → Part) (k : Nat) : nbuAt (modPart s n f) k = nbuAt s k := rfl
@[simp] theorem barAt_modPart (s : State) (n : Nat) (f : Part → Part) (k : Nat) : barAt (modPart s n f) k = barAt s k := rfl
@[simp] theorem stkAt_modPart (s : State) (n : Nat) (f : Part → Part) (k : Nat) : stkAt (modPart s n f) k = stkAt s k := rfl
@[simp] theorem partAt_modPart_same (s : State) (n : Nat) (f : Part → Part) : partAt (modPart s n f) n = f (partAt s n) := tget_tmod_same _ _ _
@[simp] theorem partAt_modPart_ne (s : State) (n : Nat) (f : Part → Part) {k : Nat} (h : k ≠ n) : partAt (modPart s n f) k = partAt s k := tget_tmod_ne _ _ h

/-! modCore -/

@[simp] theorem modCore_variant (s : State) (n : Nat) (f : Core → Core) : (modCore s n f).variant = s.variant := rfl
@[simp] theorem modCore_aon (s : State) (n : Nat) (f : Core → Core) : (modCore s n f).aon = s.aon := rfl
@[simp] theorem modCore_time (s : State) (n : Nat) (f : Core → Core) : (modCore s n f).time = s.time := rfl
@[simp] theorem modCore_frames (s : State) (n : Nat) (f : Core → Core) : (modCore s n f).frames = s.frames := rfl
@[simp] theorem modCore_pins (s : State) (n : Nat) (f : Core → Core) : (modCore s n f).pins = s.pins := rfl
@[simp] theorem modCore_boot (s : State) (n : Nat) (f : Core → Core) : (modCore s n f).boot = s.boot := rfl
@[simp] theorem modCore_units (s : State) (n : Nat) (f : Core → Core) : (modCore s n f).units = s.units := rfl
@[simp] theorem modCore_fwVersion (s : State) (n : Nat) (f : Core → Core) : (modCore s n f).fwVersion = s.fwVersion := rfl
@[simp] theorem modCore_moduleId (s : State) (n : Nat) (f : Core → Core) : (modCore s n f).moduleId = s.moduleId := rfl
@[simp] theorem modCore_staged (s : State) (n : Nat) (f : Core → Core) : (modCore s n f).staged = s.staged := rfl
@[simp] theorem modCore_sem (s : State) (n : Nat) (f : Core → Core) : (modCore s n f).sem = s.sem := rfl
@[simp] theorem modCore_fold (s : State) (n : Nat) (f : Core → Core) : (modCore s n f).fold = s.fold := rfl
@[simp] theorem modCore_mgmt (s : State) (n : Nat) (f : Core → Core) : (modCore s n f).mgmt = s.mgmt := rfl
@[simp] theorem modCore_mgmtOut (s : State) (n : Nat) (f : Core → Core) : (modCore s n f).mgmtOut = s.mgmtOut := rfl
@[simp] theorem modCore_nal (s : State) (n : Nat) (f : Core → Core) : (modCore s n f).nal = s.nal := rfl
@[simp] theorem modCore_rings (s : State) (n : Nat) (f : Core → Core) : (modCore s n f).rings = s.rings := rfl
@[simp] theorem modCore_errRings (s : State) (n : Nat) (f : Core → Core) : (modCore s n f).errRings = s.errRings := rfl
@[simp] theorem modCore_mya (s : State) (n : Nat) (f : Core → Core) : (modCore s n f).mya = s.mya := rfl
@[simp] theorem modCore_sent (s : State) (n : Nat) (f : Core → Core) : (modCore s n f).sent = s.sent := rfl
@[simp] theorem modCore_received (s : State) (n : Nat) (f : Core → Core) : (modCore s n f).received = s.received := rfl
@[simp] theorem modCore_held (s : State) (n : Nat) (f : Core → Core) : (modCore s n f).held = s.held := rfl
@[simp] theorem modCore_bars (s : State) (n : Nat) (f : Core → Core) : (modCore s n f).bars = s.bars := rfl
@[simp] theorem modCore_parts (s : State) (n : Nat) (f : Core → Core) : (modCore s n f).parts = s.parts := rfl
@[simp] theorem modCore_slices (s : State) (n : Nat) (f : Core → Core) : (modCore s n f).slices = s.slices := rfl
@[simp] theorem modCore_baskets (s : State) (n : Nat) (f : Core → Core) : (modCore s n f).baskets = s.baskets := rfl
@[simp] theorem modCore_hamper (s : State) (n : Nat) (f : Core → Core) : (modCore s n f).hamper = s.hamper := rfl
@[simp] theorem modCore_stack (s : State) (n : Nat) (f : Core → Core) : (modCore s n f).stack = s.stack := rfl
@[simp] theorem modCore_deferred (s : State) (n : Nat) (f : Core → Core) : (modCore s n f).deferred = s.deferred := rfl
@[simp] theorem modCore_ecc (s : State) (n : Nat) (f : Core → Core) : (modCore s n f).ecc = s.ecc := rfl
@[simp] theorem modCore_scrub (s : State) (n : Nat) (f : Core → Core) : (modCore s n f).scrub = s.scrub := rfl
@[simp] theorem modCore_ecct (s : State) (n : Nat) (f : Core → Core) : (modCore s n f).ecct = s.ecct := rfl
@[simp] theorem modCore_stk (s : State) (n : Nat) (f : Core → Core) : (modCore s n f).stk = s.stk := rfl
@[simp] theorem modCore_banks (s : State) (n : Nat) (f : Core → Core) : (modCore s n f).banks = s.banks := rfl
@[simp] theorem modCore_nbus (s : State) (n : Nat) (f : Core → Core) : (modCore s n f).nbus = s.nbus := rfl
@[simp] theorem modCore_kv (s : State) (n : Nat) (f : Core → Core) : (modCore s n f).kv = s.kv := rfl
@[simp] theorem modCore_kvFull (s : State) (n : Nat) (f : Core → Core) : (modCore s n f).kvFull = s.kvFull := rfl
@[simp] theorem modCore_appends (s : State) (n : Nat) (f : Core → Core) : (modCore s n f).appends = s.appends := rfl
@[simp] theorem modCore_decodes (s : State) (n : Nat) (f : Core → Core) : (modCore s n f).decodes = s.decodes := rfl
@[simp] theorem modCore_invokes (s : State) (n : Nat) (f : Core → Core) : (modCore s n f).invokes = s.invokes := rfl
@[simp] theorem modCore_commits (s : State) (n : Nat) (f : Core → Core) : (modCore s n f).commits = s.commits := rfl
@[simp] theorem modCore_kvJobs (s : State) (n : Nat) (f : Core → Core) : (modCore s n f).kvJobs = s.kvJobs := rfl
@[simp] theorem modCore_repairs (s : State) (n : Nat) (f : Core → Core) : (modCore s n f).repairs = s.repairs := rfl
@[simp] theorem modCore_hemOut (s : State) (n : Nat) (f : Core → Core) : (modCore s n f).hemOut = s.hemOut := rfl
@[simp] theorem modCore_xfers (s : State) (n : Nat) (f : Core → Core) : (modCore s n f).xfers = s.xfers := rfl
@[simp] theorem modCore_nextXfer (s : State) (n : Nat) (f : Core → Core) : (modCore s n f).nextXfer = s.nextXfer := rfl
@[simp] theorem modCore_fetches (s : State) (n : Nat) (f : Core → Core) : (modCore s n f).fetches = s.fetches := rfl
@[simp] theorem modCore_mesh (s : State) (n : Nat) (f : Core → Core) : (modCore s n f).mesh = s.mesh := rfl
@[simp] theorem modCore_crossings (s : State) (n : Nat) (f : Core → Core) : (modCore s n f).crossings = s.crossings := rfl
@[simp] theorem modCore_sparings (s : State) (n : Nat) (f : Core → Core) : (modCore s n f).sparings = s.sparings := rfl
@[simp] theorem modCore_power (s : State) (n : Nat) (f : Core → Core) : (modCore s n f).power = s.power := rfl
@[simp] theorem modCore_therm (s : State) (n : Nat) (f : Core → Core) : (modCore s n f).therm = s.therm := rfl
@[simp] theorem modCore_hup (s : State) (n : Nat) (f : Core → Core) : (modCore s n f).hup = s.hup := rfl
@[simp] theorem modCore_rot (s : State) (n : Nat) (f : Core → Core) : (modCore s n f).rot = s.rot := rfl
@[simp] theorem modCore_darn (s : State) (n : Nat) (f : Core → Core) : (modCore s n f).darn = s.darn := rfl
@[simp] theorem modCore_hemReset (s : State) (n : Nat) (f : Core → Core) : (modCore s n f).hemReset = s.hemReset := rfl
@[simp] theorem modCore_devReset (s : State) (n : Nat) (f : Core → Core) : (modCore s n f).devReset = s.devReset := rfl
@[simp] theorem modCore_fwUpdate (s : State) (n : Nat) (f : Core → Core) : (modCore s n f).fwUpdate = s.fwUpdate := rfl
@[simp] theorem modCore_oscLost (s : State) (n : Nat) (f : Core → Core) : (modCore s n f).oscLost = s.oscLost := rfl
@[simp] theorem modCore_pllLost (s : State) (n : Nat) (f : Core → Core) : (modCore s n f).pllLost = s.pllLost := rfl
@[simp] theorem modCore_free (s : State) (n : Nat) (f : Core → Core) : (modCore s n f).free = s.free := rfl
@[simp] theorem modCore_pending (s : State) (n : Nat) (f : Core → Core) : (modCore s n f).pending = s.pending := rfl
@[simp] theorem partAt_modCore (s : State) (n : Nat) (f : Core → Core) (k : Nat) : partAt (modCore s n f) k = partAt s k := rfl
@[simp] theorem nalAt_modCore (s : State) (n : Nat) (f : Core → Core) (k : NPort) : nalAt (modCore s n f) k = nalAt s k := rfl
@[simp] theorem myaAt_modCore (s : State) (n : Nat) (f : Core → Core) (k : Nat) : myaAt (modCore s n f) k = myaAt s k := rfl
@[simp] theorem ringAt_modCore (s : State) (n : Nat) (f : Core → Core) (k : NPort) (j : RingId) : ringAt (modCore s n f) k j = ringAt s k j := rfl
@[simp] theorem errAt_modCore (s : State) (n : Nat) (f : Core → Core) (k : NPort) : errAt (modCore s n f) k = errAt s k := rfl
@[simp] theorem nbuAt_modCore (s : State) (n : Nat) (f : Core → Core) (k : Nat) : nbuAt (modCore s n f) k = nbuAt s k := rfl
@[simp] theorem barAt_modCore (s : State) (n : Nat) (f : Core → Core) (k : Nat) : barAt (modCore s n f) k = barAt s k := rfl
@[simp] theorem stkAt_modCore (s : State) (n : Nat) (f : Core → Core) (k : Nat) : stkAt (modCore s n f) k = stkAt s k := rfl
@[simp] theorem coreAt_modCore_same (s : State) (n : Nat) (f : Core → Core) : coreAt (modCore s n f) n = f (coreAt s n) := tget_tmod_same _ _ _
@[simp] theorem coreAt_modCore_ne (s : State) (n : Nat) (f : Core → Core) {k : Nat} (h : k ≠ n) : coreAt (modCore s n f) k = coreAt s k := tget_tmod_ne _ _ h

/-! modNal -/

@[simp] theorem modNal_variant (s : State) (p : NPort) (f : Nal → Nal) : (modNal s p f).variant = s.variant := rfl
@[simp] theorem modNal_aon (s : State) (p : NPort) (f : Nal → Nal) : (modNal s p f).aon = s.aon := rfl
@[simp] theorem modNal_time (s : State) (p : NPort) (f : Nal → Nal) : (modNal s p f).time = s.time := rfl
@[simp] theorem modNal_frames (s : State) (p : NPort) (f : Nal → Nal) : (modNal s p f).frames = s.frames := rfl
@[simp] theorem modNal_pins (s : State) (p : NPort) (f : Nal → Nal) : (modNal s p f).pins = s.pins := rfl
@[simp] theorem modNal_boot (s : State) (p : NPort) (f : Nal → Nal) : (modNal s p f).boot = s.boot := rfl
@[simp] theorem modNal_units (s : State) (p : NPort) (f : Nal → Nal) : (modNal s p f).units = s.units := rfl
@[simp] theorem modNal_fwVersion (s : State) (p : NPort) (f : Nal → Nal) : (modNal s p f).fwVersion = s.fwVersion := rfl
@[simp] theorem modNal_moduleId (s : State) (p : NPort) (f : Nal → Nal) : (modNal s p f).moduleId = s.moduleId := rfl
@[simp] theorem modNal_staged (s : State) (p : NPort) (f : Nal → Nal) : (modNal s p f).staged = s.staged := rfl
@[simp] theorem modNal_sem (s : State) (p : NPort) (f : Nal → Nal) : (modNal s p f).sem = s.sem := rfl
@[simp] theorem modNal_fold (s : State) (p : NPort) (f : Nal → Nal) : (modNal s p f).fold = s.fold := rfl
@[simp] theorem modNal_mgmt (s : State) (p : NPort) (f : Nal → Nal) : (modNal s p f).mgmt = s.mgmt := rfl
@[simp] theorem modNal_mgmtOut (s : State) (p : NPort) (f : Nal → Nal) : (modNal s p f).mgmtOut = s.mgmtOut := rfl
@[simp] theorem modNal_rings (s : State) (p : NPort) (f : Nal → Nal) : (modNal s p f).rings = s.rings := rfl
@[simp] theorem modNal_errRings (s : State) (p : NPort) (f : Nal → Nal) : (modNal s p f).errRings = s.errRings := rfl
@[simp] theorem modNal_mya (s : State) (p : NPort) (f : Nal → Nal) : (modNal s p f).mya = s.mya := rfl
@[simp] theorem modNal_sent (s : State) (p : NPort) (f : Nal → Nal) : (modNal s p f).sent = s.sent := rfl
@[simp] theorem modNal_received (s : State) (p : NPort) (f : Nal → Nal) : (modNal s p f).received = s.received := rfl
@[simp] theorem modNal_held (s : State) (p : NPort) (f : Nal → Nal) : (modNal s p f).held = s.held := rfl
@[simp] theorem modNal_bars (s : State) (p : NPort) (f : Nal → Nal) : (modNal s p f).bars = s.bars := rfl
@[simp] theorem modNal_parts (s : State) (p : NPort) (f : Nal → Nal) : (modNal s p f).parts = s.parts := rfl
@[simp] theorem modNal_cores (s : State) (p : NPort) (f : Nal → Nal) : (modNal s p f).cores = s.cores := rfl
@[simp] theorem modNal_slices (s : State) (p : NPort) (f : Nal → Nal) : (modNal s p f).slices = s.slices := rfl
@[simp] theorem modNal_baskets (s : State) (p : NPort) (f : Nal → Nal) : (modNal s p f).baskets = s.baskets := rfl
@[simp] theorem modNal_hamper (s : State) (p : NPort) (f : Nal → Nal) : (modNal s p f).hamper = s.hamper := rfl
@[simp] theorem modNal_stack (s : State) (p : NPort) (f : Nal → Nal) : (modNal s p f).stack = s.stack := rfl
@[simp] theorem modNal_deferred (s : State) (p : NPort) (f : Nal → Nal) : (modNal s p f).deferred = s.deferred := rfl
@[simp] theorem modNal_ecc (s : State) (p : NPort) (f : Nal → Nal) : (modNal s p f).ecc = s.ecc := rfl
@[simp] theorem modNal_scrub (s : State) (p : NPort) (f : Nal → Nal) : (modNal s p f).scrub = s.scrub := rfl
@[simp] theorem modNal_ecct (s : State) (p : NPort) (f : Nal → Nal) : (modNal s p f).ecct = s.ecct := rfl
@[simp] theorem modNal_stk (s : State) (p : NPort) (f : Nal → Nal) : (modNal s p f).stk = s.stk := rfl
@[simp] theorem modNal_banks (s : State) (p : NPort) (f : Nal → Nal) : (modNal s p f).banks = s.banks := rfl
@[simp] theorem modNal_nbus (s : State) (p : NPort) (f : Nal → Nal) : (modNal s p f).nbus = s.nbus := rfl
@[simp] theorem modNal_kv (s : State) (p : NPort) (f : Nal → Nal) : (modNal s p f).kv = s.kv := rfl
@[simp] theorem modNal_kvFull (s : State) (p : NPort) (f : Nal → Nal) : (modNal s p f).kvFull = s.kvFull := rfl
@[simp] theorem modNal_appends (s : State) (p : NPort) (f : Nal → Nal) : (modNal s p f).appends = s.appends := rfl
@[simp] theorem modNal_decodes (s : State) (p : NPort) (f : Nal → Nal) : (modNal s p f).decodes = s.decodes := rfl
@[simp] theorem modNal_invokes (s : State) (p : NPort) (f : Nal → Nal) : (modNal s p f).invokes = s.invokes := rfl
@[simp] theorem modNal_commits (s : State) (p : NPort) (f : Nal → Nal) : (modNal s p f).commits = s.commits := rfl
@[simp] theorem modNal_kvJobs (s : State) (p : NPort) (f : Nal → Nal) : (modNal s p f).kvJobs = s.kvJobs := rfl
@[simp] theorem modNal_repairs (s : State) (p : NPort) (f : Nal → Nal) : (modNal s p f).repairs = s.repairs := rfl
@[simp] theorem modNal_hemOut (s : State) (p : NPort) (f : Nal → Nal) : (modNal s p f).hemOut = s.hemOut := rfl
@[simp] theorem modNal_xfers (s : State) (p : NPort) (f : Nal → Nal) : (modNal s p f).xfers = s.xfers := rfl
@[simp] theorem modNal_nextXfer (s : State) (p : NPort) (f : Nal → Nal) : (modNal s p f).nextXfer = s.nextXfer := rfl
@[simp] theorem modNal_fetches (s : State) (p : NPort) (f : Nal → Nal) : (modNal s p f).fetches = s.fetches := rfl
@[simp] theorem modNal_mesh (s : State) (p : NPort) (f : Nal → Nal) : (modNal s p f).mesh = s.mesh := rfl
@[simp] theorem modNal_crossings (s : State) (p : NPort) (f : Nal → Nal) : (modNal s p f).crossings = s.crossings := rfl
@[simp] theorem modNal_sparings (s : State) (p : NPort) (f : Nal → Nal) : (modNal s p f).sparings = s.sparings := rfl
@[simp] theorem modNal_power (s : State) (p : NPort) (f : Nal → Nal) : (modNal s p f).power = s.power := rfl
@[simp] theorem modNal_therm (s : State) (p : NPort) (f : Nal → Nal) : (modNal s p f).therm = s.therm := rfl
@[simp] theorem modNal_hup (s : State) (p : NPort) (f : Nal → Nal) : (modNal s p f).hup = s.hup := rfl
@[simp] theorem modNal_rot (s : State) (p : NPort) (f : Nal → Nal) : (modNal s p f).rot = s.rot := rfl
@[simp] theorem modNal_darn (s : State) (p : NPort) (f : Nal → Nal) : (modNal s p f).darn = s.darn := rfl
@[simp] theorem modNal_hemReset (s : State) (p : NPort) (f : Nal → Nal) : (modNal s p f).hemReset = s.hemReset := rfl
@[simp] theorem modNal_devReset (s : State) (p : NPort) (f : Nal → Nal) : (modNal s p f).devReset = s.devReset := rfl
@[simp] theorem modNal_fwUpdate (s : State) (p : NPort) (f : Nal → Nal) : (modNal s p f).fwUpdate = s.fwUpdate := rfl
@[simp] theorem modNal_oscLost (s : State) (p : NPort) (f : Nal → Nal) : (modNal s p f).oscLost = s.oscLost := rfl
@[simp] theorem modNal_pllLost (s : State) (p : NPort) (f : Nal → Nal) : (modNal s p f).pllLost = s.pllLost := rfl
@[simp] theorem modNal_free (s : State) (p : NPort) (f : Nal → Nal) : (modNal s p f).free = s.free := rfl
@[simp] theorem modNal_pending (s : State) (p : NPort) (f : Nal → Nal) : (modNal s p f).pending = s.pending := rfl
@[simp] theorem partAt_modNal (s : State) (p : NPort) (f : Nal → Nal) (k : Nat) : partAt (modNal s p f) k = partAt s k := rfl
@[simp] theorem coreAt_modNal (s : State) (p : NPort) (f : Nal → Nal) (k : Nat) : coreAt (modNal s p f) k = coreAt s k := rfl
@[simp] theorem myaAt_modNal (s : State) (p : NPort) (f : Nal → Nal) (k : Nat) : myaAt (modNal s p f) k = myaAt s k := rfl
@[simp] theorem ringAt_modNal (s : State) (p : NPort) (f : Nal → Nal) (k : NPort) (j : RingId) : ringAt (modNal s p f) k j = ringAt s k j := rfl
@[simp] theorem errAt_modNal (s : State) (p : NPort) (f : Nal → Nal) (k : NPort) : errAt (modNal s p f) k = errAt s k := rfl
@[simp] theorem nbuAt_modNal (s : State) (p : NPort) (f : Nal → Nal) (k : Nat) : nbuAt (modNal s p f) k = nbuAt s k := rfl
@[simp] theorem barAt_modNal (s : State) (p : NPort) (f : Nal → Nal) (k : Nat) : barAt (modNal s p f) k = barAt s k := rfl
@[simp] theorem stkAt_modNal (s : State) (p : NPort) (f : Nal → Nal) (k : Nat) : stkAt (modNal s p f) k = stkAt s k := rfl
@[simp] theorem nalAt_modNal_same (s : State) (p : NPort) (f : Nal → Nal) : nalAt (modNal s p f) p = f (nalAt s p) := tget_tmod_same _ _ _
@[simp] theorem nalAt_modNal_ne (s : State) (p : NPort) (f : Nal → Nal) {k : NPort} (h : k ≠ p) : nalAt (modNal s p f) k = nalAt s k :=
  tget_tmod_ne _ _ (fun e => h (Fin.ext e))

/-! modMya -/

@[simp] theorem modMya_variant (s : State) (n : Nat) (f : Mya → Mya) : (modMya s n f).variant = s.variant := rfl
@[simp] theorem modMya_aon (s : State) (n : Nat) (f : Mya → Mya) : (modMya s n f).aon = s.aon := rfl
@[simp] theorem modMya_time (s : State) (n : Nat) (f : Mya → Mya) : (modMya s n f).time = s.time := rfl
@[simp] theorem modMya_frames (s : State) (n : Nat) (f : Mya → Mya) : (modMya s n f).frames = s.frames := rfl
@[simp] theorem modMya_pins (s : State) (n : Nat) (f : Mya → Mya) : (modMya s n f).pins = s.pins := rfl
@[simp] theorem modMya_boot (s : State) (n : Nat) (f : Mya → Mya) : (modMya s n f).boot = s.boot := rfl
@[simp] theorem modMya_units (s : State) (n : Nat) (f : Mya → Mya) : (modMya s n f).units = s.units := rfl
@[simp] theorem modMya_fwVersion (s : State) (n : Nat) (f : Mya → Mya) : (modMya s n f).fwVersion = s.fwVersion := rfl
@[simp] theorem modMya_moduleId (s : State) (n : Nat) (f : Mya → Mya) : (modMya s n f).moduleId = s.moduleId := rfl
@[simp] theorem modMya_staged (s : State) (n : Nat) (f : Mya → Mya) : (modMya s n f).staged = s.staged := rfl
@[simp] theorem modMya_sem (s : State) (n : Nat) (f : Mya → Mya) : (modMya s n f).sem = s.sem := rfl
@[simp] theorem modMya_fold (s : State) (n : Nat) (f : Mya → Mya) : (modMya s n f).fold = s.fold := rfl
@[simp] theorem modMya_mgmt (s : State) (n : Nat) (f : Mya → Mya) : (modMya s n f).mgmt = s.mgmt := rfl
@[simp] theorem modMya_mgmtOut (s : State) (n : Nat) (f : Mya → Mya) : (modMya s n f).mgmtOut = s.mgmtOut := rfl
@[simp] theorem modMya_nal (s : State) (n : Nat) (f : Mya → Mya) : (modMya s n f).nal = s.nal := rfl
@[simp] theorem modMya_rings (s : State) (n : Nat) (f : Mya → Mya) : (modMya s n f).rings = s.rings := rfl
@[simp] theorem modMya_errRings (s : State) (n : Nat) (f : Mya → Mya) : (modMya s n f).errRings = s.errRings := rfl
@[simp] theorem modMya_sent (s : State) (n : Nat) (f : Mya → Mya) : (modMya s n f).sent = s.sent := rfl
@[simp] theorem modMya_received (s : State) (n : Nat) (f : Mya → Mya) : (modMya s n f).received = s.received := rfl
@[simp] theorem modMya_held (s : State) (n : Nat) (f : Mya → Mya) : (modMya s n f).held = s.held := rfl
@[simp] theorem modMya_bars (s : State) (n : Nat) (f : Mya → Mya) : (modMya s n f).bars = s.bars := rfl
@[simp] theorem modMya_parts (s : State) (n : Nat) (f : Mya → Mya) : (modMya s n f).parts = s.parts := rfl
@[simp] theorem modMya_cores (s : State) (n : Nat) (f : Mya → Mya) : (modMya s n f).cores = s.cores := rfl
@[simp] theorem modMya_slices (s : State) (n : Nat) (f : Mya → Mya) : (modMya s n f).slices = s.slices := rfl
@[simp] theorem modMya_baskets (s : State) (n : Nat) (f : Mya → Mya) : (modMya s n f).baskets = s.baskets := rfl
@[simp] theorem modMya_hamper (s : State) (n : Nat) (f : Mya → Mya) : (modMya s n f).hamper = s.hamper := rfl
@[simp] theorem modMya_stack (s : State) (n : Nat) (f : Mya → Mya) : (modMya s n f).stack = s.stack := rfl
@[simp] theorem modMya_deferred (s : State) (n : Nat) (f : Mya → Mya) : (modMya s n f).deferred = s.deferred := rfl
@[simp] theorem modMya_ecc (s : State) (n : Nat) (f : Mya → Mya) : (modMya s n f).ecc = s.ecc := rfl
@[simp] theorem modMya_scrub (s : State) (n : Nat) (f : Mya → Mya) : (modMya s n f).scrub = s.scrub := rfl
@[simp] theorem modMya_ecct (s : State) (n : Nat) (f : Mya → Mya) : (modMya s n f).ecct = s.ecct := rfl
@[simp] theorem modMya_stk (s : State) (n : Nat) (f : Mya → Mya) : (modMya s n f).stk = s.stk := rfl
@[simp] theorem modMya_banks (s : State) (n : Nat) (f : Mya → Mya) : (modMya s n f).banks = s.banks := rfl
@[simp] theorem modMya_nbus (s : State) (n : Nat) (f : Mya → Mya) : (modMya s n f).nbus = s.nbus := rfl
@[simp] theorem modMya_kv (s : State) (n : Nat) (f : Mya → Mya) : (modMya s n f).kv = s.kv := rfl
@[simp] theorem modMya_kvFull (s : State) (n : Nat) (f : Mya → Mya) : (modMya s n f).kvFull = s.kvFull := rfl
@[simp] theorem modMya_appends (s : State) (n : Nat) (f : Mya → Mya) : (modMya s n f).appends = s.appends := rfl
@[simp] theorem modMya_decodes (s : State) (n : Nat) (f : Mya → Mya) : (modMya s n f).decodes = s.decodes := rfl
@[simp] theorem modMya_invokes (s : State) (n : Nat) (f : Mya → Mya) : (modMya s n f).invokes = s.invokes := rfl
@[simp] theorem modMya_commits (s : State) (n : Nat) (f : Mya → Mya) : (modMya s n f).commits = s.commits := rfl
@[simp] theorem modMya_kvJobs (s : State) (n : Nat) (f : Mya → Mya) : (modMya s n f).kvJobs = s.kvJobs := rfl
@[simp] theorem modMya_repairs (s : State) (n : Nat) (f : Mya → Mya) : (modMya s n f).repairs = s.repairs := rfl
@[simp] theorem modMya_hemOut (s : State) (n : Nat) (f : Mya → Mya) : (modMya s n f).hemOut = s.hemOut := rfl
@[simp] theorem modMya_xfers (s : State) (n : Nat) (f : Mya → Mya) : (modMya s n f).xfers = s.xfers := rfl
@[simp] theorem modMya_nextXfer (s : State) (n : Nat) (f : Mya → Mya) : (modMya s n f).nextXfer = s.nextXfer := rfl
@[simp] theorem modMya_fetches (s : State) (n : Nat) (f : Mya → Mya) : (modMya s n f).fetches = s.fetches := rfl
@[simp] theorem modMya_mesh (s : State) (n : Nat) (f : Mya → Mya) : (modMya s n f).mesh = s.mesh := rfl
@[simp] theorem modMya_crossings (s : State) (n : Nat) (f : Mya → Mya) : (modMya s n f).crossings = s.crossings := rfl
@[simp] theorem modMya_sparings (s : State) (n : Nat) (f : Mya → Mya) : (modMya s n f).sparings = s.sparings := rfl
@[simp] theorem modMya_power (s : State) (n : Nat) (f : Mya → Mya) : (modMya s n f).power = s.power := rfl
@[simp] theorem modMya_therm (s : State) (n : Nat) (f : Mya → Mya) : (modMya s n f).therm = s.therm := rfl
@[simp] theorem modMya_hup (s : State) (n : Nat) (f : Mya → Mya) : (modMya s n f).hup = s.hup := rfl
@[simp] theorem modMya_rot (s : State) (n : Nat) (f : Mya → Mya) : (modMya s n f).rot = s.rot := rfl
@[simp] theorem modMya_darn (s : State) (n : Nat) (f : Mya → Mya) : (modMya s n f).darn = s.darn := rfl
@[simp] theorem modMya_hemReset (s : State) (n : Nat) (f : Mya → Mya) : (modMya s n f).hemReset = s.hemReset := rfl
@[simp] theorem modMya_devReset (s : State) (n : Nat) (f : Mya → Mya) : (modMya s n f).devReset = s.devReset := rfl
@[simp] theorem modMya_fwUpdate (s : State) (n : Nat) (f : Mya → Mya) : (modMya s n f).fwUpdate = s.fwUpdate := rfl
@[simp] theorem modMya_oscLost (s : State) (n : Nat) (f : Mya → Mya) : (modMya s n f).oscLost = s.oscLost := rfl
@[simp] theorem modMya_pllLost (s : State) (n : Nat) (f : Mya → Mya) : (modMya s n f).pllLost = s.pllLost := rfl
@[simp] theorem modMya_free (s : State) (n : Nat) (f : Mya → Mya) : (modMya s n f).free = s.free := rfl
@[simp] theorem modMya_pending (s : State) (n : Nat) (f : Mya → Mya) : (modMya s n f).pending = s.pending := rfl
@[simp] theorem partAt_modMya (s : State) (n : Nat) (f : Mya → Mya) (k : Nat) : partAt (modMya s n f) k = partAt s k := rfl
@[simp] theorem coreAt_modMya (s : State) (n : Nat) (f : Mya → Mya) (k : Nat) : coreAt (modMya s n f) k = coreAt s k := rfl
@[simp] theorem nalAt_modMya (s : State) (n : Nat) (f : Mya → Mya) (k : NPort) : nalAt (modMya s n f) k = nalAt s k := rfl
@[simp] theorem ringAt_modMya (s : State) (n : Nat) (f : Mya → Mya) (k : NPort) (j : RingId) : ringAt (modMya s n f) k j = ringAt s k j := rfl
@[simp] theorem errAt_modMya (s : State) (n : Nat) (f : Mya → Mya) (k : NPort) : errAt (modMya s n f) k = errAt s k := rfl
@[simp] theorem nbuAt_modMya (s : State) (n : Nat) (f : Mya → Mya) (k : Nat) : nbuAt (modMya s n f) k = nbuAt s k := rfl
@[simp] theorem barAt_modMya (s : State) (n : Nat) (f : Mya → Mya) (k : Nat) : barAt (modMya s n f) k = barAt s k := rfl
@[simp] theorem stkAt_modMya (s : State) (n : Nat) (f : Mya → Mya) (k : Nat) : stkAt (modMya s n f) k = stkAt s k := rfl
@[simp] theorem myaAt_modMya_same (s : State) (n : Nat) (f : Mya → Mya) : myaAt (modMya s n f) n = f (myaAt s n) := tget_tmod_same _ _ _
@[simp] theorem myaAt_modMya_ne (s : State) (n : Nat) (f : Mya → Mya) {k : Nat} (h : k ≠ n) : myaAt (modMya s n f) k = myaAt s k := tget_tmod_ne _ _ h

/-! modRing -/

@[simp] theorem modRing_variant (s : State) (p : NPort) (r : RingId) (f : Ring → Ring) : (modRing s p r f).variant = s.variant := rfl
@[simp] theorem modRing_aon (s : State) (p : NPort) (r : RingId) (f : Ring → Ring) : (modRing s p r f).aon = s.aon := rfl
@[simp] theorem modRing_time (s : State) (p : NPort) (r : RingId) (f : Ring → Ring) : (modRing s p r f).time = s.time := rfl
@[simp] theorem modRing_frames (s : State) (p : NPort) (r : RingId) (f : Ring → Ring) : (modRing s p r f).frames = s.frames := rfl
@[simp] theorem modRing_pins (s : State) (p : NPort) (r : RingId) (f : Ring → Ring) : (modRing s p r f).pins = s.pins := rfl
@[simp] theorem modRing_boot (s : State) (p : NPort) (r : RingId) (f : Ring → Ring) : (modRing s p r f).boot = s.boot := rfl
@[simp] theorem modRing_units (s : State) (p : NPort) (r : RingId) (f : Ring → Ring) : (modRing s p r f).units = s.units := rfl
@[simp] theorem modRing_fwVersion (s : State) (p : NPort) (r : RingId) (f : Ring → Ring) : (modRing s p r f).fwVersion = s.fwVersion := rfl
@[simp] theorem modRing_moduleId (s : State) (p : NPort) (r : RingId) (f : Ring → Ring) : (modRing s p r f).moduleId = s.moduleId := rfl
@[simp] theorem modRing_staged (s : State) (p : NPort) (r : RingId) (f : Ring → Ring) : (modRing s p r f).staged = s.staged := rfl
@[simp] theorem modRing_sem (s : State) (p : NPort) (r : RingId) (f : Ring → Ring) : (modRing s p r f).sem = s.sem := rfl
@[simp] theorem modRing_fold (s : State) (p : NPort) (r : RingId) (f : Ring → Ring) : (modRing s p r f).fold = s.fold := rfl
@[simp] theorem modRing_mgmt (s : State) (p : NPort) (r : RingId) (f : Ring → Ring) : (modRing s p r f).mgmt = s.mgmt := rfl
@[simp] theorem modRing_mgmtOut (s : State) (p : NPort) (r : RingId) (f : Ring → Ring) : (modRing s p r f).mgmtOut = s.mgmtOut := rfl
@[simp] theorem modRing_nal (s : State) (p : NPort) (r : RingId) (f : Ring → Ring) : (modRing s p r f).nal = s.nal := rfl
@[simp] theorem modRing_errRings (s : State) (p : NPort) (r : RingId) (f : Ring → Ring) : (modRing s p r f).errRings = s.errRings := rfl
@[simp] theorem modRing_mya (s : State) (p : NPort) (r : RingId) (f : Ring → Ring) : (modRing s p r f).mya = s.mya := rfl
@[simp] theorem modRing_sent (s : State) (p : NPort) (r : RingId) (f : Ring → Ring) : (modRing s p r f).sent = s.sent := rfl
@[simp] theorem modRing_received (s : State) (p : NPort) (r : RingId) (f : Ring → Ring) : (modRing s p r f).received = s.received := rfl
@[simp] theorem modRing_held (s : State) (p : NPort) (r : RingId) (f : Ring → Ring) : (modRing s p r f).held = s.held := rfl
@[simp] theorem modRing_bars (s : State) (p : NPort) (r : RingId) (f : Ring → Ring) : (modRing s p r f).bars = s.bars := rfl
@[simp] theorem modRing_parts (s : State) (p : NPort) (r : RingId) (f : Ring → Ring) : (modRing s p r f).parts = s.parts := rfl
@[simp] theorem modRing_cores (s : State) (p : NPort) (r : RingId) (f : Ring → Ring) : (modRing s p r f).cores = s.cores := rfl
@[simp] theorem modRing_slices (s : State) (p : NPort) (r : RingId) (f : Ring → Ring) : (modRing s p r f).slices = s.slices := rfl
@[simp] theorem modRing_baskets (s : State) (p : NPort) (r : RingId) (f : Ring → Ring) : (modRing s p r f).baskets = s.baskets := rfl
@[simp] theorem modRing_hamper (s : State) (p : NPort) (r : RingId) (f : Ring → Ring) : (modRing s p r f).hamper = s.hamper := rfl
@[simp] theorem modRing_stack (s : State) (p : NPort) (r : RingId) (f : Ring → Ring) : (modRing s p r f).stack = s.stack := rfl
@[simp] theorem modRing_deferred (s : State) (p : NPort) (r : RingId) (f : Ring → Ring) : (modRing s p r f).deferred = s.deferred := rfl
@[simp] theorem modRing_ecc (s : State) (p : NPort) (r : RingId) (f : Ring → Ring) : (modRing s p r f).ecc = s.ecc := rfl
@[simp] theorem modRing_scrub (s : State) (p : NPort) (r : RingId) (f : Ring → Ring) : (modRing s p r f).scrub = s.scrub := rfl
@[simp] theorem modRing_ecct (s : State) (p : NPort) (r : RingId) (f : Ring → Ring) : (modRing s p r f).ecct = s.ecct := rfl
@[simp] theorem modRing_stk (s : State) (p : NPort) (r : RingId) (f : Ring → Ring) : (modRing s p r f).stk = s.stk := rfl
@[simp] theorem modRing_banks (s : State) (p : NPort) (r : RingId) (f : Ring → Ring) : (modRing s p r f).banks = s.banks := rfl
@[simp] theorem modRing_nbus (s : State) (p : NPort) (r : RingId) (f : Ring → Ring) : (modRing s p r f).nbus = s.nbus := rfl
@[simp] theorem modRing_kv (s : State) (p : NPort) (r : RingId) (f : Ring → Ring) : (modRing s p r f).kv = s.kv := rfl
@[simp] theorem modRing_kvFull (s : State) (p : NPort) (r : RingId) (f : Ring → Ring) : (modRing s p r f).kvFull = s.kvFull := rfl
@[simp] theorem modRing_appends (s : State) (p : NPort) (r : RingId) (f : Ring → Ring) : (modRing s p r f).appends = s.appends := rfl
@[simp] theorem modRing_decodes (s : State) (p : NPort) (r : RingId) (f : Ring → Ring) : (modRing s p r f).decodes = s.decodes := rfl
@[simp] theorem modRing_invokes (s : State) (p : NPort) (r : RingId) (f : Ring → Ring) : (modRing s p r f).invokes = s.invokes := rfl
@[simp] theorem modRing_commits (s : State) (p : NPort) (r : RingId) (f : Ring → Ring) : (modRing s p r f).commits = s.commits := rfl
@[simp] theorem modRing_kvJobs (s : State) (p : NPort) (r : RingId) (f : Ring → Ring) : (modRing s p r f).kvJobs = s.kvJobs := rfl
@[simp] theorem modRing_repairs (s : State) (p : NPort) (r : RingId) (f : Ring → Ring) : (modRing s p r f).repairs = s.repairs := rfl
@[simp] theorem modRing_hemOut (s : State) (p : NPort) (r : RingId) (f : Ring → Ring) : (modRing s p r f).hemOut = s.hemOut := rfl
@[simp] theorem modRing_xfers (s : State) (p : NPort) (r : RingId) (f : Ring → Ring) : (modRing s p r f).xfers = s.xfers := rfl
@[simp] theorem modRing_nextXfer (s : State) (p : NPort) (r : RingId) (f : Ring → Ring) : (modRing s p r f).nextXfer = s.nextXfer := rfl
@[simp] theorem modRing_fetches (s : State) (p : NPort) (r : RingId) (f : Ring → Ring) : (modRing s p r f).fetches = s.fetches := rfl
@[simp] theorem modRing_mesh (s : State) (p : NPort) (r : RingId) (f : Ring → Ring) : (modRing s p r f).mesh = s.mesh := rfl
@[simp] theorem modRing_crossings (s : State) (p : NPort) (r : RingId) (f : Ring → Ring) : (modRing s p r f).crossings = s.crossings := rfl
@[simp] theorem modRing_sparings (s : State) (p : NPort) (r : RingId) (f : Ring → Ring) : (modRing s p r f).sparings = s.sparings := rfl
@[simp] theorem modRing_power (s : State) (p : NPort) (r : RingId) (f : Ring → Ring) : (modRing s p r f).power = s.power := rfl
@[simp] theorem modRing_therm (s : State) (p : NPort) (r : RingId) (f : Ring → Ring) : (modRing s p r f).therm = s.therm := rfl
@[simp] theorem modRing_hup (s : State) (p : NPort) (r : RingId) (f : Ring → Ring) : (modRing s p r f).hup = s.hup := rfl
@[simp] theorem modRing_rot (s : State) (p : NPort) (r : RingId) (f : Ring → Ring) : (modRing s p r f).rot = s.rot := rfl
@[simp] theorem modRing_darn (s : State) (p : NPort) (r : RingId) (f : Ring → Ring) : (modRing s p r f).darn = s.darn := rfl
@[simp] theorem modRing_hemReset (s : State) (p : NPort) (r : RingId) (f : Ring → Ring) : (modRing s p r f).hemReset = s.hemReset := rfl
@[simp] theorem modRing_devReset (s : State) (p : NPort) (r : RingId) (f : Ring → Ring) : (modRing s p r f).devReset = s.devReset := rfl
@[simp] theorem modRing_fwUpdate (s : State) (p : NPort) (r : RingId) (f : Ring → Ring) : (modRing s p r f).fwUpdate = s.fwUpdate := rfl
@[simp] theorem modRing_oscLost (s : State) (p : NPort) (r : RingId) (f : Ring → Ring) : (modRing s p r f).oscLost = s.oscLost := rfl
@[simp] theorem modRing_pllLost (s : State) (p : NPort) (r : RingId) (f : Ring → Ring) : (modRing s p r f).pllLost = s.pllLost := rfl
@[simp] theorem modRing_free (s : State) (p : NPort) (r : RingId) (f : Ring → Ring) : (modRing s p r f).free = s.free := rfl
@[simp] theorem modRing_pending (s : State) (p : NPort) (r : RingId) (f : Ring → Ring) : (modRing s p r f).pending = s.pending := rfl
@[simp] theorem partAt_modRing (s : State) (p : NPort) (r : RingId) (f : Ring → Ring) (k : Nat) : partAt (modRing s p r f) k = partAt s k := rfl
@[simp] theorem coreAt_modRing (s : State) (p : NPort) (r : RingId) (f : Ring → Ring) (k : Nat) : coreAt (modRing s p r f) k = coreAt s k := rfl
@[simp] theorem nalAt_modRing (s : State) (p : NPort) (r : RingId) (f : Ring → Ring) (k : NPort) : nalAt (modRing s p r f) k = nalAt s k := rfl
@[simp] theorem myaAt_modRing (s : State) (p : NPort) (r : RingId) (f : Ring → Ring) (k : Nat) : myaAt (modRing s p r f) k = myaAt s k := rfl
@[simp] theorem errAt_modRing (s : State) (p : NPort) (r : RingId) (f : Ring → Ring) (k : NPort) : errAt (modRing s p r f) k = errAt s k := rfl
@[simp] theorem nbuAt_modRing (s : State) (p : NPort) (r : RingId) (f : Ring → Ring) (k : Nat) : nbuAt (modRing s p r f) k = nbuAt s k := rfl
@[simp] theorem barAt_modRing (s : State) (p : NPort) (r : RingId) (f : Ring → Ring) (k : Nat) : barAt (modRing s p r f) k = barAt s k := rfl
@[simp] theorem stkAt_modRing (s : State) (p : NPort) (r : RingId) (f : Ring → Ring) (k : Nat) : stkAt (modRing s p r f) k = stkAt s k := rfl
@[simp] theorem ringAt_modRing_same (s : State) (p : NPort) (r : RingId) (f : Ring → Ring) :
    ringAt (modRing s p r f) p r = f (ringAt s p r) := tget_tmod_same _ _ _
theorem ringAt_modRing_ne (s : State) (p : NPort) (r : RingId) (f : Ring → Ring) {q : NPort} {j : RingId}
    (h : q ≠ p ∨ j ≠ r) : ringAt (modRing s p r f) q j = ringAt s q j := by
  refine tget_tmod_ne _ _ fun e => ?_
  have h1 := r.isLt
  have h2 := j.isLt
  have hq : q = p := Fin.ext (by omega)
  have hj : j = r := Fin.ext (by omega)
  rcases h with h | h
  · exact h hq
  · exact h hj

/-! modErr -/

@[simp] theorem modErr_variant (s : State) (p : NPort) (f : ErrRing → ErrRing) : (modErr s p f).variant = s.variant := rfl
@[simp] theorem modErr_aon (s : State) (p : NPort) (f : ErrRing → ErrRing) : (modErr s p f).aon = s.aon := rfl
@[simp] theorem modErr_time (s : State) (p : NPort) (f : ErrRing → ErrRing) : (modErr s p f).time = s.time := rfl
@[simp] theorem modErr_frames (s : State) (p : NPort) (f : ErrRing → ErrRing) : (modErr s p f).frames = s.frames := rfl
@[simp] theorem modErr_pins (s : State) (p : NPort) (f : ErrRing → ErrRing) : (modErr s p f).pins = s.pins := rfl
@[simp] theorem modErr_boot (s : State) (p : NPort) (f : ErrRing → ErrRing) : (modErr s p f).boot = s.boot := rfl
@[simp] theorem modErr_units (s : State) (p : NPort) (f : ErrRing → ErrRing) : (modErr s p f).units = s.units := rfl
@[simp] theorem modErr_fwVersion (s : State) (p : NPort) (f : ErrRing → ErrRing) : (modErr s p f).fwVersion = s.fwVersion := rfl
@[simp] theorem modErr_moduleId (s : State) (p : NPort) (f : ErrRing → ErrRing) : (modErr s p f).moduleId = s.moduleId := rfl
@[simp] theorem modErr_staged (s : State) (p : NPort) (f : ErrRing → ErrRing) : (modErr s p f).staged = s.staged := rfl
@[simp] theorem modErr_sem (s : State) (p : NPort) (f : ErrRing → ErrRing) : (modErr s p f).sem = s.sem := rfl
@[simp] theorem modErr_fold (s : State) (p : NPort) (f : ErrRing → ErrRing) : (modErr s p f).fold = s.fold := rfl
@[simp] theorem modErr_mgmt (s : State) (p : NPort) (f : ErrRing → ErrRing) : (modErr s p f).mgmt = s.mgmt := rfl
@[simp] theorem modErr_mgmtOut (s : State) (p : NPort) (f : ErrRing → ErrRing) : (modErr s p f).mgmtOut = s.mgmtOut := rfl
@[simp] theorem modErr_nal (s : State) (p : NPort) (f : ErrRing → ErrRing) : (modErr s p f).nal = s.nal := rfl
@[simp] theorem modErr_rings (s : State) (p : NPort) (f : ErrRing → ErrRing) : (modErr s p f).rings = s.rings := rfl
@[simp] theorem modErr_mya (s : State) (p : NPort) (f : ErrRing → ErrRing) : (modErr s p f).mya = s.mya := rfl
@[simp] theorem modErr_sent (s : State) (p : NPort) (f : ErrRing → ErrRing) : (modErr s p f).sent = s.sent := rfl
@[simp] theorem modErr_received (s : State) (p : NPort) (f : ErrRing → ErrRing) : (modErr s p f).received = s.received := rfl
@[simp] theorem modErr_held (s : State) (p : NPort) (f : ErrRing → ErrRing) : (modErr s p f).held = s.held := rfl
@[simp] theorem modErr_bars (s : State) (p : NPort) (f : ErrRing → ErrRing) : (modErr s p f).bars = s.bars := rfl
@[simp] theorem modErr_parts (s : State) (p : NPort) (f : ErrRing → ErrRing) : (modErr s p f).parts = s.parts := rfl
@[simp] theorem modErr_cores (s : State) (p : NPort) (f : ErrRing → ErrRing) : (modErr s p f).cores = s.cores := rfl
@[simp] theorem modErr_slices (s : State) (p : NPort) (f : ErrRing → ErrRing) : (modErr s p f).slices = s.slices := rfl
@[simp] theorem modErr_baskets (s : State) (p : NPort) (f : ErrRing → ErrRing) : (modErr s p f).baskets = s.baskets := rfl
@[simp] theorem modErr_hamper (s : State) (p : NPort) (f : ErrRing → ErrRing) : (modErr s p f).hamper = s.hamper := rfl
@[simp] theorem modErr_stack (s : State) (p : NPort) (f : ErrRing → ErrRing) : (modErr s p f).stack = s.stack := rfl
@[simp] theorem modErr_deferred (s : State) (p : NPort) (f : ErrRing → ErrRing) : (modErr s p f).deferred = s.deferred := rfl
@[simp] theorem modErr_ecc (s : State) (p : NPort) (f : ErrRing → ErrRing) : (modErr s p f).ecc = s.ecc := rfl
@[simp] theorem modErr_scrub (s : State) (p : NPort) (f : ErrRing → ErrRing) : (modErr s p f).scrub = s.scrub := rfl
@[simp] theorem modErr_ecct (s : State) (p : NPort) (f : ErrRing → ErrRing) : (modErr s p f).ecct = s.ecct := rfl
@[simp] theorem modErr_stk (s : State) (p : NPort) (f : ErrRing → ErrRing) : (modErr s p f).stk = s.stk := rfl
@[simp] theorem modErr_banks (s : State) (p : NPort) (f : ErrRing → ErrRing) : (modErr s p f).banks = s.banks := rfl
@[simp] theorem modErr_nbus (s : State) (p : NPort) (f : ErrRing → ErrRing) : (modErr s p f).nbus = s.nbus := rfl
@[simp] theorem modErr_kv (s : State) (p : NPort) (f : ErrRing → ErrRing) : (modErr s p f).kv = s.kv := rfl
@[simp] theorem modErr_kvFull (s : State) (p : NPort) (f : ErrRing → ErrRing) : (modErr s p f).kvFull = s.kvFull := rfl
@[simp] theorem modErr_appends (s : State) (p : NPort) (f : ErrRing → ErrRing) : (modErr s p f).appends = s.appends := rfl
@[simp] theorem modErr_decodes (s : State) (p : NPort) (f : ErrRing → ErrRing) : (modErr s p f).decodes = s.decodes := rfl
@[simp] theorem modErr_invokes (s : State) (p : NPort) (f : ErrRing → ErrRing) : (modErr s p f).invokes = s.invokes := rfl
@[simp] theorem modErr_commits (s : State) (p : NPort) (f : ErrRing → ErrRing) : (modErr s p f).commits = s.commits := rfl
@[simp] theorem modErr_kvJobs (s : State) (p : NPort) (f : ErrRing → ErrRing) : (modErr s p f).kvJobs = s.kvJobs := rfl
@[simp] theorem modErr_repairs (s : State) (p : NPort) (f : ErrRing → ErrRing) : (modErr s p f).repairs = s.repairs := rfl
@[simp] theorem modErr_hemOut (s : State) (p : NPort) (f : ErrRing → ErrRing) : (modErr s p f).hemOut = s.hemOut := rfl
@[simp] theorem modErr_xfers (s : State) (p : NPort) (f : ErrRing → ErrRing) : (modErr s p f).xfers = s.xfers := rfl
@[simp] theorem modErr_nextXfer (s : State) (p : NPort) (f : ErrRing → ErrRing) : (modErr s p f).nextXfer = s.nextXfer := rfl
@[simp] theorem modErr_fetches (s : State) (p : NPort) (f : ErrRing → ErrRing) : (modErr s p f).fetches = s.fetches := rfl
@[simp] theorem modErr_mesh (s : State) (p : NPort) (f : ErrRing → ErrRing) : (modErr s p f).mesh = s.mesh := rfl
@[simp] theorem modErr_crossings (s : State) (p : NPort) (f : ErrRing → ErrRing) : (modErr s p f).crossings = s.crossings := rfl
@[simp] theorem modErr_sparings (s : State) (p : NPort) (f : ErrRing → ErrRing) : (modErr s p f).sparings = s.sparings := rfl
@[simp] theorem modErr_power (s : State) (p : NPort) (f : ErrRing → ErrRing) : (modErr s p f).power = s.power := rfl
@[simp] theorem modErr_therm (s : State) (p : NPort) (f : ErrRing → ErrRing) : (modErr s p f).therm = s.therm := rfl
@[simp] theorem modErr_hup (s : State) (p : NPort) (f : ErrRing → ErrRing) : (modErr s p f).hup = s.hup := rfl
@[simp] theorem modErr_rot (s : State) (p : NPort) (f : ErrRing → ErrRing) : (modErr s p f).rot = s.rot := rfl
@[simp] theorem modErr_darn (s : State) (p : NPort) (f : ErrRing → ErrRing) : (modErr s p f).darn = s.darn := rfl
@[simp] theorem modErr_hemReset (s : State) (p : NPort) (f : ErrRing → ErrRing) : (modErr s p f).hemReset = s.hemReset := rfl
@[simp] theorem modErr_devReset (s : State) (p : NPort) (f : ErrRing → ErrRing) : (modErr s p f).devReset = s.devReset := rfl
@[simp] theorem modErr_fwUpdate (s : State) (p : NPort) (f : ErrRing → ErrRing) : (modErr s p f).fwUpdate = s.fwUpdate := rfl
@[simp] theorem modErr_oscLost (s : State) (p : NPort) (f : ErrRing → ErrRing) : (modErr s p f).oscLost = s.oscLost := rfl
@[simp] theorem modErr_pllLost (s : State) (p : NPort) (f : ErrRing → ErrRing) : (modErr s p f).pllLost = s.pllLost := rfl
@[simp] theorem modErr_free (s : State) (p : NPort) (f : ErrRing → ErrRing) : (modErr s p f).free = s.free := rfl
@[simp] theorem modErr_pending (s : State) (p : NPort) (f : ErrRing → ErrRing) : (modErr s p f).pending = s.pending := rfl
@[simp] theorem partAt_modErr (s : State) (p : NPort) (f : ErrRing → ErrRing) (k : Nat) : partAt (modErr s p f) k = partAt s k := rfl
@[simp] theorem coreAt_modErr (s : State) (p : NPort) (f : ErrRing → ErrRing) (k : Nat) : coreAt (modErr s p f) k = coreAt s k := rfl
@[simp] theorem nalAt_modErr (s : State) (p : NPort) (f : ErrRing → ErrRing) (k : NPort) : nalAt (modErr s p f) k = nalAt s k := rfl
@[simp] theorem myaAt_modErr (s : State) (p : NPort) (f : ErrRing → ErrRing) (k : Nat) : myaAt (modErr s p f) k = myaAt s k := rfl
@[simp] theorem ringAt_modErr (s : State) (p : NPort) (f : ErrRing → ErrRing) (k : NPort) (j : RingId) : ringAt (modErr s p f) k j = ringAt s k j := rfl
@[simp] theorem nbuAt_modErr (s : State) (p : NPort) (f : ErrRing → ErrRing) (k : Nat) : nbuAt (modErr s p f) k = nbuAt s k := rfl
@[simp] theorem barAt_modErr (s : State) (p : NPort) (f : ErrRing → ErrRing) (k : Nat) : barAt (modErr s p f) k = barAt s k := rfl
@[simp] theorem stkAt_modErr (s : State) (p : NPort) (f : ErrRing → ErrRing) (k : Nat) : stkAt (modErr s p f) k = stkAt s k := rfl
@[simp] theorem errAt_modErr_same (s : State) (p : NPort) (f : ErrRing → ErrRing) : errAt (modErr s p f) p = f (errAt s p) := tget_tmod_same _ _ _
@[simp] theorem errAt_modErr_ne (s : State) (p : NPort) (f : ErrRing → ErrRing) {k : NPort} (h : k ≠ p) : errAt (modErr s p f) k = errAt s k :=
  tget_tmod_ne _ _ (fun e => h (Fin.ext e))

/-! modNbu -/

@[simp] theorem modNbu_variant (s : State) (n : Nat) (f : Nbu → Nbu) : (modNbu s n f).variant = s.variant := rfl
@[simp] theorem modNbu_aon (s : State) (n : Nat) (f : Nbu → Nbu) : (modNbu s n f).aon = s.aon := rfl
@[simp] theorem modNbu_time (s : State) (n : Nat) (f : Nbu → Nbu) : (modNbu s n f).time = s.time := rfl
@[simp] theorem modNbu_frames (s : State) (n : Nat) (f : Nbu → Nbu) : (modNbu s n f).frames = s.frames := rfl
@[simp] theorem modNbu_pins (s : State) (n : Nat) (f : Nbu → Nbu) : (modNbu s n f).pins = s.pins := rfl
@[simp] theorem modNbu_boot (s : State) (n : Nat) (f : Nbu → Nbu) : (modNbu s n f).boot = s.boot := rfl
@[simp] theorem modNbu_units (s : State) (n : Nat) (f : Nbu → Nbu) : (modNbu s n f).units = s.units := rfl
@[simp] theorem modNbu_fwVersion (s : State) (n : Nat) (f : Nbu → Nbu) : (modNbu s n f).fwVersion = s.fwVersion := rfl
@[simp] theorem modNbu_moduleId (s : State) (n : Nat) (f : Nbu → Nbu) : (modNbu s n f).moduleId = s.moduleId := rfl
@[simp] theorem modNbu_staged (s : State) (n : Nat) (f : Nbu → Nbu) : (modNbu s n f).staged = s.staged := rfl
@[simp] theorem modNbu_sem (s : State) (n : Nat) (f : Nbu → Nbu) : (modNbu s n f).sem = s.sem := rfl
@[simp] theorem modNbu_fold (s : State) (n : Nat) (f : Nbu → Nbu) : (modNbu s n f).fold = s.fold := rfl
@[simp] theorem modNbu_mgmt (s : State) (n : Nat) (f : Nbu → Nbu) : (modNbu s n f).mgmt = s.mgmt := rfl
@[simp] theorem modNbu_mgmtOut (s : State) (n : Nat) (f : Nbu → Nbu) : (modNbu s n f).mgmtOut = s.mgmtOut := rfl
@[simp] theorem modNbu_nal (s : State) (n : Nat) (f : Nbu → Nbu) : (modNbu s n f).nal = s.nal := rfl
@[simp] theorem modNbu_rings (s : State) (n : Nat) (f : Nbu → Nbu) : (modNbu s n f).rings = s.rings := rfl
@[simp] theorem modNbu_errRings (s : State) (n : Nat) (f : Nbu → Nbu) : (modNbu s n f).errRings = s.errRings := rfl
@[simp] theorem modNbu_mya (s : State) (n : Nat) (f : Nbu → Nbu) : (modNbu s n f).mya = s.mya := rfl
@[simp] theorem modNbu_sent (s : State) (n : Nat) (f : Nbu → Nbu) : (modNbu s n f).sent = s.sent := rfl
@[simp] theorem modNbu_received (s : State) (n : Nat) (f : Nbu → Nbu) : (modNbu s n f).received = s.received := rfl
@[simp] theorem modNbu_held (s : State) (n : Nat) (f : Nbu → Nbu) : (modNbu s n f).held = s.held := rfl
@[simp] theorem modNbu_bars (s : State) (n : Nat) (f : Nbu → Nbu) : (modNbu s n f).bars = s.bars := rfl
@[simp] theorem modNbu_parts (s : State) (n : Nat) (f : Nbu → Nbu) : (modNbu s n f).parts = s.parts := rfl
@[simp] theorem modNbu_cores (s : State) (n : Nat) (f : Nbu → Nbu) : (modNbu s n f).cores = s.cores := rfl
@[simp] theorem modNbu_slices (s : State) (n : Nat) (f : Nbu → Nbu) : (modNbu s n f).slices = s.slices := rfl
@[simp] theorem modNbu_baskets (s : State) (n : Nat) (f : Nbu → Nbu) : (modNbu s n f).baskets = s.baskets := rfl
@[simp] theorem modNbu_hamper (s : State) (n : Nat) (f : Nbu → Nbu) : (modNbu s n f).hamper = s.hamper := rfl
@[simp] theorem modNbu_stack (s : State) (n : Nat) (f : Nbu → Nbu) : (modNbu s n f).stack = s.stack := rfl
@[simp] theorem modNbu_deferred (s : State) (n : Nat) (f : Nbu → Nbu) : (modNbu s n f).deferred = s.deferred := rfl
@[simp] theorem modNbu_ecc (s : State) (n : Nat) (f : Nbu → Nbu) : (modNbu s n f).ecc = s.ecc := rfl
@[simp] theorem modNbu_scrub (s : State) (n : Nat) (f : Nbu → Nbu) : (modNbu s n f).scrub = s.scrub := rfl
@[simp] theorem modNbu_ecct (s : State) (n : Nat) (f : Nbu → Nbu) : (modNbu s n f).ecct = s.ecct := rfl
@[simp] theorem modNbu_stk (s : State) (n : Nat) (f : Nbu → Nbu) : (modNbu s n f).stk = s.stk := rfl
@[simp] theorem modNbu_banks (s : State) (n : Nat) (f : Nbu → Nbu) : (modNbu s n f).banks = s.banks := rfl
@[simp] theorem modNbu_kv (s : State) (n : Nat) (f : Nbu → Nbu) : (modNbu s n f).kv = s.kv := rfl
@[simp] theorem modNbu_kvFull (s : State) (n : Nat) (f : Nbu → Nbu) : (modNbu s n f).kvFull = s.kvFull := rfl
@[simp] theorem modNbu_appends (s : State) (n : Nat) (f : Nbu → Nbu) : (modNbu s n f).appends = s.appends := rfl
@[simp] theorem modNbu_decodes (s : State) (n : Nat) (f : Nbu → Nbu) : (modNbu s n f).decodes = s.decodes := rfl
@[simp] theorem modNbu_invokes (s : State) (n : Nat) (f : Nbu → Nbu) : (modNbu s n f).invokes = s.invokes := rfl
@[simp] theorem modNbu_commits (s : State) (n : Nat) (f : Nbu → Nbu) : (modNbu s n f).commits = s.commits := rfl
@[simp] theorem modNbu_kvJobs (s : State) (n : Nat) (f : Nbu → Nbu) : (modNbu s n f).kvJobs = s.kvJobs := rfl
@[simp] theorem modNbu_repairs (s : State) (n : Nat) (f : Nbu → Nbu) : (modNbu s n f).repairs = s.repairs := rfl
@[simp] theorem modNbu_hemOut (s : State) (n : Nat) (f : Nbu → Nbu) : (modNbu s n f).hemOut = s.hemOut := rfl
@[simp] theorem modNbu_xfers (s : State) (n : Nat) (f : Nbu → Nbu) : (modNbu s n f).xfers = s.xfers := rfl
@[simp] theorem modNbu_nextXfer (s : State) (n : Nat) (f : Nbu → Nbu) : (modNbu s n f).nextXfer = s.nextXfer := rfl
@[simp] theorem modNbu_fetches (s : State) (n : Nat) (f : Nbu → Nbu) : (modNbu s n f).fetches = s.fetches := rfl
@[simp] theorem modNbu_mesh (s : State) (n : Nat) (f : Nbu → Nbu) : (modNbu s n f).mesh = s.mesh := rfl
@[simp] theorem modNbu_crossings (s : State) (n : Nat) (f : Nbu → Nbu) : (modNbu s n f).crossings = s.crossings := rfl
@[simp] theorem modNbu_sparings (s : State) (n : Nat) (f : Nbu → Nbu) : (modNbu s n f).sparings = s.sparings := rfl
@[simp] theorem modNbu_power (s : State) (n : Nat) (f : Nbu → Nbu) : (modNbu s n f).power = s.power := rfl
@[simp] theorem modNbu_therm (s : State) (n : Nat) (f : Nbu → Nbu) : (modNbu s n f).therm = s.therm := rfl
@[simp] theorem modNbu_hup (s : State) (n : Nat) (f : Nbu → Nbu) : (modNbu s n f).hup = s.hup := rfl
@[simp] theorem modNbu_rot (s : State) (n : Nat) (f : Nbu → Nbu) : (modNbu s n f).rot = s.rot := rfl
@[simp] theorem modNbu_darn (s : State) (n : Nat) (f : Nbu → Nbu) : (modNbu s n f).darn = s.darn := rfl
@[simp] theorem modNbu_hemReset (s : State) (n : Nat) (f : Nbu → Nbu) : (modNbu s n f).hemReset = s.hemReset := rfl
@[simp] theorem modNbu_devReset (s : State) (n : Nat) (f : Nbu → Nbu) : (modNbu s n f).devReset = s.devReset := rfl
@[simp] theorem modNbu_fwUpdate (s : State) (n : Nat) (f : Nbu → Nbu) : (modNbu s n f).fwUpdate = s.fwUpdate := rfl
@[simp] theorem modNbu_oscLost (s : State) (n : Nat) (f : Nbu → Nbu) : (modNbu s n f).oscLost = s.oscLost := rfl
@[simp] theorem modNbu_pllLost (s : State) (n : Nat) (f : Nbu → Nbu) : (modNbu s n f).pllLost = s.pllLost := rfl
@[simp] theorem modNbu_free (s : State) (n : Nat) (f : Nbu → Nbu) : (modNbu s n f).free = s.free := rfl
@[simp] theorem modNbu_pending (s : State) (n : Nat) (f : Nbu → Nbu) : (modNbu s n f).pending = s.pending := rfl
@[simp] theorem partAt_modNbu (s : State) (n : Nat) (f : Nbu → Nbu) (k : Nat) : partAt (modNbu s n f) k = partAt s k := rfl
@[simp] theorem coreAt_modNbu (s : State) (n : Nat) (f : Nbu → Nbu) (k : Nat) : coreAt (modNbu s n f) k = coreAt s k := rfl
@[simp] theorem nalAt_modNbu (s : State) (n : Nat) (f : Nbu → Nbu) (k : NPort) : nalAt (modNbu s n f) k = nalAt s k := rfl
@[simp] theorem myaAt_modNbu (s : State) (n : Nat) (f : Nbu → Nbu) (k : Nat) : myaAt (modNbu s n f) k = myaAt s k := rfl
@[simp] theorem ringAt_modNbu (s : State) (n : Nat) (f : Nbu → Nbu) (k : NPort) (j : RingId) : ringAt (modNbu s n f) k j = ringAt s k j := rfl
@[simp] theorem errAt_modNbu (s : State) (n : Nat) (f : Nbu → Nbu) (k : NPort) : errAt (modNbu s n f) k = errAt s k := rfl
@[simp] theorem barAt_modNbu (s : State) (n : Nat) (f : Nbu → Nbu) (k : Nat) : barAt (modNbu s n f) k = barAt s k := rfl
@[simp] theorem stkAt_modNbu (s : State) (n : Nat) (f : Nbu → Nbu) (k : Nat) : stkAt (modNbu s n f) k = stkAt s k := rfl
@[simp] theorem nbuAt_modNbu_same (s : State) (n : Nat) (f : Nbu → Nbu) : nbuAt (modNbu s n f) n = f (nbuAt s n) := tget_tmod_same _ _ _
@[simp] theorem nbuAt_modNbu_ne (s : State) (n : Nat) (f : Nbu → Nbu) {k : Nat} (h : k ≠ n) : nbuAt (modNbu s n f) k = nbuAt s k := tget_tmod_ne _ _ h

/-! modBar -/

@[simp] theorem modBar_variant (s : State) (n : Nat) (f : Bar → Bar) : (modBar s n f).variant = s.variant := rfl
@[simp] theorem modBar_aon (s : State) (n : Nat) (f : Bar → Bar) : (modBar s n f).aon = s.aon := rfl
@[simp] theorem modBar_time (s : State) (n : Nat) (f : Bar → Bar) : (modBar s n f).time = s.time := rfl
@[simp] theorem modBar_frames (s : State) (n : Nat) (f : Bar → Bar) : (modBar s n f).frames = s.frames := rfl
@[simp] theorem modBar_pins (s : State) (n : Nat) (f : Bar → Bar) : (modBar s n f).pins = s.pins := rfl
@[simp] theorem modBar_boot (s : State) (n : Nat) (f : Bar → Bar) : (modBar s n f).boot = s.boot := rfl
@[simp] theorem modBar_units (s : State) (n : Nat) (f : Bar → Bar) : (modBar s n f).units = s.units := rfl
@[simp] theorem modBar_fwVersion (s : State) (n : Nat) (f : Bar → Bar) : (modBar s n f).fwVersion = s.fwVersion := rfl
@[simp] theorem modBar_moduleId (s : State) (n : Nat) (f : Bar → Bar) : (modBar s n f).moduleId = s.moduleId := rfl
@[simp] theorem modBar_staged (s : State) (n : Nat) (f : Bar → Bar) : (modBar s n f).staged = s.staged := rfl
@[simp] theorem modBar_sem (s : State) (n : Nat) (f : Bar → Bar) : (modBar s n f).sem = s.sem := rfl
@[simp] theorem modBar_fold (s : State) (n : Nat) (f : Bar → Bar) : (modBar s n f).fold = s.fold := rfl
@[simp] theorem modBar_mgmt (s : State) (n : Nat) (f : Bar → Bar) : (modBar s n f).mgmt = s.mgmt := rfl
@[simp] theorem modBar_mgmtOut (s : State) (n : Nat) (f : Bar → Bar) : (modBar s n f).mgmtOut = s.mgmtOut := rfl
@[simp] theorem modBar_nal (s : State) (n : Nat) (f : Bar → Bar) : (modBar s n f).nal = s.nal := rfl
@[simp] theorem modBar_rings (s : State) (n : Nat) (f : Bar → Bar) : (modBar s n f).rings = s.rings := rfl
@[simp] theorem modBar_errRings (s : State) (n : Nat) (f : Bar → Bar) : (modBar s n f).errRings = s.errRings := rfl
@[simp] theorem modBar_mya (s : State) (n : Nat) (f : Bar → Bar) : (modBar s n f).mya = s.mya := rfl
@[simp] theorem modBar_sent (s : State) (n : Nat) (f : Bar → Bar) : (modBar s n f).sent = s.sent := rfl
@[simp] theorem modBar_received (s : State) (n : Nat) (f : Bar → Bar) : (modBar s n f).received = s.received := rfl
@[simp] theorem modBar_held (s : State) (n : Nat) (f : Bar → Bar) : (modBar s n f).held = s.held := rfl
@[simp] theorem modBar_parts (s : State) (n : Nat) (f : Bar → Bar) : (modBar s n f).parts = s.parts := rfl
@[simp] theorem modBar_cores (s : State) (n : Nat) (f : Bar → Bar) : (modBar s n f).cores = s.cores := rfl
@[simp] theorem modBar_slices (s : State) (n : Nat) (f : Bar → Bar) : (modBar s n f).slices = s.slices := rfl
@[simp] theorem modBar_baskets (s : State) (n : Nat) (f : Bar → Bar) : (modBar s n f).baskets = s.baskets := rfl
@[simp] theorem modBar_hamper (s : State) (n : Nat) (f : Bar → Bar) : (modBar s n f).hamper = s.hamper := rfl
@[simp] theorem modBar_stack (s : State) (n : Nat) (f : Bar → Bar) : (modBar s n f).stack = s.stack := rfl
@[simp] theorem modBar_deferred (s : State) (n : Nat) (f : Bar → Bar) : (modBar s n f).deferred = s.deferred := rfl
@[simp] theorem modBar_ecc (s : State) (n : Nat) (f : Bar → Bar) : (modBar s n f).ecc = s.ecc := rfl
@[simp] theorem modBar_scrub (s : State) (n : Nat) (f : Bar → Bar) : (modBar s n f).scrub = s.scrub := rfl
@[simp] theorem modBar_ecct (s : State) (n : Nat) (f : Bar → Bar) : (modBar s n f).ecct = s.ecct := rfl
@[simp] theorem modBar_stk (s : State) (n : Nat) (f : Bar → Bar) : (modBar s n f).stk = s.stk := rfl
@[simp] theorem modBar_banks (s : State) (n : Nat) (f : Bar → Bar) : (modBar s n f).banks = s.banks := rfl
@[simp] theorem modBar_nbus (s : State) (n : Nat) (f : Bar → Bar) : (modBar s n f).nbus = s.nbus := rfl
@[simp] theorem modBar_kv (s : State) (n : Nat) (f : Bar → Bar) : (modBar s n f).kv = s.kv := rfl
@[simp] theorem modBar_kvFull (s : State) (n : Nat) (f : Bar → Bar) : (modBar s n f).kvFull = s.kvFull := rfl
@[simp] theorem modBar_appends (s : State) (n : Nat) (f : Bar → Bar) : (modBar s n f).appends = s.appends := rfl
@[simp] theorem modBar_decodes (s : State) (n : Nat) (f : Bar → Bar) : (modBar s n f).decodes = s.decodes := rfl
@[simp] theorem modBar_invokes (s : State) (n : Nat) (f : Bar → Bar) : (modBar s n f).invokes = s.invokes := rfl
@[simp] theorem modBar_commits (s : State) (n : Nat) (f : Bar → Bar) : (modBar s n f).commits = s.commits := rfl
@[simp] theorem modBar_kvJobs (s : State) (n : Nat) (f : Bar → Bar) : (modBar s n f).kvJobs = s.kvJobs := rfl
@[simp] theorem modBar_repairs (s : State) (n : Nat) (f : Bar → Bar) : (modBar s n f).repairs = s.repairs := rfl
@[simp] theorem modBar_hemOut (s : State) (n : Nat) (f : Bar → Bar) : (modBar s n f).hemOut = s.hemOut := rfl
@[simp] theorem modBar_xfers (s : State) (n : Nat) (f : Bar → Bar) : (modBar s n f).xfers = s.xfers := rfl
@[simp] theorem modBar_nextXfer (s : State) (n : Nat) (f : Bar → Bar) : (modBar s n f).nextXfer = s.nextXfer := rfl
@[simp] theorem modBar_fetches (s : State) (n : Nat) (f : Bar → Bar) : (modBar s n f).fetches = s.fetches := rfl
@[simp] theorem modBar_mesh (s : State) (n : Nat) (f : Bar → Bar) : (modBar s n f).mesh = s.mesh := rfl
@[simp] theorem modBar_crossings (s : State) (n : Nat) (f : Bar → Bar) : (modBar s n f).crossings = s.crossings := rfl
@[simp] theorem modBar_sparings (s : State) (n : Nat) (f : Bar → Bar) : (modBar s n f).sparings = s.sparings := rfl
@[simp] theorem modBar_power (s : State) (n : Nat) (f : Bar → Bar) : (modBar s n f).power = s.power := rfl
@[simp] theorem modBar_therm (s : State) (n : Nat) (f : Bar → Bar) : (modBar s n f).therm = s.therm := rfl
@[simp] theorem modBar_hup (s : State) (n : Nat) (f : Bar → Bar) : (modBar s n f).hup = s.hup := rfl
@[simp] theorem modBar_rot (s : State) (n : Nat) (f : Bar → Bar) : (modBar s n f).rot = s.rot := rfl
@[simp] theorem modBar_darn (s : State) (n : Nat) (f : Bar → Bar) : (modBar s n f).darn = s.darn := rfl
@[simp] theorem modBar_hemReset (s : State) (n : Nat) (f : Bar → Bar) : (modBar s n f).hemReset = s.hemReset := rfl
@[simp] theorem modBar_devReset (s : State) (n : Nat) (f : Bar → Bar) : (modBar s n f).devReset = s.devReset := rfl
@[simp] theorem modBar_fwUpdate (s : State) (n : Nat) (f : Bar → Bar) : (modBar s n f).fwUpdate = s.fwUpdate := rfl
@[simp] theorem modBar_oscLost (s : State) (n : Nat) (f : Bar → Bar) : (modBar s n f).oscLost = s.oscLost := rfl
@[simp] theorem modBar_pllLost (s : State) (n : Nat) (f : Bar → Bar) : (modBar s n f).pllLost = s.pllLost := rfl
@[simp] theorem modBar_free (s : State) (n : Nat) (f : Bar → Bar) : (modBar s n f).free = s.free := rfl
@[simp] theorem modBar_pending (s : State) (n : Nat) (f : Bar → Bar) : (modBar s n f).pending = s.pending := rfl
@[simp] theorem partAt_modBar (s : State) (n : Nat) (f : Bar → Bar) (k : Nat) : partAt (modBar s n f) k = partAt s k := rfl
@[simp] theorem coreAt_modBar (s : State) (n : Nat) (f : Bar → Bar) (k : Nat) : coreAt (modBar s n f) k = coreAt s k := rfl
@[simp] theorem nalAt_modBar (s : State) (n : Nat) (f : Bar → Bar) (k : NPort) : nalAt (modBar s n f) k = nalAt s k := rfl
@[simp] theorem myaAt_modBar (s : State) (n : Nat) (f : Bar → Bar) (k : Nat) : myaAt (modBar s n f) k = myaAt s k := rfl
@[simp] theorem ringAt_modBar (s : State) (n : Nat) (f : Bar → Bar) (k : NPort) (j : RingId) : ringAt (modBar s n f) k j = ringAt s k j := rfl
@[simp] theorem errAt_modBar (s : State) (n : Nat) (f : Bar → Bar) (k : NPort) : errAt (modBar s n f) k = errAt s k := rfl
@[simp] theorem nbuAt_modBar (s : State) (n : Nat) (f : Bar → Bar) (k : Nat) : nbuAt (modBar s n f) k = nbuAt s k := rfl
@[simp] theorem stkAt_modBar (s : State) (n : Nat) (f : Bar → Bar) (k : Nat) : stkAt (modBar s n f) k = stkAt s k := rfl
@[simp] theorem barAt_modBar_same (s : State) (n : Nat) (f : Bar → Bar) : barAt (modBar s n f) n = f (barAt s n) := tget_tmod_same _ _ _
@[simp] theorem barAt_modBar_ne (s : State) (n : Nat) (f : Bar → Bar) {k : Nat} (h : k ≠ n) : barAt (modBar s n f) k = barAt s k := tget_tmod_ne _ _ h

/-! modStk -/

@[simp] theorem modStk_variant (s : State) (n : Nat) (f : Stk → Stk) : (modStk s n f).variant = s.variant := rfl
@[simp] theorem modStk_aon (s : State) (n : Nat) (f : Stk → Stk) : (modStk s n f).aon = s.aon := rfl
@[simp] theorem modStk_time (s : State) (n : Nat) (f : Stk → Stk) : (modStk s n f).time = s.time := rfl
@[simp] theorem modStk_frames (s : State) (n : Nat) (f : Stk → Stk) : (modStk s n f).frames = s.frames := rfl
@[simp] theorem modStk_pins (s : State) (n : Nat) (f : Stk → Stk) : (modStk s n f).pins = s.pins := rfl
@[simp] theorem modStk_boot (s : State) (n : Nat) (f : Stk → Stk) : (modStk s n f).boot = s.boot := rfl
@[simp] theorem modStk_units (s : State) (n : Nat) (f : Stk → Stk) : (modStk s n f).units = s.units := rfl
@[simp] theorem modStk_fwVersion (s : State) (n : Nat) (f : Stk → Stk) : (modStk s n f).fwVersion = s.fwVersion := rfl
@[simp] theorem modStk_moduleId (s : State) (n : Nat) (f : Stk → Stk) : (modStk s n f).moduleId = s.moduleId := rfl
@[simp] theorem modStk_staged (s : State) (n : Nat) (f : Stk → Stk) : (modStk s n f).staged = s.staged := rfl
@[simp] theorem modStk_sem (s : State) (n : Nat) (f : Stk → Stk) : (modStk s n f).sem = s.sem := rfl
@[simp] theorem modStk_fold (s : State) (n : Nat) (f : Stk → Stk) : (modStk s n f).fold = s.fold := rfl
@[simp] theorem modStk_mgmt (s : State) (n : Nat) (f : Stk → Stk) : (modStk s n f).mgmt = s.mgmt := rfl
@[simp] theorem modStk_mgmtOut (s : State) (n : Nat) (f : Stk → Stk) : (modStk s n f).mgmtOut = s.mgmtOut := rfl
@[simp] theorem modStk_nal (s : State) (n : Nat) (f : Stk → Stk) : (modStk s n f).nal = s.nal := rfl
@[simp] theorem modStk_rings (s : State) (n : Nat) (f : Stk → Stk) : (modStk s n f).rings = s.rings := rfl
@[simp] theorem modStk_errRings (s : State) (n : Nat) (f : Stk → Stk) : (modStk s n f).errRings = s.errRings := rfl
@[simp] theorem modStk_mya (s : State) (n : Nat) (f : Stk → Stk) : (modStk s n f).mya = s.mya := rfl
@[simp] theorem modStk_sent (s : State) (n : Nat) (f : Stk → Stk) : (modStk s n f).sent = s.sent := rfl
@[simp] theorem modStk_received (s : State) (n : Nat) (f : Stk → Stk) : (modStk s n f).received = s.received := rfl
@[simp] theorem modStk_held (s : State) (n : Nat) (f : Stk → Stk) : (modStk s n f).held = s.held := rfl
@[simp] theorem modStk_bars (s : State) (n : Nat) (f : Stk → Stk) : (modStk s n f).bars = s.bars := rfl
@[simp] theorem modStk_parts (s : State) (n : Nat) (f : Stk → Stk) : (modStk s n f).parts = s.parts := rfl
@[simp] theorem modStk_cores (s : State) (n : Nat) (f : Stk → Stk) : (modStk s n f).cores = s.cores := rfl
@[simp] theorem modStk_slices (s : State) (n : Nat) (f : Stk → Stk) : (modStk s n f).slices = s.slices := rfl
@[simp] theorem modStk_baskets (s : State) (n : Nat) (f : Stk → Stk) : (modStk s n f).baskets = s.baskets := rfl
@[simp] theorem modStk_hamper (s : State) (n : Nat) (f : Stk → Stk) : (modStk s n f).hamper = s.hamper := rfl
@[simp] theorem modStk_stack (s : State) (n : Nat) (f : Stk → Stk) : (modStk s n f).stack = s.stack := rfl
@[simp] theorem modStk_deferred (s : State) (n : Nat) (f : Stk → Stk) : (modStk s n f).deferred = s.deferred := rfl
@[simp] theorem modStk_ecc (s : State) (n : Nat) (f : Stk → Stk) : (modStk s n f).ecc = s.ecc := rfl
@[simp] theorem modStk_scrub (s : State) (n : Nat) (f : Stk → Stk) : (modStk s n f).scrub = s.scrub := rfl
@[simp] theorem modStk_ecct (s : State) (n : Nat) (f : Stk → Stk) : (modStk s n f).ecct = s.ecct := rfl
@[simp] theorem modStk_banks (s : State) (n : Nat) (f : Stk → Stk) : (modStk s n f).banks = s.banks := rfl
@[simp] theorem modStk_nbus (s : State) (n : Nat) (f : Stk → Stk) : (modStk s n f).nbus = s.nbus := rfl
@[simp] theorem modStk_kv (s : State) (n : Nat) (f : Stk → Stk) : (modStk s n f).kv = s.kv := rfl
@[simp] theorem modStk_kvFull (s : State) (n : Nat) (f : Stk → Stk) : (modStk s n f).kvFull = s.kvFull := rfl
@[simp] theorem modStk_appends (s : State) (n : Nat) (f : Stk → Stk) : (modStk s n f).appends = s.appends := rfl
@[simp] theorem modStk_decodes (s : State) (n : Nat) (f : Stk → Stk) : (modStk s n f).decodes = s.decodes := rfl
@[simp] theorem modStk_invokes (s : State) (n : Nat) (f : Stk → Stk) : (modStk s n f).invokes = s.invokes := rfl
@[simp] theorem modStk_commits (s : State) (n : Nat) (f : Stk → Stk) : (modStk s n f).commits = s.commits := rfl
@[simp] theorem modStk_kvJobs (s : State) (n : Nat) (f : Stk → Stk) : (modStk s n f).kvJobs = s.kvJobs := rfl
@[simp] theorem modStk_repairs (s : State) (n : Nat) (f : Stk → Stk) : (modStk s n f).repairs = s.repairs := rfl
@[simp] theorem modStk_hemOut (s : State) (n : Nat) (f : Stk → Stk) : (modStk s n f).hemOut = s.hemOut := rfl
@[simp] theorem modStk_xfers (s : State) (n : Nat) (f : Stk → Stk) : (modStk s n f).xfers = s.xfers := rfl
@[simp] theorem modStk_nextXfer (s : State) (n : Nat) (f : Stk → Stk) : (modStk s n f).nextXfer = s.nextXfer := rfl
@[simp] theorem modStk_fetches (s : State) (n : Nat) (f : Stk → Stk) : (modStk s n f).fetches = s.fetches := rfl
@[simp] theorem modStk_mesh (s : State) (n : Nat) (f : Stk → Stk) : (modStk s n f).mesh = s.mesh := rfl
@[simp] theorem modStk_crossings (s : State) (n : Nat) (f : Stk → Stk) : (modStk s n f).crossings = s.crossings := rfl
@[simp] theorem modStk_sparings (s : State) (n : Nat) (f : Stk → Stk) : (modStk s n f).sparings = s.sparings := rfl
@[simp] theorem modStk_power (s : State) (n : Nat) (f : Stk → Stk) : (modStk s n f).power = s.power := rfl
@[simp] theorem modStk_therm (s : State) (n : Nat) (f : Stk → Stk) : (modStk s n f).therm = s.therm := rfl
@[simp] theorem modStk_hup (s : State) (n : Nat) (f : Stk → Stk) : (modStk s n f).hup = s.hup := rfl
@[simp] theorem modStk_rot (s : State) (n : Nat) (f : Stk → Stk) : (modStk s n f).rot = s.rot := rfl
@[simp] theorem modStk_darn (s : State) (n : Nat) (f : Stk → Stk) : (modStk s n f).darn = s.darn := rfl
@[simp] theorem modStk_hemReset (s : State) (n : Nat) (f : Stk → Stk) : (modStk s n f).hemReset = s.hemReset := rfl
@[simp] theorem modStk_devReset (s : State) (n : Nat) (f : Stk → Stk) : (modStk s n f).devReset = s.devReset := rfl
@[simp] theorem modStk_fwUpdate (s : State) (n : Nat) (f : Stk → Stk) : (modStk s n f).fwUpdate = s.fwUpdate := rfl
@[simp] theorem modStk_oscLost (s : State) (n : Nat) (f : Stk → Stk) : (modStk s n f).oscLost = s.oscLost := rfl
@[simp] theorem modStk_pllLost (s : State) (n : Nat) (f : Stk → Stk) : (modStk s n f).pllLost = s.pllLost := rfl
@[simp] theorem modStk_free (s : State) (n : Nat) (f : Stk → Stk) : (modStk s n f).free = s.free := rfl
@[simp] theorem modStk_pending (s : State) (n : Nat) (f : Stk → Stk) : (modStk s n f).pending = s.pending := rfl
@[simp] theorem partAt_modStk (s : State) (n : Nat) (f : Stk → Stk) (k : Nat) : partAt (modStk s n f) k = partAt s k := rfl
@[simp] theorem coreAt_modStk (s : State) (n : Nat) (f : Stk → Stk) (k : Nat) : coreAt (modStk s n f) k = coreAt s k := rfl
@[simp] theorem nalAt_modStk (s : State) (n : Nat) (f : Stk → Stk) (k : NPort) : nalAt (modStk s n f) k = nalAt s k := rfl
@[simp] theorem myaAt_modStk (s : State) (n : Nat) (f : Stk → Stk) (k : Nat) : myaAt (modStk s n f) k = myaAt s k := rfl
@[simp] theorem ringAt_modStk (s : State) (n : Nat) (f : Stk → Stk) (k : NPort) (j : RingId) : ringAt (modStk s n f) k j = ringAt s k j := rfl
@[simp] theorem errAt_modStk (s : State) (n : Nat) (f : Stk → Stk) (k : NPort) : errAt (modStk s n f) k = errAt s k := rfl
@[simp] theorem nbuAt_modStk (s : State) (n : Nat) (f : Stk → Stk) (k : Nat) : nbuAt (modStk s n f) k = nbuAt s k := rfl
@[simp] theorem barAt_modStk (s : State) (n : Nat) (f : Stk → Stk) (k : Nat) : barAt (modStk s n f) k = barAt s k := rfl
@[simp] theorem stkAt_modStk_same (s : State) (n : Nat) (f : Stk → Stk) : stkAt (modStk s n f) n = f (stkAt s n) := tget_tmod_same _ _ _
@[simp] theorem stkAt_modStk_ne (s : State) (n : Nat) (f : Stk → Stk) {k : Nat} (h : k ≠ n) : stkAt (modStk s n f) k = stkAt s k := tget_tmod_ne _ _ h

/-! modBoot -/

@[simp] theorem modBoot_variant (s : State) (f : Boot → Boot) : (modBoot s f).variant = s.variant := rfl
@[simp] theorem modBoot_aon (s : State) (f : Boot → Boot) : (modBoot s f).aon = s.aon := rfl
@[simp] theorem modBoot_time (s : State) (f : Boot → Boot) : (modBoot s f).time = s.time := rfl
@[simp] theorem modBoot_frames (s : State) (f : Boot → Boot) : (modBoot s f).frames = s.frames := rfl
@[simp] theorem modBoot_pins (s : State) (f : Boot → Boot) : (modBoot s f).pins = s.pins := rfl
@[simp] theorem modBoot_units (s : State) (f : Boot → Boot) : (modBoot s f).units = s.units := rfl
@[simp] theorem modBoot_fwVersion (s : State) (f : Boot → Boot) : (modBoot s f).fwVersion = s.fwVersion := rfl
@[simp] theorem modBoot_moduleId (s : State) (f : Boot → Boot) : (modBoot s f).moduleId = s.moduleId := rfl
@[simp] theorem modBoot_staged (s : State) (f : Boot → Boot) : (modBoot s f).staged = s.staged := rfl
@[simp] theorem modBoot_sem (s : State) (f : Boot → Boot) : (modBoot s f).sem = s.sem := rfl
@[simp] theorem modBoot_fold (s : State) (f : Boot → Boot) : (modBoot s f).fold = s.fold := rfl
@[simp] theorem modBoot_mgmt (s : State) (f : Boot → Boot) : (modBoot s f).mgmt = s.mgmt := rfl
@[simp] theorem modBoot_mgmtOut (s : State) (f : Boot → Boot) : (modBoot s f).mgmtOut = s.mgmtOut := rfl
@[simp] theorem modBoot_nal (s : State) (f : Boot → Boot) : (modBoot s f).nal = s.nal := rfl
@[simp] theorem modBoot_rings (s : State) (f : Boot → Boot) : (modBoot s f).rings = s.rings := rfl
@[simp] theorem modBoot_errRings (s : State) (f : Boot → Boot) : (modBoot s f).errRings = s.errRings := rfl
@[simp] theorem modBoot_mya (s : State) (f : Boot → Boot) : (modBoot s f).mya = s.mya := rfl
@[simp] theorem modBoot_sent (s : State) (f : Boot → Boot) : (modBoot s f).sent = s.sent := rfl
@[simp] theorem modBoot_received (s : State) (f : Boot → Boot) : (modBoot s f).received = s.received := rfl
@[simp] theorem modBoot_held (s : State) (f : Boot → Boot) : (modBoot s f).held = s.held := rfl
@[simp] theorem modBoot_bars (s : State) (f : Boot → Boot) : (modBoot s f).bars = s.bars := rfl
@[simp] theorem modBoot_parts (s : State) (f : Boot → Boot) : (modBoot s f).parts = s.parts := rfl
@[simp] theorem modBoot_cores (s : State) (f : Boot → Boot) : (modBoot s f).cores = s.cores := rfl
@[simp] theorem modBoot_slices (s : State) (f : Boot → Boot) : (modBoot s f).slices = s.slices := rfl
@[simp] theorem modBoot_baskets (s : State) (f : Boot → Boot) : (modBoot s f).baskets = s.baskets := rfl
@[simp] theorem modBoot_hamper (s : State) (f : Boot → Boot) : (modBoot s f).hamper = s.hamper := rfl
@[simp] theorem modBoot_stack (s : State) (f : Boot → Boot) : (modBoot s f).stack = s.stack := rfl
@[simp] theorem modBoot_deferred (s : State) (f : Boot → Boot) : (modBoot s f).deferred = s.deferred := rfl
@[simp] theorem modBoot_ecc (s : State) (f : Boot → Boot) : (modBoot s f).ecc = s.ecc := rfl
@[simp] theorem modBoot_scrub (s : State) (f : Boot → Boot) : (modBoot s f).scrub = s.scrub := rfl
@[simp] theorem modBoot_ecct (s : State) (f : Boot → Boot) : (modBoot s f).ecct = s.ecct := rfl
@[simp] theorem modBoot_stk (s : State) (f : Boot → Boot) : (modBoot s f).stk = s.stk := rfl
@[simp] theorem modBoot_banks (s : State) (f : Boot → Boot) : (modBoot s f).banks = s.banks := rfl
@[simp] theorem modBoot_nbus (s : State) (f : Boot → Boot) : (modBoot s f).nbus = s.nbus := rfl
@[simp] theorem modBoot_kv (s : State) (f : Boot → Boot) : (modBoot s f).kv = s.kv := rfl
@[simp] theorem modBoot_kvFull (s : State) (f : Boot → Boot) : (modBoot s f).kvFull = s.kvFull := rfl
@[simp] theorem modBoot_appends (s : State) (f : Boot → Boot) : (modBoot s f).appends = s.appends := rfl
@[simp] theorem modBoot_decodes (s : State) (f : Boot → Boot) : (modBoot s f).decodes = s.decodes := rfl
@[simp] theorem modBoot_invokes (s : State) (f : Boot → Boot) : (modBoot s f).invokes = s.invokes := rfl
@[simp] theorem modBoot_commits (s : State) (f : Boot → Boot) : (modBoot s f).commits = s.commits := rfl
@[simp] theorem modBoot_kvJobs (s : State) (f : Boot → Boot) : (modBoot s f).kvJobs = s.kvJobs := rfl
@[simp] theorem modBoot_repairs (s : State) (f : Boot → Boot) : (modBoot s f).repairs = s.repairs := rfl
@[simp] theorem modBoot_hemOut (s : State) (f : Boot → Boot) : (modBoot s f).hemOut = s.hemOut := rfl
@[simp] theorem modBoot_xfers (s : State) (f : Boot → Boot) : (modBoot s f).xfers = s.xfers := rfl
@[simp] theorem modBoot_nextXfer (s : State) (f : Boot → Boot) : (modBoot s f).nextXfer = s.nextXfer := rfl
@[simp] theorem modBoot_fetches (s : State) (f : Boot → Boot) : (modBoot s f).fetches = s.fetches := rfl
@[simp] theorem modBoot_mesh (s : State) (f : Boot → Boot) : (modBoot s f).mesh = s.mesh := rfl
@[simp] theorem modBoot_crossings (s : State) (f : Boot → Boot) : (modBoot s f).crossings = s.crossings := rfl
@[simp] theorem modBoot_sparings (s : State) (f : Boot → Boot) : (modBoot s f).sparings = s.sparings := rfl
@[simp] theorem modBoot_power (s : State) (f : Boot → Boot) : (modBoot s f).power = s.power := rfl
@[simp] theorem modBoot_therm (s : State) (f : Boot → Boot) : (modBoot s f).therm = s.therm := rfl
@[simp] theorem modBoot_hup (s : State) (f : Boot → Boot) : (modBoot s f).hup = s.hup := rfl
@[simp] theorem modBoot_rot (s : State) (f : Boot → Boot) : (modBoot s f).rot = s.rot := rfl
@[simp] theorem modBoot_darn (s : State) (f : Boot → Boot) : (modBoot s f).darn = s.darn := rfl
@[simp] theorem modBoot_hemReset (s : State) (f : Boot → Boot) : (modBoot s f).hemReset = s.hemReset := rfl
@[simp] theorem modBoot_devReset (s : State) (f : Boot → Boot) : (modBoot s f).devReset = s.devReset := rfl
@[simp] theorem modBoot_fwUpdate (s : State) (f : Boot → Boot) : (modBoot s f).fwUpdate = s.fwUpdate := rfl
@[simp] theorem modBoot_oscLost (s : State) (f : Boot → Boot) : (modBoot s f).oscLost = s.oscLost := rfl
@[simp] theorem modBoot_pllLost (s : State) (f : Boot → Boot) : (modBoot s f).pllLost = s.pllLost := rfl
@[simp] theorem modBoot_free (s : State) (f : Boot → Boot) : (modBoot s f).free = s.free := rfl
@[simp] theorem modBoot_pending (s : State) (f : Boot → Boot) : (modBoot s f).pending = s.pending := rfl
@[simp] theorem modBoot_boot (s : State) (f : Boot → Boot) : (modBoot s f).boot = f s.boot := rfl
@[simp] theorem partAt_modBoot (s : State) (f : Boot → Boot) (k : Nat) : partAt (modBoot s f) k = partAt s k := rfl
@[simp] theorem coreAt_modBoot (s : State) (f : Boot → Boot) (k : Nat) : coreAt (modBoot s f) k = coreAt s k := rfl
@[simp] theorem nalAt_modBoot (s : State) (f : Boot → Boot) (k : NPort) : nalAt (modBoot s f) k = nalAt s k := rfl
@[simp] theorem myaAt_modBoot (s : State) (f : Boot → Boot) (k : Nat) : myaAt (modBoot s f) k = myaAt s k := rfl
@[simp] theorem ringAt_modBoot (s : State) (f : Boot → Boot) (k : NPort) (j : RingId) : ringAt (modBoot s f) k j = ringAt s k j := rfl
@[simp] theorem errAt_modBoot (s : State) (f : Boot → Boot) (k : NPort) : errAt (modBoot s f) k = errAt s k := rfl
@[simp] theorem nbuAt_modBoot (s : State) (f : Boot → Boot) (k : Nat) : nbuAt (modBoot s f) k = nbuAt s k := rfl
@[simp] theorem barAt_modBoot (s : State) (f : Boot → Boot) (k : Nat) : barAt (modBoot s f) k = barAt s k := rfl
@[simp] theorem stkAt_modBoot (s : State) (f : Boot → Boot) (k : Nat) : stkAt (modBoot s f) k = stkAt s k := rfl

/-! modHup -/

@[simp] theorem modHup_variant (s : State) (f : Hup → Hup) : (modHup s f).variant = s.variant := rfl
@[simp] theorem modHup_aon (s : State) (f : Hup → Hup) : (modHup s f).aon = s.aon := rfl
@[simp] theorem modHup_time (s : State) (f : Hup → Hup) : (modHup s f).time = s.time := rfl
@[simp] theorem modHup_frames (s : State) (f : Hup → Hup) : (modHup s f).frames = s.frames := rfl
@[simp] theorem modHup_pins (s : State) (f : Hup → Hup) : (modHup s f).pins = s.pins := rfl
@[simp] theorem modHup_boot (s : State) (f : Hup → Hup) : (modHup s f).boot = s.boot := rfl
@[simp] theorem modHup_units (s : State) (f : Hup → Hup) : (modHup s f).units = s.units := rfl
@[simp] theorem modHup_fwVersion (s : State) (f : Hup → Hup) : (modHup s f).fwVersion = s.fwVersion := rfl
@[simp] theorem modHup_moduleId (s : State) (f : Hup → Hup) : (modHup s f).moduleId = s.moduleId := rfl
@[simp] theorem modHup_staged (s : State) (f : Hup → Hup) : (modHup s f).staged = s.staged := rfl
@[simp] theorem modHup_sem (s : State) (f : Hup → Hup) : (modHup s f).sem = s.sem := rfl
@[simp] theorem modHup_fold (s : State) (f : Hup → Hup) : (modHup s f).fold = s.fold := rfl
@[simp] theorem modHup_mgmt (s : State) (f : Hup → Hup) : (modHup s f).mgmt = s.mgmt := rfl
@[simp] theorem modHup_mgmtOut (s : State) (f : Hup → Hup) : (modHup s f).mgmtOut = s.mgmtOut := rfl
@[simp] theorem modHup_nal (s : State) (f : Hup → Hup) : (modHup s f).nal = s.nal := rfl
@[simp] theorem modHup_rings (s : State) (f : Hup → Hup) : (modHup s f).rings = s.rings := rfl
@[simp] theorem modHup_errRings (s : State) (f : Hup → Hup) : (modHup s f).errRings = s.errRings := rfl
@[simp] theorem modHup_mya (s : State) (f : Hup → Hup) : (modHup s f).mya = s.mya := rfl
@[simp] theorem modHup_sent (s : State) (f : Hup → Hup) : (modHup s f).sent = s.sent := rfl
@[simp] theorem modHup_received (s : State) (f : Hup → Hup) : (modHup s f).received = s.received := rfl
@[simp] theorem modHup_held (s : State) (f : Hup → Hup) : (modHup s f).held = s.held := rfl
@[simp] theorem modHup_bars (s : State) (f : Hup → Hup) : (modHup s f).bars = s.bars := rfl
@[simp] theorem modHup_parts (s : State) (f : Hup → Hup) : (modHup s f).parts = s.parts := rfl
@[simp] theorem modHup_cores (s : State) (f : Hup → Hup) : (modHup s f).cores = s.cores := rfl
@[simp] theorem modHup_slices (s : State) (f : Hup → Hup) : (modHup s f).slices = s.slices := rfl
@[simp] theorem modHup_baskets (s : State) (f : Hup → Hup) : (modHup s f).baskets = s.baskets := rfl
@[simp] theorem modHup_hamper (s : State) (f : Hup → Hup) : (modHup s f).hamper = s.hamper := rfl
@[simp] theorem modHup_stack (s : State) (f : Hup → Hup) : (modHup s f).stack = s.stack := rfl
@[simp] theorem modHup_deferred (s : State) (f : Hup → Hup) : (modHup s f).deferred = s.deferred := rfl
@[simp] theorem modHup_ecc (s : State) (f : Hup → Hup) : (modHup s f).ecc = s.ecc := rfl
@[simp] theorem modHup_scrub (s : State) (f : Hup → Hup) : (modHup s f).scrub = s.scrub := rfl
@[simp] theorem modHup_ecct (s : State) (f : Hup → Hup) : (modHup s f).ecct = s.ecct := rfl
@[simp] theorem modHup_stk (s : State) (f : Hup → Hup) : (modHup s f).stk = s.stk := rfl
@[simp] theorem modHup_banks (s : State) (f : Hup → Hup) : (modHup s f).banks = s.banks := rfl
@[simp] theorem modHup_nbus (s : State) (f : Hup → Hup) : (modHup s f).nbus = s.nbus := rfl
@[simp] theorem modHup_kv (s : State) (f : Hup → Hup) : (modHup s f).kv = s.kv := rfl
@[simp] theorem modHup_kvFull (s : State) (f : Hup → Hup) : (modHup s f).kvFull = s.kvFull := rfl
@[simp] theorem modHup_appends (s : State) (f : Hup → Hup) : (modHup s f).appends = s.appends := rfl
@[simp] theorem modHup_decodes (s : State) (f : Hup → Hup) : (modHup s f).decodes = s.decodes := rfl
@[simp] theorem modHup_invokes (s : State) (f : Hup → Hup) : (modHup s f).invokes = s.invokes := rfl
@[simp] theorem modHup_commits (s : State) (f : Hup → Hup) : (modHup s f).commits = s.commits := rfl
@[simp] theorem modHup_kvJobs (s : State) (f : Hup → Hup) : (modHup s f).kvJobs = s.kvJobs := rfl
@[simp] theorem modHup_repairs (s : State) (f : Hup → Hup) : (modHup s f).repairs = s.repairs := rfl
@[simp] theorem modHup_hemOut (s : State) (f : Hup → Hup) : (modHup s f).hemOut = s.hemOut := rfl
@[simp] theorem modHup_xfers (s : State) (f : Hup → Hup) : (modHup s f).xfers = s.xfers := rfl
@[simp] theorem modHup_nextXfer (s : State) (f : Hup → Hup) : (modHup s f).nextXfer = s.nextXfer := rfl
@[simp] theorem modHup_fetches (s : State) (f : Hup → Hup) : (modHup s f).fetches = s.fetches := rfl
@[simp] theorem modHup_mesh (s : State) (f : Hup → Hup) : (modHup s f).mesh = s.mesh := rfl
@[simp] theorem modHup_crossings (s : State) (f : Hup → Hup) : (modHup s f).crossings = s.crossings := rfl
@[simp] theorem modHup_sparings (s : State) (f : Hup → Hup) : (modHup s f).sparings = s.sparings := rfl
@[simp] theorem modHup_power (s : State) (f : Hup → Hup) : (modHup s f).power = s.power := rfl
@[simp] theorem modHup_therm (s : State) (f : Hup → Hup) : (modHup s f).therm = s.therm := rfl
@[simp] theorem modHup_rot (s : State) (f : Hup → Hup) : (modHup s f).rot = s.rot := rfl
@[simp] theorem modHup_darn (s : State) (f : Hup → Hup) : (modHup s f).darn = s.darn := rfl
@[simp] theorem modHup_hemReset (s : State) (f : Hup → Hup) : (modHup s f).hemReset = s.hemReset := rfl
@[simp] theorem modHup_devReset (s : State) (f : Hup → Hup) : (modHup s f).devReset = s.devReset := rfl
@[simp] theorem modHup_fwUpdate (s : State) (f : Hup → Hup) : (modHup s f).fwUpdate = s.fwUpdate := rfl
@[simp] theorem modHup_oscLost (s : State) (f : Hup → Hup) : (modHup s f).oscLost = s.oscLost := rfl
@[simp] theorem modHup_pllLost (s : State) (f : Hup → Hup) : (modHup s f).pllLost = s.pllLost := rfl
@[simp] theorem modHup_free (s : State) (f : Hup → Hup) : (modHup s f).free = s.free := rfl
@[simp] theorem modHup_pending (s : State) (f : Hup → Hup) : (modHup s f).pending = s.pending := rfl
@[simp] theorem modHup_hup (s : State) (f : Hup → Hup) : (modHup s f).hup = f s.hup := rfl
@[simp] theorem partAt_modHup (s : State) (f : Hup → Hup) (k : Nat) : partAt (modHup s f) k = partAt s k := rfl
@[simp] theorem coreAt_modHup (s : State) (f : Hup → Hup) (k : Nat) : coreAt (modHup s f) k = coreAt s k := rfl
@[simp] theorem nalAt_modHup (s : State) (f : Hup → Hup) (k : NPort) : nalAt (modHup s f) k = nalAt s k := rfl
@[simp] theorem myaAt_modHup (s : State) (f : Hup → Hup) (k : Nat) : myaAt (modHup s f) k = myaAt s k := rfl
@[simp] theorem ringAt_modHup (s : State) (f : Hup → Hup) (k : NPort) (j : RingId) : ringAt (modHup s f) k j = ringAt s k j := rfl
@[simp] theorem errAt_modHup (s : State) (f : Hup → Hup) (k : NPort) : errAt (modHup s f) k = errAt s k := rfl
@[simp] theorem nbuAt_modHup (s : State) (f : Hup → Hup) (k : Nat) : nbuAt (modHup s f) k = nbuAt s k := rfl
@[simp] theorem barAt_modHup (s : State) (f : Hup → Hup) (k : Nat) : barAt (modHup s f) k = barAt s k := rfl
@[simp] theorem stkAt_modHup (s : State) (f : Hup → Hup) (k : Nat) : stkAt (modHup s f) k = stkAt s k := rfl

/-! modRot -/

@[simp] theorem modRot_variant (s : State) (f : Rot → Rot) : (modRot s f).variant = s.variant := rfl
@[simp] theorem modRot_aon (s : State) (f : Rot → Rot) : (modRot s f).aon = s.aon := rfl
@[simp] theorem modRot_time (s : State) (f : Rot → Rot) : (modRot s f).time = s.time := rfl
@[simp] theorem modRot_frames (s : State) (f : Rot → Rot) : (modRot s f).frames = s.frames := rfl
@[simp] theorem modRot_pins (s : State) (f : Rot → Rot) : (modRot s f).pins = s.pins := rfl
@[simp] theorem modRot_boot (s : State) (f : Rot → Rot) : (modRot s f).boot = s.boot := rfl
@[simp] theorem modRot_units (s : State) (f : Rot → Rot) : (modRot s f).units = s.units := rfl
@[simp] theorem modRot_fwVersion (s : State) (f : Rot → Rot) : (modRot s f).fwVersion = s.fwVersion := rfl
@[simp] theorem modRot_moduleId (s : State) (f : Rot → Rot) : (modRot s f).moduleId = s.moduleId := rfl
@[simp] theorem modRot_staged (s : State) (f : Rot → Rot) : (modRot s f).staged = s.staged := rfl
@[simp] theorem modRot_sem (s : State) (f : Rot → Rot) : (modRot s f).sem = s.sem := rfl
@[simp] theorem modRot_fold (s : State) (f : Rot → Rot) : (modRot s f).fold = s.fold := rfl
@[simp] theorem modRot_mgmt (s : State) (f : Rot → Rot) : (modRot s f).mgmt = s.mgmt := rfl
@[simp] theorem modRot_mgmtOut (s : State) (f : Rot → Rot) : (modRot s f).mgmtOut = s.mgmtOut := rfl
@[simp] theorem modRot_nal (s : State) (f : Rot → Rot) : (modRot s f).nal = s.nal := rfl
@[simp] theorem modRot_rings (s : State) (f : Rot → Rot) : (modRot s f).rings = s.rings := rfl
@[simp] theorem modRot_errRings (s : State) (f : Rot → Rot) : (modRot s f).errRings = s.errRings := rfl
@[simp] theorem modRot_mya (s : State) (f : Rot → Rot) : (modRot s f).mya = s.mya := rfl
@[simp] theorem modRot_sent (s : State) (f : Rot → Rot) : (modRot s f).sent = s.sent := rfl
@[simp] theorem modRot_received (s : State) (f : Rot → Rot) : (modRot s f).received = s.received := rfl
@[simp] theorem modRot_held (s : State) (f : Rot → Rot) : (modRot s f).held = s.held := rfl
@[simp] theorem modRot_bars (s : State) (f : Rot → Rot) : (modRot s f).bars = s.bars := rfl
@[simp] theorem modRot_parts (s : State) (f : Rot → Rot) : (modRot s f).parts = s.parts := rfl
@[simp] theorem modRot_cores (s : State) (f : Rot → Rot) : (modRot s f).cores = s.cores := rfl
@[simp] theorem modRot_slices (s : State) (f : Rot → Rot) : (modRot s f).slices = s.slices := rfl
@[simp] theorem modRot_baskets (s : State) (f : Rot → Rot) : (modRot s f).baskets = s.baskets := rfl
@[simp] theorem modRot_hamper (s : State) (f : Rot → Rot) : (modRot s f).hamper = s.hamper := rfl
@[simp] theorem modRot_stack (s : State) (f : Rot → Rot) : (modRot s f).stack = s.stack := rfl
@[simp] theorem modRot_deferred (s : State) (f : Rot → Rot) : (modRot s f).deferred = s.deferred := rfl
@[simp] theorem modRot_ecc (s : State) (f : Rot → Rot) : (modRot s f).ecc = s.ecc := rfl
@[simp] theorem modRot_scrub (s : State) (f : Rot → Rot) : (modRot s f).scrub = s.scrub := rfl
@[simp] theorem modRot_ecct (s : State) (f : Rot → Rot) : (modRot s f).ecct = s.ecct := rfl
@[simp] theorem modRot_stk (s : State) (f : Rot → Rot) : (modRot s f).stk = s.stk := rfl
@[simp] theorem modRot_banks (s : State) (f : Rot → Rot) : (modRot s f).banks = s.banks := rfl
@[simp] theorem modRot_nbus (s : State) (f : Rot → Rot) : (modRot s f).nbus = s.nbus := rfl
@[simp] theorem modRot_kv (s : State) (f : Rot → Rot) : (modRot s f).kv = s.kv := rfl
@[simp] theorem modRot_kvFull (s : State) (f : Rot → Rot) : (modRot s f).kvFull = s.kvFull := rfl
@[simp] theorem modRot_appends (s : State) (f : Rot → Rot) : (modRot s f).appends = s.appends := rfl
@[simp] theorem modRot_decodes (s : State) (f : Rot → Rot) : (modRot s f).decodes = s.decodes := rfl
@[simp] theorem modRot_invokes (s : State) (f : Rot → Rot) : (modRot s f).invokes = s.invokes := rfl
@[simp] theorem modRot_commits (s : State) (f : Rot → Rot) : (modRot s f).commits = s.commits := rfl
@[simp] theorem modRot_kvJobs (s : State) (f : Rot → Rot) : (modRot s f).kvJobs = s.kvJobs := rfl
@[simp] theorem modRot_repairs (s : State) (f : Rot → Rot) : (modRot s f).repairs = s.repairs := rfl
@[simp] theorem modRot_hemOut (s : State) (f : Rot → Rot) : (modRot s f).hemOut = s.hemOut := rfl
@[simp] theorem modRot_xfers (s : State) (f : Rot → Rot) : (modRot s f).xfers = s.xfers := rfl
@[simp] theorem modRot_nextXfer (s : State) (f : Rot → Rot) : (modRot s f).nextXfer = s.nextXfer := rfl
@[simp] theorem modRot_fetches (s : State) (f : Rot → Rot) : (modRot s f).fetches = s.fetches := rfl
@[simp] theorem modRot_mesh (s : State) (f : Rot → Rot) : (modRot s f).mesh = s.mesh := rfl
@[simp] theorem modRot_crossings (s : State) (f : Rot → Rot) : (modRot s f).crossings = s.crossings := rfl
@[simp] theorem modRot_sparings (s : State) (f : Rot → Rot) : (modRot s f).sparings = s.sparings := rfl
@[simp] theorem modRot_power (s : State) (f : Rot → Rot) : (modRot s f).power = s.power := rfl
@[simp] theorem modRot_therm (s : State) (f : Rot → Rot) : (modRot s f).therm = s.therm := rfl
@[simp] theorem modRot_hup (s : State) (f : Rot → Rot) : (modRot s f).hup = s.hup := rfl
@[simp] theorem modRot_darn (s : State) (f : Rot → Rot) : (modRot s f).darn = s.darn := rfl
@[simp] theorem modRot_hemReset (s : State) (f : Rot → Rot) : (modRot s f).hemReset = s.hemReset := rfl
@[simp] theorem modRot_devReset (s : State) (f : Rot → Rot) : (modRot s f).devReset = s.devReset := rfl
@[simp] theorem modRot_fwUpdate (s : State) (f : Rot → Rot) : (modRot s f).fwUpdate = s.fwUpdate := rfl
@[simp] theorem modRot_oscLost (s : State) (f : Rot → Rot) : (modRot s f).oscLost = s.oscLost := rfl
@[simp] theorem modRot_pllLost (s : State) (f : Rot → Rot) : (modRot s f).pllLost = s.pllLost := rfl
@[simp] theorem modRot_free (s : State) (f : Rot → Rot) : (modRot s f).free = s.free := rfl
@[simp] theorem modRot_pending (s : State) (f : Rot → Rot) : (modRot s f).pending = s.pending := rfl
@[simp] theorem modRot_rot (s : State) (f : Rot → Rot) : (modRot s f).rot = f s.rot := rfl
@[simp] theorem partAt_modRot (s : State) (f : Rot → Rot) (k : Nat) : partAt (modRot s f) k = partAt s k := rfl
@[simp] theorem coreAt_modRot (s : State) (f : Rot → Rot) (k : Nat) : coreAt (modRot s f) k = coreAt s k := rfl
@[simp] theorem nalAt_modRot (s : State) (f : Rot → Rot) (k : NPort) : nalAt (modRot s f) k = nalAt s k := rfl
@[simp] theorem myaAt_modRot (s : State) (f : Rot → Rot) (k : Nat) : myaAt (modRot s f) k = myaAt s k := rfl
@[simp] theorem ringAt_modRot (s : State) (f : Rot → Rot) (k : NPort) (j : RingId) : ringAt (modRot s f) k j = ringAt s k j := rfl
@[simp] theorem errAt_modRot (s : State) (f : Rot → Rot) (k : NPort) : errAt (modRot s f) k = errAt s k := rfl
@[simp] theorem nbuAt_modRot (s : State) (f : Rot → Rot) (k : Nat) : nbuAt (modRot s f) k = nbuAt s k := rfl
@[simp] theorem barAt_modRot (s : State) (f : Rot → Rot) (k : Nat) : barAt (modRot s f) k = barAt s k := rfl
@[simp] theorem stkAt_modRot (s : State) (f : Rot → Rot) (k : Nat) : stkAt (modRot s f) k = stkAt s k := rfl

/-! modTherm -/

@[simp] theorem modTherm_variant (s : State) (f : Therm → Therm) : (modTherm s f).variant = s.variant := rfl
@[simp] theorem modTherm_aon (s : State) (f : Therm → Therm) : (modTherm s f).aon = s.aon := rfl
@[simp] theorem modTherm_time (s : State) (f : Therm → Therm) : (modTherm s f).time = s.time := rfl
@[simp] theorem modTherm_frames (s : State) (f : Therm → Therm) : (modTherm s f).frames = s.frames := rfl
@[simp] theorem modTherm_pins (s : State) (f : Therm → Therm) : (modTherm s f).pins = s.pins := rfl
@[simp] theorem modTherm_boot (s : State) (f : Therm → Therm) : (modTherm s f).boot = s.boot := rfl
@[simp] theorem modTherm_units (s : State) (f : Therm → Therm) : (modTherm s f).units = s.units := rfl
@[simp] theorem modTherm_fwVersion (s : State) (f : Therm → Therm) : (modTherm s f).fwVersion = s.fwVersion := rfl
@[simp] theorem modTherm_moduleId (s : State) (f : Therm → Therm) : (modTherm s f).moduleId = s.moduleId := rfl
@[simp] theorem modTherm_staged (s : State) (f : Therm → Therm) : (modTherm s f).staged = s.staged := rfl
@[simp] theorem modTherm_sem (s : State) (f : Therm → Therm) : (modTherm s f).sem = s.sem := rfl
@[simp] theorem modTherm_fold (s : State) (f : Therm → Therm) : (modTherm s f).fold = s.fold := rfl
@[simp] theorem modTherm_mgmt (s : State) (f : Therm → Therm) : (modTherm s f).mgmt = s.mgmt := rfl
@[simp] theorem modTherm_mgmtOut (s : State) (f : Therm → Therm) : (modTherm s f).mgmtOut = s.mgmtOut := rfl
@[simp] theorem modTherm_nal (s : State) (f : Therm → Therm) : (modTherm s f).nal = s.nal := rfl
@[simp] theorem modTherm_rings (s : State) (f : Therm → Therm) : (modTherm s f).rings = s.rings := rfl
@[simp] theorem modTherm_errRings (s : State) (f : Therm → Therm) : (modTherm s f).errRings = s.errRings := rfl
@[simp] theorem modTherm_mya (s : State) (f : Therm → Therm) : (modTherm s f).mya = s.mya := rfl
@[simp] theorem modTherm_sent (s : State) (f : Therm → Therm) : (modTherm s f).sent = s.sent := rfl
@[simp] theorem modTherm_received (s : State) (f : Therm → Therm) : (modTherm s f).received = s.received := rfl
@[simp] theorem modTherm_held (s : State) (f : Therm → Therm) : (modTherm s f).held = s.held := rfl
@[simp] theorem modTherm_bars (s : State) (f : Therm → Therm) : (modTherm s f).bars = s.bars := rfl
@[simp] theorem modTherm_parts (s : State) (f : Therm → Therm) : (modTherm s f).parts = s.parts := rfl
@[simp] theorem modTherm_cores (s : State) (f : Therm → Therm) : (modTherm s f).cores = s.cores := rfl
@[simp] theorem modTherm_slices (s : State) (f : Therm → Therm) : (modTherm s f).slices = s.slices := rfl
@[simp] theorem modTherm_baskets (s : State) (f : Therm → Therm) : (modTherm s f).baskets = s.baskets := rfl
@[simp] theorem modTherm_hamper (s : State) (f : Therm → Therm) : (modTherm s f).hamper = s.hamper := rfl
@[simp] theorem modTherm_stack (s : State) (f : Therm → Therm) : (modTherm s f).stack = s.stack := rfl
@[simp] theorem modTherm_deferred (s : State) (f : Therm → Therm) : (modTherm s f).deferred = s.deferred := rfl
@[simp] theorem modTherm_ecc (s : State) (f : Therm → Therm) : (modTherm s f).ecc = s.ecc := rfl
@[simp] theorem modTherm_scrub (s : State) (f : Therm → Therm) : (modTherm s f).scrub = s.scrub := rfl
@[simp] theorem modTherm_ecct (s : State) (f : Therm → Therm) : (modTherm s f).ecct = s.ecct := rfl
@[simp] theorem modTherm_stk (s : State) (f : Therm → Therm) : (modTherm s f).stk = s.stk := rfl
@[simp] theorem modTherm_banks (s : State) (f : Therm → Therm) : (modTherm s f).banks = s.banks := rfl
@[simp] theorem modTherm_nbus (s : State) (f : Therm → Therm) : (modTherm s f).nbus = s.nbus := rfl
@[simp] theorem modTherm_kv (s : State) (f : Therm → Therm) : (modTherm s f).kv = s.kv := rfl
@[simp] theorem modTherm_kvFull (s : State) (f : Therm → Therm) : (modTherm s f).kvFull = s.kvFull := rfl
@[simp] theorem modTherm_appends (s : State) (f : Therm → Therm) : (modTherm s f).appends = s.appends := rfl
@[simp] theorem modTherm_decodes (s : State) (f : Therm → Therm) : (modTherm s f).decodes = s.decodes := rfl
@[simp] theorem modTherm_invokes (s : State) (f : Therm → Therm) : (modTherm s f).invokes = s.invokes := rfl
@[simp] theorem modTherm_commits (s : State) (f : Therm → Therm) : (modTherm s f).commits = s.commits := rfl
@[simp] theorem modTherm_kvJobs (s : State) (f : Therm → Therm) : (modTherm s f).kvJobs = s.kvJobs := rfl
@[simp] theorem modTherm_repairs (s : State) (f : Therm → Therm) : (modTherm s f).repairs = s.repairs := rfl
@[simp] theorem modTherm_hemOut (s : State) (f : Therm → Therm) : (modTherm s f).hemOut = s.hemOut := rfl
@[simp] theorem modTherm_xfers (s : State) (f : Therm → Therm) : (modTherm s f).xfers = s.xfers := rfl
@[simp] theorem modTherm_nextXfer (s : State) (f : Therm → Therm) : (modTherm s f).nextXfer = s.nextXfer := rfl
@[simp] theorem modTherm_fetches (s : State) (f : Therm → Therm) : (modTherm s f).fetches = s.fetches := rfl
@[simp] theorem modTherm_mesh (s : State) (f : Therm → Therm) : (modTherm s f).mesh = s.mesh := rfl
@[simp] theorem modTherm_crossings (s : State) (f : Therm → Therm) : (modTherm s f).crossings = s.crossings := rfl
@[simp] theorem modTherm_sparings (s : State) (f : Therm → Therm) : (modTherm s f).sparings = s.sparings := rfl
@[simp] theorem modTherm_power (s : State) (f : Therm → Therm) : (modTherm s f).power = s.power := rfl
@[simp] theorem modTherm_hup (s : State) (f : Therm → Therm) : (modTherm s f).hup = s.hup := rfl
@[simp] theorem modTherm_rot (s : State) (f : Therm → Therm) : (modTherm s f).rot = s.rot := rfl
@[simp] theorem modTherm_darn (s : State) (f : Therm → Therm) : (modTherm s f).darn = s.darn := rfl
@[simp] theorem modTherm_hemReset (s : State) (f : Therm → Therm) : (modTherm s f).hemReset = s.hemReset := rfl
@[simp] theorem modTherm_devReset (s : State) (f : Therm → Therm) : (modTherm s f).devReset = s.devReset := rfl
@[simp] theorem modTherm_fwUpdate (s : State) (f : Therm → Therm) : (modTherm s f).fwUpdate = s.fwUpdate := rfl
@[simp] theorem modTherm_oscLost (s : State) (f : Therm → Therm) : (modTherm s f).oscLost = s.oscLost := rfl
@[simp] theorem modTherm_pllLost (s : State) (f : Therm → Therm) : (modTherm s f).pllLost = s.pllLost := rfl
@[simp] theorem modTherm_free (s : State) (f : Therm → Therm) : (modTherm s f).free = s.free := rfl
@[simp] theorem modTherm_pending (s : State) (f : Therm → Therm) : (modTherm s f).pending = s.pending := rfl
@[simp] theorem modTherm_therm (s : State) (f : Therm → Therm) : (modTherm s f).therm = f s.therm := rfl
@[simp] theorem partAt_modTherm (s : State) (f : Therm → Therm) (k : Nat) : partAt (modTherm s f) k = partAt s k := rfl
@[simp] theorem coreAt_modTherm (s : State) (f : Therm → Therm) (k : Nat) : coreAt (modTherm s f) k = coreAt s k := rfl
@[simp] theorem nalAt_modTherm (s : State) (f : Therm → Therm) (k : NPort) : nalAt (modTherm s f) k = nalAt s k := rfl
@[simp] theorem myaAt_modTherm (s : State) (f : Therm → Therm) (k : Nat) : myaAt (modTherm s f) k = myaAt s k := rfl
@[simp] theorem ringAt_modTherm (s : State) (f : Therm → Therm) (k : NPort) (j : RingId) : ringAt (modTherm s f) k j = ringAt s k j := rfl
@[simp] theorem errAt_modTherm (s : State) (f : Therm → Therm) (k : NPort) : errAt (modTherm s f) k = errAt s k := rfl
@[simp] theorem nbuAt_modTherm (s : State) (f : Therm → Therm) (k : Nat) : nbuAt (modTherm s f) k = nbuAt s k := rfl
@[simp] theorem barAt_modTherm (s : State) (f : Therm → Therm) (k : Nat) : barAt (modTherm s f) k = barAt s k := rfl
@[simp] theorem stkAt_modTherm (s : State) (f : Therm → Therm) (k : Nat) : stkAt (modTherm s f) k = stkAt s k := rfl

end Sys2Proof.Machine
end

