-- ==== Sys2Proof/Laws/Raise.lean ====
section
/-! SUPPORT. What queueing a transaction and raising a record change: the port's egress; and the Darner's state, the error rings
and the ports. -/

namespace Sys2Proof.Machine

/-- t differs from s at most in the Nalson ports. -/
def NalOnly (s t : State) : Prop := t = { s with nal := t.nal }

theorem NalOnly.refl (s : State) : NalOnly s s := rfl

theorem NalOnly.trans {s t u : State} (h : NalOnly s t) (k : NalOnly t u) : NalOnly s u := by
  unfold NalOnly at *; rw [k, h]

theorem NalOnly.ite {s t u : State} (c : Prop) [Decidable c] (h : NalOnly s t) (k : NalOnly s u) :
    NalOnly s (if c then t else u) := by
  split
  · exact h
  · exact k

theorem modNal_nalOnly (s : State) (p : NPort) (f : Nal → Nal) : NalOnly s (modNal s p f) := rfl

theorem NalOnly.foldl {β : Type} (f : State → β → State) (l : List β) (s : State) (h : ∀ s x, NalOnly s (f s x)) :
    NalOnly s (l.foldl f s) := by
  induction l generalizing s with
  | nil => rfl
  | cons x l ih => exact (h s x).trans (ih _)

theorem pushTxn_nalOnly (s : State) (p : NPort) (t : Txn) : NalOnly s (pushTxn s p t) := by
  unfold pushTxn; split <;> rfl

theorem pushTxns_nalOnly (s : State) (p : NPort) (l : List Txn) : NalOnly s (pushTxns s p l) :=
  NalOnly.foldl _ _ _ fun s t => pushTxn_nalOnly s p t

theorem pumpReads_nalOnly (s : State) (p : NPort) (n : Nat) : NalOnly s (pumpReads s p n) := by
  induction n generalizing s with
  | zero => rfl
  | succ n ih =>
    unfold pumpReads; dsimp only
    split
    · split
      · exact ((modNal_nalOnly _ _ _).trans (pushTxn_nalOnly _ _ _)).trans (ih _)
      · rfl
    · rfl

theorem askRead_nalOnly (s : State) (p : NPort) (r : Mrd) : NalOnly s (askRead s p r) :=
  (modNal_nalOnly _ _ _).trans (pumpReads_nalOnly _ _ _)

theorem afterFlush_nalOnly (s : State) (q : NPort) (l : List Txn) : NalOnly s (afterFlush s q l) := by
  unfold afterFlush
  split
  · exact askRead_nalOnly _ _ _
  · exact pushTxns_nalOnly _ _ _

theorem answer_nalOnly (s : State) (a : Access) (st : Byte) (v : W32) : NalOnly s (answer s a st v) := pushTxn_nalOnly _ _ _

/-- t differs from s at most in the error rings and the Nalson ports. -/
def Reporting (s t : State) : Prop := t = { s with errRings := t.errRings, nal := t.nal }

theorem Reporting.trans {s t u : State} (h : Reporting s t) (k : Reporting t u) : Reporting s u := by
  unfold Reporting at *; rw [k, h]

theorem NalOnly.reporting {s t : State} (h : NalOnly s t) : Reporting s t := by
  unfold NalOnly at h; unfold Reporting; rw [h]

theorem ringWrite_reporting (s : State) (p : NPort) (r : Rec) : Reporting s (ringWrite s p r).1 := by
  unfold ringWrite; dsimp only
  split
  · exact Reporting.trans (t := modErr s p _) rfl (pushTxns_nalOnly _ _ _).reporting
  · rfl

theorem ringWrites_reporting (l : List NPort) (r : Rec) (a : State × List NPort) :
    Reporting a.1 (l.foldl (fun a p => ((ringWrite a.1 p r).1, if (ringWrite a.1 p r).2 then a.2 ++ [p] else a.2)) a).1 := by
  induction l generalizing a with
  | nil => rfl
  | cons x l ih => exact Reporting.trans (ringWrite_reporting _ _ _) (ih _)

/-- The record that a report writes: what R479 asks of it. -/
def recordOf (d : Darn) (rep : Report) (flags count : Nat) (time : W64) (detail : Nat) : Rec :=
  { kind := BitVec.ofNat 16 rep.kind, flags := BitVec.ofNat 8 (flags + if alerting rep.kind then 4 else 0),
    status := rep.status, seq := d.seq + 1, time := time, unit := BitVec.ofNat 8 rep.unit,
    part := match rep.part with | some n => partNo n | none => 0xF,
    station := match rep.station with | some n => BitVec.ofNat 16 n | none => 0xFFFF,
    id := BitVec.ofNat 32 rep.id, count := BitVec.ofNat 16 (min count 65535), detail := BitVec.ofNat 32 detail }

/-- The Darner's state after a record is written. -/
def logged (d : Darn) (rep : Report) (flags count : Nat) (time : W64) (detail : Nat) : Darn :=
  { d with log := tset {} d.log d.head.toNat (recordOf d rep flags count time detail), head := d.head + 1, seq := d.seq + 1,
           records := d.records + 1, pending := d.pending || alerting rep.kind }

theorem Reporting.ite {s t u : State} (c : Prop) [Decidable c] (h : Reporting s t) (k : Reporting s u) :
    Reporting s (if c then t else u) := by
  split
  · exact h
  · exact k

theorem writeRec_effect (s : State) (rep : Report) (flags count : Nat) (time : W64) (detail : Nat) :
    Reporting { s with darn := logged s.darn rep flags count time detail } (writeRec s rep flags count time detail) := by
  unfold writeRec; dsimp only
  refine Reporting.ite _ ?_ (ringWrites_reporting _ _ _)
  exact Reporting.trans (ringWrites_reporting _ _ _) (NalOnly.foldl _ _ _ fun s p =>
    NalOnly.ite _ (NalOnly.refl s) (NalOnly.ite _ (pushTxn_nalOnly _ _ _) (afterFlush_nalOnly _ _ _))).reporting

@[simp] theorem writeRec_darn (s : State) (rep : Report) (flags count : Nat) (time : W64) (detail : Nat) :
    (writeRec s rep flags count time detail).darn = logged s.darn rep flags count time detail := by
  have h := writeRec_effect s rep flags count time detail
  rw [Reporting] at h; rw [h]

/-- t differs from s at most in the Darner's state, the error rings and the Nalson ports. -/
def Reported (s t : State) : Prop := t = { s with darn := t.darn, errRings := t.errRings, nal := t.nal }

theorem Reported.trans {s t u : State} (h : Reported s t) (k : Reported t u) : Reported s u := by
  unfold Reported at *; rw [k, h]

theorem Reported.withDarn (s : State) (d : Darn) : Reported s { s with darn := d } := rfl

theorem Reported.ite {s t u : State} (c : Prop) [Decidable c] (h : Reported s t) (k : Reported s u) :
    Reported s (if c then t else u) := by
  split
  · exact h
  · exact k

theorem Reporting.reported {s t : State} (h : Reporting s t) : Reported s t := by
  unfold Reporting at h; unfold Reported; rw [h]

theorem writeRec_reported (s : State) (rep : Report) (flags count : Nat) (time : W64) (detail : Nat) :
    Reported s (writeRec s rep flags count time detail) := by
  have h := (writeRec_effect s rep flags count time detail).reported
  unfold Reported at *; rw [h]

theorem stormReport_reported (s : State) (rep : Report) : Reported s (stormReport s rep) := by
  unfold stormReport stormCount
  dsimp only
  refine Reported.ite _ ((Reported.withDarn s _).trans (writeRec_reported _ _ _ _ _ _)) ?_
  exact Reported.ite _ (Reported.withDarn s _) (Reported.ite _ (Reported.withDarn s _) (Reported.withDarn s _))

/-- Raising a record changes nothing but the Darner's state, the error rings and the ports. -/
theorem raise_reported (s : State) (rep : Report) : Reported s (raise s rep) := by
  unfold raise
  dsimp only
  refine Reported.ite _ ((Reported.withDarn s _).trans (stormReport_reported _ _)) ?_
  refine Reported.ite _ (Reported.withDarn s _) ?_
  refine Reported.ite _ ?_ ?_
  · exact ((Reported.withDarn s _).trans (writeRec_reported _ _ _ _ _ _)).trans (stormReport_reported _ _)
  · exact ((Reported.withDarn s _).trans (writeRec_reported _ _ _ _ _ _)).trans (Reported.withDarn _ _)

/-- The Darner's state after a report in the storm state (R484). -/
def stormDarn (d : Darn) (time : W64) (rep : Report) : Darn :=
  if alerting rep.kind ∧ d.stormAlerts < 16 then
    logged { d with stormAlerts := d.stormAlerts + 1 } rep 0 rep.count time rep.detail
  else
    let k := BitVec.ofNat 16 rep.kind
    if d.kinds.any (fun x => x.kind == k) then
      { d with kinds := d.kinds.map (fun x => if x.kind = k then { x with count := x.count + 1 } else x) }
    else if d.kinds.length < 32 then { d with kinds := d.kinds ++ [⟨k, 1, time⟩] }
    else { d with overflow := d.overflow + 1 }

/-- The Darner's state after a report: it depends on nothing but the Darner's state, the time and rate_max. -/
def raiseDarn (d : Darn) (time : W64) (rate : Nat) (rep : Report) : Darn :=
  let d := { d with frameReports := d.frameReports + 1 }
  if d.storm then stormDarn d time rep
  else if d.sources.any (fun c => sameSource c rep) then
    { d with coalesced := d.coalesced + 1,
             sources := d.sources.map (fun c => if sameSource c rep then
               { c with more := c.more + 1, moreTime := if c.more = 0 then time else c.moreTime } else c) }
  else if rate ≤ d.frameRecs then
    stormDarn (logged { d with storm := true, stormFrames := d.stormFrames + 1 } { kind := 0xB02 } 0 1 time 0) time rep
  else
    let l := logged { d with frameRecs := d.frameRecs + 1 } rep 0 rep.count time rep.detail
    { l with sources := l.sources ++ [⟨tget {} l.log (l.head - 1).toNat, 0, 0⟩] }

theorem darn_ite (c : Prop) [Decidable c] (a b : State) : (if c then a else b).darn = if c then a.darn else b.darn := by
  split <;> rfl

theorem stormReport_darn (s : State) (rep : Report) : (stormReport s rep).darn = stormDarn s.darn s.time rep := by
  unfold stormReport stormCount stormDarn
  dsimp only
  simp only [darn_ite, writeRec_darn]

theorem writeRec_time (s : State) (rep : Report) (flags count : Nat) (time : W64) (detail : Nat) :
    (writeRec s rep flags count time detail).time = s.time := by
  have h := writeRec_reported s rep flags count time detail
  unfold Reported at h; rw [h]

theorem raise_darn (s : State) (rep : Report) : (raise s rep).darn = raiseDarn s.darn s.time (rateMax s) rep := by
  unfold raise raiseDarn
  dsimp only
  simp only [darn_ite, stormReport_darn, writeRec_darn, writeRec_time]
  rfl

theorem raise_darn_congr {s t : State} (rep : Report) (hd : t.darn = s.darn) (ht : t.time = s.time)
    (hr : rateMax t = rateMax s) : (raise t rep).darn = (raise s rep).darn := by
  rw [raise_darn, raise_darn, hd, ht, hr]

end Sys2Proof.Machine
end

