-- ==== Sys2Proof/Laws/Settings.lean ====
section
/-! SUPPORT. The operations that write the settings: the semaphore, the fold, its press, and the resets. Each keeps the variant and
the queue, canonical memories, and legal settings (`Hold`); those on the semaphore and the fold alone also the applied
settings (`Stay`). -/

namespace Sys2Proof.Machine

/-- Legal applied settings and a legal fold. -/
def Legal (s : State) : Prop := settingsLegal s ∧ foldLegal s

/-- t has the variant and queue of s, and keeps canonical memories and legal settings. -/
def Hold (s t : State) : Prop :=
  t.variant = s.variant ∧ t.pending = s.pending ∧ (memOk s → memOk t) ∧ (Legal s → Legal t)

/-- Hold, and the applied settings of s. -/
def Stay (s t : State) : Prop := t.staged = s.staged ∧ Hold s t

theorem reg_congr {s t : State} (hv : t.variant = s.variant) (hs : t.staged = s.staged) (off : Nat) : reg t off = reg s off := by
  unfold reg; rw [hv, hs]

theorem settingsLegal_congr {s t : State} (hv : t.variant = s.variant) (hs : t.staged = s.staged) (h : settingsLegal s) :
    settingsLegal t := fun off => by rw [reg_congr hv hs, hv]; exact h off

theorem foldLegal_congr {s t : State} (hv : t.variant = s.variant) (hf : t.fold.words = s.fold.words) (h : foldLegal s) :
    foldLegal t := by
  unfold foldLegal; rw [hv, hf]; exact h

theorem Hold.refl (s : State) : Hold s s := ⟨rfl, rfl, id, id⟩

theorem Hold.trans {s t u : State} (h : Hold s t) (k : Hold t u) : Hold s u :=
  ⟨k.1.trans h.1, k.2.1.trans h.2.1, fun x => k.2.2.1 (h.2.2.1 x), fun x => k.2.2.2 (h.2.2.2 x)⟩

theorem Stay.refl (s : State) : Stay s s := ⟨rfl, Hold.refl s⟩

theorem Stay.trans {s t u : State} (h : Stay s t) (k : Stay t u) : Stay s u := ⟨k.1.trans h.1, h.2.trans k.2⟩

theorem Keep.stay {s t : State} (h : Keep s t) : Stay s t := by
  have h1 := h.1
  simp only [State.setup, Prod.mk.injEq] at h1
  obtain ⟨hv, hp, hs, hf, -⟩ := h1
  exact ⟨hs, hv, hp, h.2, fun l => ⟨settingsLegal_congr hv hs l.1, foldLegal_congr hv (congrArg Fold.words hf) l.2⟩⟩

theorem Stay.hold {s t : State} (h : Stay s t) : Hold s t := h.2

theorem Keep.hold {s t : State} (h : Keep s t) : Hold s t := h.stay.hold

/-- Where the words of the fold, the variant, the queue, the applied settings and the memories are as before. -/
theorem Stay.intro {s t : State} (hv : t.variant = s.variant) (hp : t.pending = s.pending) (hs : t.staged = s.staged)
    (hf : t.fold.words = s.fold.words) (hm : t.mems = s.mems) : Stay s t :=
  ⟨hs, hv, hp, fun h => by unfold memOk; rw [hm]; exact h,
    fun l => ⟨settingsLegal_congr hv hs l.1, foldLegal_congr hv hf l.2⟩⟩

/-- An empty fold is legal. -/
theorem Stay.unfolded {s t : State} (hv : t.variant = s.variant) (hp : t.pending = s.pending) (hs : t.staged = s.staged)
    (hf : t.fold.words = []) (hm : t.mems = s.mems) : Stay s t :=
  ⟨hs, hv, hp, fun h => by unfold memOk; rw [hm]; exact h,
    fun l => ⟨settingsLegal_congr hv hs l.1, by unfold foldLegal; rw [hf]; simp⟩⟩

theorem Hold.when {s t : State} (c : Prop) [Decidable c] (h : Hold s t) : Hold s (if c then t else s) := by
  split
  · exact h
  · exact Hold.refl s

theorem Hold.foldl {β : Type} (f : State → β → State) (l : List β) (s : State) (h : ∀ s x, Hold s (f s x)) :
    Hold s (l.foldl f s) := by
  induction l generalizing s with
  | nil => exact Hold.refl s
  | cons x l ih => exact (h s x).trans (ih _)

theorem Stay.withFold (s : State) (f : Fold) (h : f.words = s.fold.words) : Stay s { s with fold := f } :=
  Stay.intro rfl rfl rfl h rfl

theorem Stay.noFold (s : State) (f : Fold) (h : f.words = []) : Stay s { s with fold := f } := Stay.unfolded rfl rfl rfl h rfl

theorem Stay.withSem (s : State) (x : Sem) : Stay s { s with sem := x } := Stay.intro rfl rfl rfl rfl rfl

/-! The semaphore -/

theorem claimSem_stay (s : State) (p : NPort) : Stay s (claimSem s p) := by
  unfold claimSem
  split
  · exact Stay.withSem s _
  · exact Stay.refl s

theorem answer_stay (s : State) (a : Access) (st : Byte) (v : W32) : Stay s (answer s a st v) :=
  (keep_of_still (answer_still _ _ _ _)).stay

theorem dropFold_stay (s : State) : Stay s (dropFold s) := by
  have h := Stay.noFold s { s.fold with words := [], waiting := none } rfl
  unfold dropFold; dsimp only
  split
  · exact h.trans (keep_of_still (pressAnswer_still _ _ _)).stay
  · exact h

theorem raise_stay (s : State) (r : Report) : Stay s (raise s r) := (keep_of_still (raise_still _ _)).stay

theorem semCtl_stay (s : State) (p : NPort) (v : W32) : Stay s (semCtl s p v).2 := by
  unfold semCtl
  split
  · exact Stay.refl s
  split
  · exact Stay.refl s
  split
  · split
    · exact (Stay.withSem s _).trans (dropFold_stay _)
    · exact Stay.refl s
  split
  · split
    · exact ((Stay.withSem s _).trans (dropFold_stay _)).trans (raise_stay _ _)
    · exact Stay.refl s
  · exact Stay.refl s

/-! The fold -/

theorem stageWord_stay (s : State) (off : Nat) (v : W32) {r : Staged} (hr : stagedAt s.variant off = some r)
    (h1 : v &&& r.rsv = 0) (h2 : r.bad v = none) (h3 : s.fold.words.length < 512 ∨ folded s off = true) :
    Stay s (stageWord s off v) := by
  refine ⟨rfl, rfl, rfl, id, fun l => ⟨settingsLegal_congr rfl rfl l.1, ?_⟩⟩
  obtain ⟨hl, hn, hw⟩ := l.2
  have hfilter : ((s.fold.words.filter fun x => x.1 != off).map fun x => x.1) =
      (s.fold.words.map fun x => x.1).filter (fun x => x != off) := by
    rw [List.filter_map]; rfl
  refine ⟨?_, ?_, ?_⟩
  · show ((s.fold.words.filter fun x => x.1 != off) ++ [(off, v)]).length ≤ 512
    rw [List.length_append, List.length_singleton]
    rcases h3 with h3 | h3
    · have := List.length_filter_le (fun x : Nat × W32 => x.1 != off) s.fold.words
      omega
    · have : (s.fold.words.filter fun x => x.1 != off).length < s.fold.words.length := by
        obtain ⟨x, hx, he⟩ : ∃ x ∈ s.fold.words, x.1 = off := by simpa [folded] using h3
        exact List.length_filter_lt_length_iff_exists.mpr ⟨x, hx, by simp [he]⟩
      omega
  · show (((s.fold.words.filter fun x => x.1 != off) ++ [(off, v)]).map fun x => x.1).Nodup
    rw [List.map_append, hfilter, List.nodup_append]
    refine ⟨hn.filter _, by simp, ?_⟩
    intro a ha b hb
    simp at ha hb
    subst hb; exact ha.2
  · intro x hx
    rcases List.mem_append.mp hx with hx | hx
    · exact hw x (List.mem_filter.mp hx).1
    · obtain rfl := List.mem_singleton.mp hx
      refine ⟨by rw [show (stageWord s off v).variant = s.variant from rfl, hr]; rfl, ?_⟩
      rw [show (stageWord s off v).variant = s.variant from rfl, legalAt, hr]
      simp [h1, h2]

theorem foldWrite_stay (s : State) (p : NPort) (off : Nat) (v : W32) : Stay s (foldWrite s p off v).2 := by
  unfold foldWrite
  split
  · exact Stay.refl s
  · rename_i r hr
    split
    · exact Stay.refl s
    split
    · exact Stay.refl s
    split
    · exact Stay.refl s
    split
    · exact Stay.refl s
    · rename_i h1
      split
      · exact Stay.refl s
      · rename_i h2
        split
        · exact Stay.refl s
        · split
          · rename_i h3
            exact stageWord_stay s off v hr (by simpa using h1) h2 (by simpa using h3)
          · exact Stay.refl s

theorem foldChecks_stay (s : State) : Stay s (foldChecks s).2 := by
  unfold foldChecks
  split <;> exact Stay.withFold s _ rfl

theorem freezeFold_stay (s : State) : Stay s (freezeFold s).2 := by
  unfold freezeFold
  split
  · exact Stay.withFold s _ rfl
  · exact Stay.refl s

theorem discardFold_stay (s : State) : Stay s (discardFold s).2 := Stay.noFold s _ rfl

theorem setupWrite_hold (s : State) (a : Access) (off : Nat) (f : State → Byte × State) (h : ∀ s, Hold s (f s).2) :
    Hold s (setupWrite s a off f) := by
  have hm : ∀ s g, Hold s (modNal s a.port g) := fun s g => (keep_of_still (modNal_still _ _ _)).hold
  have ha : ∀ s b w, Hold s (answer s a b w) := fun s b w => (answer_stay s a b w).hold
  unfold setupWrite; dsimp only
  split
  · exact ha _ _ _
  · split
    · exact ha _ _ _
    · split
      · exact ((hm _ _).trans (h _)).trans (ha _ _ _)
      · exact (hm _ _).trans (ha _ _ _)

theorem setupWrite_stay (s : State) (a : Access) (off : Nat) (f : State → Byte × State) (h : ∀ s, Stay s (f s).2) :
    Stay s (setupWrite s a off f) := by
  have hm : ∀ s g, Stay s (modNal s a.port g) := fun s g => (keep_of_still (modNal_still _ _ _)).stay
  have ha : ∀ s b w, Stay s (answer s a b w) := fun s b w => answer_stay s a b w
  unfold setupWrite; dsimp only
  split
  · exact ha _ _ _
  · split
    · exact ha _ _ _
    · split
      · exact ((hm _ _).trans (h _)).trans (ha _ _ _)
      · exact (hm _ _).trans (ha _ _ _)

theorem foldCtl_stay (s : State) (p : NPort) (v rsv : W32) (waits : Bool) (f : State → Byte × State) (h : Stay s (f s).2) :
    Stay s (foldCtl s p v rsv waits f).2 := by
  unfold foldCtl
  repeat' (first | exact Stay.refl s | exact h | split)

theorem foldCtl_hold (s : State) (p : NPort) (v rsv : W32) (waits : Bool) (f : State → Byte × State) (h : Hold s (f s).2) :
    Hold s (foldCtl s p v rsv waits f).2 := by
  unfold foldCtl
  repeat' (first | exact Hold.refl s | exact h | split)

/-! The press -/

/-- Every staged register's reset value is legal. -/
theorem legalAt_reset (v : Variant) (off : Nat) (r : Staged) (h : stagedAt v off = some r) :
    r.reset &&& r.rsv = 0 ∧ r.bad r.reset = none := by
  have h1 : ∀ o, lehrStaged v o = some r → r.reset &&& r.rsv = 0 ∧ r.bad r.reset = none := fun o h => by
    unfold lehrStaged at h
    split at h
    · split at h <;> (obtain rfl := Option.some.inj h; cases v <;> exact ⟨by decide, by decide⟩)
    · split at h <;> first | (obtain rfl := Option.some.inj h; exact ⟨by decide, by decide⟩) | cases h
  have h2 : ∀ o, partStaged o = some r → r.reset &&& r.rsv = 0 ∧ r.bad r.reset = none := fun o h => by
    unfold partStaged at h
    (repeat' split at h) <;> first | (obtain rfl := Option.some.inj h; exact ⟨by decide, by decide⟩) | cases h
  have h3 : ∀ o, barStaged o = some r → r.reset &&& r.rsv = 0 ∧ r.bad r.reset = none := fun o h => by
    unfold barStaged routeStaged at h
    (repeat' split at h) <;> first | (obtain rfl := Option.some.inj h; exact ⟨by decide, by decide⟩) | cases h
  unfold stagedAt at h
  dsimp only at h
  (repeat' split at h) <;>
    first
    | exact h1 _ h
    | exact h2 _ h
    | exact h3 _ h
    | (obtain rfl := Option.some.inj h; exact ⟨by decide, by decide⟩)
    | cases h

theorem setReg_reg (s : State) (off : Nat) (v : W32) (o : Nat) :
    reg (setReg s off v) o = if o = off ∧ (stagedAt s.variant off).isSome = true then v else reg s o := by
  unfold setReg
  split
  · rename_i r hr
    unfold reg
    dsimp only
    by_cases ho : o = off
    · subst ho; simp [hr]
    · simp only [ho, false_and, if_false]
      split
      · exact tget_tset_other _ _ _ ho
      · rfl
  · rename_i hr
    simp [hr]

theorem setReg_hold (s : State) (off : Nat) (v : W32) (h : legalAt s.variant off v = true) : Hold s (setReg s off v) := by
  have hv : (setReg s off v).variant = s.variant := by unfold setReg; split <;> rfl
  have hp : (setReg s off v).pending = s.pending := by unfold setReg; split <;> rfl
  have hm : (setReg s off v).mems = s.mems := by unfold setReg; split <;> rfl
  have hf : (setReg s off v).fold = s.fold := by unfold setReg; split <;> rfl
  refine ⟨hv, hp, fun x => by unfold memOk; rw [hm]; exact x, fun l => ⟨fun o => ?_, foldLegal_congr hv (by rw [hf]) l.2⟩⟩
  rw [setReg_reg, hv]
  split
  · rename_i ho; rw [ho.1]; exact h
  · exact l.1 o

theorem setRegs_hold (l : List (Nat × W32)) (s : State) (h : ∀ x ∈ l, legalAt s.variant x.1 x.2 = true) :
    Hold s (l.foldl (fun s x => setReg s x.1 x.2) s) := by
  induction l generalizing s with
  | nil => exact Hold.refl s
  | cons x l ih =>
    have h1 := setReg_hold s x.1 x.2 (h x (by simp))
    refine h1.trans (ih _ fun y hy => ?_)
    rw [h1.1]; exact h y (by simp [hy])

theorem laid_hold (s : State) (h : Legal s) : Hold s (laid s) := setRegs_hold _ _ fun x hx => (h.2.2.2 x hx).2

theorem laid_still (s : State) : (laid s).variant = s.variant ∧ (laid s).pending = s.pending ∧ (laid s).mems = s.mems := by
  have h : ∀ (l : List (Nat × W32)) (t : State), (l.foldl (fun s x => setReg s x.1 x.2) t).variant = t.variant ∧
      (l.foldl (fun s x => setReg s x.1 x.2) t).pending = t.pending ∧
      (l.foldl (fun s x => setReg s x.1 x.2) t).mems = t.mems := by
    intro l
    induction l with
    | nil => intro t; exact ⟨rfl, rfl, rfl⟩
    | cons x l ih =>
      intro t
      have hv : (setReg t x.1 x.2).variant = t.variant := by unfold setReg; split <;> rfl
      have hp : (setReg t x.1 x.2).pending = t.pending := by unfold setReg; split <;> rfl
      have hm : (setReg t x.1 x.2).mems = t.mems := by unfold setReg; split <;> rfl
      have := ih (setReg t x.1 x.2)
      rw [List.foldl_cons]
      exact ⟨this.1.trans hv, this.2.1.trans hp, this.2.2.trans hm⟩
  exact h _ _

/-- With a legal fold, or none to say of it. -/
theorem applyFold_hold (s : State) : Hold s (applyFold s) := by
  have hl := laid_still s
  have hm : ∀ f, memOk s → memOk { laid s with fold := f } := fun f x => by
    rw [memOk_mk, memsOk_eta]; unfold memOk; rw [hl.2.2]; exact x
  have h : Hold s { laid s with fold := { (laid s).fold with words := [], waiting := none } } :=
    ⟨hl.1, hl.2.1, hm _,
      fun l => ((laid_hold s l).trans (Stay.noFold _ _ rfl).hold).2.2.2 l⟩
  unfold applyFold
  dsimp only
  refine Hold.trans ?_ (pressFills_keep _ _).hold
  refine Hold.trans ?_ (keep_of_still (pressScrub_still _ _)).hold
  refine Hold.trans ?_ (keep_of_still (pressTest_still _ _)).hold
  refine Hold.trans ?_ (keep_of_still (pressCap_still _ _)).hold
  refine Hold.trans ?_ (Hold.foldl _ _ _ fun _ _ => (keep_of_still (modBar_still _ _ _)).hold)
  refine Hold.trans ?_ (Hold.foldl _ _ _ fun _ _ => (keep_of_still (enableMya_still _ _ _)).hold)
  split
  · refine Hold.trans ?_ (keep_of_still (retarget_still _ _)).hold
    refine Hold.trans ?_ (Hold.foldl _ _ _ fun _ _ => (moveClusters_keep _ _ _ _ _).hold)
    exact Hold.trans h (Hold.foldl _ _ _ fun _ _ => (moveClusters_keep _ _ _ _ _).hold)
  · refine Hold.trans ?_ (Hold.foldl _ _ _ fun _ _ => (moveClusters_keep _ _ _ _ _).hold)
    exact Hold.trans h (Hold.foldl _ _ _ fun _ _ => (moveClusters_keep _ _ _ _ _).hold)

theorem press_hold (s : State) : Hold s (press s).2 := by
  unfold press
  split
  · exact (Stay.withFold s _ rfl).hold
  · dsimp only
    split
    · exact (foldChecks_stay s).hold.trans (applyFold_hold _)
    · exact (foldChecks_stay s).hold.trans (Stay.withFold _ _ rfl).hold

theorem pressWrite_hold (s : State) (a : Access) (v : W32) : Hold s (pressWrite s a v) := by
  unfold pressWrite
  dsimp only
  split
  · exact ((keep_of_still (modNal_still _ _ _)).hold).trans (Stay.withFold _ _ rfl).hold
  · exact setupWrite_hold s a _ _ fun s => foldCtl_hold s _ _ _ _ _ (press_hold s)

theorem regWrite_stay (s : State) (p : NPort) (off : Nat) (v : W32) : Stay s (regWrite s p off v).2 := by
  unfold regWrite
  split
  · exact foldWrite_stay _ _ _ _
  split
  · exact (keep_of_still (ringRegWrite_still _ _ _ _ _)).stay
  split
  · exact (ecctWrite_keep _ _ _ _).stay
  split
  · exact semCtl_stay _ _ _
  · exact foldCtl_stay _ _ _ _ _ _ (foldChecks_stay _)
  · exact foldCtl_stay _ _ _ _ _ _ (freezeFold_stay _)
  · exact foldCtl_stay _ _ _ _ _ _ (discardFold_stay _)
  · exact (keep_of_still (ageCtl_still _ _)).stay
  · exact (keep_of_still (testCtl_still _ _)).stay
  · exact (keep_of_still (alertWrite_still _ _)).stay
  · exact (keep_of_still (selWrite_still _ _ _)).stay
  · exact Stay.refl s

/-! Resets -/

/-- Settings at their reset values, and an empty fold, are legal. -/
theorem legal_fresh {s : State} (hs : s.staged = []) (hf : s.fold.words = []) : Legal s := by
  refine ⟨fun off => ?_, by unfold foldLegal; rw [hf]; simp⟩
  unfold legalAt reg
  rw [hs]
  split
  · rename_i r hr
    have := legalAt_reset _ _ _ hr
    simp [hr, tget, this]
  · rfl

theorem Hold.fresh {s t : State} (hv : t.variant = s.variant) (hp : t.pending = s.pending) (hs : t.staged = [])
    (hf : t.fold.words = []) (hm : t.mems = ([], [], {}, {})) : Hold s t :=
  ⟨hv, hp, fun _ => by unfold memOk; rw [hm]; exact ⟨fun _ => rfl, fun _ => rfl, rfl, rfl⟩, fun _ => legal_fresh hs hf⟩

theorem withoutPower_hold (s : State) : Hold s (withoutPower s) := Hold.fresh rfl rfl rfl rfl rfl

theorem withoutFast_hold (s : State) : Hold s (withoutFast s) := Hold.fresh rfl rfl rfl rfl rfl

theorem deviceReset_hold (s : State) (cause : Nat) : Hold s (deviceReset s cause) := by
  unfold deviceReset
  dsimp only
  refine Hold.trans ?_ (keep_of_still (bootRom_still _)).hold
  refine Hold.trans ?_ (keep_of_still (modBoot_still _ _)).hold
  refine Hold.trans ?_ (withoutFast_hold _)
  exact ((keep_of_still (sendDown_still _ _ _)).trans (keep_of_still (sendDown_still _ _ _))).hold

theorem loseClock_hold (s : State) (c : ClockId) : Hold s (loseClock s c) := by
  have hl : ∀ l, Hold s { s with pllLost := l } := fun l => (keep_of_still (still_pllLost s l)).hold
  unfold loseClock
  dsimp only
  split
  · exact (hl _).trans (Hold.foldl _ _ _ fun _ _ => (keep_of_still (beginReset_still _ _ _)).hold)
  · exact (hl _).trans (Hold.foldl _ _ _ fun _ _ => (keep_of_still (beginReset_still _ _ _)).hold)
  · exact (hl _).trans (endOperations_keep _ _).hold
  · exact (hl _).trans (Hold.foldl _ _ _ fun _ _ => (Keep.unless _ (keep_of_still (linkDown_still _ _))).hold)
  · exact ((keep_of_still (takeFree_still s)).hold.trans (keep_of_still (still_oscLost _ _)).hold).trans (deviceReset_hold _ _)

theorem afterLoss_hold (s : State) : Hold s (afterLoss s) := by
  unfold afterLoss
  dsimp only
  split
  · exact (keep_of_still (modHup_still _ _)).hold.trans (deviceReset_hold _ _)
  · exact (keep_of_still (modHup_still _ _)).hold

end Sys2Proof.Machine
end

