-- ==== Sys2Proof/Machine/Lands.lean ====
section
/-! DEFINITION. The land grid (R525–R530): land names, regions, groups, the lands of the SerDes lanes and of the sideband block. A
land is a row index, 1 to 76 from north to south, and a column, 1 to 96 from west to east. -/

namespace Sys2Proof.Machine

/-- A land: row index and column. -/
abbrev Land : Type := Nat × Nat

/-- The letters of row names (R526): letter k + 1 at place k. -/
def rowLetters : List Char := ['A', 'B', 'C', 'D', 'E', 'F', 'G', 'H', 'J', 'K', 'L', 'M', 'N', 'P', 'T', 'U', 'V', 'W', 'Y']

/-- The name of row i (R526). -/
def rowName (i : Nat) : List Char :=
  let q := (i - 1) / 19
  let last := (rowLetters[(i - 1) % 19]?).toList
  if q = 0 then last else (rowLetters[q - 1]?).toList ++ last

/-- The regions of the grid (R527). -/
inductive Region where
  | northStack | westEdge | coreField | eastEdge | southStack | sideband
deriving DecidableEq, Repr

/-- The region of a land: rows 1–19 are A–Y, 20–57 AA–BY, 58–70 CA–CN, 71–76 CP–CY. -/
def regionOf (l : Land) : Region :=
  if l.1 ≤ 19 then .northStack
  else if l.1 ≤ 57 then (if l.2 ≤ 12 then .westEdge else if l.2 ≤ 84 then .coreField else .eastEdge)
  else if l.1 ≤ 70 ∨ 23 ≤ l.2 then .southStack
  else .sideband

/-- The groups of populated lands and their sizes (R528), in the table's order. -/
def landGroups : List Nat := [720 + 720, 90 + 90, 200, 140, 120, 80, 16, 80, 4, 2700, 22, 64, 288, 2, 68, 40]

/-! SerDes lanes (R529) -/

/-- The slot of a lane on its edge: Myarn ports 0–3 and Nalson port 0 stand on the west edge, the others on the east. -/
def laneSlot : Link → Nat → Nat
  | .myarn p, l => 9 * (p.val % 4) + l
  | .nalson _, l => 36 + l

/-- Whether a port stands on the east edge. -/
def eastLink : Link → Bool
  | .myarn p => decide (4 ≤ p.val)
  | .nalson p => p == 1

/-- The land of a lane's transmitter or receiver, P or N. -/
def laneLand (k : Link) (l : Nat) (tx n : Bool) : Land :=
  let s := laneSlot k l
  let west := 1 + 3 * (s % 2) + (if tx then 0 else 6) + (if n then 1 else 0)
  (20 + s / 2, if eastLink k then 97 - west else west)

/-! The sideband block (R530) -/

/-- The signals of the sideband block. -/
inductive Signal where
  | brdId (k : Nat) | chainPos (k : Nat) | fanPwm (f : Nat) | fanTach (f : Nat) | snkScl | snkSda | mgtScl | mgtSda | perstN | pwrfailN
  | pwrSafe | thermtripN | alertN | budgetSel (k : Nat) | hupEn | hupTest | hupVsense | hupScl | hupSda | avsClk | avsMdata | avsSdata
  | tck | tms | tdi | tdo | trstN | srefP | srefN | senseP (rail : Nat) | senseN (rail : Nat) | vss | vddAon
deriving DecidableEq, Repr

/-- The signal of a land of the sideband block: CP is row 71, CT row 72, CU 73, CV 74, CW 75, CY 76. -/
def sidebandSignal (l : Land) : Option Signal :=
  let c := l.2
  match l.1 with
  | 76 => if 1 ≤ c ∧ c ≤ 16 then some (.brdId (c - 1)) else none
  | 75 => if 1 ≤ c ∧ c ≤ 16 then some (.chainPos (c - 1)) else none
  | 74 =>
    if 1 ≤ c ∧ c ≤ 12 then some (if c % 2 = 1 then .fanPwm ((c - 1) / 2) else .fanTach ((c - 2) / 2))
    else if c = 0 then none
    else ([Signal.snkScl, .snkSda, .mgtScl, .mgtSda])[c - 13]?
  | 73 => if c = 0 then none else
    ([Signal.perstN, .pwrfailN, .pwrSafe, .thermtripN, .alertN, .budgetSel 0, .budgetSel 1, .hupEn, .hupTest, .hupVsense, .hupScl,
      .hupSda, .avsClk, .avsMdata, .avsSdata, .vss])[c - 1]?
  | 72 => if c = 0 then none else
    ([Signal.tck, .tms, .tdi, .tdo, .trstN, .srefP, .srefN, .vss, .vddAon, .vddAon, .vddAon, .vddAon, .vss, .vss, .vss, .vss])[c - 1]?
  | 71 => if 1 ≤ c ∧ c ≤ 22 then some (if c % 2 = 1 then .senseP ((c - 1) / 2) else .senseN ((c - 2) / 2)) else none
  | _ => none

/-- The device's internal pull on a signal, where it has one: up (true) or down. -/
def pullOf : Signal → Option Bool
  | .brdId _ | .chainPos _ | .perstN | .budgetSel _ | .tck | .trstN => some false
  | .fanTach _ | .pwrfailN | .tms | .tdi => some true
  | _ => none

end Sys2Proof.Machine
end

