-- ==== Sys2Proof/WellFormed.lean ====
section
/-! DEFINITION. Which commands are well formed: operands whose length the manual fixes have it, and numbers stay in their
ranges. Machine meanings are total and need none of it; a statement about what a surrounding may send can. -/

namespace Sys2Proof

/-- Poison positions name 8-byte words of the data. -/
def poisonWithin (data : List Byte) (poison : List Nat) : Bool := poison.all (fun i => decide (8 * i < data.length))

/-- A flit carries 240 payload bytes (R288). -/
def Flit.wellFormed (f : Flit) : Bool := decide (f.payload.length = 240) && decide f.errors.Nodup

/-- A RETRAIN flit is a flit. -/
def RetrainCause.wellFormed : RetrainCause → Bool
  | .flit f => f.wellFormed
  | .lockLost => true

/-- A packet carries at most 4,096 data bytes, as many as its length field says (R350). -/
def Packet.wellFormed (p : Packet) : Bool :=
  decide (p.data.length ≤ 4096) && decide (p.len.toNat = p.data.length) && poisonWithin p.data p.poison

/-- A stack access stays within 4 KiB and, as a write, brings its bytes (R223, R206). -/
def StackAccess.wellFormed (a : StackAccess) : Bool :=
  decide (0 < a.len) && decide (a.len ≤ 4096) && (!a.write || decide (a.data.length = a.len))

/-- Forty-eight domains, eight stacks, five classes of monitors (R382, R209, R414). -/
def FrameInputs.wellFormed (f : FrameInputs) : Bool :=
  decide (f.domains.length = 48) && decide (f.stackTemp.length = 8)

/-- The form of a command. -/
def Instr.wellFormed : Instr → Bool
  | .frameBoundary f => f.wellFormed
  | .retuneMeasurement _ errors => decide (errors.length = 64)
  | .refreshDue _ _ _ next => next.all (fun b => decide (b < 16))
  | .interleaveService _ next => next.all (fun b => decide (b < 16))
  | .ordinaryAccess a => a.wellFormed
  | .transactionFlit _ f => f.wellFormed
  | .nullFlit _ f => f.wellFormed
  | .cap _ f => f.wellFormed
  | .capAck _ f => f.wellFormed
  | .retrain _ c => c.wellFormed
  | .down _ f => f.wellFormed
  | .spare _ f _ => f.wellFormed
  | .spareAck _ f => f.wellFormed
  | .cpld _ _ _ _ _ data => decide (data.length ≤ 4096)
  | .sdata _ p => p.wellFormed && (p.kind == 1)
  | .swrite _ p => p.wellFormed && (p.kind == 2)
  | .announce _ p => p.wellFormed && (p.kind == 3)
  | .arrive _ p => p.wellFormed && (p.kind == 4)
  | .release _ p => p.wellFormed && (p.kind == 5)
  | .lendingCompute g => decide (g.length ≤ 1024)
  | .currentTelemetryCheck a b => decide (a.length = b.length)
  | .headerStage _ _ pct => decide (pct.length ≤ 4)
  | .thermalSample r l => decide (r.length = 352) && decide (l.length = 32)
  | .tachCheck i r => decide (i.length = 6) && decide (r.length = 6)
  | _ => true

end Sys2Proof
end

