-- ==== Sys2Proof/Tests/Slice0.lean ====
section
/-! SUPPORT. Tests: ill-formed commands that `wellFormed` refuses, worked examples of the manual, and for every clause of a
statement that has hypotheses a state and operands that meet them (`meets_<clause>`, one part for each case of the clause). -/

namespace Sys2Proof.Tests

-- One test after another: many at a time would hold the memory of each.
set_option Elab.async false

open Sys2Proof.Machine
open Sys2Proof.Claims

/-! Small states -/

/-- A device that is on and released, with both Nalson ports up at level 1. -/
def up : State :=
  { State.reset with
    time := 3000000, boot := { phase := 9 }, pins := { pwrfail := true, perst := true }
    nal := [(0, { lk := { phase := .up, level := 1 } }), (1, { lk := { phase := .up, level := 1 } })] }
/-- The same with the semaphore held by port 0. -/
def held : State := { up with sem := { held := true, owner := 0, renewed := 500000 } }
/-- With a word in the fold. -/
def folded1 : State := { held with fold := { words := [(0x800F04, 17)] } }
/-- Cluster 0 asked for by partitions 0 and 1. -/
def clash : State := { held with fold := { words := [(0xA00000, 1), (0xA00020, 1)] } }
/-- A descriptor of level 1 and no partition, read and first in its ring. -/
def desc (op : Byte) (args : List W64) : Desc := { k := 0, stage := .read, opcode := op, lvlPart := 1, args }
/-- Ring 0 of port 0 enabled, with one descriptor read. -/
def asked (d : Desc) : State := { held with rings := [(0, { cfg := 0x2006, descs := [d] })] }
/-- Ring 0 of port 0 enabled and empty. -/
def ring0 : State := { held with rings := [(0, { cfg := 0x2006, lastDbl := 7, prod := 7, nextK := 7 })] }
/-- A read of descriptor 0 under tag 3, issued at 1,750,000. -/
def reading : State :=
  { held with
    rings := [(0, { cfg := 0x2006, descs := [{ k := 0, stage := .reading }] })]
    nal := [(0, { lk := { phase := .up, level := 1 }, tags := [(3, { addr := 0, len := 64, owner := .desc 0 0, issued := 1750000 })],
                  retired := [(9, 1750000)] }), (1, { lk := { phase := .up, level := 1 } })] }
/-- A fetch of len bytes for the descriptor, its first 64 read under tag 3. -/
def fetching (len : Nat) : State :=
  { reading with
    nal := [(0, { lk := { phase := .up, level := 1 }, tags := [(3, { addr := 0, len := 64, owner := .fetch 3 0, issued := 1750000 })] })]
    fetches := [(.desc ⟨0, 0, 0⟩, { no := 3, port := 0, addr := 0, len })] }
/-- State s in which the host has answered r to a reader's fetch. -/
def fetchedWith (id : Reader) (r : HostRead) (s : State) : State :=
  { s with fetches := [(id, { no := 3, port := 0, addr := 0, len := 64, res := some r })] }
/-- An instruction word of its fields: opcode with the two format tags, mod, x, y, z, imm. -/
def iw (op md x y z imm : Nat) : IWord :=
  BitVec.ofNat 128 (op + md * 2 ^ 42 + x * 2 ^ 48 + y * 2 ^ 68 + z * 2 ^ 88 + imm * 2 ^ 108)
/-- The same word with a wait for n posts of peg p. -/
def iwWait (w : IWord) (p n : Nat) : IWord := w ||| BitVec.ofNat 128 (p * 2 ^ 16 + n * 2 ^ 21)
/-- A run of partition 0 that has started. -/
def run0 : Run := { desc := ⟨0, 0, 0⟩, seq := 0, slots := [], started := true }
/-- A part of cluster 0 runs. -/
def runs : State :=
  { held with
    staged := [(0xA00000, 1)]
    parts := [(0, { st := .running, run := some run0 })] }
/-- The programs of a core: every engine's subsection is 4 KiB from 0x1C0000, the plan's from 0x1D0000. -/
def progs0 : List (Nat × Nat) := List.replicate 7 (0x1C0000, 4096) ++ [(0x1D0000, 4096)]
/-- Core 0's engine e runs with w at the head of its queue. -/
def issuing (e : Nat) (w : IWord) : State :=
  { runs with cores := [(0, { eng := [(e, { st := .running, pc := 5, queue := [w] })], progs := progs0,
                              sreg := [(1, 3), (2, 5)], base := [(1, 128)] })] }
/-- The same with a plan of two entries, the first a send and the second a receive. -/
def planned (w : IWord) : State :=
  writeBytes (issuing 1 w) (.slice 0) 0x1D0000 ([2, 0, 0, 0, 0, 0, 0, 0, 16, 0, 0, 0, 0, 0, 0, 0] ++ [0, 2, 0, 0, 0, 0, 0, 0] ++ [1, 3]) false
/-- Core 0 of `issuing`, changed by f. -/
def issuingWith (e : Nat) (w : IWord) (f : Core → Core) : State := modCore (issuing e w) 0 f
/-- The first rows of a tile of FP8 codes at basket address 0, and of another at 0x1040. -/
def tiled (s : State) : State :=
  writeBytes (writeBytes s (.basket 0) 0 [0x38, 0x40, 0xB8, 1, 0x7E, 0x7F, 0, 0x30] false) (.basket 0) 0x1040
    [0x38, 0x39, 0x3A, 0x3B, 0xBC, 0x3D, 0x3E, 0x3F] false
/-- A descriptor of partition 0. -/
def descP (op : Byte) (args : List W64) : Desc := desc op args
/-- A schedule image of one cluster with no station. -/
def img0 : Image :=
  { level := 1, h := 1, ww := 1, we := 0, length := 64, stations := [], streams := [], cores := [], nbus := [], seed := 0, tag := 9 }
/-- The bytes of an image of one cluster and one Rinse station, but for its first 16. -/
def imgTail : List Byte :=
  [1, 0, 0, 0, 32, 0, 0, 0, 64, 0, 0, 0, 0, 0, 0, 0, 192, 0, 0, 0] ++ zeros 20 ++ [9] ++ zeros 7 ++
  [65] ++ zeros 31 ++ [3, 0, 0, 0, 0, 0, 0, 0, 1, 0, 1, 0, 255, 255] ++ zeros 18 ++ [1, 0, 0, 0, 1, 0, 0, 0, 1] ++ zeros 55 ++ zeros 256
/-- The same image whole, with its CRC. -/
def imgB : List Byte :=
  let h : List Byte := [0x59, 0x4B, 0x53, 0x49, 1, 1, 1, 0, 0xC0, 1, 0, 0]
  h ++ leBytes (imageCrc (h ++ zeros 4 ++ imgTail)).toNat 4 ++ imgTail
/-- Partition 0, of cluster 0, as p says, its header on, with one descriptor read. -/
def parted (p : Part) (d : Desc) : State :=
  { asked d with staged := [(0xA00000, 1)], parts := [(0, p)], power := { hdr := [(0, { stage := 8, lit := true })] } }
/-- Partition 0 as p says, no descriptor. -/
def part0 (p : Part) : State :=
  { held with
    staged := [(0xA00000, 1)], parts := [(0, p)]
    power := { hdr := [(0, { stage := 8, lit := true })], avs := [(0, { good := 900, target := 900, readback := 900, want := 900 })] } }
/-- The settings of a partition 0 that owns cluster 0 and NBU 0 and reaches the first 16 GiB of the striped window, with a parameter block table
of 8 entries at 1 MiB. -/
def stackRegs : Tab W32 :=
  [(0x500000, 0xFFFFFFF0), (0xA00000, 1), (0xA05000, 0x100), (0xA05004, 8), (0xD01008, 0x400000)]
/-- Site 0 trained, with a descriptor of partition 0 read. -/
def stacked (d : Desc) : State := { asked d with staged := stackRegs, stk := [(0, { trained := true })] }
/-- A block of one FP8 tile. -/
def pb0 : PbEntry := ⟨0x200000, 0x210000, 0x220000, 0, 64, 64, 0, 0, 1, 0, 0, 0⟩
/-- The same with bytes b in stack memory at 64 KiB. -/
def stackedWith (b : List Byte) (d : Desc) : State := writeStack (stacked d) 0x10000 (bytesWords (b.length / 8) b)
/-- With block 3 as e says. -/
def blocked (e : PbEntry) (d : Desc) : State := setPb (stacked d) 3 e
/-- A copy of 128 bytes in progress under number 0. -/
def copying (x : Xfer) : State := { stacked (descP 8 []) with xfers := [(0, some x)], nextXfer := 1 }
/-- The copy from host memory. -/
def xferIn : Xfer := { kind := .copyIn, desc := some ⟨0, 0, 0⟩, part := 0, src := 0x1000, dst := 0x40, len := 128 }
/-- Port 0 with link state k. -/
def linked (k : Lk) : State := { held with nal := [(0, { lk := k }), (1, { lk := { phase := .up, level := 1 } })] }
/-- Myarn port 0 with state n. -/
def myaIs (n : Mya) : State := { held with mya := [(0, n)], staged := [(0x600004, 1)], moduleId := 5 }
/-- A flit that passes its checks. -/
def flit (h : W64) (b : List Byte) : Flit :=
  { header := h, payload := b, crc := crc64 (leBytes h.toNat 8 ++ b) }
/-- A link-control flit that begins with bytes b. -/
def ctlFlit (b : List Byte) : Flit := flit 2 b
/-- State s once port l has taken the codeword and the header of flit f. -/
def took (s : State) (l : Link) (f : Flit) : State := (takeHeader (passCodeword s l f).2 l f.header).getD up
/-- A Myarn packet of a kind for stream or barrier 7 of partition 0 of this module, from module 9. -/
def pkt (k : Byte) (g : W64) (d : List Byte) : Packet :=
  { segment := 0xE0, relay := 0, dst := 0, kind := k, dstId := 5, ident := 7, len := BitVec.ofNat 16 d.length, srcId := 9, arg := g, data := d, poison := [] }
/-- Myarn port 0 up on a module with partition 0 and site 0, and with settings l. -/
def mod0 (l : Tab W32) : State :=
  { myaIs { lk := { phase := .up, credits := [99, 99, 99] } } with
    staged := [(0x500000, 0xFFFFFFF0), (0x600004, 0x101), (0xA00000, 1), (0xA05000, 0x100), (0xA05004, 8)] ++ l ++ [(0xD01008, 0x400000)]
    stk := [(0, { trained := true })] }
/-- The same with stream 7 of partition 0 as e says. -/
def mod0From (e : Strm) : State := { mod0 [] with received := [(7, e)] }
/-- A run of partition 0 whose station 0 receives Myarn stream 7 into stream 0, with a buffer of 64 words. -/
def binding (o : Option Byte) : State :=
  { mod0From { source := some 9, broken := o } with
    parts := [(0, { st := .running
                    image := some { img0 with
                      stations := [{ name := [], kind := 9, fmtIn := 0, fmtOut := 0, stoch := false, esc := false, b0 := 0, b1 := 0,
                                     b2 := 0, b3 := 0, fallback := 0, p := [7] }]
                      streams := [{ src := 0, dst := 1, fmt := 0, scale := 0, cap := 1, route := 0, weight := false, tiles := 1 }] }
                    run := some { run0 with bufs := [(0, { units := [0], size := 64, put := 0, got := 0 })] } })] }
/-- A held announce of stream 7 of partition 0. -/
def held0 (host : Bool) (t : W64) : Held :=
  { part := 0, stream := 7, count := 64, host, target := 0x1000, value := 3, time := t, port := 0 }
/-- MYA descriptor of opcode op to module 9 along port 0, with its first three words. -/
def descM (op : Byte) (a b c : W64) : Desc := desc op [a, b, c, 0xE00, 0x90000FFFF, 0]
/-- A module with it first in its ring. -/
def sending (d : Desc) : State := { mod0 [] with rings := (asked d).rings }
/-- Barrier 7 configured as c, in live state b. -/
def barred (c : W32) (l : Tab W32) (b : Bar) : State := { mod0 ([(0xB00700, c)] ++ l) with bars := [(7, b)] }
/-- The same with engine 0 of core 0 waiting there. -/
def waitingAt (c : W32) (b : Bar) : State :=
  { barred c [] b with cores := [(0, { eng := [(0, { st := .waitBarrier, flight := [{ until_ := .barrier 7 none }] })] })] }
/-- Partition 0's run as r says. -/
def runIs (r : Run) : State := { runs with parts := [(0, { st := .running, run := some r })] }
/-- A run whose next data slip decision is a, with the slip counts x. -/
def slipping (a : Ahead) (x : Slips) : State :=
  { runs with parts := [(0, { st := .running, run := some { run0 with cycle := 5, ahead := a :: List.replicate 8 {} }, slips := x })] }
/-- NBU 0 as n says, with a descriptor of partition 0 read. -/
def nbuWith (n : Nbu) (d : Desc) : State := { stacked d with nbus := [(0, n)] }
/-- A FILL of unit 1 of the local part, asked for by a descriptor of ring 1. -/
def fillOp : Op := { words := [0x14, 0, 0, 1, 1, 7, 8], source := .desc ⟨0, 1, 0⟩ 0 0 }
/-- The same started at t. -/
def filling (t : W64) : Nbu := { ops := [{ fillOp with started := true, start := t }] }
/-- A record's 64 bytes of its first words. -/
def recB (l : List W32) : List Byte := let b := l.flatMap (fun w => leBytes w.toNat 4); b ++ zeros (64 - b.length)
/-- A station of a kind with parameters and a binding to NBU 0. -/
def sta (kind : Nat) (p : List W32) : Station :=
  { name := [], kind, fmtIn := 0, fmtOut := 0, stoch := false, esc := false, b0 := 0, b1 := 1, b2 := 0, b3 := 0, fallback := 0, p }
/-- A stream from a station to another, of one FP8 tile. -/
def strm (a b : Nat) : Stream := { src := a, dst := b, fmt := 0, scale := 0, cap := 0, route := 1, weight := false, tiles := 1 }
/-- Partition 0 runs image i, with NBU 0 as n says, and run r. -/
def nbuRun (i : Image) (r : Run) (n : Nbu) : State :=
  { nbuWith n (desc 0 []) with parts := [(0, { st := .running, image := some i, run := some r })] }
/-- An image of one NBU station with a program of no input tile. -/
def imgNbu : Image := { img0 with stations := [sta 12 [0x14]], nbus := [{ first := 0, count := 1, station := 0, program := zeros 16 }] }
/-- An invocation of station 0 of partition 0. -/
def inv0 : Invoke := { part := 0, station := 0 }
/-- A program of one FILL. -/
def progFill (dst : W32) : List Byte := zeros 16 ++ recB [0x14, 0, 0, dst, 1, 7, 8]
/-- A block table of two sequences, one layer, one head of 32 values, at 64 KiB. -/
def tableHead : List Byte :=
  [0x59, 0x4B, 0x42, 0x54, 2, 0, 0, 0, 1, 0, 1, 0, 32, 0, 1, 0] ++ leBytes 64 8 ++ leBytes 2240 8 ++ leBytes 2304 8 ++ leBytes 2 4 ++ zeros 20
/-- An image with an append station 1 of stream 0, and a decode station 2 whose partner it is. -/
def imgKv : Image :=
  { img0 with
    stations := [sta 1 [], sta 11 [0, 32, 0, 0, 0, 1], sta 12 [0x11], sta 1 []]
    streams := [strm 0 1, strm 0 2, strm 2 3]
    nbus := [{ first := 0, count := 1, station := 2, program := [0, 0, 1, 0] ++ zeros 12 }] }
/-- Its run, with block table h held for slot 0. -/
def runKv (h : List Byte) : Run := { run0 with slots := [⟨5, 0x10000, 4096, 0⟩], tables := [(0, h, [0, 0, 0, 0, 1, 0, 0, 0])] }
/-- Partition 0 runs it, with append a and invocation v. -/
def kvRun (h : List Byte) (a : Append) (v : Invoke) : State :=
  { nbuRun imgKv (runKv h) {} with appends := [a], invokes := [v] }
/-- The words of a legal FP8 tile. -/
def tileWords : List (W64 × Bool) :=
  List.replicate 512 (0, false) ++ [(0x3F800000, false), (0, false), (0, false), (0x4040, false)] ++ List.replicate 4 (0, false)
/-- An image whose NBU station 1 takes one tile. -/
def imgIn : Image :=
  { img0 with
    stations := [sta 1 [], sta 12 [0x14]], streams := [strm 0 1]
    nbus := [{ first := 0, count := 1, station := 1, program := [0, 0, 1, 0] ++ zeros 12 }] }
/-- The invocation of that station with words w in hand. -/
def invIn (w : List (W64 × Bool)) : Invoke := { inv0 with station := 1, words := w }
/-- NBU 0 fenced with operations a, its buddy with b. -/
def turns (a b : List Op) : State :=
  { stacked (desc 0 []) with nbus := [(0, { fenced := true, ops := a }), (64, { ops := b })] }
/-- NBU 0 runs an operation, and bank 3 of its group is owed, postponed k times. -/
def owedBank (k : Nat) : State := { nbuWith (filling 2999999) (desc 0 []) with banks := [(bankKey 0 3, { owed := true, count := k })] }
/-- The host has answered b to the fetch of the first descriptor of ring 0. -/
def gotList (b : List Byte) (s : State) : State := fetchedWith (.desc ⟨0, 0, 0⟩) (.data b []) s
/-- The block table in stack memory, with a descriptor of partition 0 read. -/
def tabled (d : Desc) : State := writeStack (stacked d) 0x10000 (bytesWords 8 tableHead)
/-- The run of partition 0, with the power controller as w says. -/
def powered (w : Power) : State := { runs with power := w }
/-- The run of partition 0 at 12 s, with the thermal controller as w says. -/
def warm (w : Therm) : State := { runs with time := 300000000, therm := w }
/-- The same with partition 0 halted by temperature, cool since t. -/
def halted (t : W64) : State :=
  { warm { cool := [(0, some t)] } with parts := [(0, { st := .empty, thermalHalt := true })] }
/-- The run of partition 0 at 4,000 s, with the hold-up controller as w says. -/
def packed (w : Hup) : State := { runs with time := 100000000000, hup := w }
/-- The block on, before release, in start-up phase p. -/
def atPhase (p : BitVec 4) : State := { up with boot := { phase := p } }
/-- Descriptor d of the set-up semaphore's owner, first in its ring, of no partition. -/
def ownerAsks (d : Desc) : State := asked d
/-- The same with no owner. -/
def ownerless (d : Desc) : State := { asked d with sem := {} }
/-- A firmware-update descriptor of n bytes. -/
def fwDesc (a n : W64) : Desc := { desc 0x70 [a, n] with lvlPart := 1 }
/-- An ATTEST of the partitions in a mask, into 9,072 bytes at 4,096. -/
def attestD (mask : W64) : Desc := desc 0x60 [4096, 9072 + mask * 0x100000000, 1, 2, 3, 4]
/-- A report that waits for its signature. -/
def waits : Attest := { desc := ⟨0, 0, 0⟩, addr := 64, report := [1, 2], time := 5 }
/-- Injection registers e, with partition 0 in test mode and reaching the stack. -/
def injecting (e : Ecct) : State :=
  { stacked (desc 0 []) with staged := stackRegs ++ [(0xA04014, 1)], ecct := e }
/-- A clean word 5 of the stack, with data bits flipped by x and check bits by c. -/
def struck (x : W64) (c : Byte) : State :=
  { runs with stack := { data := [(40, x.extractLsb' 0 8)], check := [(5, checkOf 0 ^^^ c)] } }
/-- No core rail is wanted above 900 mV. -/
theorem coreTarget_le (s : State) (h : Nat) : coreTarget s h ≤ 900 := by
  unfold coreTarget
  dsimp only
  split
  · decide
  · exact Nat.min_le_left _ _
/-- Every core rail is wanted above 0 mV. -/
theorem coreTarget_pos (s : State) (h : Nat) : 0 < coreTarget s h := by
  unfold coreTarget
  dsimp only
  split
  · decide
  · omega
/-- Core 0's basket with the words of an FP8 tile at 0x1040 of two rows: tensor scale 1, 64 columns. -/
def basketTile : Tab CodeMem :=
  [(0, { data := [(8258, 0x80), (8259, 0x3F), (8280, 2), (8281, 64)], check := [(1032, 0x40), (1035, 0x21)] })]
/-- Core 0's basket with an FP8 tile at 0 of one row that begins with two codes. -/
def basketRow : Tab CodeMem :=
  [(0, { data := [(0, 0x38), (1, 0x40), (4098, 0x80), (4099, 0x3F), (4120, 1), (4121, 64)]
         check := [(0, checkOf 0x4038), (512, 0x40), (515, 0x2D)] })]

/-- The state a command answers. -/
def after (c : Instr) (s : State) : State := match exec c s with | .next t => t | _ => s

/-- Every command answers the state `after` names. -/
theorem exec_after {c : Instr} {s : State} (h : ∃ t, exec c s = .next t) : exec c s = .next (after c s) := by
  obtain ⟨t, h⟩ := h
  rw [after, h]

/-- A power loss, as a command and as the front of the queue. -/
theorem loss_runs (s : State) : exec .powerLossAccept s = .next (after .powerLossAccept s) := exec_after ⟨_, rfl⟩

/-- The next step of a state with a power loss in front. -/
theorem loss_steps (s : State) :
    step { s with pending := [.powerLossAccept] } = .next (after .powerLossAccept { s with pending := [] }) := loss_runs _

/-! Ill-formed commands: one for each check -/

theorem test_ill_flit : Flit.wellFormed { header := 0, payload := [], crc := 0 } = false := by decide
theorem test_ill_errors : Flit.wellFormed { errors := [3, 3], header := 0, payload := zeros 240, crc := 0 } = false := by decide +kernel
theorem test_ill_packet_length : Packet.wellFormed { pkt 1 0 [7] with len := 2 } = false := by decide
theorem test_ill_packet_data : Packet.wellFormed (pkt 1 0 (List.replicate 4097 0)) = false := by decide +kernel
theorem test_ill_packet_poison : Packet.wellFormed { pkt 1 0 [7] with poison := [1] } = false := by decide
theorem test_ill_access_empty : StackAccess.wellFormed ⟨none, false, 0, 0, []⟩ = false := by decide
theorem test_ill_access_long : StackAccess.wellFormed ⟨none, false, 0, 4097, []⟩ = false := by decide
theorem test_ill_access_data : StackAccess.wellFormed ⟨none, true, 0, 8, [1]⟩ = false := by decide
theorem test_ill_frame : FrameInputs.wellFormed ⟨[], [], [], [], []⟩ = false := by decide
theorem test_ill_window : Instr.wellFormed (.retuneMeasurement (.channel 0 true) [0]) = false := by decide
theorem test_ill_banks : Instr.wellFormed (.refreshDue 0 0 0 [16]) = false := by decide
theorem test_ill_service : Instr.wellFormed (.interleaveService 0 [16]) = false := by decide
theorem test_ill_cpld : Instr.wellFormed (.cpld 0 0 0 true 0 (List.replicate 4097 0)) = false := by decide +kernel
theorem test_ill_kind : Instr.wellFormed (.swrite 0 (pkt 1 0 [])) = false := by decide
theorem test_ill_lending : Instr.wellFormed (.lendingCompute (List.replicate 1025 0)) = false := by decide +kernel
theorem test_ill_currents : Instr.wellFormed (.currentTelemetryCheck [1] []) = false := by decide
theorem test_ill_neighbours : Instr.wellFormed (.headerStage 0 false [0, 0, 0, 0, 0]) = false := by decide
theorem test_ill_sample : Instr.wellFormed (.thermalSample [] []) = false := by decide
theorem test_ill_tach : Instr.wellFormed (.tachCheck [1] []) = false := by decide
theorem test_well_formed : Instr.wellFormed (.swrite 0 (pkt 2 0 [7])) = true := by decide

/-! The manual's worked examples -/

/-- 06, packing a small-gradient block: 0.02 and 0.0005 give scale 0x06 and codes 0x7E and 0x53. -/
theorem test_small_gradient :
    let b := packGrad ([f32val 0x3CA3D70A, f32val 0x3A03126F] ++ List.replicate 30 .zero)
    b.1 = 6 ∧ b.2.take 2 = [0x7E, 0x53] := by decide +kernel

/-- 03, an HB4 output block: block 6 stays HB4 with scale 0x6F, and a tie rounds to the even code. -/
theorem test_hb4_block :
    let l := [f32val 0x402CCCCD, f32val 0xBF8CCCCD, .fin false 5 (-2), .fin false 75 (-6), f32val 0x3E99999A] ++ List.replicate 27 .zero
    let b := convBlock 2 1 false false l 0
    wantsEscape 4 l = false ∧ b.scale = 0x6F ∧ b.codes.take 6 = [7, 12, 5, 4, 1, 0] ∧ b.flush = 0 ∧ b.sat = 0 := by decide +kernel

/-- 03, the same example: block 7 escapes, with scale 0x44 and FP8 codes 0x7D and 0x4F. -/
theorem test_escaped_block :
    let l := [Num.fin false 5 0, f32val 0x3DB851EC] ++ List.replicate 30 .zero
    let b := convBlock 2 1 true false l 0
    wantsEscape 4 l = true ∧ b.scale = 0x44 ∧ b.codes.take 3 = [0x7D, 0x4F, 0] := by decide +kernel

/-- 10, a word, its poison and an aliased error. -/
theorem test_word_and_poison :
    checkOf 3 = 0x0C ∧ classify (syndrome (3 ^^^ 32) 0x0C) = .corrected 5 ∧ poisonCheck 3 = 0x56 ∧
    classify (syndrome 3 0x56) = .poison ∧ classify (syndrome 3 0x54) = .corrected 29 ∧ corrected 3 29 = 0x20000003 := by decide +kernel

/-- 05, encoding a GMM: the fields of its word. -/
theorem test_gmm_fields :
    let w : IWord := 0x2800000021F000020040000480232241
    [iOp w, iTa w, iTb w, iWpeg w, iWcnt w, iPpeg w, iPcnt w, iMod w] = [0x41, 2, 2, 3, 1, 4, 1, 0] ∧
    [iX w, iY w, iZ w, iImm w] = [0x20040, 0xF0000, 0x21, 0x28000] ∧ kcSize 2 1 = 2240 := by decide +kernel

/-- 08, decoding two addresses: NBU and linear address within its bank group, with stripe_gib 48 and 8 sites. -/
theorem test_stack_addresses :
    let s : State := { State.reset with
      staged := [(0x300108, 48)], stk := (List.range 8).map (fun n => (n, { trained := true })) }
    stackPlace s 0x1234567800 = (207, 38177280) ∧ stackPlace s 0xACF0100000 = (719, 202375168) := by decide +kernel

/-- 01, mapping in cluster 23 with one defect: row 7 skips position 2. -/
theorem test_mapping :
    let s : State := { State.reset with units := { State.reset.units with skip := [(23 * 4 + 3, 2)] } }
    [760, 761, 762, 766, 767].map (physOf s) = [27, 28, 30, 34, 35].map (fun c => 576 + 7 * 36 + c) ∧
    logicalOf s (576 + 7 * 36 + 29) = none ∧ physCluster (576 + 7 * 36 + 29) = 23 := by decide +kernel

/-- 12, a doorbell across the sequence wrap: accepted, sent again, and stale. -/
theorem test_doorbell_wrap :
    let g : Ring := { cfg := 0x2006, lastDbl := 0xFFFFFFFD }
    let h : Ring := { g with lastDbl := 2, prod := 5 }
    doorbellRing 0x0003000500000002 = 3 ∧ doorbellBad g 0x0003000500000002 = none ∧
    doorbellBad h 0x0003000500000002 = none ∧ doorbellBad h 0x0003000300000000 = some eSeq := by decide +kernel

/-- 16, the window of a new and a worn pack: V_cut in mV and E_full in mJ. -/
theorem test_pack_window :
    let pack := fun (c : W32) (e : BitVec 16) => { State.reset with hup := { State.reset.hup with cap := c, esr := e } }
    vCut (pack 100000 500) = 40491 ∧ energy (pack 100000 500) 54000 = 63823 ∧
    vCut (pack 50000 800) = 40786 ∧ energy (pack 50000 800) 54000 = 31312 := by decide +kernel

/-- 02 and 03, the tile sizes of FP8 and of HB4 of capacity 0. -/
theorem test_tile_sizes : tileSize 0 0 0 = 4160 ∧ tileSize 2 1 0 = 2240 := by decide

/-- 21, the worked land: the receive land of Myarn 6, lane 8, its negative half, is AP89; and the land groups fill the array's count. -/
theorem test_worked_land :
    laneLand (.myarn 6) 8 false true = (33, 89) ∧ rowName 33 = ['A', 'P'] ∧ landGroups.foldl (· + ·) 0 = 5444 := by decide

/-! Steps -/

/-- R333: from reset, a claim before release changes nothing that the answer is not part of. -/
theorem test_step_pops : (after (.leaseExpiry) { State.reset with pending := [.droop 0] }).pending = [.droop 0] := by decide

/-- The idle step (log entry 1). -/
theorem test_step_idles : (match step State.reset with | .next t => t.time | _ => 0) = 1 := by decide

/-! States and operands that meet the hypotheses of each clause -/

theorem meets_semaphoreClaim :
  (let a : Access := { port := 0, tag := 5 }
 (let s : State := up
 (Open a s) ∧ ((s.sem.held = false ∨ s.sem.owner = a.port)))) ∧
  (let a : Access := { port := 1, tag := 5 }
 (let s : State := held
 (Open a s) ∧ (s.sem.held = true) ∧ (s.sem.owner ≠ a.port))) :=
  ⟨by decide, by decide⟩

theorem meets_semaphoreRelease :
  (let a : Access := { port := 0, tag := 5 }
 (let s : State := held
 (Open a s) ∧ (s.sem.held = true) ∧ (s.sem.owner = a.port) ∧ (s.fold.waiting = none))) ∧
  (let a : Access := { port := 0, tag := 5 }
 (let s : State := { folded1 with fold := { words := [(0x800F04, 17)], waiting := some { port := 0, tag := 5 } } }
 (Open a s) ∧ (s.sem.held = true) ∧ (s.sem.owner = a.port) ∧ (let w := { port := 0, tag := 5 }
 (s.fold.waiting = some w)))) ∧
  (let a : Access := { port := 1, tag := 5 }
 (let s : State := held
 (Open a s) ∧ ((s.sem.held = false ∨ s.sem.owner ≠ a.port)))) :=
  ⟨by decide, by decide, by decide⟩

theorem meets_semaphoreBreak :
  (let a : Access := { port := 1, tag := 5 }
 (let s : State := { held with sem := { held := true, owner := 0, expired := true } }
 (Open a s) ∧ (s.sem.held = true) ∧ (s.sem.expired = true) ∧ (s.sem.owner ≠ a.port) ∧ (s.fold.waiting = none))) ∧
  (let a : Access := { port := 1, tag := 5 }
 (let s : State := { held with sem := { held := true, owner := 0, expired := true }, fold := { words := [(0x800F04, 17)], waiting := some { port := 0, tag := 9 } } }
 (Open a s) ∧ (s.sem.held = true) ∧ (s.sem.expired = true) ∧ (s.sem.owner ≠ a.port) ∧ (let w := ({ port := 0, tag := 9 } : Access)
 (s.fold.waiting = some w)))) ∧
  (let a : Access := { port := 1, tag := 5 }
 (let s : State := held
 (Open a s) ∧ ((s.sem.held = false ∨ s.sem.expired = false ∨ s.sem.owner = a.port)))) ∧
  (let a : Access := { port := 0, tag := 5 }
 (let s : State := held
 (Open a s))) :=
  ⟨by decide, by decide, by decide, by decide⟩

theorem meets_reservedSlots :
  (let a : Access := { port := 0, tag := 5, other := 1 }
 (let s : State := held
 (s.aon = true) ∧ (a.other ≠ 0))) ∧
  (let a : Access := { port := 0, tag := 5, other := 1 }
 (let off : BitVec 28 := 0xF04
 (let s : State := held
 (s.aon = true) ∧ (a.other ≠ 0) ∧ (off.toNat % 4 = 0)))) ∧
  (let a : Access := { port := 0, tag := 5, other := 1 }
 (let off : BitVec 28 := 0xF04
 (let s : State := held
 (s.aon = true) ∧ (a.other ≠ 0) ∧ (off.toNat % 4 = 0) ∧ (off ≠ 0x10000)))) :=
  ⟨by decide, by decide, by decide⟩

theorem meets_leaseExpiry :
  (let s : State := held
 (s.aon = true) ∧ (s.sem.held = true) ∧ (s.sem.expired = false) ∧ (2500000 ≤ (s.time - s.sem.renewed).toNat)) ∧
  (let s : State := { held with time := 2999999 }
 (s.aon = true) ∧ (s.sem.held = true) ∧ (s.sem.expired = false) ∧ ((s.time - s.sem.renewed).toNat < 2500000)) :=
  ⟨by decide, by decide⟩

theorem meets_foldWrite :
  (let a : Access := { port := 0, tag := 5 }
 (let off : BitVec 28 := 0x800F04
 (let v : W32 := 17
 (let s : State := held
 (Open a s) ∧ (off.toNat % 4 = 0) ∧ ((stagedAt s.variant off.toNat).any (fun r => !(r.frz && s.fold.frozen) && v &&& r.rsv == 0 && (r.bad v).isNone) = true) ∧ (holdsSem s a.port = true) ∧ (s.fold.waiting = none) ∧ (acrossBad (stageWord (heard s a off.toNat) off.toNat v) off.toNat v = none) ∧ ((s.fold.words.length < 512 ∨ folded s off.toNat = true)))))) :=
  by decide

theorem meets_foldWriteRefused :
  (let a : Access := { port := 0, tag := 5 }
 (let off : BitVec 28 := 0x800F04
 (let s : State := up
 (Open a s) ∧ (off.toNat % 4 = 0) ∧ (let e := stagedAt s.variant off.toNat
 (e.isSome = true) ∧ (holdsSem s a.port = false))))) ∧
  (let a : Access := { port := 0, tag := 5 }
 (let off : BitVec 28 := 0x800F04
 (let s : State := { held with fold := { waiting := some { port := 0, tag := 9 } } }
 (Open a s) ∧ (off.toNat % 4 = 0) ∧ (let e := stagedAt s.variant off.toNat
 (e.isSome = true) ∧ (holdsSem s a.port = true) ∧ (s.fold.waiting ≠ none))))) ∧
  (let a : Access := { port := 0, tag := 5 }
 (let off : BitVec 28 := 0x300108
 (let s : State := { held with fold := { frozen := true } }
 (Open a s) ∧ (off.toNat % 4 = 0) ∧ (let e := stagedAt s.variant off.toNat
 (e.isSome = true) ∧ (let frz := e.any (fun r => r.frz)
 (holdsSem s a.port = true) ∧ (s.fold.waiting = none) ∧ (frz = true) ∧ (s.fold.frozen = true)))))) ∧
  (let a : Access := { port := 0, tag := 5 }
 (let off : BitVec 28 := 0x800F04
 (let v : W32 := 0x100
 (let s : State := held
 (Open a s) ∧ (off.toNat % 4 = 0) ∧ (let e := stagedAt s.variant off.toNat
 (e.isSome = true) ∧ (let frz := e.any (fun r => r.frz)
 (let rsv := (e.map (fun r => r.rsv)).getD 0
 (holdsSem s a.port = true) ∧ (s.fold.waiting = none) ∧ ((frz = false ∨ s.fold.frozen = false)) ∧ (v &&& rsv ≠ 0)))))))) ∧
  (let a : Access := { port := 0, tag := 5 }
 (let off : BitVec 28 := 0x800F04
 (let v : W32 := 1
 (let s : State := held
 (Open a s) ∧ (off.toNat % 4 = 0) ∧ (let e := stagedAt s.variant off.toNat
 (e.isSome = true) ∧ (let frz := e.any (fun r => r.frz)
 (let rsv := (e.map (fun r => r.rsv)).getD 0
 (let bad := e.bind (fun r => r.bad v)
 (holdsSem s a.port = true) ∧ (s.fold.waiting = none) ∧ ((frz = false ∨ s.fold.frozen = false)) ∧ (v &&& rsv = 0) ∧ (let st := eRange
 (bad = some st)))))))))) ∧
  (let a : Access := { port := 0, tag := 5 }
 (let off : BitVec 28 := 0xA00000
 (let v : W32 := 5
 (let s : State := held
 (Open a s) ∧ (off.toNat % 4 = 0) ∧ (let e := stagedAt s.variant off.toNat
 (e.isSome = true) ∧ (let frz := e.any (fun r => r.frz)
 (let rsv := (e.map (fun r => r.rsv)).getD 0
 (let bad := e.bind (fun r => r.bad v)
 (let u := heard s a off.toNat
 (holdsSem s a.port = true) ∧ (s.fold.waiting = none) ∧ ((frz = false ∨ s.fold.frozen = false)) ∧ (v &&& rsv = 0) ∧ (bad = none) ∧ (let st := eRange
 (acrossBad (stageWord u off.toNat v) off.toNat v = some st))))))))))) ∧
  (let a : Access := { port := 0, tag := 5 }
 (let off : BitVec 28 := 0x800F04
 (let v : W32 := 17
 (let s : State := { held with fold := { words := (upFrom 0 512).map (fun k => (0xD01000 + 16 * k, 0)) } }
 (Open a s) ∧ (off.toNat % 4 = 0) ∧ (let e := stagedAt s.variant off.toNat
 (e.isSome = true) ∧ (let frz := e.any (fun r => r.frz)
 (let rsv := (e.map (fun r => r.rsv)).getD 0
 (let bad := e.bind (fun r => r.bad v)
 (let u := heard s a off.toNat
 (holdsSem s a.port = true) ∧ (s.fold.waiting = none) ∧ ((frz = false ∨ s.fold.frozen = false)) ∧ (v &&& rsv = 0) ∧ (bad = none) ∧ (acrossBad (stageWord u off.toNat v) off.toNat v = none) ∧ (512 ≤ s.fold.words.length) ∧ (folded s off.toNat = false)))))))))) :=
  ⟨by decide, by decide, by decide, by decide, by decide, by decide, by decide +kernel⟩

theorem meets_stagedReads :
  (let s : State := folded1
 (let off : Nat := 0x800F04
 ((stagedAt s.variant off).isSome = true))) :=
  by decide

theorem meets_foldCheck :
  (let a : Access := { port := 0, tag := 5 }
 (let s : State := folded1
 (Open a s) ∧ (holdsSem s a.port = true) ∧ (let u := heard s a 0x20000
 (pressBad u (laid u) = none)))) ∧
  (let a : Access := { port := 0, tag := 5 }
 (let s : State := clash
 (Open a s) ∧ (holdsSem s a.port = true) ∧ (let u := heard s a 0x20000
 (let k := 1
 (let off := 10485760
 (pressBad u (laid u) = some (k, off))))))) :=
  ⟨by decide, by decide⟩

theorem meets_foldFreeze :
  (let a : Access := { port := 0, tag := 5 }
 (let s : State := held
 (Open a s) ∧ (holdsSem s a.port = true) ∧ (s.fold.words = []) ∧ (s.fold.waiting = none))) ∧
  (let a : Access := { port := 0, tag := 5 }
 (let s : State := folded1
 (Open a s) ∧ (holdsSem s a.port = true) ∧ ((s.fold.words ≠ [] ∨ s.fold.waiting ≠ none)))) :=
  ⟨by decide, by decide⟩

theorem meets_foldDiscard :
  (let a : Access := { port := 0, tag := 5 }
 (let s : State := folded1
 (Open a s) ∧ (holdsSem s a.port = true) ∧ (s.fold.waiting = none))) ∧
  (let a : Access := { port := 0, tag := 5 }
 (let s : State := { folded1 with fold := { words := [(0x800F04, 17)], waiting := some { port := 0, tag := 5 } } }
 (Open a s) ∧ (holdsSem s a.port = true) ∧ (s.fold.waiting ≠ none))) :=
  ⟨by decide, by decide⟩

theorem meets_foldPress :
  (let a : Access := { port := 0, tag := 5 }
 (let s : State := folded1
 (Open a s) ∧ (holdsSem s a.port = true) ∧ (s.fold.waiting = none) ∧ (s.fold.words ≠ []) ∧ (foldLegal s) ∧ (let u := heard s a 0x20004
 (pressBad u (laid u) = none)))) ∧
  (let a : Access := { port := 0, tag := 5 }
 (let s : State := clash
 (Open a s) ∧ (holdsSem s a.port = true) ∧ (s.fold.waiting = none) ∧ (s.fold.words ≠ []) ∧ (foldLegal s) ∧ (let u := heard s a 0x20004
 (let k := 1
 (let off := 10485760
 (pressBad u (laid u) = some (k, off))))))) ∧
  (let a : Access := { port := 0, tag := 5 }
 (let s : State := folded1
 (Open a s) ∧ (holdsSem s a.port = true) ∧ (s.fold.waiting = none) ∧ (s.fold.words ≠ []) ∧ (foldLegal s))) :=
  ⟨by decide, by decide, by decide⟩

theorem meets_foldPressAtBoundary :
  (let a : Access := { port := 0, tag := 5 }
 (let s : State := { folded1 with fold := { words := [(0x800F04, 17)], waiting := some { port := 0, tag := 5 }, asked := 2999999 } }
 (s.aon = true) ∧ (s.fold.waiting = some a) ∧ (s.fold.words ≠ []) ∧ (foldLegal s) ∧ (s.fold.asked / 25000 ≠ s.time / 25000) ∧ (pressBad s (laid s) = none))) ∧
  (let a : Access := { port := 0, tag := 5 }
 (let s : State := { folded1 with fold := { words := [(0x800F04, 17)], waiting := some { port := 0, tag := 5 }, asked := 3000000 } }
 (s.aon = true) ∧ (s.fold.waiting = some a) ∧ (s.fold.words ≠ []) ∧ (foldLegal s) ∧ (s.fold.asked / 25000 = s.time / 25000))) :=
  ⟨by decide, by decide⟩

theorem meets_answerQueued :
  (let a : Access := { port := 0, tag := 5 }
 (let s : State := up
 (nalUp s a.port = true))) ∧
  (let a : Access := { port := 0, tag := 5 }
 (let s : State := State.reset
 (nalUp s a.port = false))) ∧
  (let a : Access := { port := 0, tag := 5 }
 (let q := 1
 (q ≠ a.port))) :=
  ⟨by decide, by decide, by decide⟩

theorem meets_setUpRead :
  (let a : Access := { port := 0, tag := 5 }
 (let off : BitVec 28 := 0x800000
 (let s : State := up
 (Open a s) ∧ (off.toNat % 4 = 0) ∧ (off ≠ 0x10000) ∧ ((off.toNat < 0x1000000 ∨ 0x1400000 ≤ off.toNat))))) ∧
  (let a : Access := { port := 0, tag := 5 }
 (let off : BitVec 28 := 0x800000
 (let s : State := up
 (Open a s) ∧ (off.toNat % 4 = 0) ∧ (off ≠ 0x10000) ∧ ((nalAt s a.port).latch.read.map (fun x => x.1) ≠ some off.toNat)))) :=
  ⟨by decide, by decide⟩

theorem meets_setUpReadLatched :
  (let a : Access := { port := 0, tag := 5 }
 (let off : BitVec 28 := 0x10
 (let w : W32 := 5
 (let s : State := modNal up 0 (fun n => { n with latch := { n.latch with read := some (0x10, 5) } })
 (Open a s) ∧ (off.toNat % 4 = 0) ∧ (off ≠ 0x10000) ∧ (tackLost s off.toNat = false) ∧ ((nalAt s a.port).latch.read = some (off.toNat, w)))))) :=
  by decide

theorem meets_setUpRefused :
  (let body : W64 := 2
 (let s : State := up
 (s.aon = true) ∧ (bits body 27 0 % 4 ≠ 0))) ∧
  (let body : W64 := 0x10000000
 (let s : State := up
 (s.aon = true) ∧ (bits body 27 0 % 4 = 0) ∧ (bits body 63 28 ≠ 0))) ∧
  (let body : W64 := 0x10000000
 (let s : State := up
 (s.aon = true) ∧ (bits body 27 0 % 4 = 0) ∧ (bits body 31 28 ≠ 0))) :=
  ⟨by decide, by decide, by decide⟩

theorem meets_setUpWrite :
  (let a : Access := { port := 0, tag := 5 }
 (let off : BitVec 28 := 0x800F04
 (let s : State := held
 (Open a s) ∧ (off.toNat % 4 = 0) ∧ ((stagedAt s.variant off.toNat).isSome = true)))) ∧
  (let a : Access := { port := 0, tag := 5 }
 (let off : BitVec 28 := 0x800F04
 (let s : State := up
 (Open a s) ∧ (off.toNat % 4 = 0)))) :=
  ⟨by decide, by decide⟩

theorem meets_managementRead :
  (let off : BitVec 28 := 0x800F04
 (let s : State := up
 (s.aon = true) ∧ (off.toNat % 4 = 0) ∧ (off ≠ 0x10000) ∧ ((released s = true ∨ off.toNat < 0x10000 ∨ (0xC00000 ≤ off.toNat ∧ off.toNat < 0xD00000) ∨ (0x700000 ≤ off.toNat ∧ off.toNat < 0x900000))) ∧ (tackLost s off.toNat = false) ∧ (s.mgmt.read = none))) ∧
  (let off : BitVec 28 := 0x10008
 (let s : State := State.reset
 (s.aon = true) ∧ (off.toNat % 4 = 0) ∧ (off ≠ 0x10000) ∧ (released s = false) ∧ (0x10000 ≤ off.toNat) ∧ (¬(0xC00000 ≤ off.toNat ∧ off.toNat < 0xD00000)) ∧ (¬(0x700000 ≤ off.toNat ∧ off.toNat < 0x900000)))) :=
  ⟨by decide, by decide⟩

theorem meets_managementWrite :
  (let s : State := up
 (s.aon = true)) ∧
  (let s : State := up
 (s.aon = true) ∧ (released s = true)) ∧
  (let s : State := up
 (s.aon = true) ∧ (let off : BitVec 28 := 0x800F04
 (released s = true) ∧ (off.toNat % 4 = 0) ∧ ((stagedAt s.variant off.toNat).isSome = true))) :=
  ⟨by decide, by decide, by decide⟩

theorem meets_doorbellHeld :
  (let a : Access := { port := 0, tag := 4 }
 (let s : State := { up with fold := { waiting := some { port := 0, tag := 4 } } }
 (s.aon = true) ∧ (s.fold.waiting = some a))) :=
  by decide

theorem meets_doorbellAccepted :
  (let p : NPort := 0
 (let r : RingId := 0
 (let prod : BitVec 16 := 9
 (let seq : W32 := 9
 (let s : State := ring0
 (s.aon = true) ∧ (NoPressOf p s) ∧ (DoorbellFine (ringAt s p r) prod seq)))))) :=
  by decide

theorem meets_doorbellRejected :
  (let p : NPort := 0
 (let s : State := ring0
 (s.aon = true) ∧ (NoPressOf p s) ∧ (let high : BitVec 10 := 1
 (high ≠ 0)))) ∧
  (let p : NPort := 0
 (let r : RingId := 0
 (let s : State := up
 (s.aon = true) ∧ (NoPressOf p s) ∧ ((bitAt (ringAt s p r).cfg 13 = false ∨ (ringAt s p r).stopped = true))))) :=
  ⟨by decide, by decide⟩

theorem meets_descriptorIsRead :
  (let p : NPort := 0
 (let r : RingId := 0
 (let tag : Nat := 0
 (let s : State := { ring0 with rings := [(0, { cfg := 0x2006, lastDbl := 8, prod := 8, nextK := 7, avail := 1 })] }
 ((ringAt s p r).avail = 1) ∧ (hemWorks s = true) ∧ (nalUp s p = true) ∧ ((nalAt s p).waiting = []) ∧ (freeTag (nalAt s p) = some tag) ∧ (readBytes (nalAt s p) + 64 ≤ 4194304) ∧ ((nalAt s p).tags.length < 1024))))) ∧
  (let p : NPort := 0
 (let r : RingId := 0
 (let tag : Nat := 0
 (let s : State := { ring0 with rings := [(0, { cfg := 0x2006, lastDbl := 8, prod := 8, nextK := 7, avail := 1 })] }
 ((ringAt s p r).avail = 1) ∧ (hemWorks s = true) ∧ (nalUp s p = true) ∧ ((nalAt s p).waiting = []) ∧ (freeTag (nalAt s p) = some tag) ∧ (readBytes (nalAt s p) + 64 ≤ 4194304) ∧ ((nalAt s p).tags.length < 1024) ∧ (let q := 1
 (q ≠ p)))))) :=
  ⟨by decide, by decide⟩

theorem meets_lastCpld :
  (let p : NPort := 0
 (let r : RingId := 0
 (let k : Nat := 0
 (let tag : BitVec 10 := 3
 (let data : List Byte := List.replicate 63 1 ++ [2]
 (let m : Mrd := { addr := 0, len := 64, owner := .desc 0 0, issued := 1750000 }
 (let s : State := reading
 (s.aon = true) ∧ ((nalAt s p).retired.any (fun x => x.1 == tag.toNat) = false) ∧ ((nalAt s p).tags.lookup tag.toNat = some m) ∧ (m.owner = .desc r k) ∧ (m.got = []) ∧ (m.unsupported = false) ∧ (data.length = 64)))))))) :=
  by decide

theorem meets_fetchProceeds :
  (let p : NPort := 0
 (let no : Nat := 3
 (let off : Nat := 0
 (let tag : BitVec 10 := 3
 (let data : List Byte := List.replicate 63 1 ++ [2]
 (let m : Mrd := { addr := 0, len := 64, owner := .fetch 3 0, issued := 1750000 }
 (let id : Reader := .desc ⟨0, 0, 0⟩
 (let f : Fetch := { no := 3, port := 0, addr := 0, len := 64 }
 (let s : State := fetching 64
 (s.aon = true) ∧ ((nalAt s p).retired.any (fun x => x.1 == tag.toNat) = false) ∧ ((nalAt s p).tags.lookup tag.toNat = some m) ∧ (m.owner = .fetch no off) ∧ (m.got = []) ∧ (m.unsupported = false) ∧ (s.fetches.find? (fun x => x.2.no == no) = some (id, f)) ∧ (let got := f.got ++ bytesWords (data.length / 8) data
 (wholeWords f.len ≤ 8 * got.length))))))))))) ∧
  (let p : NPort := 0
 (let no : Nat := 3
 (let off : Nat := 0
 (let tag : BitVec 10 := 3
 (let data : List Byte := List.replicate 63 1 ++ [2]
 (let m : Mrd := { addr := 0, len := 64, owner := .fetch 3 0, issued := 1750000 }
 (let id : Reader := .desc ⟨0, 0, 0⟩
 (let f : Fetch := { no := 3, port := 0, addr := 0, len := 128 }
 (let s : State := fetching 128
 (s.aon = true) ∧ ((nalAt s p).retired.any (fun x => x.1 == tag.toNat) = false) ∧ ((nalAt s p).tags.lookup tag.toNat = some m) ∧ (m.owner = .fetch no off) ∧ (m.got = []) ∧ (m.unsupported = false) ∧ (s.fetches.find? (fun x => x.2.no == no) = some (id, f)) ∧ (let got := f.got ++ bytesWords (data.length / 8) data
 (8 * got.length < wholeWords f.len))))))))))) ∧
  (let p : NPort := 0
 (let no : Nat := 3
 (let off : Nat := 0
 (let tag : BitVec 10 := 3
 (let m : Mrd := { addr := 0, len := 64, owner := .fetch 3 0, issued := 1750000 }
 (let id : Reader := .desc ⟨0, 0, 0⟩
 (let f : Fetch := { no := 3, port := 0, addr := 0, len := 64 }
 (let s : State := fetching 64
 (s.aon = true) ∧ ((nalAt s p).retired.any (fun x => x.1 == tag.toNat) = false) ∧ ((nalAt s p).tags.lookup tag.toNat = some m) ∧ (m.owner = .fetch no off) ∧ (m.got = []) ∧ (m.unsupported = false) ∧ (s.fetches.find? (fun x => x.2.no == no) = some (id, f)))))))))) ∧
  (let p : NPort := 0
 (let no : Nat := 3
 (let off : Nat := 0
 (let tag : BitVec 10 := 3
 (let m : Mrd := { addr := 0, len := 64, owner := .fetch 3 0, issued := 1750000 }
 (let id : Reader := .desc ⟨0, 0, 0⟩
 (let f : Fetch := { no := 3, port := 0, addr := 0, len := 64 }
 (let s : State := fetching 64
 (s.aon = true) ∧ ((nalAt s p).retired.any (fun x => x.1 == tag.toNat) = false) ∧ ((nalAt s p).tags.lookup tag.toNat = some m) ∧ (m.owner = .fetch no off) ∧ (m.got = []) ∧ (m.unsupported = false) ∧ (s.fetches.find? (fun x => x.2.no == no) = some (id, f)) ∧ (s.hup.loss = .none) ∧ (1250000 ≤ (s.time - m.issued).toNat))))))))) :=
  ⟨by decide, by decide, by decide, by decide⟩

theorem meets_fetchesAreUsed :
  (let id : Reader := .desc ⟨0, 0, 0⟩
 (let s : State := held
 (fetchOf s id = none))) ∧
  (let id : Reader := .desc ⟨0, 0, 0⟩
 (let addr : W64 := 0
 (let len : Nat := 64
 (let s : State := fetching 64
 (let f : Fetch := { no := 3, port := 0, addr := 0, len := 64 }
 (fetchOf s id = some f) ∧ (f.res = none)))))) ∧
  (let id : Reader := .desc ⟨0, 0, 0⟩
 (let addr : W64 := 0
 (let len : Nat := 64
 (let s : State := fetchedWith (.desc ⟨0, 0, 0⟩) (.timeout 8) held
 (let f : Fetch := { no := 3, port := 0, addr := 0, len := 64, res := some (.timeout 8) }
 (let r : HostRead := .timeout 8
 (fetchOf s id = some f) ∧ (f.res = some r))))))) :=
  ⟨by decide, by decide, by decide⟩

theorem meets_fetchBegins :
  (let p : NPort := 0
 (let s : State := held
 (nalUp s p = true))) ∧
  (let p : NPort := 0
 (let s : State := { held with nal := [] }
 (nalUp s p = false))) :=
  ⟨by decide, by decide⟩

theorem meets_earlierCpld :
  (let p : NPort := 0
 (let tag : BitVec 10 := 3
 (let s : State := reading
 (s.aon = true) ∧ (let m : Mrd := { addr := 0, len := 64, owner := .desc 0 0, issued := 1750000 }
 ((nalAt s p).retired.any (fun x => x.1 == tag.toNat) = false) ∧ ((nalAt s p).tags.lookup tag.toNat = some m))))) ∧
  (let p : NPort := 0
 (let tag : BitVec 10 := 9
 (let s : State := reading
 (s.aon = true) ∧ ((nalAt s p).retired.any (fun x => x.1 == tag.toNat) = true)))) :=
  ⟨by decide, by decide⟩

theorem meets_readTimeout :
  (let p : NPort := 0
 (let r : RingId := 0
 (let k : Nat := 0
 (let tag : BitVec 10 := 3
 (let m : Mrd := { addr := 0, len := 64, owner := .desc 0 0, issued := 1750000 }
 (let s : State := reading
 (s.aon = true) ∧ (s.hup.loss = .none) ∧ ((nalAt s p).tags.lookup tag.toNat = some m) ∧ (m.owner = .desc r k) ∧ (1250000 ≤ (s.time - m.issued).toNat))))))) ∧
  (let p : NPort := 0
 (let r : RingId := 0
 (let k : Nat := 0
 (let tag : BitVec 10 := 3
 (let m : Mrd := { addr := 0, len := 64, owner := .desc 0 0, issued := 1750000 }
 (let s : State := { reading with time := 2999999 }
 (s.aon = true) ∧ (s.hup.loss = .none) ∧ ((nalAt s p).tags.lookup tag.toNat = some m) ∧ (m.owner = .desc r k) ∧ ((s.time - m.issued).toNat < 1250000))))))) :=
  ⟨by decide, by decide⟩

theorem meets_tagFree :
  (let p : NPort := 0
 (let tag : BitVec 10 := 9
 (let since : W64 := 1750000
 (let s : State := reading
 (s.aon = true) ∧ ((nalAt s p).retired.lookup tag.toNat = some since) ∧ (1250000 ≤ (s.time - since).toNat))))) ∧
  (let p : NPort := 0
 (let tag : BitVec 10 := 9
 (let since : W64 := 1750000
 (let s : State := { reading with time := 2999999 }
 (s.aon = true) ∧ ((nalAt s p).retired.lookup tag.toNat = some since) ∧ ((s.time - since).toNat < 1250000))))) :=
  ⟨by decide, by decide⟩

theorem meets_ringEnable :
  (let a : Access := { port := 0, tag := 5 }
 (let r : RingId := 63
 (let v : W32 := 0x2006
 (let s : State := up
 (Open a s) ∧ (let g := ringAt s a.port r
 (v &&& 0xFFFFC000 = 0) ∧ (bitAt v 13 = true) ∧ (6 ≤ bits v 4 0) ∧ (bits v 4 0 ≤ 16) ∧ (bitAt g.cfg 13 = false)))))) ∧
  (let a : Access := { port := 0, tag := 5 }
 (let r : RingId := 0
 (let v : W32 := 0x10
 (let s : State := ring0
 (Open a s) ∧ (let g := ringAt s a.port r
 (bitAt v 13 = false) ∧ (v &&& 0xFFFFC000 = 0) ∧ ((bits v 4 0 = 0 ∨ (6 ≤ bits v 4 0 ∧ bits v 4 0 ≤ 16))) ∧ (bitAt g.cfg 13 = true) ∧ (owed g = [])))))) ∧
  (let a : Access := { port := 0, tag := 5 }
 (let r : RingId := 0
 (let v : W32 := 0
 (let s : State := asked (desc 0 [])
 (Open a s) ∧ (let g := ringAt s a.port r
 (bitAt v 13 = false) ∧ (v &&& 0xFFFFC000 = 0) ∧ ((bits v 4 0 = 0 ∨ (6 ≤ bits v 4 0 ∧ bits v 4 0 ≤ 16))) ∧ (bitAt g.cfg 13 = true) ∧ (owed g ≠ [])))))) ∧
  (let a : Access := { port := 0, tag := 5 }
 (let s : State := up
 (Open a s) ∧ (let p := 1
 (p ≠ a.port)))) :=
  ⟨by decide, by decide, by decide, by decide⟩

theorem meets_errorRingEnable :
  (let a : Access := { port := 0, tag := 5 }
 (let v : W32 := 0x2010
 (let s : State := up
 (Open a s) ∧ (v &&& 0xFFFFC000 = 0) ∧ (let e := errAt s a.port
 (bitAt v 13 = true) ∧ (6 ≤ bits v 4 0) ∧ (bits v 4 0 ≤ 16) ∧ (bitAt e.cfg 13 = false))))) ∧
  (let a : Access := { port := 0, tag := 5 }
 (let v : W32 := 0x2007
 (let s : State := { up with errRings := [(0, { cfg := 0x2006 })] }
 (Open a s) ∧ (v &&& 0xFFFFC000 = 0) ∧ (let e := errAt s a.port
 (bitAt v 13 = true) ∧ (6 ≤ bits v 4 0) ∧ (bits v 4 0 ≤ 16) ∧ (bitAt e.cfg 13 = true) ∧ (v ≠ e.cfg))))) ∧
  (let a : Access := { port := 0, tag := 5 }
 (let v : W32 := 6
 (let s : State := { up with errRings := [(0, { cfg := 0x2006 })] }
 (Open a s) ∧ (v &&& 0xFFFFC000 = 0) ∧ (bitAt v 13 = false) ∧ ((bits v 4 0 = 0 ∨ (6 ≤ bits v 4 0 ∧ bits v 4 0 ≤ 16)))))) :=
  ⟨by decide, by decide, by decide⟩

theorem meets_commonChecks :
  (let p : NPort := 0
 (let r : RingId := 0
 (let d : Desc := { desc 0 [] with seq := 1 }
 (let s : State := asked (desc 0 [])
 (let inSeq := d.seq = (ringAt s p r).seq0 + BitVec.ofNat 32 d.k
 (¬inSeq)))))) ∧
  (let p : NPort := 0
 (let r : RingId := 0
 (let d : Desc := { desc 0 [] with lvlPart := 2 }
 (let s : State := asked (desc 0 [])
 (let inSeq := d.seq = (ringAt s p r).seq0 + BitVec.ofNat 32 d.k
 (let level := bits d.lvlPart 3 0 = (nalAt s p).lk.level.toNat
 (inSeq) ∧ (¬level))))))) ∧
  (let p : NPort := 0
 (let r : RingId := 0
 (let d : Desc := desc 0xFF []
 (let s : State := asked (desc 0 [])
 (let inSeq := d.seq = (ringAt s p r).seq0 + BitVec.ofNat 32 d.k
 (let level := bits d.lvlPart 3 0 = (nalAt s p).lk.level.toNat
 (inSeq) ∧ (level) ∧ (opcodeArgs d.opcode.toNat = none))))))) ∧
  (let p : NPort := 0
 (let r : RingId := 0
 (let d : Desc := desc 0 [1]
 (let s : State := asked (desc 0 [])
 (let inSeq := d.seq = (ringAt s p r).seq0 + BitVec.ofNat 32 d.k
 (let level := bits d.lvlPart 3 0 = (nalAt s p).lk.level.toNat
 (let l := (opcodeArgs 0).getD []
 (inSeq) ∧ (level) ∧ (opcodeArgs d.opcode.toNat = some l) ∧ (let clean := argsClean d l = true ∧ d.rsv = 0 ∧ bits d.flags 7 2 = 0
 (¬clean))))))))) ∧
  (let p : NPort := 0
 (let r : RingId := 0
 (let d : Desc := { desc 4 [] with lvlPart := 0x81 }
 (let s : State := asked (desc 0 [])
 (let inSeq := d.seq = (ringAt s p r).seq0 + BitVec.ofNat 32 d.k
 (let level := bits d.lvlPart 3 0 = (nalAt s p).lk.level.toNat
 (let l := (opcodeArgs 4).getD []
 (inSeq) ∧ (level) ∧ (opcodeArgs d.opcode.toNat = some l) ∧ (let clean := argsClean d l = true ∧ d.rsv = 0 ∧ bits d.flags 7 2 = 0
 (clean) ∧ (namesPart d.opcode.toNat = true) ∧ (8 ≤ bits d.lvlPart 7 4))))))))) ∧
  (let p : NPort := 0
 (let r : RingId := 0
 (let d : Desc := { desc 4 [] with lvlPart := 0x71 }
 (let s : State := asked (desc 0 [])
 (let inSeq := d.seq = (ringAt s p r).seq0 + BitVec.ofNat 32 d.k
 (let level := bits d.lvlPart 3 0 = (nalAt s p).lk.level.toNat
 (let l := (opcodeArgs 4).getD []
 (inSeq) ∧ (level) ∧ (opcodeArgs d.opcode.toNat = some l) ∧ (let clean := argsClean d l = true ∧ d.rsv = 0 ∧ bits d.flags 7 2 = 0
 (clean) ∧ (namesPart d.opcode.toNat = true) ∧ (bits d.lvlPart 7 4 < 8) ∧ ((clustersOf s (bits d.lvlPart 7 4) = 0 ∨ portOf s (bits d.lvlPart 7 4) ≠ p)))))))))) ∧
  (let p : NPort := 0
 (let r : RingId := 0
 (let d : Desc := { desc 4 [] with lvlPart := 0x01 }
 (let s : State := { asked (desc 0 []) with staged := [(0xA00000, 1)] }
 (let inSeq := d.seq = (ringAt s p r).seq0 + BitVec.ofNat 32 d.k
 (let level := bits d.lvlPart 3 0 = (nalAt s p).lk.level.toNat
 (let l := (opcodeArgs 4).getD []
 (inSeq) ∧ (level) ∧ (opcodeArgs d.opcode.toNat = some l) ∧ (let clean := argsClean d l = true ∧ d.rsv = 0 ∧ bits d.flags 7 2 = 0
 (clean) ∧ (namesPart d.opcode.toNat = true) ∧ (bits d.lvlPart 7 4 < 8) ∧ (clustersOf s (bits d.lvlPart 7 4) ≠ 0) ∧ (portOf s (bits d.lvlPart 7 4) = p))))))))) ∧
  (let p : NPort := 0
 (let r : RingId := 0
 (let d : Desc := { desc 0 [] with lvlPart := 0x11 }
 (let s : State := asked (desc 0 [])
 (let inSeq := d.seq = (ringAt s p r).seq0 + BitVec.ofNat 32 d.k
 (let level := bits d.lvlPart 3 0 = (nalAt s p).lk.level.toNat
 (let l := (opcodeArgs 0).getD []
 (inSeq) ∧ (level) ∧ (opcodeArgs d.opcode.toNat = some l) ∧ (let clean := argsClean d l = true ∧ d.rsv = 0 ∧ bits d.flags 7 2 = 0
 (clean) ∧ (namesPart d.opcode.toNat = false) ∧ (bits d.lvlPart 7 4 ≠ 0))))))))) ∧
  (let p : NPort := 0
 (let r : RingId := 0
 (let d : Desc := desc 0x28 []
 (let s : State := up
 (let inSeq := d.seq = (ringAt s p r).seq0 + BitVec.ofNat 32 d.k
 (let level := bits d.lvlPart 3 0 = (nalAt s p).lk.level.toNat
 (let l := (opcodeArgs 0x28).getD []
 (inSeq) ∧ (level) ∧ (opcodeArgs d.opcode.toNat = some l) ∧ (let clean := argsClean d l = true ∧ d.rsv = 0 ∧ bits d.flags 7 2 = 0
 (clean) ∧ (namesPart d.opcode.toNat = false) ∧ (bits d.lvlPart 7 4 = 0) ∧ ((d.opcode = 0x28 ∨ d.opcode = 0x29)) ∧ (holdsSem s p = false))))))))) ∧
  (let p : NPort := 0
 (let r : RingId := 0
 (let d : Desc := desc 0x28 []
 (let s : State := held
 (let inSeq := d.seq = (ringAt s p r).seq0 + BitVec.ofNat 32 d.k
 (let level := bits d.lvlPart 3 0 = (nalAt s p).lk.level.toNat
 (let l := (opcodeArgs 0x28).getD []
 (inSeq) ∧ (level) ∧ (opcodeArgs d.opcode.toNat = some l) ∧ (let clean := argsClean d l = true ∧ d.rsv = 0 ∧ bits d.flags 7 2 = 0
 (clean) ∧ (namesPart d.opcode.toNat = false) ∧ (bits d.lvlPart 7 4 = 0) ∧ ((¬(d.opcode = 0x28 ∨ d.opcode = 0x29) ∨ holdsSem s p = true)))))))))) :=
  ⟨by decide, by decide, by decide, by decide, by decide, by decide, by decide, by decide, by decide, by decide⟩

theorem meets_completionWritten :
  (let ref : DescRef := ⟨0, 0, 0⟩
 (let d : Desc := { desc 0 [] with flags := 1 }
 (let s : State := asked { desc 0 [] with flags := 1 }
 (let g := ringAt s ref.port ref.ring
 (g.descs.find? (fun d => d.k == ref.k) = some d) ∧ (nalUp s ref.port = true))))) ∧
  (let ref : DescRef := ⟨0, 0, 0⟩
 (let d : Desc := { desc 0 [] with flags := 1 }
 (let s : State := { asked { desc 0 [] with flags := 1 } with nal := [] }
 (let g := ringAt s ref.port ref.ring
 (g.descs.find? (fun d => d.k == ref.k) = some d) ∧ (nalUp s ref.port = false))))) ∧
  (let ref : DescRef := ⟨0, 0, 0⟩
 (let d : Desc := { desc 0 [] with flags := 1 }
 (let s : State := asked { desc 0 [] with flags := 1 }
 (let g := ringAt s ref.port ref.ring
 (g.descs.find? (fun d => d.k == ref.k) = some d) ∧ (let q := 1
 (let j := 2
 ((q ≠ ref.port ∨ j ≠ ref.ring)))))))) ∧
  (let ref : DescRef := ⟨0, 0, 0⟩
 (let d : Desc := { desc 0 [] with flags := 1 }
 (let s : State := asked { desc 0 [] with flags := 1 }
 (let g := ringAt s ref.port ref.ring
 (g.descs.find? (fun d => d.k == ref.k) = some d) ∧ (let q := 1
 (q ≠ ref.port)))))) ∧
  (let ref : DescRef := ⟨0, 0, 0⟩
 (let d : Desc := { desc 0 [] with flags := 1 }
 (let s : State := asked { desc 0 [] with flags := 1 }
 (let g := ringAt s ref.port ref.ring
 (g.descs.find? (fun d => d.k == ref.k) = some d))))) :=
  ⟨by decide, by decide, by decide, by decide, by decide⟩

theorem meets_details :
  (let order : Nat := 255
 (let outer : Nat := 7
 (let item : Nat := 4294967295
 (let cause : Nat := 255
 (let carried : Nat := 1
 (order < 256) ∧ (outer < 256) ∧ (item < 4294967296) ∧ (cause < 256) ∧ (carried < 256)))))) :=
  by decide

theorem meets_nopDescriptor :
  (let p : NPort := 0
 (let r : RingId := 0
 (let d : Desc := desc 0 []
 (let s : State := asked (desc 0 [])
 (Takes s p r 0x00 d))))) :=
  by decide

theorem meets_unassignedHalts :
  (let core : CoreId := 0
 (let eng : EngId := 2
 (let w : IWord := iw 0x70 0 0 0 0 0
 (let n : Nat := 0
 (let s : State := issuing 2 (iw 0x70 0 0 0 0 0)
 (Illegal s core.val eng.val w) ∧ (partOfCore s core.val = some n) ∧ ((bits w 7 4 ≠ eng.val ∨ 0x70 ≤ bits w 7 0 ∨ (bits w 3 0 ∉ [0, 13, 14, 15] ∧ [8, 2, 3, 4, 5, 3, 5].getD eng.val 0 < bits w 3 0)))))))) :=
  by decide

theorem meets_unsatisfiedWaits :
  (let core : CoreId := 0
 (let eng : EngId := 2
 (let w : IWord := iwWait (iw 0x20 0 0 0 0 0) 4 1
 (let s : State := issuing 2 (iwWait (iw 0x20 0 0 0 0 0) 4 1)
 (Illegal s core.val eng.val w) ∧ (bits w 7 0 = 16 * eng.val) ∧ (onlyBits w [] = true) ∧ (((tget 0 (coreAt s core.val).peg (bits w 20 16)).toNat < bits w 28 21 ∨ (bits w 28 21 ≠ 0 ∧ servedFirst (coreAt s core.val) eng.val (bits w 20 16) = true))))))) :=
  by decide

theorem meets_nop :
  (let core : CoreId := 0
 (let eng : EngId := 6
 (let w : IWord := iw 0x60 0 0 0 0 0
 (let s : State := issuing 6 (iw 0x60 0 0 0 0 0)
 (Issues s core.val eng.val 0 w) ∧ (onlyBits w [] = true))))) :=
  by decide

theorem meets_issuedOneCycle :
  (let core : Nat := 0
 (let e : Nat := 6
 (let s : State := issuing 6 (iw 0x60 0 0 0 0 0)
 ((engAt (coreAt s core) e).flight = []) ∧ (coreMoves s core = false)))) ∧
  (let core : Nat := 0
 (let e : Nat := 6
 (let s : State := issuing 6 (iw 0x60 0 0 0 0 0)
 ((engAt (coreAt s core) e).flight = []) ∧ (coreMoves s core = false) ∧ (let k := 3
 (k ≠ core))))) ∧
  (let core : Nat := 0
 (let e : Nat := 6
 (let s : State := issuing 6 (iw 0x60 0 0 0 0 0)
 ((engAt (coreAt s core) e).flight = []) ∧ (coreMoves s core = false) ∧ (let k := 3
 (k ≠ e))))) ∧
  (let core : Nat := 0
 (let e : Nat := 6
 (let s : State := issuing 6 (iw 0x60 0 0 0 0 0)
 ((engAt (coreAt s core) e).flight = []) ∧ (coreMoves s core = false)))) :=
  ⟨by decide, by decide, by decide, by decide⟩

theorem meets_issuedInFlight :
  (let core : Nat := 0
 (let e : Nat := 3
 (let oneCycle : Bool := false
 (let s : State := issuing 3 (iw 0x31 0 0 0 0 1)
 ((oneCycle = false ∨ (engAt (coreAt s core) e).flight ≠ [])))))) ∧
  (let core : Nat := 0
 (let e : Nat := 3
 (let oneCycle : Bool := false
 (let s : State := issuing 3 (iw 0x31 0 0 0 0 1)
 ((oneCycle = false ∨ (engAt (coreAt s core) e).flight ≠ [])) ∧ (let k := 4
 (k ≠ core)))))) ∧
  (let core : Nat := 0
 (let e : Nat := 3
 (let oneCycle : Bool := false
 (let s : State := issuing 3 (iw 0x31 0 0 0 0 1)
 ((oneCycle = false ∨ (engAt (coreAt s core) e).flight ≠ [])) ∧ (let k := 4
 (k ≠ e)))))) :=
  ⟨by decide, by decide, by decide⟩

theorem meets_stallsCounted :
  (let core : Nat := 0
 (let k := 4
 (k ≠ core))) :=
  by decide

theorem meets_loop :
  (let core : CoreId := 0
 (let eng : EngId := 2
 (let w : IWord := iw 0x2D 0 0 1 0 1
 (let s : State := issuing 2 (iw 0x2D 0 0 1 0 1)
 (Issues s core.val eng.val 13 w) ∧ (onlyBits w [(87, 68), (107, 88), (127, 108)] = true) ∧ (let x := engAt (coreAt s core.val) eng.val
 (let len := bits w 73 68
 (let inRange := 1 ≤ bits w 127 108 ∧ 1 ≤ len ∧ x.pc + 1 + len ≤ ((coreAt s core.val).progs.getD eng.val (0, 0)).2 / 16
 (let fits := x.loops.length < (if eng.val = 0 then 4 else 2) ∧ ∀ l ∈ x.loops.head?, x.pc + 1 + len ≤ l.start + l.len
 (inRange) ∧ (fits))))))))) ∧
  (let core : CoreId := 0
 (let eng : EngId := 2
 (let w : IWord := iw 0x2D 0 0 0 0 1
 (let s : State := issuing 2 (iw 0x2D 0 0 0 0 1)
 (Issues s core.val eng.val 13 w) ∧ (onlyBits w [(87, 68), (107, 88), (127, 108)] = true) ∧ (let x := engAt (coreAt s core.val) eng.val
 (let len := bits w 73 68
 (let inRange := 1 ≤ bits w 127 108 ∧ 1 ≤ len ∧ x.pc + 1 + len ≤ ((coreAt s core.val).progs.getD eng.val (0, 0)).2 / 16
 (¬inRange)))))))) ∧
  (let core : CoreId := 0
 (let eng : EngId := 2
 (let w : IWord := iw 0x2D 0 0 1 0 1
 (let s : State := issuingWith 2 (iw 0x2D 0 0 1 0 1) (fun c => modEng c 2 (fun x => { x with loops := [{ start := 4, len := 3, count := 2, i := 0, s14 := 0, s15 := 0 }, { start := 3, len := 9, count := 2, i := 0, s14 := 0, s15 := 0 }] }))
 (Issues s core.val eng.val 13 w) ∧ (onlyBits w [(87, 68), (107, 88), (127, 108)] = true) ∧ (let x := engAt (coreAt s core.val) eng.val
 (let len := bits w 73 68
 (let inRange := 1 ≤ bits w 127 108 ∧ 1 ≤ len ∧ x.pc + 1 + len ≤ ((coreAt s core.val).progs.getD eng.val (0, 0)).2 / 16
 (let fits := x.loops.length < (if eng.val = 0 then 4 else 2) ∧ ∀ l ∈ x.loops.head?, x.pc + 1 + len ≤ l.start + l.len
 (inRange) ∧ (¬fits))))))))) :=
  ⟨by decide, by decide, by decide⟩

theorem meets_bar :
  (let core : CoreId := 0
 (let eng : EngId := 0
 (let w : IWord := iw 0x0E 0 0 0 0 0
 (let n : Nat := 0
 (let s : State := { issuing 0 (iw 0x0E 0 0 0 0 0) with staged := [(0xA00000, 1), (0xB00000, 0)] }
 (Issues s core.val eng.val 14 w) ∧ (onlyBits w [(115, 108)] = true) ∧ (partOfCore s core.val = some n) ∧ (let k : BarId := ⟨bits w 127 108 % 256, Nat.mod_lt _ (by decide)⟩
 (barOwner s k.val = n))))))) ∧
  (let core : CoreId := 0
 (let eng : EngId := 0
 (let w : IWord := iw 0x0E 0 0 0 0 0
 (let n : Nat := 0
 (let s : State := { issuing 0 (iw 0x0E 0 0 0 0 0) with staged := [(0xA00000, 1), (0xB00000, 3)] }
 (Issues s core.val eng.val 14 w) ∧ (onlyBits w [(115, 108)] = true) ∧ (partOfCore s core.val = some n) ∧ (let k : BarId := ⟨bits w 127 108 % 256, Nat.mod_lt _ (by decide)⟩
 (barOwner s k.val ≠ n))))))) :=
  ⟨by decide, by decide⟩

theorem meets_endProg :
  (let core : CoreId := 0
 (let eng : EngId := 1
 (let w : IWord := iw 0x1F 0 0 0 0 0
 (let s : State := issuing 1 (iw 0x1F 0 0 0 0 0)
 (Issues s core.val eng.val 15 w) ∧ (onlyBits w [] = true))))) :=
  by decide

theorem meets_queueRefill :
  (let core : CoreId := 0
 (let n : Nat := 0
 (let e : Nat := 2
 (let s : State := issuing 2 (iw 0x20 0 0 0 0 0)
 (s.aon = true) ∧ (partOfCore s core.val = some n) ∧ (runLive s n = true) ∧ ((coreAt s core.val).inReset = false) ∧ (s.hup.loss = .none) ∧ (refillNext (coreAt s core.val) = some e))))) :=
  by decide

theorem meets_instructionRetire :
  (let core : CoreId := 0
 (let eng : EngId := 3
 (let f : InFlight := { ppeg := 2, pcnt := 3 }
 (let rest : List InFlight := []
 (let s : State := { runs with cores := [(0, { eng := [(3, { st := .running, flight := [{ ppeg := 2, pcnt := 3 }] })] })] }
 (s.aon = true) ∧ ((engAt (coreAt s core.val) eng.val).flight = f :: rest) ∧ (mayRetire (coreAt s core.val) f = true) ∧ (coreMoves s core.val = false)))))) :=
  by decide

theorem meets_clockGating :
  (let core : CoreId := 0
 (let n : Nat := 0
 (let since : W64 := 2999950
 (let s : State := { runs with staged := [(0xA00000, 1)], cores := [(0, { eng := [(0, { st := .ended }), (2, { st := .ended }), (3, { st := .ended }), (4, { st := .ended }), (5, { st := .ended }), (6, { st := .ended })], waitSince := some 2999950 })] }
 (s.aon = true) ∧ (partOfCore s core.val = some n) ∧ (runLive s n = true) ∧ ((coreAt s core.val).gated = false) ∧ ((coreAt s core.val).inReset = false) ∧ ((coreAt s core.val).waitSince = some since) ∧ ((∀ e ∈ [0, 2, 3, 4, 5, 6], isWaiting (coreAt s core.val) e = true)) ∧ (let us := bits (reg s (0xA04008 + 0x40 * n)) 10 0
 (us ≠ 0) ∧ (25 * us ≤ (s.time - since).toNat)))))) ∧
  (let core : CoreId := 0
 (let n : Nat := 0
 (let since : W64 := 2999950
 (let s : State := { runs with time := 2999999, staged := [(0xA00000, 1)], cores := [(0, { eng := [(0, { st := .ended }), (2, { st := .ended }), (3, { st := .ended }), (4, { st := .ended }), (5, { st := .ended }), (6, { st := .ended })], waitSince := some 2999950 })] }
 (s.aon = true) ∧ (partOfCore s core.val = some n) ∧ (runLive s n = true) ∧ ((coreAt s core.val).gated = false) ∧ ((coreAt s core.val).inReset = false) ∧ ((coreAt s core.val).waitSince = some since) ∧ ((∀ e ∈ [0, 2, 3, 4, 5, 6], isWaiting (coreAt s core.val) e = true)) ∧ (let us := bits (reg s (0xA04008 + 0x40 * n)) 10 0
 ((us = 0 ∨ (s.time - since).toNat < 25 * us))))))) :=
  ⟨by decide, by decide⟩

theorem meets_coreWatchdog :
  (let core : CoreId := 0
 (let n : Nat := 0
 (let s : State := issuing 2 (iw 0x20 0 0 0 0 0)
 (s.aon = true) ∧ (partOfCore s core.val = some n) ∧ (runLive s n = true) ∧ (s.hup.loss = .none) ∧ ((coreAt s core.val).inReset = false) ∧ (¬(∀ e ∈ [0, 1, 2, 3, 4, 5, 6], (engAt (coreAt s core.val) e).st = .ended)) ∧ (bits (reg s (0xA0400C + 0x40 * n)) 9 0 * 1500000 * 58 ≤ 58 * 60 * (s.time - (coreAt s core.val).progress).toNat - (coreAt s core.val).excluded) ∧ (illegalHead s n = none)))) ∧
  (let core : CoreId := 0
 (let n : Nat := 0
 (let s : State := issuing 2 (iw 0x21 0 0 0 0 0)
 (s.aon = true) ∧ (partOfCore s core.val = some n) ∧ (runLive s n = true) ∧ (s.hup.loss = .none) ∧ ((coreAt s core.val).inReset = false) ∧ (¬(∀ e ∈ [0, 1, 2, 3, 4, 5, 6], (engAt (coreAt s core.val) e).st = .ended)) ∧ (bits (reg s (0xA0400C + 0x40 * n)) 9 0 * 1500000 * 58 ≤ 58 * 60 * (s.time - (coreAt s core.val).progress).toNat - (coreAt s core.val).excluded) ∧ (let k := 0
 (let e := 2
 (let st := eRange
 (illegalHead s n = some (k, e, st)))))))) :=
  ⟨by decide, by decide⟩

theorem meets_scalarWritten :
  (let r : Nat := 3
 (let k := 1
 (k ≠ r))) ∧
  (let core : Nat := 0
 (let k := 1
 (k ≠ core))) :=
  ⟨by decide, by decide⟩

theorem meets_seqLoadImmediate :
  (let core : CoreId := 0
 (let w : IWord := iw 0x01 0 3 0 0 0xFFFFF
 (let s : State := issuing 0 (iw 0x01 0 3 0 0 0xFFFFF)
 (onlyBits w [(51, 48), (127, 108)] = true) ∧ (Issues s core.val 0 1 w)))) ∧
  (let core : CoreId := 0
 (let w : IWord := iw 0x02 0 3 0 0 0xFFFFF
 (let s : State := issuing 0 (iw 0x02 0 3 0 0 0xFFFFF)
 (onlyBits w [(51, 48), (127, 108)] = true) ∧ (Issues s core.val 0 2 w)))) :=
  ⟨by decide, by decide⟩

theorem meets_seqAlu :
  (let core : CoreId := 0
 (let w : IWord := iw 0x03 1 3 1 2 0
 (let s : State := issuing 0 (iw 0x03 1 3 1 2 0)
 (Issues s core.val 0 3 w) ∧ (bits w 45 42 ≤ 9) ∧ (bits w 47 47 = 0) ∧ (onlyBits w [(51, 48), (71, 68), (91, 88), (45, 42)] = true)))) ∧
  (let core : CoreId := 0
 (let w : IWord := iw 0x03 0x29 3 1 0 0xFFFFF
 (let s : State := issuing 0 (iw 0x03 0x29 3 1 0 0xFFFFF)
 (Issues s core.val 0 3 w) ∧ (bits w 45 42 ≤ 9) ∧ (bits w 47 47 = 1) ∧ (onlyBits w [(51, 48), (71, 68), (45, 42), (47, 47), (127, 108)] = true)))) :=
  ⟨by decide, by decide⟩

theorem meets_seqSetb :
  (let core : CoreId := 0
 (let w : IWord := iw 0x04 0 3 0 0 2
 (let s : State := issuing 0 (iw 0x04 0 3 0 0 2)
 (Issues s core.val 0 4 w) ∧ (onlyBits w [(51, 48), (71, 68), (127, 108)] = true) ∧ (let v : Int := (sreg (coreAt s core.val) (bits w 87 68)).toNat + 64 * sext 20 (bits w 127 108)
 (v % 64 = 0) ∧ (0 ≤ v) ∧ (v ≤ 0x1FFFFF))))) ∧
  (let core : CoreId := 0
 (let w : IWord := iw 0x04 0 3 1 0 2
 (let s : State := issuing 0 (iw 0x04 0 3 1 0 2)
 (Issues s core.val 0 4 w) ∧ (onlyBits w [(51, 48), (71, 68), (127, 108)] = true) ∧ (let v : Int := (sreg (coreAt s core.val) (bits w 87 68)).toNat + 64 * sext 20 (bits w 127 108)
 (v % 64 ≠ 0))))) :=
  ⟨by decide, by decide⟩

theorem meets_seqLoadStore :
  (let core : CoreId := 0
 (let w : IWord := iw 0x05 1 3 0x10001 0 0
 (let s : State := issuing 0 (iw 0x05 1 3 0x10001 0 0)
 (onlyBits w [(51, 48), (87, 68), (45, 42)] = true) ∧ (let c := coreAt s core.val
 (let a : Int := effAddr c (engAt c 0) (bits w 87 68) + 4 * bits w 45 42
 (0 ≤ a) ∧ (a + 4 ≤ 0x40000) ∧ (let r := readMem (waited s core.val 0 w) (.basket core.val) a.toNat 4
 (Issues s core.val 0 5 w) ∧ (r.1.2 = false))))))) ∧
  (let core : CoreId := 0
 (let w : IWord := iw 0x05 1 3 0x10001 0 0
 (let s : State := writeBytes (issuing 0 (iw 0x05 1 3 0x10001 0 0)) (.basket 0) 192 [1, 2, 3, 4, 5, 6, 7, 8] true
 (onlyBits w [(51, 48), (87, 68), (45, 42)] = true) ∧ (let c := coreAt s core.val
 (let a : Int := effAddr c (engAt c 0) (bits w 87 68) + 4 * bits w 45 42
 (0 ≤ a) ∧ (a + 4 ≤ 0x40000) ∧ (let r := readMem (waited s core.val 0 w) (.basket core.val) a.toNat 4
 (Issues s core.val 0 5 w) ∧ (r.1.2 = true))))))) ∧
  (let core : CoreId := 0
 (let w : IWord := iw 0x06 15 1 0xFFF 0 0
 (let s : State := issuing 0 (iw 0x06 15 1 0xFFF 0 0)
 (onlyBits w [(51, 48), (87, 68), (45, 42)] = true) ∧ (let c := coreAt s core.val
 (let a : Int := effAddr c (engAt c 0) (bits w 87 68) + 4 * bits w 45 42
 (0 ≤ a) ∧ (a + 4 ≤ 0x40000) ∧ (Issues s core.val 0 6 w)))))) :=
  ⟨by decide, by decide, by decide⟩

theorem meets_seqBr :
  (let core : CoreId := 0
 (let w : IWord := iw 0x07 1 0 1 1 0xFFFFB
 (let s : State := issuing 0 (iw 0x07 1 0 1 1 0xFFFFB)
 (Issues s core.val 0 7 w) ∧ (onlyBits w [(71, 68), (91, 88), (44, 42), (127, 108)] = true) ∧ (bits w 44 42 ≤ 6) ∧ (let c := coreAt s core.val
 (let target : Int := (engAt c 0).pc + sext 20 (bits w 127 108)
 (0 ≤ target) ∧ (target < ((c.progs.getD 0 (0, 0)).2 / 16 : Nat)) ∧ ((engAt c 0).loops = []) ∧ (BranchTaken (bits w 44 42) (sreg c (bits w 87 68)) (sreg c (bits w 107 88)))))))) ∧
  (let core : CoreId := 0
 (let w : IWord := iw 0x07 2 0 1 1 250
 (let s : State := issuing 0 (iw 0x07 2 0 1 1 250)
 (Issues s core.val 0 7 w) ∧ (onlyBits w [(71, 68), (91, 88), (44, 42), (127, 108)] = true) ∧ (bits w 44 42 ≤ 6) ∧ (let c := coreAt s core.val
 (let target : Int := (engAt c 0).pc + sext 20 (bits w 127 108)
 (0 ≤ target) ∧ (target < ((c.progs.getD 0 (0, 0)).2 / 16 : Nat)) ∧ ((engAt c 0).loops = []) ∧ (¬BranchTaken (bits w 44 42) (sreg c (bits w 87 68)) (sreg c (bits w 107 88)))))))) :=
  ⟨by decide, by decide⟩

theorem meets_seqRdts :
  (let core : CoreId := 0
 (let w : IWord := iw 0x08 0 3 0 0 0
 (let s : State := issuing 0 (iw 0x08 0 3 0 0 0)
 (Issues s core.val 0 8 w) ∧ (onlyBits w [(51, 48), (42, 42)] = true) ∧ (bits w 42 42 = 0)))) ∧
  (let core : CoreId := 0
 (let w : IWord := iw 0x08 1 3 0 0 0
 (let s : State := issuing 0 (iw 0x08 1 3 0 0 0)
 (Issues s core.val 0 8 w) ∧ (onlyBits w [(51, 48), (42, 42)] = true) ∧ (bits w 42 42 = 1)))) :=
  ⟨by decide, by decide⟩

theorem meets_moverArms :
  (let core : CoreId := 0
 (let w : IWord := iw 0x11 1 0x100 0 0 0x6F00
 (let port : Nat := 2
 (let s : State := planned (iw 0x11 1 0x100 0 0 0x6F00)
 (onlyBits w [(42, 42), (67, 48), (79, 68), (127, 108)] = true) ∧ (1 ≤ bits w 127 108) ∧ (let c := coreAt s core.val
 (let a := effAddr c (engAt c 1) (bits w 67 48)
 (let top : Int := if bits w 42 42 = 1 then 0x1C0000 else 0x40000
 (0 ≤ a) ∧ (a + 64 * bits w 127 108 ≤ top) ∧ ((tget [] c.arms (bits w 87 68)).length < 2) ∧ (Issues s core.val 1 1 w) ∧ (planEntry s core.val (bits w 87 68) = some (false, port))))))))) ∧
  (let core : CoreId := 0
 (let w : IWord := iw 0x12 0 0x100 1 0 0xF00
 (let port : Nat := 3
 (let s : State := planned (iw 0x12 0 0x100 1 0 0xF00)
 (onlyBits w [(42, 42), (67, 48), (79, 68), (127, 108)] = true) ∧ (1 ≤ bits w 127 108) ∧ (let c := coreAt s core.val
 (let a := effAddr c (engAt c 1) (bits w 67 48)
 (let top : Int := if bits w 42 42 = 1 then 0x1C0000 else 0x40000
 (0 ≤ a) ∧ (a + 64 * bits w 127 108 ≤ top) ∧ ((tget [] c.arms (bits w 87 68)).length < 2) ∧ (Issues s core.val 1 2 w) ∧ (planEntry s core.val (bits w 87 68) = some (true, port))))))))) :=
  ⟨by decide, by decide⟩

theorem meets_fetchCopies :
  (let core : CoreId := 0
 (let w : IWord := iw 0x21 0 0x10000 2 0 2
 (let s : State := writeBytes (issuing 2 (iw 0x21 0 0x10000 2 0 2)) (.slice 0) 128 [1, 2, 3] false
 (onlyBits w [(67, 48), (87, 68), (127, 108)] = true) ∧ (1 ≤ bits w 127 108) ∧ (let c := coreAt s core.val
 (let x := effAddr c (engAt c 2) (bits w 67 48)
 (let y := effAddr c (engAt c 2) (bits w 87 68)
 (let n := bits w 127 108
 (0 ≤ x) ∧ (0 ≤ y) ∧ (Issues s core.val 2 1 w) ∧ (x + 64 * n ≤ 0x1C0000) ∧ (y + 64 * n ≤ 0x40000)))))))) ∧
  (let core : CoreId := 0
 (let w : IWord := iw 0x22 0 0x10000 2 0 2
 (let s : State := issuing 2 (iw 0x22 0 0x10000 2 0 2)
 (onlyBits w [(67, 48), (87, 68), (127, 108)] = true) ∧ (1 ≤ bits w 127 108) ∧ (let c := coreAt s core.val
 (let x := effAddr c (engAt c 2) (bits w 67 48)
 (let y := effAddr c (engAt c 2) (bits w 87 68)
 (let n := bits w 127 108
 (0 ≤ x) ∧ (0 ≤ y) ∧ (Issues s core.val 2 2 w) ∧ (x + 64 * n ≤ 0x40000) ∧ (y + 64 * n ≤ 0x1C0000)))))))) :=
  ⟨by decide, by decide⟩

theorem meets_wordsCross :
  (let l : List (W64 × Bool) := [(3, false), (4, false)]
 (let k : Nat := 1
 (let v : W64 × Bool := (4, false)
 (l[k]? = some v)))) ∧
  (let bad : List Nat := [2]
 (let l : List (W64 × Bool) := [(3, false), (4, false)]
 ((∀ k ∈ bad, l.length ≤ k)) ∧ (l.all (fun v => !v.2) = true))) :=
  ⟨by decide, by decide⟩

theorem meets_fetchFill :
  (let core : CoreId := 0
 (let w : IWord := iw 0x23 0 0 0xFFE 0 2
 (let s : State := issuing 2 (iw 0x23 0 0 0xFFE 0 2)
 (Issues s core.val 2 3 w) ∧ (onlyBits w [(87, 68), (127, 108)] = true) ∧ (1 ≤ bits w 127 108) ∧ (let y := effAddr (coreAt s core.val) (engAt (coreAt s core.val) 2) (bits w 87 68)
 (0 ≤ y) ∧ (y + 64 * bits w 127 108 ≤ 0x40000))))) :=
  by decide

theorem meets_wordReadsBack :
  (let id : MemId := .slice 0
 (let a : Nat := 5
 (let poison : Bool := false
 (let s : State := writeBytes (issuing 2 (iw 0x21 0 0x10000 2 0 2)) (.slice 0) 40 [1, 2, 3] false
 ((id = .stack → (stkAt s (eccKey s id a - 5000)).dead = false)) ∧ (flipHits s id a = false) ∧ (poison = false))))) ∧
  (let id : MemId := .slice 0
 (let a : Nat := 5
 (let poison : Bool := true
 (let s : State := writeBytes (issuing 2 (iw 0x21 0 0x10000 2 0 2)) (.slice 0) 40 [1, 2, 3] false
 ((id = .stack → (stkAt s (eccKey s id a - 5000)).dead = false)) ∧ (flipHits s id a = false) ∧ (poison = true))))) ∧
  (let id : MemId := .slice 0
 (let a : Nat := 5
 (let s : State := writeBytes (issuing 2 (iw 0x21 0 0x10000 2 0 2)) (.slice 0) 40 [1, 2, 3] false
 ((id = .stack → (stkAt s (eccKey s id a - 5000)).dead = false)) ∧ (flipHits s id a = false) ∧ (let b := 6
 (b ≠ a))))) ∧
  (let id : MemId := .slice 0
 (let a : Nat := 5
 (let s : State := writeBytes (issuing 2 (iw 0x21 0 0x10000 2 0 2)) (.slice 0) 40 [1, 2, 3] false
 ((id = .stack → (stkAt s (eccKey s id a - 5000)).dead = false)) ∧ (flipHits s id a = false) ∧ (let j := .hamper
 (j ≠ id))))) :=
  ⟨by decide, by decide, by decide, by decide⟩

theorem meets_layouts :
  (let core : CoreId := 0
 (let g : Bool := false
 (let w : IWord := iw 0x33 0 7 8 9 0
 (let s : State := issuing 3 (iw 0x33 0 7 8 9 0)
 (let e := if g then 4 else 3
 (Issues s core.val e 3 w) ∧ (onlyBits w [(67, 48), (87, 68), (107, 88)] = true)))))) ∧
  (let core : CoreId := 0
 (let w : IWord := iw 0x65 0 7 8 0 0
 (let s : State := issuing 6 (iw 0x65 0 7 8 0 0)
 (Issues s core.val 6 5 w) ∧ (onlyBits w [(67, 48), (87, 68)] = true)))) :=
  ⟨by decide, by decide⟩

theorem meets_clears :
  (let core : CoreId := 0
 (let g : Bool := false
 (let w : IWord := iw 0x34 0 0 0 0 0x201
 (let s : State := issuingWith 3 (iw 0x34 0 0 0 0 0x201) (fun c => { c with f := { acc := [(5, { v := 3 }), (64, { v := 5 }), (192, { v := 7 })], scale := [(0, some 1), (1, some 3)] }, g := { acc := [(64, { v := 5 })] } })
 (let e := if g then 4 else 3
 (let a := bits w 115 108
 (let m := bits w 124 116
 (Issues s core.val e 4 w) ∧ (onlyBits w [(124, 108)] = true) ∧ (1 ≤ m) ∧ (a + m ≤ 256)))))))) :=
  by decide

theorem meets_matmul :
  (let core : CoreId := 0
 (let g : Bool := false
 (let w : IWord := iw 0x31 0 0 0 0 0x40201
 (let s : State := tiled (issuingWith 3 (iw 0x31 0 0 0 0 0x40201) (fun c => { c with f := { acc := [(5, { v := 3 }), (64, { v := 5 })], kept := some ⟨0, 0, List.replicate 64 (List.replicate 2 ⟨.fin false 1 0, [.fin false 1 0], false, false⟩), some (.fin false 1 0)⟩ } }))
 (let e := if g then 4 else 3
 (let f := mmForm g w
 (let c := coreAt s core.val
 (let u := waited s core.val e w
 (let acts := readTiles u (.basket core.val) (bits w 11 8) (bits w 92 88) (actAddrs c g f w)
 (let wts := (readTiles (noteTrailers acts.2 core.val e .activation acts.1) (.basket core.val) (bits w 15 12) (bits w 97 93) (wtAddrs c g f w)).1
 (let cols := if f.keep then ((arrOf c g).kept.map (fun k => k.cols)).getD [] else (upFrom 0 64).map (fun n => f.blocks.map (fun b => (tileAt wts b.1).blk n b.2))
 (Issues s core.val e 1 w) ∧ (mmCheck g s c (engAt c e) w = none) ∧ (cols.length = 64)))))))))))) ∧
  (let core : CoreId := 0
 (let g : Bool := false
 (let w : IWord := iw 0x31 0 0 0 0 0x40201
 (let s : State := tiled (issuingWith 3 (iw 0x31 0 0 0 0 0x40201) (fun c => { c with f := { acc := [(5, { v := 3 }), (64, { v := 5 })], kept := some ⟨0, 0, List.replicate 64 (List.replicate 2 ⟨.fin false 1 0, [.fin false 1 0], false, false⟩), some (.fin false 1 0)⟩ } }))
 (let e := if g then 4 else 3
 (let f := mmForm g w
 (let c := coreAt s core.val
 (let u := waited s core.val e w
 (let acts := readTiles u (.basket core.val) (bits w 11 8) (bits w 92 88) (actAddrs c g f w)
 (let wts := (readTiles (noteTrailers acts.2 core.val e .activation acts.1) (.basket core.val) (bits w 15 12) (bits w 97 93) (wtAddrs c g f w)).1
 (let row := fun i => f.blocks.map (fun b => (tileAt acts.1 (i / 64 * f.kTiles + b.1)).blk (i % 64) b.2)
 (let cols := if f.keep then ((arrOf c g).kept.map (fun k => k.cols)).getD [] else (upFrom 0 64).map (fun n => f.blocks.map (fun b => (tileAt wts b.1).blk n b.2))
 (Issues s core.val e 1 w) ∧ (mmCheck g s c (engAt c e) w = none) ∧ (cols.length = 64) ∧ (let fault := (⟨[], [], []⟩ : ArrayFault)
 (fault.first = []) ∧ ((∀ i, i < f.m → rowMatches (if rateClass (bits w 11 8) (bits w 15 12) = some 3 then 14 else 16) (checkSum (row i) (checkWeights f.blocks.length cols)) (rowProducts (row i) cols i []).flatten ≠ some false))))))))))))))) :=
  ⟨by decide, by decide +kernel⟩

theorem meets_drains :
  (let core : CoreId := 0
 (let g : Bool := false
 (let w : IWord := iw 0x32 2 0 0 0 0x200
 (let s : State := issuingWith 3 (iw 0x32 2 0 0 0 0x200) (fun c => { c with f := { acc := [(5, { v := 0x3F800000 }), (64, { v := 0xC0000000 })], scale := [(1, some 0x3F800000)] } })
 (let e := if g then 4 else 3
 (let c := coreAt s core.val
 (let kc := bits w 92 88
 (let first := bits w 115 108
 (let n := bits w 122 116
 (Issues s core.val e 2 w) ∧ (onlyBits w [(15, 12), (47, 42), (67, 48), (92, 88), (122, 108)] = true) ∧ (outOk w kc = true) ∧ (bits w 45 42 ≤ 7) ∧ (1 ≤ n) ∧ (n ≤ 64) ∧ (first + n ≤ 256) ∧ (0 ≤ effAddr c (engAt c e) (bits w 67 48)) ∧ (effAddr c (engAt c e) (bits w 67 48) + kcSize (bits w 15 12) kc ≤ 0x40000)))))))))) :=
  by decide

theorem meets_derivativeDrain :
  (let core : CoreId := 0
 (let w : IWord := iw 0x45 0 0 0 0 0x200
 (let s : State := issuingWith 4 (iw 0x45 0 0 0 0 0x200) (fun c => { c with g := { acc := [(5, { v := 0x3F800000 }), (64, { v := 0xC0000000 })], scale := [(1, some 0x3F800000)] } })
 (Issues s core.val 4 5 w) ∧ (let c := coreAt s core.val
 (gdrvCheck s c (engAt c 4) w = none))))) ∧
  (let core : CoreId := 0
 (let w : IWord := iw 0x45 0 0 0 0 0x200
 (let s : State := issuingWith 4 (iw 0x45 0 0 0 0 0x200) (fun c => { c with g := { acc := [(5, { v := 0x3F800000 }), (64, { v := 0xC0000000 })], scale := [(1, some 0x3F800000)] } })
 (Issues s core.val 4 5 w) ∧ (let c := coreAt s core.val
 (gdrvCheck s c (engAt c 4) w = none) ∧ (bits w 45 42 = 0) ∧ (bits w 98 98 = 0))))) ∧
  (let core : CoreId := 0
 (let w : IWord := iw 0x45 2 0 0x41 0 0x200
 (let s : State := { issuingWith 4 (iw 0x45 2 0 0x41 0 0x200) (fun c => { c with g := { acc := [(5, { v := 0x3F800000 })], scale := [(1, some 0x3F800000)] } }) with baskets := basketTile }
 (Issues s core.val 4 5 w) ∧ (let c := coreAt s core.val
 (gdrvCheck s c (engAt c 4) w = none) ∧ (let pre := readTile (waited s core.val 4 w) (.basket core.val) (effAddr c (engAt c 4) (bits w 87 68)).toNat (bits w 11 8) (bits w 97 93)
 (bits w 45 42 ≠ 0) ∧ (bits w 98 98 = 0) ∧ (pre.1.allBad = false) ∧ (bits w 122 116 ≤ pre.1.validRows) ∧ (pre.1.validCols = 64)))))) :=
  ⟨by decide, by decide, by decide +kernel⟩

theorem meets_shadowAudit :
  (let core : CoreId := 0
 (let n : Nat := 0
 (let a : Audit := ⟨4, 64, 8, 0x3F800000, 0x3F800000, true⟩
 (let s : State := issuingWith 2 0 (fun c => { c with audit := some ⟨4, 64, 8, 0x3F800000, 0x3F800000, true⟩ })
 (s.aon = true) ∧ (partOfCore s core.val = some n) ∧ ((coreAt s core.val).audit = some a))))) ∧
  (let core : CoreId := 0
 (let n : Nat := 0
 (let a : Audit := ⟨4, 64, 8, 0x3F800000, 0x3F800000, true⟩
 (let s : State := issuingWith 2 0 (fun c => { c with audit := some ⟨4, 64, 8, 0x3F800000, 0x3F800000, true⟩ })
 (s.aon = true) ∧ (partOfCore s core.val = some n) ∧ ((coreAt s core.val).audit = some a) ∧ (let st := a.station
 (let other := 5
 (other ≠ st))))))) ∧
  (let core : CoreId := 0
 (let n : Nat := 0
 (let a : Audit := ⟨4, 64, 8, 0, 0x3F800000, true⟩
 (let s : State := issuingWith 2 0 (fun c => { c with audit := some ⟨4, 64, 8, 0, 0x3F800000, true⟩ })
 (s.aon = true) ∧ (partOfCore s core.val = some n) ∧ ((coreAt s core.val).audit = some a) ∧ (let st := a.station
 (let fails := if (f32val a.zz).isZero then a.some_ else ((f32val a.zz).mul (.fin false 1 (-2 * (a.tol : Int)))).lt (f32val a.dz)
 (fails = false ∨ (tget ({} : Stat) (partAt s n).stats st).run.getD 6 0 ≠ 0))))))) ∧
  (let core : CoreId := 0
 (let n : Nat := 0
 (let a : Audit := ⟨4, 64, 8, 0x3F800000, 0x3F800000, true⟩
 (let s : State := issuingWith 2 0 (fun c => { c with audit := some ⟨4, 64, 8, 0x3F800000, 0x3F800000, true⟩ })
 (s.aon = true) ∧ (partOfCore s core.val = some n) ∧ ((coreAt s core.val).audit = some a) ∧ (let st := a.station
 (let fails := if (f32val a.zz).isZero then a.some_ else ((f32val a.zz).mul (.fin false 1 (-2 * (a.tol : Int)))).lt (f32val a.dz)
 (fails = true) ∧ ((tget ({} : Stat) (partAt s n).stats st).run.getD 6 0 = 0))))))) :=
  ⟨by decide, by decide, by decide, by decide⟩

theorem meets_needleLoad :
  (let core : CoreId := 0
 (let w : IWord := iw 0x51 0 0 2 0 0x12
 (let s : State := tiled (issuing 5 (iw 0x51 0 0 2 0 0x12))
 (Issues s core.val 5 1 w) ∧ (let c := coreAt s core.val
 (let v := bits w 111 108
 (let k := bits w 118 112
 (let at_ : Nat → Int := fun t => effAddr c (engAt c 5) (bits w 67 48) + 64 * t * bits w 87 68
 (onlyBits w [(11, 8), (47, 42), (67, 48), (87, 68), (92, 88), (118, 108)] = true) ∧ (kcOk (bits w 11 8) (bits w 92 88) = true) ∧ (bits w 11 8 ≠ 6) ∧ (bits w 11 8 ≠ 4) ∧ (1 ≤ v) ∧ (v ≤ 8) ∧ (1 ≤ k) ∧ (k ≤ 64) ∧ (bits w 47 42 + v ≤ 64) ∧ ((∀ t, t < k → 0 ≤ at_ t ∧ at_ t + kcSize (bits w 11 8) (bits w 92 88) ≤ 0x40000))))))))) :=
  by decide

theorem meets_needlePass :
  (let core : CoreId := 0
 (let w : IWord := iw 0x52 0 0 2 0 1
 (let s : State := issuingWith 5 (iw 0x52 0 0 2 0 1) (fun c => { c with needle := { loaded := true, vecs := [[⟨.one, List.replicate 32 .one, false, false⟩, ⟨.one, List.replicate 32 .one, false, false⟩]] } })
 (Issues s core.val 5 2 w) ∧ (let c := coreAt s core.val
 (mvCheck s c (engAt c 5) w = none))))) ∧
  (let core : CoreId := 0
 (let w : IWord := iw 0x52 0 0 2 0 0x1020
 (let s : State := issuing 5 (iw 0x52 0 0 2 0 0x1020)
 (Issues s core.val 5 2 w) ∧ (let c := coreAt s core.val
 (onlyBits w [(15, 12), (67, 48), (87, 68), (92, 88), (127, 108)] = true) ∧ (kcOk (bits w 15 12) (bits w 92 88) = true) ∧ (bits w 15 12 ≠ 6) ∧ (1 ≤ bits w 113 108) ∧ (bits w 113 108 ≤ 32) ∧ (bits w 119 115 + bits w 113 108 ≤ 32) ∧ (c.needle.loaded = false))))) :=
  ⟨by decide, by decide⟩

theorem meets_needleDrain :
  (let core : CoreId := 0
 (let w : IWord := iw 0x53 0 0 0 0 8704
 (let s : State := issuingWith 5 (iw 0x53 0 0 0 0 8704) (fun c => { c with needle := { acc := [(3, { v := 0x3F800000 })], tscale := [(0, some 0x40000000)] } })
 (Issues s core.val 5 3 w) ∧ (let c := coreAt s core.val
 (let kc := bits w 92 88
 (let n := bits w 120 117
 (let r0 := bits w 126 121
 (let a := effAddr c (engAt c 5) (bits w 67 48)
 (onlyBits w [(15, 12), (47, 46), (67, 48), (92, 88), (126, 108)] = true) ∧ (outOk w kc = true) ∧ (1 ≤ n) ∧ (n ≤ 8) ∧ (bits w 116 113 + n ≤ 8) ∧ (r0 + n ≤ 64) ∧ (0 ≤ a) ∧ (a + kcSize (bits w 15 12) kc ≤ 0x40000))))))))) :=
  by decide

theorem meets_vectorWritten :
  (let v : Nat := 3
 (let l : List Acc := (upFrom 0 64).map (fun k => { v := BitVec.ofNat 32 k })
 (l.length = 64))) ∧
  (let v : Nat := 3
 (let l : List Acc := (upFrom 0 64).map (fun k => { v := BitVec.ofNat 32 k })
 (l.length = 64) ∧ (let k := 1
 (k ≠ v)))) ∧
  (let core : Nat := 0
 (let v : Nat := 3
 (let l : List Acc := (upFrom 0 64).map (fun k => { v := BitVec.ofNat 32 k })
 (l.length = 64) ∧ (let k := 1
 (k ≠ core))))) :=
  ⟨by decide, by decide, by decide⟩

theorem meets_rinseLoadStore :
  (let core : CoreId := 0
 (let w : IWord := iw 0x61 0 0x41 2 0 0
 (let s : State := tiled (issuing 6 (iw 0x61 0 0x41 2 0 0))
 (let c := coreAt s core.val
 (let kc := bits w 97 93
 (let a := effAddr c (engAt c 6) (bits w 67 48)
 (0 ≤ a) ∧ (Issues s core.val 6 1 w) ∧ (onlyBits w [(11, 8), (67, 48), (72, 68), (97, 93), (113, 108)] = true) ∧ (kcOk (bits w 11 8) kc = true) ∧ (a + kcSize (bits w 11 8) kc ≤ 0x40000))))))) ∧
  (let core : CoreId := 0
 (let w : IWord := iw 0x62 0 0x41 2 0 3
 (let s : State := issuingWith 6 (iw 0x62 0 0x41 2 0 3) (fun c => { c with rinse := { reg := [(128, { v := 0x3F800000 })] } })
 (let c := coreAt s core.val
 (let kc := bits w 97 93
 (let a := effAddr c (engAt c 6) (bits w 67 48)
 (0 ≤ a) ∧ (Issues s core.val 6 2 w) ∧ (onlyBits w [(15, 12), (47, 46), (67, 48), (72, 68), (97, 93), (113, 108)] = true) ∧ (outOk w kc = true) ∧ (a + kcSize (bits w 15 12) kc ≤ 0x40000))))))) :=
  ⟨by decide, by decide⟩

theorem meets_rinseVector :
  (let core : CoreId := 0
 (let w : IWord := iw 0x63 1 3 1 2 0
 (let s : State := issuingWith 6 (iw 0x63 1 3 1 2 0) (fun c => { c with rinse := { reg := [(64, { v := 0x3F800000 }), (128, { v := 0x40000000, p := true })] } })
 (Issues s core.val 6 3 w) ∧ (let op := bits w 47 42
 (op ∈ [1, 2, 3, 4, 5, 6, 7, 8, 0x10, 0x11, 0x12, 0x13, 0x14, 0x15]) ∧ (onlyBits w [(47, 42), (52, 48), (72, 68), (92, 88)] = true))))) ∧
  (let core : CoreId := 0
 (let w : IWord := iw 0x63 4 3 1 2 0
 (let s : State := issuingWith 6 (iw 0x63 4 3 1 2 0) (fun c => { c with rinse := { reg := [(64, { v := 0x3F800000 }), (128, { v := 0x40000000, p := true }), (193, { v := 5 })] } })
 (Issues s core.val 6 3 w) ∧ (let op := bits w 47 42
 (op ∈ [1, 2, 3, 4, 5, 6, 7, 8, 0x10, 0x11, 0x12, 0x13, 0x14, 0x15]) ∧ (onlyBits w [(47, 42), (52, 48), (72, 68), (92, 88)] = true))))) ∧
  (let core : CoreId := 0
 (let w : IWord := iw 0x63 9 3 1 0 0
 (let s : State := issuingWith 6 (iw 0x63 9 3 1 0 0) (fun c => { c with rinse := { reg := [(64, { v := 0x3F800000 })] } })
 (Issues s core.val 6 3 w) ∧ (let op := bits w 47 42
 (op = 9) ∧ (onlyBits w [(47, 42), (52, 48), (72, 68), (92, 88), (113, 108)] = true))))) :=
  ⟨by decide, by decide, by decide⟩

set_option maxRecDepth 20000 in
theorem meets_rinseRow :
  (let core : CoreId := 0
 (let w : IWord := iw 0x64 0x20 0 3 0 1
 (let s : State := tiled (issuing 6 (iw 0x64 0x20 0 3 0 1))
 (Issues s core.val 6 4 w) ∧ (let c := coreAt s core.val
 (rowCheck s c (engAt c 6) w = none))))) ∧
  (let core : CoreId := 0
 (let w : IWord := iw 0x64 0x21 0 3 0 1
 (let s : State := tiled (issuing 6 (iw 0x64 0x21 0 3 0 1))
 (Issues s core.val 6 4 w) ∧ (let c := coreAt s core.val
 (let op := bits w 47 42
 (rowCheck s c (engAt c 6) w = none) ∧ (op = 0x20 ∨ op = 0x21 ∨ op = 0x22)))))) ∧
  (let core : CoreId := 0
 (let w : IWord := iw 0x64 0x32 0 0x41 0 1
 (let s : State := { issuing 6 (iw 0x64 0x32 0 0x41 0 1) with baskets := basketRow }
 (Issues s core.val 6 4 w) ∧ (let c := coreAt s core.val
 (let op := bits w 47 42
 (let tiles := (readTiles (waited s core.val 6 w) (.basket core.val) (bits w 11 8) (bits w 97 93) (rowSrc c (engAt c 6) w)).1
 (rowCheck s c (engAt c 6) w = none) ∧ (let all := tiles.map (fun t => t.row (bits w 124 119))
 (let cols := tiles.map (fun t => t.validCols)
 (let eps := (tget ({} : Acc) c.rinse.reg (64 * bits w 92 88))
 (op = 0x30 ∨ op = 0x31 ∨ op = 0x32) ∧ ((∀ a ∈ laneOrder all cols, a.p = false)) ∧ ((op ≠ 0x32 → eps.p = false))))))))))) :=
  ⟨by decide, by decide, by decide +kernel⟩

theorem meets_narrowRoundTrips :
  (let c := 0xFE
 (c < 256) ∧ (c ≠ 0x80) ∧ (c ≠ 0x7F) ∧ (c ≠ 0xFF)) ∧
  (let c := 0xFB
 (c < 256) ∧ (c ≠ 0x80) ∧ (¬(0x7C ≤ c ∧ c ≤ 0x7F)) ∧ (c < 0xFC)) ∧
  (let c := 15
 (c < 16) ∧ (c ≠ 8)) ∧
  (let c := 3
 (c < 4) ∧ (c ≠ 2)) ∧
  (let c := 255
 (c < 256) ∧ (c ≠ 0x80)) :=
  ⟨by decide, by decide, by decide, by decide, by decide⟩

set_option maxRecDepth 20000 in
theorem meets_partLoad :
  (let p : NPort := 0
 (let r : RingId := 0
 (let d : Desc := descP 1 [0, 64]
 (let s : State := parted { st := .running } (descP 1 [0, 64])
 (Takes s p r 0x01 d) ∧ (let u := settleRing s p r
 (let n := descPart d
 (let free := ((partAt u n).st = .empty ∨ (partAt u n).st = .ready) ∧ (partAt u n).load = none ∧ (partAt u n).thermalHalt = false
 (¬free)))))))) ∧
  (let p : NPort := 0
 (let r : RingId := 0
 (let d : Desc := descP 1 [0, 63]
 (let s : State := parted {} (descP 1 [0, 63])
 (Takes s p r 0x01 d) ∧ (let u := settleRing s p r
 (let n := descPart d
 (let len := bits (arg d 1) 31 0
 (let free := ((partAt u n).st = .empty ∨ (partAt u n).st = .ready) ∧ (partAt u n).load = none ∧ (partAt u n).thermalHalt = false
 (free) ∧ (((arg d 0).toNat % 64 ≠ 0 ∨ len % 64 ≠ 0)))))))))) ∧
  (let p : NPort := 0
 (let r : RingId := 0
 (let d : Desc := descP 1 [0, 64]
 (let s : State := parted {} (descP 1 [0, 64])
 (Takes s p r 0x01 d) ∧ (let u := settleRing s p r
 (let n := descPart d
 (let len := bits (arg d 1) 31 0
 (let ref : DescRef := ⟨p, r, d.k⟩
 (let free := ((partAt u n).st = .empty ∨ (partAt u n).st = .ready) ∧ (partAt u n).load = none ∧ (partAt u n).thermalHalt = false
 (free) ∧ ((arg d 0).toNat % 64 = 0) ∧ (len % 64 = 0) ∧ (bitAt (arg d 1) 32 = false) ∧ (fetchOf u (.desc ref) = none)))))))))) ∧
  (let p : NPort := 0
 (let r : RingId := 0
 (let d : Desc := descP 1 [0, 448]
 (let s : State := fetchedWith (.desc ⟨0, 0, 0⟩) (.data imgB []) (parted {} (descP 1 [0, 448]))
 (Takes s p r 0x01 d) ∧ (let u := settleRing s p r
 (let n := descPart d
 (let len := bits (arg d 1) 31 0
 (let ref : DescRef := ⟨p, r, d.k⟩
 (let level := (nalAt u p).lk.level.toNat
 (let free := ((partAt u n).st = .empty ∨ (partAt u n).st = .ready) ∧ (partAt u n).load = none ∧ (partAt u n).thermalHalt = false
 (free) ∧ ((arg d 0).toNat % 64 = 0) ∧ (len % 64 = 0) ∧ (bitAt (arg d 1) 32 = false) ∧ (let v := dropFetch u (.desc ref)
 (let img := imgB
 (Fetched u (.desc ref) (.data img [])) ∧ (imageBad v n level len img = none))))))))))))) ∧
  (let p : NPort := 0
 (let r : RingId := 0
 (let d : Desc := descP 1 [0, 64]
 (let s : State := fetchedWith (.desc ⟨0, 0, 0⟩) (.data (List.replicate 64 0) []) (parted {} (descP 1 [0, 64]))
 (Takes s p r 0x01 d) ∧ (let u := settleRing s p r
 (let n := descPart d
 (let len := bits (arg d 1) 31 0
 (let ref : DescRef := ⟨p, r, d.k⟩
 (let level := (nalAt u p).lk.level.toNat
 (let free := ((partAt u n).st = .empty ∨ (partAt u n).st = .ready) ∧ (partAt u n).load = none ∧ (partAt u n).thermalHalt = false
 (free) ∧ ((arg d 0).toNat % 64 = 0) ∧ (len % 64 = 0) ∧ (bitAt (arg d 1) 32 = false) ∧ (let v := dropFetch u (.desc ref)
 (let img := List.replicate 64 0
 (let st := eAuth
 (let o := 4
 (let item := 0
 (Fetched u (.desc ref) (.data img [])) ∧ (imageBad v n level len img = some (st, o, item))))))))))))))))) ∧
  (let p : NPort := 0
 (let r : RingId := 0
 (let d : Desc := descP 1 [0, 64]
 (let s : State := fetchedWith (.desc ⟨0, 0, 0⟩) (.timeout 0) (parted {} (descP 1 [0, 64]))
 (Takes s p r 0x01 d) ∧ (let u := settleRing s p r
 (let n := descPart d
 (let len := bits (arg d 1) 31 0
 (let ref : DescRef := ⟨p, r, d.k⟩
 (let free := ((partAt u n).st = .empty ∨ (partAt u n).st = .ready) ∧ (partAt u n).load = none ∧ (partAt u n).thermalHalt = false
 (free) ∧ ((arg d 0).toNat % 64 = 0) ∧ (len % 64 = 0) ∧ (bitAt (arg d 1) 32 = false) ∧ (let x := .timeout 0
 (let st := sTimeout
 (Fetched u (.desc ref) x) ∧ (readFailure x = some st)))))))))))) ∧
  (let p : NPort := 0
 (let r : RingId := 0
 (let d : Desc := descP 1 [0x10000, 0x1000001C0]
 (let s : State := stackedWith imgB (descP 1 [0x10000, 0x1000001C0])
 (Takes s p r 0x01 d) ∧ (let u := settleRing s p r
 (let n := descPart d
 (let len := bits (arg d 1) 31 0
 (let level := (nalAt u p).lk.level.toNat
 (let free := ((partAt u n).st = .empty ∨ (partAt u n).st = .ready) ∧ (partAt u n).load = none ∧ (partAt u n).thermalHalt = false
 (free) ∧ ((arg d 0).toNat % 64 = 0) ∧ (len % 64 = 0) ∧ (bitAt (arg d 1) 32 = true) ∧ (stackBad u (arg d 0).toNat len 64 = none) ∧ (inReach u n (arg d 0).toNat len = true) ∧ (busyTable u (arg d 0).toNat len = false) ∧ (let w := readStack u (arg d 0).toNat (len / 8)
 (w.1.any Prod.snd = false) ∧ (imageBad w.2 n level len (wordBytes w.1) = none))))))))))) ∧
  (let p : NPort := 0
 (let r : RingId := 0
 (let d : Desc := descP 1 [0x10000, 0x100000040]
 (let s : State := stacked (descP 1 [0x10000, 0x100000040])
 (Takes s p r 0x01 d) ∧ (let u := settleRing s p r
 (let n := descPart d
 (let len := bits (arg d 1) 31 0
 (let level := (nalAt u p).lk.level.toNat
 (let free := ((partAt u n).st = .empty ∨ (partAt u n).st = .ready) ∧ (partAt u n).load = none ∧ (partAt u n).thermalHalt = false
 (free) ∧ ((arg d 0).toNat % 64 = 0) ∧ (len % 64 = 0) ∧ (bitAt (arg d 1) 32 = true) ∧ (stackBad u (arg d 0).toNat len 64 = none) ∧ (inReach u n (arg d 0).toNat len = true) ∧ (busyTable u (arg d 0).toNat len = false) ∧ (let w := readStack u (arg d 0).toNat (len / 8)
 (w.1.any Prod.snd = false) ∧ (let st := eAuth
 (let o := 4
 (let item := 0
 (imageBad w.2 n level len (wordBytes w.1) = some (st, o, item))))))))))))))) :=
  ⟨by decide, by decide, by decide, by decide +kernel, by decide, by decide, by decide +kernel, by decide⟩

theorem meets_imageChecks :
  (let b : List Byte := List.replicate 64 0
 (let magic := field b 0 4 = 0x49534B59
 (¬magic))) ∧
  (let len : Nat := 64
 (let b : List Byte := [0x59, 0x4B, 0x53, 0x49] ++ List.replicate 60 0
 (let magic := field b 0 4 = 0x49534B59
 (let length := (imageOf b).length = len
 (magic) ∧ (¬length))))) ∧
  (let len : Nat := 64
 (let b : List Byte := [0x59, 0x4B, 0x53, 0x49, 1, 1, 1, 0, 64] ++ List.replicate 55 0
 (let magic := field b 0 4 = 0x49534B59
 (let length := (imageOf b).length = len
 (let crc := imageCrc b = BitVec.ofNat 32 (field b 12 4)
 (magic) ∧ (length) ∧ (¬crc)))))) ∧
  (let level : Nat := 1
 (let len : Nat := 64
 (let b : List Byte := [0x59, 0x4B, 0x53, 0x49, 2, 1, 1, 0, 64, 0, 0, 0] ++ leBytes (imageCrc ([0x59, 0x4B, 0x53, 0x49, 2, 1, 1, 0, 64] ++ List.replicate 55 0)).toNat 4 ++ List.replicate 48 0
 (let magic := field b 0 4 = 0x49534B59
 (let length := (imageOf b).length = len
 (let crc := imageCrc b = BitVec.ofNat 32 (field b 12 4)
 (magic) ∧ (length) ∧ (crc) ∧ ((imageOf b).level ≠ level))))))) :=
  ⟨by decide, by decide, by decide +kernel, by decide +kernel⟩

set_option maxRecDepth 20000 in
theorem meets_imageLoadComplete :
  (let part : PartId := 0
 (let l : Load := { desc := ⟨0, 0, 0⟩, stack := false, addr := 0, image := img0, crc := imageCrc (List.replicate 64 0), lost := true }
 (let s : State := parted { st := .loading, load := some { desc := ⟨0, 0, 0⟩, stack := false, addr := 0, image := img0, crc := imageCrc (List.replicate 64 0), lost := true } } (descP 1 [0, 64])
 (s.aon = true) ∧ ((partAt s part.val).load = some l) ∧ (stagingPart s part.val = false) ∧ (s.hemReset = none) ∧ (let n := part.val
 (l.lost = true ∨ (partAt s n).reset ≠ none))))) ∧
  (let part : PartId := 0
 (let l : Load := { desc := ⟨0, 0, 0⟩, stack := false, addr := 0, image := img0, crc := imageCrc (List.replicate 64 0) }
 (let s : State := parted { st := .loading, load := some { desc := ⟨0, 0, 0⟩, stack := false, addr := 0, image := img0, crc := imageCrc (List.replicate 64 0) } } (descP 1 [0, 64])
 (s.aon = true) ∧ ((partAt s part.val).load = some l) ∧ (stagingPart s part.val = false) ∧ (s.hemReset = none) ∧ (let n := part.val
 (l.lost = false) ∧ ((partAt s n).reset = none) ∧ (l.stack = false) ∧ (fetchOf s (.load n) = none))))) ∧
  (let part : PartId := 0
 (let l : Load := { desc := ⟨0, 0, 0⟩, stack := false, addr := 0, image := img0, crc := imageCrc (List.replicate 64 0) }
 (let s : State := fetchedWith (.load 0) (.data (List.replicate 64 0) []) (parted { st := .loading, load := some { desc := ⟨0, 0, 0⟩, stack := false, addr := 0, image := img0, crc := imageCrc (List.replicate 64 0) } } (descP 1 [0, 64]))
 (s.aon = true) ∧ ((partAt s part.val).load = some l) ∧ (stagingPart s part.val = false) ∧ (s.hemReset = none) ∧ (let n := part.val
 (l.lost = false) ∧ ((partAt s n).reset = none) ∧ (l.stack = false) ∧ (let b := List.replicate 64 0
 (Fetched s (.load n) (.data b [])) ∧ (imageCrc b = l.crc)))))) ∧
  (let part : PartId := 0
 (let l : Load := { desc := ⟨0, 0, 0⟩, stack := false, addr := 0, image := img0, crc := 1 }
 (let s : State := fetchedWith (.load 0) (.data (List.replicate 64 0) []) (parted { st := .loading, load := some { desc := ⟨0, 0, 0⟩, stack := false, addr := 0, image := img0, crc := 1 } } (descP 1 [0, 64]))
 (s.aon = true) ∧ ((partAt s part.val).load = some l) ∧ (stagingPart s part.val = false) ∧ (s.hemReset = none) ∧ (let n := part.val
 (l.lost = false) ∧ ((partAt s n).reset = none) ∧ (l.stack = false) ∧ (let b := List.replicate 64 0
 (Fetched s (.load n) (.data b [])) ∧ (imageCrc b ≠ l.crc)))))) ∧
  (let part : PartId := 0
 (let l : Load := { desc := ⟨0, 0, 0⟩, stack := false, addr := 0, image := img0, crc := imageCrc (List.replicate 64 0) }
 (let s : State := fetchedWith (.load 0) (.data (List.replicate 64 0) [0]) (parted { st := .loading, load := some { desc := ⟨0, 0, 0⟩, stack := false, addr := 0, image := img0, crc := imageCrc (List.replicate 64 0) } } (descP 1 [0, 64]))
 (s.aon = true) ∧ ((partAt s part.val).load = some l) ∧ (stagingPart s part.val = false) ∧ (s.hemReset = none) ∧ (let n := part.val
 (l.lost = false) ∧ ((partAt s n).reset = none) ∧ (l.stack = false) ∧ (let b := List.replicate 64 0
 (let i := 0
 (let l' := []
 (Fetched s (.load n) (.data b (i :: l')))))))))) ∧
  (let part : PartId := 0
 (let l : Load := { desc := ⟨0, 0, 0⟩, stack := false, addr := 0, image := img0, crc := imageCrc (List.replicate 64 0) }
 (let s : State := fetchedWith (.load 0) (.unsupported 128) (parted { st := .loading, load := some { desc := ⟨0, 0, 0⟩, stack := false, addr := 0, image := img0, crc := imageCrc (List.replicate 64 0) } } (descP 1 [0, 64]))
 (s.aon = true) ∧ ((partAt s part.val).load = some l) ∧ (stagingPart s part.val = false) ∧ (s.hemReset = none) ∧ (let n := part.val
 (l.lost = false) ∧ ((partAt s n).reset = none) ∧ (l.stack = false) ∧ (let o := 128
 (Fetched s (.load n) (.unsupported o))))))) ∧
  (let part : PartId := 0
 (let l : Load := { desc := ⟨0, 0, 0⟩, stack := false, addr := 0, image := img0, crc := imageCrc (List.replicate 64 0) }
 (let s : State := fetchedWith (.load 0) (.timeout 128) (parted { st := .loading, load := some { desc := ⟨0, 0, 0⟩, stack := false, addr := 0, image := img0, crc := imageCrc (List.replicate 64 0) } } (descP 1 [0, 64]))
 (s.aon = true) ∧ ((partAt s part.val).load = some l) ∧ (stagingPart s part.val = false) ∧ (s.hemReset = none) ∧ (let n := part.val
 (l.lost = false) ∧ ((partAt s n).reset = none) ∧ (l.stack = false) ∧ (let o := 128
 (Fetched s (.load n) (.timeout o))))))) ∧
  (let part : PartId := 0
 (let l : Load := { desc := ⟨0, 0, 0⟩, stack := false, addr := 0, image := img0, crc := imageCrc (List.replicate 64 0) }
 (let s : State := fetchedWith (.load 0) .portDown (parted { st := .loading, load := some { desc := ⟨0, 0, 0⟩, stack := false, addr := 0, image := img0, crc := imageCrc (List.replicate 64 0) } } (descP 1 [0, 64]))
 (s.aon = true) ∧ ((partAt s part.val).load = some l) ∧ (stagingPart s part.val = false) ∧ (s.hemReset = none) ∧ (let n := part.val
 (l.lost = false) ∧ ((partAt s n).reset = none) ∧ (l.stack = false) ∧ (Fetched s (.load n) .portDown))))) ∧
  (let part : PartId := 0
 (let l : Load := { desc := ⟨0, 0, 0⟩, stack := true, addr := 0x10000, image := { img0 with length := 64 }, crc := imageCrc (List.replicate 64 0) }
 (let s : State := { stacked (descP 1 [0, 64]) with power := { hdr := [(0, { stage := 8, lit := true })] }, parts := [(0, { st := .loading, load := some { desc := ⟨0, 0, 0⟩, stack := true, addr := 0x10000, image := { img0 with length := 64 }, crc := imageCrc (List.replicate 64 0) } })] }
 (s.aon = true) ∧ ((partAt s part.val).load = some l) ∧ (stagingPart s part.val = false) ∧ (s.hemReset = none) ∧ (let n := part.val
 (l.lost = false) ∧ ((partAt s n).reset = none) ∧ (l.stack = true) ∧ (busyTable s l.addr.toNat l.image.length = false) ∧ (let w := readStack s l.addr.toNat (l.image.length / 8)
 (w.1.any Prod.snd = false) ∧ (imageCrc (wordBytes w.1) = l.crc)))))) ∧
  (let part : PartId := 0
 (let l : Load := { desc := ⟨0, 0, 0⟩, stack := true, addr := 0x10000, image := { img0 with length := 64 }, crc := 1 }
 (let s : State := { stacked (descP 1 [0, 64]) with power := { hdr := [(0, { stage := 8, lit := true })] }, parts := [(0, { st := .loading, load := some { desc := ⟨0, 0, 0⟩, stack := true, addr := 0x10000, image := { img0 with length := 64 }, crc := 1 } })] }
 (s.aon = true) ∧ ((partAt s part.val).load = some l) ∧ (stagingPart s part.val = false) ∧ (s.hemReset = none) ∧ (let n := part.val
 (l.lost = false) ∧ ((partAt s n).reset = none) ∧ (l.stack = true) ∧ (busyTable s l.addr.toNat l.image.length = false) ∧ (let w := readStack s l.addr.toNat (l.image.length / 8)
 (w.1.any Prod.snd = false) ∧ (imageCrc (wordBytes w.1) ≠ l.crc)))))) :=
  ⟨by decide +kernel, by decide +kernel, by decide +kernel, by decide +kernel, by decide +kernel, by decide +kernel, by decide +kernel, by decide +kernel, by decide +kernel, by decide +kernel⟩

theorem meets_loadEnds :
  (let n : Nat := 0
 (let m := 1
 (m ≠ n))) :=
  by decide

theorem meets_partRun :
  (let p : NPort := 0
 (let r : RingId := 0
 (let d : Desc := descP 2 [0, 0]
 (let img : Image := img0
 (let s : State := parted { st := .loading, image := some img0 } (descP 2 [0, 0])
 (Takes s p r 0x02 d) ∧ (let u := settleRing s p r
 (let n := descPart d
 ((partAt u n).image = some img) ∧ (((partAt u n).st ≠ .ready ∨ (partAt u n).noStart = true ∨ (partAt u n).reset ≠ none))))))))) ∧
  (let p : NPort := 0
 (let r : RingId := 0
 (let d : Desc := descP 2 [63, 0]
 (let img : Image := img0
 (let s : State := parted { st := .ready, image := some img0 } (descP 2 [63, 0])
 (Takes s p r 0x02 d) ∧ (let u := settleRing s p r
 (let n := descPart d
 (let a := (arg d 0).toNat
 ((partAt u n).image = some img) ∧ ((partAt u n).st = .ready) ∧ ((partAt u n).noStart = false) ∧ ((partAt u n).reset = none) ∧ (a % 64 ≠ 0))))))))) ∧
  (let p : NPort := 0
 (let r : RingId := 0
 (let d : Desc := descP 2 [0, 257]
 (let img : Image := img0
 (let s : State := parted { st := .ready, image := some img0 } (descP 2 [0, 257])
 (Takes s p r 0x02 d) ∧ (let u := settleRing s p r
 (let n := descPart d
 (let k := bits (arg d 1) 8 0
 (let a := (arg d 0).toNat
 ((partAt u n).image = some img) ∧ ((partAt u n).st = .ready) ∧ ((partAt u n).noStart = false) ∧ ((partAt u n).reset = none) ∧ (a % 64 = 0) ∧ (256 < k)))))))))) ∧
  (let p : NPort := 0
 (let r : RingId := 0
 (let d : Desc := descP 2 [0, 0]
 (let img : Image := img0
 (let s : State := parted { st := .ready, image := some img0, mode := some false } (descP 2 [0, 0])
 (Takes s p r 0x02 d) ∧ (let u := settleRing s p r
 (let n := descPart d
 (let k := bits (arg d 1) 8 0
 (let a := (arg d 0).toNat
 ((partAt u n).image = some img) ∧ ((partAt u n).st = .ready) ∧ ((partAt u n).noStart = false) ∧ ((partAt u n).reset = none) ∧ (a % 64 = 0) ∧ (k ≤ 256) ∧ (k = 0)))))))))) ∧
  (let p : NPort := 0
 (let r : RingId := 0
 (let d : Desc := descP 2 [0, 1]
 (let img : Image := img0
 (let s : State := parted { st := .ready, image := some img0, mode := some false } (descP 2 [0, 1])
 (Takes s p r 0x02 d) ∧ (let u := settleRing s p r
 (let n := descPart d
 (let k := bits (arg d 1) 8 0
 (let a := (arg d 0).toNat
 (let ref : DescRef := ⟨p, r, d.k⟩
 ((partAt u n).image = some img) ∧ ((partAt u n).st = .ready) ∧ ((partAt u n).noStart = false) ∧ ((partAt u n).reset = none) ∧ (a % 64 = 0) ∧ (k ≤ 256) ∧ (k ≠ 0) ∧ (bitAt (arg d 1) 32 = false) ∧ (fetchOf u (.desc ref) = none))))))))))) ∧
  (let p : NPort := 0
 (let r : RingId := 0
 (let d : Desc := descP 2 [0, 1]
 (let img : Image := img0
 (let s : State := fetchedWith (.desc ⟨0, 0, 0⟩) (.data (List.replicate 32 0) []) (parted { st := .ready, image := some img0, mode := some false } (descP 2 [0, 1]))
 (Takes s p r 0x02 d) ∧ (let u := settleRing s p r
 (let n := descPart d
 (let k := bits (arg d 1) 8 0
 (let a := (arg d 0).toNat
 (let ref : DescRef := ⟨p, r, d.k⟩
 ((partAt u n).image = some img) ∧ ((partAt u n).st = .ready) ∧ ((partAt u n).noStart = false) ∧ ((partAt u n).reset = none) ∧ (a % 64 = 0) ∧ (k ≤ 256) ∧ (k ≠ 0) ∧ (bitAt (arg d 1) 32 = false) ∧ (let b := List.replicate 32 0
 (Fetched u (.desc ref) (.data b []))))))))))))) ∧
  (let p : NPort := 0
 (let r : RingId := 0
 (let d : Desc := descP 2 [0, 1]
 (let img : Image := img0
 (let s : State := fetchedWith (.desc ⟨0, 0, 0⟩) (.timeout 0) (parted { st := .ready, image := some img0, mode := some false } (descP 2 [0, 1]))
 (Takes s p r 0x02 d) ∧ (let u := settleRing s p r
 (let n := descPart d
 (let k := bits (arg d 1) 8 0
 (let a := (arg d 0).toNat
 (let ref : DescRef := ⟨p, r, d.k⟩
 ((partAt u n).image = some img) ∧ ((partAt u n).st = .ready) ∧ ((partAt u n).noStart = false) ∧ ((partAt u n).reset = none) ∧ (a % 64 = 0) ∧ (k ≤ 256) ∧ (k ≠ 0) ∧ (bitAt (arg d 1) 32 = false) ∧ (let x := .timeout 0
 (let st := sTimeout
 (Fetched u (.desc ref) x) ∧ (readFailure x = some st))))))))))))) ∧
  (let p : NPort := 0
 (let r : RingId := 0
 (let d : Desc := descP 2 [0x10000, 0x100000001]
 (let img : Image := img0
 (let s : State := { stacked (descP 2 [0x10000, 0x100000001]) with parts := [(0, { st := .ready, image := some img0, mode := some false })] }
 (Takes s p r 0x02 d) ∧ (let u := settleRing s p r
 (let n := descPart d
 (let k := bits (arg d 1) 8 0
 (let a := (arg d 0).toNat
 ((partAt u n).image = some img) ∧ ((partAt u n).st = .ready) ∧ ((partAt u n).noStart = false) ∧ ((partAt u n).reset = none) ∧ (a % 64 = 0) ∧ (k ≤ 256) ∧ (k ≠ 0) ∧ (bitAt (arg d 1) 32 = true) ∧ (stackLegal u a = true) ∧ (a + 32 * k ≤ stackEnd u a) ∧ (inReach u n a (32 * k) = true) ∧ (busyTable u a (32 * k) = false) ∧ ((readStack u a (4 * k)).1.all (fun x => !x.2) = true)))))))))) :=
  ⟨by decide, by decide, by decide, by decide, by decide, by decide, by decide, by decide⟩

theorem meets_runAccepted :
  (let n : Nat := 0
 (let m := 3
 (m ≠ n))) :=
  by decide

theorem meets_runStart :
  (let part : PartId := 0
 (let r : Run := { desc := ⟨0, 0, 0⟩, seq := 0, slots := [] }
 (let img : Image := img0
 (let s : State := part0 { st := .running, image := some img0, run := some { desc := ⟨0, 0, 0⟩, seq := 0, slots := [] } }
 (s.aon = true) ∧ ((partAt s part.val).run = some r) ∧ ((partAt s part.val).image = some img) ∧ (r.started = false) ∧ (r.stop = none) ∧ (stagingPart s part.val = false) ∧ (hemWorks s = true) ∧ ((halvesOf s part.val).any (railFailed s) = false) ∧ ((halvesOf s part.val).all (railReady s) = true) ∧ ((∀ x ∈ gainTables s r img, busyTable s x.2.1 x.2.2 = false)))))) ∧
  (let part : PartId := 0
 (let r : Run := { desc := ⟨0, 0, 0⟩, seq := 0, slots := [] }
 (let img : Image := img0
 (let s : State := { part0 { st := .running, image := some img0, run := some { desc := ⟨0, 0, 0⟩, seq := 0, slots := [] } } with power := { hdr := [(0, { stage := 8, lit := true })], avs := [(0, { fault := true })] } }
 (s.aon = true) ∧ ((partAt s part.val).run = some r) ∧ ((partAt s part.val).image = some img) ∧ (r.started = false) ∧ (r.stop = none) ∧ (stagingPart s part.val = false) ∧ (hemWorks s = true) ∧ ((halvesOf s part.val).any (railFailed s) = true))))) :=
  ⟨by
  refine ⟨by decide, by decide, by decide, by decide, by decide, by decide, by decide, by decide, ?_, by decide⟩
  refine List.all_eq_true.mpr (fun h hh => ?_)
  have : h ∈ [0] := hh
  obtain rfl := List.mem_singleton.mp this
  exact Bool.and_eq_true_iff.mpr ⟨rfl, decide_eq_true (coreTarget_le _ _)⟩, by
  refine ⟨by decide, by decide, by decide, by decide, by decide, by decide, by decide, ?_⟩
  exact List.any_eq_true.mpr ⟨0, by decide, Bool.and_eq_true_iff.mpr ⟨rfl, decide_eq_true (coreTarget_pos _ _)⟩⟩⟩

theorem meets_runStartsCore :
  (let e := 2
 (e < 7)) :=
  by decide

theorem meets_runEnd :
  (let part : PartId := 0
 (let r : Run := { run0 with stop := some { status := sTimeout } }
 (let img : Image := img0
 (let s : State := part0 { st := .running, image := some img0, run := some { run0 with stop := some { status := sTimeout } } }
 (s.aon = true) ∧ ((partAt s part.val).run = some r) ∧ ((partAt s part.val).image = some img) ∧ ((partAt s part.val).reset = none) ∧ (s.hemReset = none) ∧ (let e := { status := sTimeout }
 (r.stop = some e)))))) ∧
  (let part : PartId := 0
 (let r : Run := run0
 (let img : Image := img0
 (let s : State := { part0 { st := .running, image := some img0, run := some run0 } with cores := (coresOf (part0 {}) 0).map (fun c => (c, { inReset := true })) }
 (s.aon = true) ∧ ((partAt s part.val).run = some r) ∧ ((partAt s part.val).image = some img) ∧ ((partAt s part.val).reset = none) ∧ (s.hemReset = none) ∧ (r.stop = none) ∧ (r.started = true) ∧ (runDone s part.val r img = true) ∧ (r.poisoned = none))))) ∧
  (let part : PartId := 0
 (let r : Run := { run0 with poisoned := some 4 }
 (let img : Image := img0
 (let s : State := { part0 { st := .running, image := some img0, run := some { run0 with poisoned := some 4 } } with cores := (coresOf (part0 {}) 0).map (fun c => (c, { inReset := true })) }
 (s.aon = true) ∧ ((partAt s part.val).run = some r) ∧ ((partAt s part.val).image = some img) ∧ ((partAt s part.val).reset = none) ∧ (s.hemReset = none) ∧ (r.stop = none) ∧ (r.started = true) ∧ (runDone s part.val r img = true) ∧ (let st := 4
 (r.poisoned = some st)))))) ∧
  (let part : PartId := 0
 (let r : Run := run0
 (let img : Image := img0
 (let s : State := part0 { st := .running, image := some img0, run := some run0 }
 (s.aon = true) ∧ ((partAt s part.val).run = some r) ∧ ((partAt s part.val).image = some img) ∧ ((partAt s part.val).reset = none) ∧ (s.hemReset = none) ∧ (r.stop = none) ∧ ((r.started = false ∨ runDone s part.val r img = false)))))) :=
  ⟨by decide, by decide, by decide, by decide⟩

theorem meets_partStop :
  (let p : NPort := 0
 (let r : RingId := 0
 (let d : Desc := descP 3 [7, 0]
 (let s : State := parted { st := .running, image := some img0, run := some { run0 with seq := 7 } } (descP 3 [7, 0])
 (Takes s p r 0x03 d) ∧ (let u := settleRing s p r
 (let n := descPart d
 (let seq := BitVec.ofNat 32 (bits (arg d 0) 31 0)
 (let rg := bits (arg d 0) 37 32
 (let x := { run0 with seq := 7 }
 ((partAt u n).run = some x) ∧ (x.desc.port = p) ∧ (x.desc.ring.val = rg) ∧ (x.seq = seq)))))))))) ∧
  (let p : NPort := 0
 (let r : RingId := 0
 (let d : Desc := descP 3 [7, 0]
 (let s : State := parted { st := .ready, image := some img0, ran := [(0, 7)] } (descP 3 [7, 0])
 (Takes s p r 0x03 d) ∧ (let u := settleRing s p r
 (let n := descPart d
 (let seq := BitVec.ofNat 32 (bits (arg d 0) 31 0)
 (let rg := bits (arg d 0) 37 32
 ((partAt u n).run = none) ∧ ((p.val * 64 + rg, seq) ∈ (partAt u n).ran))))))))) ∧
  (let p : NPort := 0
 (let r : RingId := 0
 (let d : Desc := descP 3 [7, 0]
 (let s : State := parted { st := .ready, image := some img0, ran := [(0, 6)] } (descP 3 [7, 0])
 (Takes s p r 0x03 d) ∧ (let u := settleRing s p r
 (let n := descPart d
 (let seq := BitVec.ofNat 32 (bits (arg d 0) 31 0)
 (let rg := bits (arg d 0) 37 32
 ((partAt u n).run = none) ∧ ((p.val * 64 + rg, seq) ∉ (partAt u n).ran))))))))) :=
  ⟨by decide, by decide, by decide⟩

theorem meets_firstStopDecides :
  (let n : Nat := 0
 (let r : Run := { run0 with stop := some { status := ok } }
 (let s : State := part0 { st := .running, image := some img0, run := some { run0 with stop := some { status := ok } } }
 ((partAt s n).run = some r) ∧ (r.stop ≠ none)))) ∧
  (let n : Nat := 0
 (let r : Run := run0
 (let s : State := part0 { st := .running, image := some img0, run := some run0 }
 ((partAt s n).run = some r) ∧ (r.stop = none)))) ∧
  (let n : Nat := 0
 (let r : Run := run0
 (let s : State := part0 { st := .running, image := some img0, run := some run0 }
 ((partAt s n).run = some r) ∧ (r.stop = none) ∧ (let m := 1
 (m ≠ n))))) ∧
  (let n : Nat := 0
 (let r : Run := run0
 (let s : State := part0 { st := .running, image := some img0, run := some run0 }
 ((partAt s n).run = some r) ∧ (r.stop = none) ∧ (let k := 40
 (k ∉ coresOf s n))))) :=
  ⟨by decide, by decide, by decide, by decide⟩

theorem meets_partReset :
  (let s : State := parted { st := .ready, image := some img0 } (descP 4 [])
 (let p : NPort := 0
 (let r : RingId := 0
 (let d : Desc := descP 4 []
 (Takes s p r 0x04 d) ∧ (let u := settleRing s p r
 (u.hemReset = none) ∧ ((partAt u (descPart d)).reset = none) ∧ (let v := acceptDesc u ⟨p, r, d.k⟩
 (v.hemReset = none) ∧ ((partAt v (descPart d)).reset = none))))))) ∧
  (let s : State := part0 { st := .running, image := some img0, reset := some ⟨[⟨0, 0, 0⟩], 7⟩, run := some { run0 with stop := some { status := sResetAbort } } }
 (let part : PartId := 0
 (let x : PReset := ⟨[⟨0, 0, 0⟩], 7⟩
 (s.aon = true) ∧ ((partAt s part.val).reset = some x) ∧ (s.hemReset = none)))) :=
  ⟨by decide, by decide⟩

theorem meets_idChecks :
  (let s : State := blocked pb0 (descP 0x12 [])
 (let n : Nat := 1
 (let ids : List Nat := [3]
 (let st := ePartition
 (let o := 3
 (let id := 3
 (idsBad s n ids = some (st, o, id)))))))) :=
  by decide +kernel

theorem meets_paramDefine :
  (let p : NPort := 0
 (let r : RingId := 0
 (let d : Desc := descP 0x10 [3, 0x200000, 0x210000, 0x220000, 0, 0x4000000040, 0]
 (let s : State := stacked (descP 0x10 [3, 0x200000, 0x210000, 0x220000, 0, 0x4000000040, 0])
 (Takes s p r 0x10 d) ∧ (let u := settleRing s p r
 (let id := (arg d 0).toNat
 (let rows := if id < pbtCount u then [(pbtBase u + 64 * id, 64)] else []
 (let t := tablesRead u rows
 (Clean u rows) ∧ (defineBad t d = none))))))))) ∧
  (let p : NPort := 0
 (let r : RingId := 0
 (let d : Desc := descP 0x10 [8, 0x200000, 0x210000, 0x220000, 0, 0x4000000040, 0]
 (let s : State := stacked (descP 0x10 [8, 0x200000, 0x210000, 0x220000, 0, 0x4000000040, 0])
 (Takes s p r 0x10 d) ∧ (let u := settleRing s p r
 (let id := (arg d 0).toNat
 (let rows := if id < pbtCount u then [(pbtBase u + 64 * id, 64)] else []
 (let t := tablesRead u rows
 (Clean u rows) ∧ (let st := eRange
 (let k := 2
 (defineBad t d = some (st, k)))))))))))) ∧
  (let p : NPort := 0
 (let r : RingId := 0
 (let d : Desc := descP 0x10 [3, 0x200000, 0x210000, 0x220000, 0, 0x4000000040, 0]
 (let s : State := writeStack (stacked (descP 0x10 [3, 0x200000, 0x210000, 0x220000, 0, 0x4000000040, 0])) 0x1000C0 [(0, true)]
 (Takes s p r 0x10 d) ∧ (let u := settleRing s p r
 (let id := (arg d 0).toNat
 (let rows := if id < pbtCount u then [(pbtBase u + 64 * id, 64)] else []
 ((∀ x ∈ rows, busyTable u x.1 x.2 = false)) ∧ ((∃ x ∈ rows, peekBad u x.1 x.2 = true))))))))) ∧
  (let p : NPort := 0
 (let r : RingId := 0
 (let d : Desc := descP 0x10 [3, 0x200000, 0x210000, 0x220000, 0, 0x4000000040, 0]
 (let s : State := stacked (descP 0x10 [3, 0x200000, 0x210000, 0x220000, 0, 0x4000000040, 0])
 (Takes s p r 0x10 d))))) :=
  ⟨by decide +kernel, by decide, by decide, by decide⟩

theorem meets_paramFreezeFlip :
  (let p : NPort := 0
 (let r : RingId := 0
 (let d : Desc := descP 0x11 [0, 0x100000001]
 (let s : State := blocked pb0 (descP 0x11 [0, 0x100000001])
 (let u := settleRing s p r
 (let ref : DescRef := ⟨p, r, d.k⟩
 (let n := bits (arg d 1) 12 0
 (pbtCount u ≠ 0) ∧ (1 ≤ n) ∧ (n ≤ 4096) ∧ ((arg d 0).toNat % 8 = 0) ∧ (Takes s p r 0x11 d) ∧ (fetchOf u (.desc ref) = none)))))))) ∧
  (let p : NPort := 0
 (let r : RingId := 0
 (let d : Desc := descP 0x12 [0, 1]
 (let s : State := blocked pb0 (descP 0x12 [0, 1])
 (let u := settleRing s p r
 (let ref : DescRef := ⟨p, r, d.k⟩
 (let n := bits (arg d 1) 12 0
 (pbtCount u ≠ 0) ∧ (1 ≤ n) ∧ (n ≤ 4096) ∧ ((arg d 0).toNat % 8 = 0) ∧ (Takes s p r 0x12 d) ∧ (fetchOf u (.desc ref) = none)))))))) ∧
  (let p : NPort := 0
 (let r : RingId := 0
 (let d : Desc := descP 0x11 [0, 0x100000001]
 (let s : State := fetchedWith (.desc ⟨0, 0, 0⟩) (.data [3, 0, 0, 0] []) (blocked pb0 (descP 0x11 [0, 0x100000001]))
 (let u := settleRing s p r
 (let ref : DescRef := ⟨p, r, d.k⟩
 (let n := bits (arg d 1) 12 0
 (let v := dropFetch u (.desc ref)
 (pbtCount u ≠ 0) ∧ (1 ≤ n) ∧ (n ≤ 4096) ∧ ((arg d 0).toNat % 8 = 0) ∧ (let b := [3, 0, 0, 0]
 (Fetched u (.desc ref) (.data b [])) ∧ (let ids := listWords b n
 (let t := tablesRead v (pbRows v ids)
 (Clean v (pbRows v ids)) ∧ (idsBad t (descPart d) ids = none) ∧ (Takes s p r 0x11 d)))))))))))) ∧
  (let p : NPort := 0
 (let r : RingId := 0
 (let d : Desc := descP 0x12 [0, 1]
 (let s : State := fetchedWith (.desc ⟨0, 0, 0⟩) (.data [3, 0, 0, 0] []) (blocked pb0 (descP 0x12 [0, 1]))
 (let u := settleRing s p r
 (let ref : DescRef := ⟨p, r, d.k⟩
 (let n := bits (arg d 1) 12 0
 (let v := dropFetch u (.desc ref)
 (pbtCount u ≠ 0) ∧ (1 ≤ n) ∧ (n ≤ 4096) ∧ ((arg d 0).toNat % 8 = 0) ∧ (let b := [3, 0, 0, 0]
 (Fetched u (.desc ref) (.data b [])) ∧ (let ids := listWords b n
 (let t := tablesRead v (pbRows v ids)
 (Clean v (pbRows v ids)) ∧ (idsBad t (descPart d) ids = none) ∧ (Takes s p r 0x12 d) ∧ ((∀ id ∈ ids, (pbAt t id).frozen = false ∧ pbBound t id = false))))))))))))) ∧
  (let p : NPort := 0
 (let r : RingId := 0
 (let d : Desc := descP 0x12 [0, 1]
 (let s : State := fetchedWith (.desc ⟨0, 0, 0⟩) (.data [3, 0, 0, 0] []) (blocked (pb0.setFrozen true) (descP 0x12 [0, 1]))
 (let u := settleRing s p r
 (let ref : DescRef := ⟨p, r, d.k⟩
 (let n := bits (arg d 1) 12 0
 (let v := dropFetch u (.desc ref)
 (pbtCount u ≠ 0) ∧ (1 ≤ n) ∧ (n ≤ 4096) ∧ ((arg d 0).toNat % 8 = 0) ∧ (let b := [3, 0, 0, 0]
 (Fetched u (.desc ref) (.data b [])) ∧ (let ids := listWords b n
 (let t := tablesRead v (pbRows v ids)
 (Clean v (pbRows v ids)) ∧ (idsBad t (descPart d) ids = none) ∧ (Takes s p r 0x12 d) ∧ (let id := 3
 (ids.find? (fun id => (pbAt t id).frozen) = some id))))))))))))) ∧
  (let p : NPort := 0
 (let r : RingId := 0
 (let d : Desc := descP 0x12 [0, 1]
 (let s : State := { fetchedWith (.desc ⟨0, 0, 0⟩) (.data [3, 0, 0, 0] []) (blocked pb0 (descP 0x12 [0, 1])) with parts := [(0, { st := .running, image := some img0, run := some { run0 with slots := [⟨3, 3, 0, 0⟩] } })] }
 (let u := settleRing s p r
 (let ref : DescRef := ⟨p, r, d.k⟩
 (let n := bits (arg d 1) 12 0
 (let v := dropFetch u (.desc ref)
 (pbtCount u ≠ 0) ∧ (1 ≤ n) ∧ (n ≤ 4096) ∧ ((arg d 0).toNat % 8 = 0) ∧ (let b := [3, 0, 0, 0]
 (Fetched u (.desc ref) (.data b [])) ∧ (let ids := listWords b n
 (let t := tablesRead v (pbRows v ids)
 (Clean v (pbRows v ids)) ∧ (idsBad t (descPart d) ids = none) ∧ (Takes s p r 0x12 d) ∧ (let id := 3
 ((∀ k ∈ ids, (pbAt t k).frozen = false)) ∧ (ids.find? (pbBound t) = some id))))))))))))) :=
  ⟨by decide, by decide, by decide +kernel, by decide +kernel, by decide +kernel, by decide +kernel⟩

theorem meets_paramListRefused :
  (let p : NPort := 0
 (let r : RingId := 0
 (let d : Desc := descP 0x12 [0, 1]
 (let s : State := { stacked (descP 0x12 [0, 1]) with staged := [(0xA00000, 1)] }
 (let go := (Instr.paramFlip 0 0, (0x12 : Byte))
 (go ∈ [(Instr.paramFreeze p r, (0x11 : Byte)), (Instr.paramFlip p r, 0x12)]) ∧ (Takes s p r go.2 d) ∧ (let u := settleRing s p r
 (pbtCount u = 0))))))) ∧
  (let p : NPort := 0
 (let r : RingId := 0
 (let d : Desc := descP 0x12 [0, 0]
 (let s : State := stacked (descP 0x12 [0, 0])
 (let go := (Instr.paramFlip 0 0, (0x12 : Byte))
 (go ∈ [(Instr.paramFreeze p r, (0x11 : Byte)), (Instr.paramFlip p r, 0x12)]) ∧ (Takes s p r go.2 d) ∧ (let u := settleRing s p r
 (let n := bits (arg d 1) 12 0
 (pbtCount u ≠ 0) ∧ ((n = 0 ∨ 4096 < n))))))))) ∧
  (let p : NPort := 0
 (let r : RingId := 0
 (let d : Desc := descP 0x12 [0, 1]
 (let s : State := fetchedWith (.desc ⟨0, 0, 0⟩) .portDown (stacked (descP 0x12 [0, 1]))
 (let go := (Instr.paramFlip 0 0, (0x12 : Byte))
 (go ∈ [(Instr.paramFreeze p r, (0x11 : Byte)), (Instr.paramFlip p r, 0x12)]) ∧ (Takes s p r go.2 d) ∧ (let u := settleRing s p r
 (let ref : DescRef := ⟨p, r, d.k⟩
 (let n := bits (arg d 1) 12 0
 (pbtCount u ≠ 0) ∧ (1 ≤ n) ∧ (n ≤ 4096) ∧ ((arg d 0).toNat % 8 = 0) ∧ (let x := .portDown
 (let st := sLinkDown
 (Fetched u (.desc ref) x) ∧ (readFailure x = some st))))))))))) ∧
  (let p : NPort := 0
 (let r : RingId := 0
 (let d : Desc := descP 0x12 [0, 1]
 (let s : State := fetchedWith (.desc ⟨0, 0, 0⟩) (.data [3, 0, 0, 0] []) (stacked (descP 0x12 [0, 1]))
 (let go := (Instr.paramFlip 0 0, (0x12 : Byte))
 (go ∈ [(Instr.paramFreeze p r, (0x11 : Byte)), (Instr.paramFlip p r, 0x12)]) ∧ (Takes s p r go.2 d) ∧ (let u := settleRing s p r
 (let ref : DescRef := ⟨p, r, d.k⟩
 (let n := bits (arg d 1) 12 0
 (let v := dropFetch u (.desc ref)
 (pbtCount u ≠ 0) ∧ (1 ≤ n) ∧ (n ≤ 4096) ∧ ((arg d 0).toNat % 8 = 0) ∧ (let b := [3, 0, 0, 0]
 (let st := eRange
 (let o := 2
 (let id := 3
 (Fetched u (.desc ref) (.data b [])) ∧ (Clean v (pbRows v (listWords b n))) ∧ (idsBad (tablesRead v (pbRows v (listWords b n))) (descPart d) (listWords b n) = some (st, o, id))))))))))))))) :=
  ⟨by decide, by decide, by decide, by decide +kernel⟩

theorem meets_transfersBegin :
  (let p : NPort := 0
 (let r : RingId := 0
 (let d : Desc := descP 8 [0x1000, 0x100000, 64]
 (let s : State := stacked (descP 8 [0x1000, 0x100000, 64])
 (let u := settleRing s p r
 (let n := bits (arg d 2) 31 0
 (Takes s p r 0x08 d) ∧ (copyBad u (descPart d) (arg d 0).toNat (arg d 1).toNat n = none) ∧ (let st := eState
 (hostWriteBad u (arg d 1).toNat n = some st)))))))) ∧
  (let p : NPort := 0
 (let r : RingId := 0
 (let d : Desc := descP 8 [0x1000, 0x8000000040, 64]
 (let s : State := { stacked (descP 8 [0x1000, 0x8000000040, 64]) with nbus := [(0, { ops := [{ words := [0, 0, 0, 1, 1], source := .desc ⟨0, 1, 0⟩ 0 0 }] })] }
 (let u := settleRing s p r
 (let n := bits (arg d 2) 31 0
 (Takes s p r 0x08 d) ∧ (copyBad u (descPart d) (arg d 0).toNat (arg d 1).toNat n = none) ∧ (hostWriteBad u (arg d 1).toNat n = none) ∧ (busyStack u (arg d 1).toNat false (n / 64) = true))))))) ∧
  (let p : NPort := 0
 (let r : RingId := 0
 (let d : Desc := descP 8 [0x1000, 0x40, 64]
 (let s : State := stacked (descP 8 [0x1000, 0x40, 64])
 (let u := settleRing s p r
 (let n := bits (arg d 2) 31 0
 (Takes s p r 0x08 d) ∧ (copyBad u (descPart d) (arg d 0).toNat (arg d 1).toNat n = none) ∧ (hostWriteBad u (arg d 1).toNat n = none) ∧ (busyStack u (arg d 1).toNat false (n / 64) = false))))))) ∧
  (let p : NPort := 0
 (let r : RingId := 0
 (let d : Desc := descP 9 [0x40, 0x1000, 0xFFFFFFC0]
 (let s : State := stacked (descP 9 [0x40, 0x1000, 0xFFFFFFC0])
 (let u := settleRing s p r
 (let n := bits (arg d 2) 31 0
 (Takes s p r 0x09 d) ∧ (copyBad u (descPart d) (arg d 1).toNat (arg d 0).toNat n = none))))))) ∧
  (let p : NPort := 0
 (let r : RingId := 0
 (let d : Desc := descP 0x13 [3, 0x1000, 4223, 0]
 (let s : State := { blocked pb0 (descP 0x13 [3, 0x1000, 4223, 0]) with parts := [(0, { st := .running, image := some img0, run := some { run0 with slots := [⟨3, 3, 0, 0⟩] } })] }
 (let u := settleRing s p r
 (let rows := pbRows u [(arg d 0).toNat]
 (let t := tablesRead u rows
 (Takes s p r 0x13 d) ∧ (pbtCount u ≠ 0) ∧ (Clean u rows) ∧ (idsBad t (descPart d) [(arg d 0).toNat] = none) ∧ (pbBound t (arg d 0).toNat = true)))))))) ∧
  (let p : NPort := 0
 (let r : RingId := 0
 (let d : Desc := descP 0x13 [3, 0x1000, 4223, 0]
 (let s : State := blocked pb0 (descP 0x13 [3, 0x1000, 4223, 0])
 (let u := settleRing s p r
 (let n := bits (arg d 2) 31 0
 (let rows := pbRows u [(arg d 0).toNat]
 (let t := tablesRead u rows
 (Takes s p r 0x13 d) ∧ (pbtCount u ≠ 0) ∧ (Clean u rows) ∧ (idsBad t (descPart d) [(arg d 0).toNat] = none) ∧ (let len := (pbAt t (arg d 0).toNat).fetchLen (bitAt (arg d 3) 0)
 (pbBound t (arg d 0).toNat = false) ∧ (n < len)))))))))) ∧
  (let p : NPort := 0
 (let r : RingId := 0
 (let d : Desc := descP 0x13 [3, 0x1000, 4224, 0]
 (let s : State := blocked pb0 (descP 0x13 [3, 0x1000, 4224, 0])
 (let u := settleRing s p r
 (let n := bits (arg d 2) 31 0
 (let rows := pbRows u [(arg d 0).toNat]
 (let t := tablesRead u rows
 (Takes s p r 0x13 d) ∧ (pbtCount u ≠ 0) ∧ (Clean u rows) ∧ (idsBad t (descPart d) [(arg d 0).toNat] = none) ∧ (let len := (pbAt t (arg d 0).toNat).fetchLen (bitAt (arg d 3) 0)
 (pbBound t (arg d 0).toNat = false) ∧ (len ≤ n)))))))))) :=
  ⟨by decide, by decide, by decide, by decide, by decide +kernel, by decide +kernel, by decide +kernel⟩

theorem meets_copyChecks :
  (let host : Nat := 4
 (let stack : Nat := 64
 (let len : Nat := 64
 ((host % 8 ≠ 0 ∨ len % 64 ≠ 0 ∨ stack % 64 ≠ 0))))) ∧
  (let host : Nat := 8
 (let stack : Nat := 64
 (let len : Nat := 0
 (host % 8 = 0) ∧ (len % 64 = 0) ∧ (stack % 64 = 0) ∧ (len = 0)))) ∧
  (let s : State := stacked (descP 8 [])
 (let host : Nat := 8
 (let stack : Nat := 64
 (let len : Nat := 64
 (host % 8 = 0) ∧ (len % 64 = 0) ∧ (stack % 64 = 0) ∧ (len ≠ 0) ∧ (stackBad s stack len 64 = none))))) :=
  ⟨by decide, by decide, by decide⟩

theorem meets_mangleTransfer :
  (let id : Nat := 0
 (let x : Xfer := xferIn
 (let s : State := { copying xferIn with hemReset := some { desc := none, begun := 0 } }
 (s.aon = true) ∧ (tget none s.xfers id = some x) ∧ (s.hemReset ≠ none)))) ∧
  (let id : Nat := 0
 (let x : Xfer := xferIn
 (let s : State := copying xferIn
 (s.aon = true) ∧ (tget none s.xfers id = some x) ∧ (engineWorks s id = true) ∧ (x.kind = .copyIn) ∧ (x.buf = [])))) ∧
  (let id : Nat := 0
 (let x : Xfer := { xferIn with buf := [(5, false), (6, true)] }
 (let s : State := copying { xferIn with buf := [(5, false), (6, true)] }
 (s.aon = true) ∧ (tget none s.xfers id = some x) ∧ (engineWorks s id = true) ∧ (x.kind = .copyIn) ∧ (x.buf ≠ []) ∧ (let a := x.dst.toNat + x.moved
 (busyStack s (a - a % 64) false (ceilDiv (a % 64 + 8 * x.buf.length) 64) = false) ∧ (x.moved + 8 * x.buf.length < x.len))))) ∧
  (let id : Nat := 0
 (let x : Xfer := { xferIn with moved := 120, buf := [(5, false)] }
 (let s : State := copying { xferIn with moved := 120, buf := [(5, false)] }
 (s.aon = true) ∧ (tget none s.xfers id = some x) ∧ (engineWorks s id = true) ∧ (x.kind = .copyIn) ∧ (x.buf ≠ []) ∧ (let a := x.dst.toNat + x.moved
 (busyStack s (a - a % 64) false (ceilDiv (a % 64 + 8 * x.buf.length) 64) = false) ∧ (x.len ≤ x.moved + 8 * x.buf.length) ∧ (let ref := ⟨0, 0, 0⟩
 (x.desc = some ref)))))) ∧
  (let id : Nat := 0
 (let x : Xfer := { kind := .copyOut, desc := some ⟨0, 0, 0⟩, part := 0, src := 0x40, dst := 0xFC0, len := 128 }
 (let s : State := copying { kind := .copyOut, desc := some ⟨0, 0, 0⟩, part := 0, src := 0x40, dst := 0xFC0, len := 128 }
 (s.aon = true) ∧ (tget none s.xfers id = some x) ∧ (engineWorks s id = true) ∧ (x.kind = .copyOut) ∧ (let a := x.src.toNat + x.moved
 (let n := hostChunk (x.dst.toNat + x.moved) (x.len - x.moved)
 (busyStack s (a - a % 64) true (ceilDiv (a % 64 + n) 64) = false) ∧ (x.moved + n < x.len)))))) ∧
  (let id : Nat := 0
 (let x : Xfer := { kind := .copyOut, desc := some ⟨0, 0, 0⟩, part := 0, src := 0x40, dst := 0xFC0, len := 64 }
 (let bad : List Nat := []
 (let s : State := copying { kind := .copyOut, desc := some ⟨0, 0, 0⟩, part := 0, src := 0x40, dst := 0xFC0, len := 64 }
 (s.aon = true) ∧ (tget none s.xfers id = some x) ∧ (engineWorks s id = true) ∧ (x.kind = .copyOut) ∧ (let a := x.src.toNat + x.moved
 (let n := hostChunk (x.dst.toNat + x.moved) (x.len - x.moved)
 (busyStack s (a - a % 64) true (ceilDiv (a % 64 + n) 64) = false) ∧ (let q := readCrossing s a (n / 8) bad
 (let poison := x.poison <|> firstPoison (x.moved / 8) q.1
 (x.len ≤ x.moved + n) ∧ (let ref := ⟨0, 0, 0⟩
 (x.desc = some ref) ∧ (poison = none)))))))))) ∧
  (let id : Nat := 0
 (let x : Xfer := { kind := .copyOut, desc := some ⟨0, 0, 0⟩, part := 0, src := 0x40, dst := 0xFC0, len := 64, poison := some 0 }
 (let bad : List Nat := []
 (let s : State := copying { kind := .copyOut, desc := some ⟨0, 0, 0⟩, part := 0, src := 0x40, dst := 0xFC0, len := 64, poison := some 0 }
 (s.aon = true) ∧ (tget none s.xfers id = some x) ∧ (engineWorks s id = true) ∧ (x.kind = .copyOut) ∧ (let a := x.src.toNat + x.moved
 (let n := hostChunk (x.dst.toNat + x.moved) (x.len - x.moved)
 (busyStack s (a - a % 64) true (ceilDiv (a % 64 + n) 64) = false) ∧ (let q := readCrossing s a (n / 8) bad
 (let poison := x.poison <|> firstPoison (x.moved / 8) q.1
 (x.len ≤ x.moved + n) ∧ (let ref := ⟨0, 0, 0⟩
 (x.desc = some ref) ∧ (let k := 0
 (poison = some k))))))))))) :=
  ⟨by decide, by decide, by decide, by decide, by decide, by decide, by decide⟩

theorem meets_gradientMoves :
  (let id : Nat := 0
 (let x : Xfer := { kind := .gradFetch, desc := some ⟨0, 0, 0⟩, part := 0, src := 3, dst := 0x1000, len := 16384 }
 (let bad : List Nat := []
 (let s : State := { setPb (copying xferIn) 3 pb0 with xfers := [(0, some { kind := .gradFetch, desc := some ⟨0, 0, 0⟩, part := 0, src := 3, dst := 0x1000, len := 16384 })] }
 (s.aon = true) ∧ (tget none s.xfers id = some x) ∧ (engineWorks s id = true) ∧ (x.kind = .gradFetch) ∧ (let e := pbAt s x.src.toNat
 (let at_ := e.grad + x.moved / e.gradTile * 8256
 (let q := readCrossing s at_ 1032 bad
 (x.moved < e.tiles * e.gradTile) ∧ (busyTable s at_ 8256 = false) ∧ (q.1.any Prod.snd = false) ∧ (let b := gradBytes e.gradFmt (wordBytes q.1)
 (x.moved + b.length < x.len))))))))) ∧
  (let id : Nat := 0
 (let x : Xfer := { kind := .gradFetch, desc := some ⟨0, 0, 0⟩, part := 0, src := 3, dst := 0x1000, len := 16384 }
 (let bad : List Nat := []
 (let s : State := writeStack ({ setPb (copying xferIn) 3 pb0 with xfers := [(0, some { kind := .gradFetch, desc := some ⟨0, 0, 0⟩, part := 0, src := 3, dst := 0x1000, len := 16384 })] }) 0x220000 [(0, true)]
 (s.aon = true) ∧ (tget none s.xfers id = some x) ∧ (engineWorks s id = true) ∧ (x.kind = .gradFetch) ∧ (let e := pbAt s x.src.toNat
 (let at_ := e.grad + x.moved / e.gradTile * 8256
 (let q := readCrossing s at_ 1032 bad
 (x.moved < e.tiles * e.gradTile) ∧ (busyTable s at_ 8256 = false) ∧ ((∃ w ∈ q.1, w.2 = true)) ∧ (x.moved + e.gradTile < x.len)))))))) :=
  ⟨by decide +kernel, by decide +kernel⟩

theorem meets_lastWillFetch :
  (let p : NPort := 0
 (let r : RingId := 0
 (let d : Desc := desc 0x74 [0x1000, 8]
 (let s : State := { asked (desc 0x74 [0x1000, 8]) with sem := {} }
 (Takes s p r 0x74 d) ∧ (let u := settleRing s p r
 (holdsSem u p = false)))))) ∧
  (let p : NPort := 0
 (let r : RingId := 0
 (let d : Desc := desc 0x74 [0x1000, 8]
 (let s : State := asked (desc 0x74 [0x1000, 8])
 (Takes s p r 0x74 d) ∧ (let u := settleRing s p r
 (let w := if (newestWill u.hup).1 != bitAt (arg d 1) 32 then u.hup.slot1 else u.hup.slot0
 (holdsSem u p = true) ∧ (w = none))))))) ∧
  (let p : NPort := 0
 (let r : RingId := 0
 (let d : Desc := desc 0x74 [0x1000, 8]
 (let s : State := { asked (desc 0x74 [0x1000, 8]) with hup := { slot0 := some { seq := 1, bytes := List.replicate 9 1 } } }
 (Takes s p r 0x74 d) ∧ (let u := settleRing s p r
 (let w := if (newestWill u.hup).1 != bitAt (arg d 1) 32 then u.hup.slot1 else u.hup.slot0
 (let x := ({ seq := 1, bytes := List.replicate 9 1 } : LastWill)
 (holdsSem u p = true) ∧ (w = some x) ∧ (bits (arg d 1) 31 0 < x.bytes.length)))))))) ∧
  (let p : NPort := 0
 (let r : RingId := 0
 (let d : Desc := desc 0x74 [0x1000, 9]
 (let s : State := { asked (desc 0x74 [0x1000, 9]) with hup := { slot0 := some { seq := 1, bytes := List.replicate 9 1 } } }
 (Takes s p r 0x74 d) ∧ (let u := settleRing s p r
 (let w := if (newestWill u.hup).1 != bitAt (arg d 1) 32 then u.hup.slot1 else u.hup.slot0
 (let x := ({ seq := 1, bytes := List.replicate 9 1 } : LastWill)
 (holdsSem u p = true) ∧ (w = some x) ∧ (x.bytes.length ≤ bits (arg d 1) 31 0)))))))) :=
  ⟨by decide, by decide, by decide, by decide⟩

theorem meets_codewordsPass :
  (let l : Link := .nalson 0
 (let f : Flit := flit 1 []
 (let s : State := linked { phase := .up, rxPos := 2, rxBad := true }
 (let k := lkAt s l
 (let begins := k.rxPos = 0 ∨ k.rxPos = 2
 (begins) ∧ (f.errors.length ≤ 15)))))) ∧
  (let l : Link := .nalson 0
 (let f : Flit := { flit 1 [] with errors := List.replicate 16 3 }
 (let s : State := linked { phase := .up, rxPos := 2, rxBad := true }
 (let k := lkAt s l
 (let begins := k.rxPos = 0 ∨ k.rxPos = 2
 (begins) ∧ (15 < f.errors.length)))))) ∧
  (let l : Link := .nalson 0
 (let s : State := linked { phase := .up, rxPos := 1, rxBad := true }
 (let k := lkAt s l
 (let begins := k.rxPos = 0 ∨ k.rxPos = 2
 (¬begins))))) :=
  ⟨by decide, by decide, by decide⟩

set_option maxRecDepth 20000 in
theorem meets_flitDamaged :
  (let l : Link := .nalson 0
 (let f : Flit := { flit 1 [] with errors := List.replicate 16 3 }
 (let s : State := linked { phase := .up }
 (s.aon = true) ∧ (linkOn s l = true) ∧ ((lkAt s l).phase = .up) ∧ (let c := passCodeword s l f
 (c.1 = true))))) ∧
  (let l : Link := .nalson 0
 (let f : Flit := { header := 1, payload := [], crc := 0 }
 (let s : State := linked { phase := .up }
 (s.aon = true) ∧ (linkOn s l = true) ∧ ((lkAt s l).phase = .up) ∧ (let c := passCodeword s l f
 (c.1 = false) ∧ (f.crc ≠ crc64 (flitBytes f)))))) :=
  ⟨by decide, by decide⟩

set_option maxRecDepth 20000 in
theorem meets_flitReceived :
  (let l : Link := .nalson 0
 (let f : Flit := flit 0x4000000000000001 []
 (let s : State := linked { phase := .up, credits := [0, 0] }
 (s.aon = true) ∧ (linkOn s l = true) ∧ ((lkAt s l).phase = .up) ∧ (let c := (passCodeword s l f).2
 ((passCodeword s l f).1 = false) ∧ (f.crc = crc64 (flitBytes f)) ∧ ((bits f.header 3 0 = 1 ∨ 3 ≤ bits f.header 3 0)) ∧ (takeHeader c l f.header = none))))) ∧
  (let l : Link := .nalson 0
 (let f : Flit := flit 0x4000000000000000 []
 (let s : State := linked { phase := .up, credits := [0, 0] }
 (s.aon = true) ∧ (linkOn s l = true) ∧ ((lkAt s l).phase = .up) ∧ (let c := (passCodeword s l f).2
 ((passCodeword s l f).1 = false) ∧ (f.crc = crc64 (flitBytes f)) ∧ ((bits f.header 3 0 = 0 ∨ 3 ≤ bits f.header 3 0)) ∧ (takeHeader c l f.header = none))))) ∧
  (let l : Link := .nalson 0
 (let f : Flit := flit 0 []
 (let s : State := linked { phase := .up, credits := [0, 0] }
 (s.aon = true) ∧ (linkOn s l = true) ∧ ((lkAt s l).phase = .up) ∧ (let c := (passCodeword s l f).2
 ((passCodeword s l f).1 = false) ∧ (f.crc = crc64 (flitBytes f)) ∧ (let v := took (linked { phase := .up, credits := [0, 0] }) (.nalson 0) (flit 0 [])
 (bits f.header 3 0 = 0) ∧ (takeHeader c l f.header = some v)))))) ∧
  (let l : Link := .nalson 0
 (let f : Flit := flit 0x11 []
 (let s : State := linked { phase := .up, credits := [0, 0] }
 (s.aon = true) ∧ (linkOn s l = true) ∧ ((lkAt s l).phase = .up) ∧ (let c := (passCodeword s l f).2
 ((passCodeword s l f).1 = false) ∧ (f.crc = crc64 (flitBytes f)) ∧ (let v := took (linked { phase := .up, credits := [0, 0] }) (.nalson 0) (flit 0x11 [])
 (bits f.header 3 0 = 1) ∧ (takeHeader c l f.header = some v) ∧ (f.header.extractLsb' 4 12 ≠ (lkAt v l).rxSeq)))))) ∧
  (let l : Link := .nalson 0
 (let f : Flit := flit 1 (zeros 240)
 (let s : State := linked { phase := .up, credits := [0, 0] }
 (s.aon = true) ∧ (linkOn s l = true) ∧ ((lkAt s l).phase = .up) ∧ (let c := (passCodeword s l f).2
 ((passCodeword s l f).1 = false) ∧ (f.crc = crc64 (flitBytes f)) ∧ (let v := took (linked { phase := .up, credits := [0, 0] }) (.nalson 0) (flit 1 (zeros 240))
 (bits f.header 3 0 = 1) ∧ (takeHeader c l f.header = some v) ∧ (f.header.extractLsb' 4 12 = (lkAt v l).rxSeq) ∧ (let k' := (parseSlots l 64 ((lkAt v l).inSlots ++ slotsOf 15 f.payload) { lkAt v l with rxSeq := (lkAt v l).rxSeq + 1, rxAny := true, unacked := (lkAt v l).unacked + 1, gap := false, nak := false }).getD {}
 (parseSlots l 64 ((lkAt v l).inSlots ++ slotsOf 15 f.payload) { lkAt v l with rxSeq := (lkAt v l).rxSeq + 1, rxAny := true, unacked := (lkAt v l).unacked + 1, gap := false, nak := false } = some k'))))))) :=
  ⟨by decide, by decide, by decide, by decide, by decide +kernel⟩

theorem meets_headerTaken :
  (let p : NPort := 0
 (let h : W64 := 0x40000000
 (let s : State := linked { phase := .up, credits := [0, 0] }
 ((h &&& 0xFF000000C0000000 ≠ 0 ∨ 3 ≤ bits h 3 0 ∨ (bitAt h 28 = true ∧ ackFits (lkAt s (.nalson p)) (h.extractLsb' 16 12) = false)))))) ∧
  (let h : W64 := 0x0070040000000001
 (h &&& 0xFF000000C0000000 = 0) ∧ (bits h 3 0 < 3) ∧ (bitAt h 28 = false) ∧ (bitAt h 29 = false)) ∧
  (let p : NPort := 0
 (let h : W64 := 0x10050001
 (let s : State := linked { phase := .up, credits := [3, 0], retry := [{ seq := 5, payload := [], time := 2999750, ends := [] }] }
 (let i : Nat := 0
 (let x : Sent := { seq := 5, payload := [], time := 2999750, ends := [] }
 (h &&& 0xFF000000C0000000 = 0) ∧ (bits h 3 0 < 3) ∧ (bitAt h 28 = true) ∧ (bitAt h 29 = false) ∧ ((nalAt s p).lk.retry[i]? = some x) ∧ (x.seq = h.extractLsb' 16 12) ∧ ((∀ y ∈ (nalAt s p).lk.retry.take i, y.seq ≠ x.seq))))))) :=
  ⟨by decide, by decide, by decide⟩

theorem meets_naksAndReplays :
  (let l : Link := .myarn 0
 (let s : State := myaIs { lk := { phase := .up, gap := true, nakTime := 2999975 } }
 (s.aon = true) ∧ ((lkAt s l).phase = .up) ∧ ((lkAt s l).gap = true) ∧ (25 ≤ (s.time - (lkAt s l).nakTime).toNat))) ∧
  (let l : Link := .myarn 0
 (let s : State := myaIs { lk := { phase := .up, gap := true, nakTime := 2999976 } }
 (s.aon = true) ∧ ((lkAt s l).phase = .up) ∧ (((lkAt s l).gap = false ∨ (s.time - (lkAt s l).nakTime).toNat < 25)))) ∧
  (let l : Link := .myarn 0
 (let s : State := myaIs { lk := { phase := .up, retry := [{ seq := 0, payload := [], time := 2999750, ends := [] }] } }
 (s.aon = true) ∧ ((lkAt s l).phase = .up) ∧ (let x := ({ seq := 0, payload := [], time := 2999750, ends := [] } : Sent)
 (let rest := []
 ((lkAt s l).retry = x :: rest) ∧ (250 ≤ (s.time - x.time).toNat) ∧ ((lkAt s l).replays < 3))))) ∧
  (let l : Link := .myarn 0
 (let s : State := myaIs { lk := { phase := .up, replays := 3, retry := [{ seq := 0, payload := [], time := 2999750, ends := [] }] } }
 (s.aon = true) ∧ ((lkAt s l).phase = .up) ∧ (let x := ({ seq := 0, payload := [], time := 2999750, ends := [] } : Sent)
 (let rest := []
 ((lkAt s l).retry = x :: rest) ∧ (250 ≤ (s.time - x.time).toNat) ∧ (3 ≤ (lkAt s l).replays))))) ∧
  (let l : Link := .myarn 0
 (let s : State := myaIs { lk := { phase := .up, retry := [{ seq := 0, payload := [], time := 2999751, ends := [] }] } }
 (s.aon = true) ∧ ((lkAt s l).phase = .up) ∧ (let x := ({ seq := 0, payload := [], time := 2999751, ends := [] } : Sent)
 (let rest := []
 ((lkAt s l).retry = x :: rest) ∧ ((s.time - x.time).toNat < 250))))) :=
  ⟨by decide, by decide, by decide, by decide, by decide⟩

theorem meets_flitTransmit :
  (let l : Link := .nalson 0
 (let s : State := linked { phase := .retraining, control := [[1, 2]] }
 (s.aon = true) ∧ (linkOn s l = true) ∧ ((∀ p, l = .nalson p → (nalAt s p).closing = false)) ∧ (let k := lkAt s l
 (let c := [1, 2]
 (let rest := []
 (k.phase ≠ .down) ∧ (k.sinceNull < 4095) ∧ (k.control = c :: rest)))))) ∧
  (let l : Link := .nalson 0
 (let s : State := linked { phase := .up, sinceNull := 4095 }
 (s.aon = true) ∧ (linkOn s l = true) ∧ ((∀ p, l = .nalson p → (nalAt s p).closing = false)) ∧ (let k := lkAt s l
 (k.phase ≠ .down) ∧ (4095 ≤ k.sinceNull)))) ∧
  (let l : Link := .nalson 0
 (let s : State := linked { phase := .retraining }
 (s.aon = true) ∧ (linkOn s l = true) ∧ ((∀ p, l = .nalson p → (nalAt s p).closing = false)) ∧ (let k := lkAt s l
 (k.phase ≠ .down) ∧ (k.phase ≠ .up) ∧ (k.control = [])))) ∧
  (let l : Link := .nalson 0
 (let s : State := linked { phase := .up, replay := some 0, retry := [{ seq := 0, payload := [7], time := 2999750, ends := [] }] }
 (s.aon = true) ∧ (linkOn s l = true) ∧ ((∀ p, l = .nalson p → (nalAt s p).closing = false)) ∧ (let k := lkAt s l
 (let i := 0
 (let x := ({ seq := 0, payload := [7], time := 2999750, ends := [] } : Sent)
 (k.phase = .up) ∧ (k.control = []) ∧ (k.sinceNull < 4095) ∧ (k.replay = some i) ∧ (k.retry[i]? = some x)))))) ∧
  (let l : Link := .nalson 0
 (let s : State := linked { phase := .up, outSlots := List.replicate 16 [7] }
 (s.aon = true) ∧ (linkOn s l = true) ∧ ((∀ p, l = .nalson p → (nalAt s p).closing = false)) ∧ (let k := lkAt s l
 (k.phase = .up) ∧ (k.control = []) ∧ (k.sinceNull < 4095) ∧ (k.replay = none) ∧ (k.outEnds = []) ∧ (15 ≤ k.outSlots.length) ∧ (k.retry.length < (match l with | .nalson _ => 512 | .myarn _ => 1536))))) ∧
  (let l : Link := .nalson 0
 (let s : State := linked { phase := .up, retry := (upFrom 0 512).map (fun k => { seq := BitVec.ofNat 12 k, payload := [], time := 0, ends := [] }) }
 (s.aon = true) ∧ (linkOn s l = true) ∧ ((∀ p, l = .nalson p → (nalAt s p).closing = false)) ∧ (let k := lkAt s l
 (k.phase = .up) ∧ (k.control = []) ∧ (k.replay = none) ∧ ((match l with | .nalson _ => 512 | .myarn _ => 1536) ≤ k.retry.length)))) ∧
  (let l : Link := .nalson 0
 (let s : State := linked {}
 (s.aon = true) ∧ (linkOn s l = true) ∧ ((∀ p, l = .nalson p → (nalAt s p).closing = false)) ∧ (let k := lkAt s l
 (k.phase = .down)))) :=
  ⟨by decide, by decide, by decide, by decide, by decide, by decide +kernel, by decide⟩

theorem meets_flitOnTheWire :
  (let kind : Nat := 1
 (let seq : Nat := 4095
 (kind < 16) ∧ (seq < 4096))) :=
  by decide

theorem meets_laneFailed :
  (let p : NPort := 0
 (let lane : Fin 8 := 7
 (let s : State := linked { phase := .up }
 (s.aon = true) ∧ ((nalAt s p).lk.phase = .up) ∧ (bitAt (nalAt s p).lk.failed lane.val = false)))) :=
  by decide

theorem meets_laneSpared :
  (let p : MPort := 0
 (let lane : Fin 9 := 3
 (let s : State := myaIs { lk := { phase := .up, width := 2 } }
 (s.aon = true) ∧ (let n := myaAt s p.val
 (n.lk.phase = .up) ∧ (lane.val ∈ laneMap s (.myarn p)) ∧ (bitAt n.lk.failed lane.val = false) ∧ (let failed := n.lk.failed ||| (1#9 <<< lane.val)
 (let spare := n.spared = 0xF ∧ n.asked = none ∧ n.lk.width = 2 ∧ bitAt failed 8 = false
 (spare))))))) ∧
  (let p : MPort := 0
 (let lane : Fin 9 := 3
 (let s : State := myaIs { lk := { phase := .up, width := 2, failed := 0x1F0 } }
 (s.aon = true) ∧ (let n := myaAt s p.val
 (n.lk.phase = .up) ∧ (lane.val ∈ laneMap s (.myarn p)) ∧ (bitAt n.lk.failed lane.val = false) ∧ (let failed := n.lk.failed ||| (1#9 <<< lane.val)
 (let spare := n.spared = 0xF ∧ n.asked = none ∧ n.lk.width = 2 ∧ bitAt failed 8 = false
 (¬spare) ∧ (((upFrom 0 9).filter (fun i => !bitAt failed i)).length < 4))))))) ∧
  (let p : MPort := 0
 (let lane : Fin 9 := 3
 (let s : State := myaIs { lk := { phase := .up, width := 2 }, spared := 2 }
 (s.aon = true) ∧ (let n := myaAt s p.val
 (n.lk.phase = .up) ∧ (lane.val ∈ laneMap s (.myarn p)) ∧ (bitAt n.lk.failed lane.val = false) ∧ (let failed := n.lk.failed ||| (1#9 <<< lane.val)
 (let spare := n.spared = 0xF ∧ n.asked = none ∧ n.lk.width = 2 ∧ bitAt failed 8 = false
 (¬spare) ∧ (4 ≤ ((upFrom 0 9).filter (fun i => !bitAt failed i)).length))))))) ∧
  (let p : MPort := 0
 (let lane : Fin 9 := 3
 (let s : State := myaIs { lk := { phase := .up, width := 2 } }
 (s.aon = true) ∧ (let f : Flit := ctlFlit [5, 3]
 (let v : State := took (myaIs { lk := { phase := .up, width := 2 } }) (.myarn 0) (ctlFlit [5, 3])
 (Controls s v (.myarn p) 5 [.up] f) ∧ (field f.payload 1 1 = lane.val) ∧ (lane.val < 8) ∧ ((myaAt v p.val).spared = 0xF)))))) ∧
  (let p : MPort := 0
 (let lane : Fin 9 := 3
 (let s : State := myaIs { lk := { phase := .up, width := 2 }, asked := some 3 }
 (s.aon = true) ∧ (let f : Flit := ctlFlit [6, 3, 8]
 (let v : State := took (myaIs { lk := { phase := .up, width := 2 }, asked := some 3 }) (.myarn 0) (ctlFlit [6, 3, 8])
 (Controls s v (.myarn p) 6 [.up] f) ∧ (field f.payload 1 1 = lane.val) ∧ ((myaAt v p.val).asked = some (BitVec.ofNat 4 lane.val))))))) ∧
  (let p : MPort := 0
 (let s : State := myaIs { lk := { phase := .up }, subst := some (3, 8) }
 (s.aon = true) ∧ (let n := myaAt s p.val
 (let x : BitVec 4 := 3
 (let c : Byte := 8
 (n.subst = some (x, c))))))) :=
  ⟨by decide, by decide, by decide, by decide +kernel, by decide +kernel, by decide⟩

theorem meets_creditStall :
  (let p : MPort := 0
 (let since : W64 := 2750000
 (let s : State := myaIs { lk := { phase := .up, credits := [0, 0, 0] }, stallSince := some 2750000 }
 (s.aon = true) ∧ (let n := myaAt s p.val
 (n.lk.phase = .up) ∧ (n.lk.credits.getD 0 0 = 0) ∧ (n.stallSince = some since) ∧ (n.stallSeen = false) ∧ (250000 ≤ (s.time - since).toNat))))) ∧
  (let p : MPort := 0
 (let since : W64 := 2750000
 (let s : State := { myaIs { lk := { phase := .up, credits := [0, 0, 0] }, stallSince := some 2750000 } with time := 2999999 }
 (s.aon = true) ∧ (let n := myaAt s p.val
 (n.lk.phase = .up) ∧ (n.lk.credits.getD 0 0 = 0) ∧ (n.stallSince = some since) ∧ ((n.stallSeen = true ∨ (s.time - since).toNat < 250000)))))) :=
  ⟨by decide, by decide⟩

theorem meets_capabilities :
  (let s : State := linked { phase := .training }
 (let v : State := took (linked { phase := .training }) (.nalson 0) (ctlFlit [1, 2, 0, 8, 4, 0, 5, 0])
 (let f : Flit := ctlFlit [1, 2, 0, 8, 4, 0, 5, 0]
 (let b := f.payload
 (let levels := BitVec.ofNat 16 (field b 1 2)
 (let p : NPort := 0
 (Controls s v (.nalson p) 1 [.training, .full] f) ∧ (bitAt levels 1 = true))))))) ∧
  (let s : State := myaIs { lk := { phase := .training } }
 (let v : State := took (myaIs { lk := { phase := .training } }) (.myarn 0) (ctlFlit [1, 2, 0, 8, 9, 0, 0, 0])
 (let f : Flit := ctlFlit [1, 2, 0, 8, 9, 0, 0, 0]
 (let b := f.payload
 (let levels := BitVec.ofNat 16 (field b 1 2)
 (let p : MPort := 0
 (Controls s v (.myarn p) 1 [.training, .full] f) ∧ (bitAt levels 1 = true) ∧ (field b 4 4 ≠ v.moduleId.toNat))))))) ∧
  (let s : State := myaIs { lk := { phase := .training } }
 (let v : State := took (myaIs { lk := { phase := .training } }) (.myarn 0) (ctlFlit [1, 2, 0, 8, 5, 0, 0, 0])
 (let f : Flit := ctlFlit [1, 2, 0, 8, 5, 0, 0, 0]
 (let b := f.payload
 (let levels := BitVec.ofNat 16 (field b 1 2)
 (let p : MPort := 0
 (Controls s v (.myarn p) 1 [.training, .full] f) ∧ (bitAt levels 1 = true) ∧ (field b 4 4 = v.moduleId.toNat))))))) ∧
  (let s : State := linked { phase := .training }
 (let v : State := took (linked { phase := .training }) (.nalson 0) (ctlFlit [1, 4, 0, 8])
 (let f : Flit := ctlFlit [1, 4, 0, 8]
 (let b := f.payload
 (let levels := BitVec.ofNat 16 (field b 1 2)
 (let l : Link := .nalson 0
 (Controls s v l 1 [.training, .full] f) ∧ (bitAt levels 1 = false))))))) ∧
  (let s : State := linked { phase := .training }
 (let v : State := took (linked { phase := .training }) (.nalson 0) (ctlFlit [2, 2, 0])
 (let f : Flit := ctlFlit [2, 2, 0]
 (let b := f.payload
 (let l : Link := .nalson 0
 (Controls s v l 2 [.training, .full] f) ∧ (field b 1 2 = 2)))))) ∧
  (let s : State := linked { phase := .training }
 (let v : State := took (linked { phase := .training }) (.nalson 0) (ctlFlit [2, 3, 0])
 (let f : Flit := ctlFlit [2, 3, 0]
 (let b := f.payload
 (let l : Link := .nalson 0
 (Controls s v l 2 [.training, .full] f) ∧ (field b 1 2 ≠ 2)))))) :=
  ⟨by decide +kernel, by decide +kernel, by decide +kernel, by decide +kernel, by decide +kernel, by decide +kernel⟩

theorem meets_trainingEnds :
  (let l : Link := .nalson 0
 (let width : BitVec 2 := 1
 (let lanes : BitVec 9 := 0
 (let s : State := linked { phase := .training, capOk := true, ackOk := true, peerLevels := 2, credits := [4, 5] }
 (s.aon = true) ∧ (linkOn s l = true) ∧ (let k := lkAt s l
 (let failed := k.failed ||| lanes
 (let good := fun i => !bitAt failed i
 (let fits := match l, width.toNat with | .nalson _, 1 => (upFrom 0 4).all good | .nalson _, 2 => (upFrom 4 4).all good | .nalson _, 3 => (upFrom 0 8).all good && k.peerWide | .myarn _, 1 => decide (4 ≤ ((upFrom 0 9).filter good).length) | .myarn _, 2 => decide (8 ≤ ((upFrom 0 9).filter good).length) && k.peerWide | _, _ => false
 (let ready := k.phase = .retraining ∨ ((k.phase = .training ∨ k.phase = .full) ∧ k.capOk = true ∧ k.ackOk = true)
 (let p := (0 : NPort)
 (l = .nalson p) ∧ (fits = true) ∧ (ready))))))))))) ∧
  (let l : Link := .myarn 0
 (let width : BitVec 2 := 1
 (let lanes : BitVec 9 := 0
 (let s : State := myaIs { lk := { phase := .training, capOk := true, ackOk := true, peerLevels := 2, credits := [4, 5, 6] } }
 (s.aon = true) ∧ (linkOn s l = true) ∧ (let k := lkAt s l
 (let failed := k.failed ||| lanes
 (let good := fun i => !bitAt failed i
 (let fits := match l, width.toNat with | .nalson _, 1 => (upFrom 0 4).all good | .nalson _, 2 => (upFrom 4 4).all good | .nalson _, 3 => (upFrom 0 8).all good && k.peerWide | .myarn _, 1 => decide (4 ≤ ((upFrom 0 9).filter good).length) | .myarn _, 2 => decide (8 ≤ ((upFrom 0 9).filter good).length) && k.peerWide | _, _ => false
 (let ready := k.phase = .retraining ∨ ((k.phase = .training ∨ k.phase = .full) ∧ k.capOk = true ∧ k.ackOk = true)
 (let p := (0 : MPort)
 (l = .myarn p) ∧ (fits = true) ∧ (ready))))))))))) ∧
  (let l : Link := .nalson 0
 (let width : BitVec 2 := 3
 (let lanes : BitVec 9 := 0
 (let s : State := linked { phase := .training, capOk := true, ackOk := true, peerLevels := 2, credits := [4, 5] }
 (s.aon = true) ∧ (linkOn s l = true) ∧ (let k := lkAt s l
 (let failed := k.failed ||| lanes
 (let good := fun i => !bitAt failed i
 (let fits := match l, width.toNat with | .nalson _, 1 => (upFrom 0 4).all good | .nalson _, 2 => (upFrom 4 4).all good | .nalson _, 3 => (upFrom 0 8).all good && k.peerWide | .myarn _, 1 => decide (4 ≤ ((upFrom 0 9).filter good).length) | .myarn _, 2 => decide (8 ≤ ((upFrom 0 9).filter good).length) && k.peerWide | _, _ => false
 (fits = false))))))))) :=
  ⟨by decide, by decide, by decide⟩

theorem meets_retrains :
  (let l : Link := .nalson 0
 (let s : State := linked {}
 (s.aon = true) ∧ ((lkAt s l).phase ≠ .up))) ∧
  (let l : Link := .nalson 0
 (let s : State := linked { phase := .up }
 (s.aon = true) ∧ ((lkAt s l).phase = .up))) ∧
  (let l : Link := .nalson 0
 (let s : State := linked { phase := .up }
 (let f : Flit := ctlFlit [3, 1]
 (let v : State := took (linked { phase := .up }) (.nalson 0) (ctlFlit [3, 1])
 (Controls s v l 3 [.up] f) ∧ ((lkAt v l).phase = .up))))) :=
  ⟨by decide, by decide, by decide +kernel⟩

theorem meets_portsGoDown :
  (let l : Link := .nalson 0
 (let s : State := linked { phase := .up }
 (let f : Flit := ctlFlit [4, 0]
 (let v : State := took (linked { phase := .up }) (.nalson 0) (ctlFlit [4, 0])
 (Controls s v l 4 [.training, .retraining, .full, .up] f))))) ∧
  (let l : Link := .nalson 0
 (let s : State := linked { phase := .training, since := 1750000 }
 (s.aon = true) ∧ ((lkAt s l).phase = .training) ∧ (1250000 ≤ (s.time - (lkAt s l).since).toNat))) ∧
  (let l : Link := .nalson 0
 (let s : State := linked { phase := .full, since := 2000000, fullSince := 1750000 }
 (s.aon = true) ∧ ((lkAt s l).phase = .full) ∧ (1250000 ≤ (s.time - (lkAt s l).fullSince).toNat))) ∧
  (let l : Link := .nalson 0
 (let s : State := linked { phase := .retraining, since := 500000 }
 (s.aon = true) ∧ ((lkAt s l).phase = .retraining ∨ (lkAt s l).phase = .full) ∧ (2500000 ≤ (s.time - (lkAt s l).since).toNat))) ∧
  (let l : Link := .nalson 0
 (let s : State := { linked { phase := .up } with pins := { pwrfail := true } }
 (s.aon = true) ∧ ((lkAt s l).phase ≠ .down) ∧ (mayTrain s l = false))) ∧
  (let l : Link := .nalson 0
 (let s : State := linked { phase := .up }
 (s.aon = true) ∧ ((lkAt s l).phase = .up) ∧ (mayTrain s l = true))) :=
  ⟨by decide +kernel, by decide, by decide, by decide, by decide, by decide⟩

theorem meets_trainingRetry :
  (let l : Link := .nalson 0
 (let s : State := linked { phase := .retraining, since := 2900000 }
 (s.aon = true) ∧ ((lkAt s l).phase = .retraining) ∧ (25000 ≤ (s.time - (lkAt s l).since).toNat))) ∧
  (let l : Link := .nalson 0
 (let s : State := linked { since := 500000 }
 (s.aon = true) ∧ ((lkAt s l).phase = .down) ∧ (mayTrain s l = true) ∧ (2500000 ≤ (s.time - (lkAt s l).since).toNat))) ∧
  (let l : Link := .nalson 0
 (let s : State := linked { since := 500001 }
 (s.aon = true) ∧ ((lkAt s l).phase = .down) ∧ ((mayTrain s l = false ∨ (s.time - (lkAt s l).since).toNat < 2500000)))) :=
  ⟨by decide, by decide, by decide⟩

theorem meets_nalsonControl :
  (let a : Access := { port := 0, tag := 5 }
 (let n : NPort := 1
 (let v : W32 := 0x10002
 (let s : State := held
 (Open a s) ∧ ((a.port = n ∨ holdsSem s a.port = true)) ∧ (v &&& 0xFFFC = 0) ∧ (bits v 31 16 ≠ 0) ∧ ((nalAt s n).lk.phase = .up) ∧ (bitAt v 1 = true) ∧ (bitAt v 0 = false) ∧ (bitAt (nalAt s n).ctl 0 = false))))) ∧
  (let a : Access := { port := 0, tag := 5 }
 (let n : NPort := 1
 (let v : W32 := 0x10001
 (let s : State := held
 (Open a s) ∧ ((a.port = n ∨ holdsSem s a.port = true)) ∧ (v &&& 0xFFFC = 0) ∧ (bits v 31 16 ≠ 0) ∧ ((nalAt s n).lk.phase = .up) ∧ (bitAt v 0 = true) ∧ (bitAt v 1 = false) ∧ (a.port ≠ n))))) ∧
  (let a : Access := { port := 0, tag := 5 }
 (let n : NPort := 0
 (let v : W32 := 0x10001
 (let s : State := held
 (Open a s) ∧ ((a.port = n ∨ holdsSem s a.port = true)) ∧ (v &&& 0xFFFC = 0) ∧ (bits v 31 16 ≠ 0) ∧ ((nalAt s n).lk.phase = .up) ∧ (bitAt v 0 = true) ∧ (bitAt v 1 = false) ∧ (a.port = n))))) :=
  ⟨by decide, by decide, by decide⟩

theorem meets_hops :
  (let seg : W64 := 15
 (let i := bits seg 3 0
 (i = 15))) ∧
  (let seg : W64 := 0x10
 (let i := bits seg 3 0
 (let h := hop seg i
 (i ≠ 15) ∧ (let q : MPort := 1
 (h = q.val))))) ∧
  (let seg : W64 := 0xE01
 (let i := bits seg 3 0
 (let h := hop seg i
 (i ≠ 15) ∧ (h = 14)))) ∧
  (let seg : W64 := 0x80
 (let i := bits seg 3 0
 (let h := hop seg i
 (i ≠ 15) ∧ (8 ≤ h) ∧ (h ≤ 13)))) :=
  ⟨by decide, by decide, by decide, by decide⟩

theorem meets_packetsPass :
  (let port : MPort := 0
 (let p : Packet := { pkt 1 0 [] with segment := 0x10 }
 (let s : State := mod0 []
 (s.aon = true) ∧ (p.kind = 1) ∧ (linkOn s (.myarn port) = true) ∧ ((myaAt s port.val).lk.phase = .up) ∧ (let k := 0x606
 (routing s port p.dstId 1026 p.segment p.relay = .drop k))))) ∧
  (let port : MPort := 0
 (let p : Packet := { pkt 1 0 [] with segment := 0xE00 }
 (let s : State := mod0 []
 (s.aon = true) ∧ (p.kind = 1) ∧ (linkOn s (.myarn port) = true) ∧ ((myaAt s port.val).lk.phase = .up) ∧ (let q := (0 : MPort)
 (let seg := 0xE01
 (let relay := (0 : BitVec 16)
 (routing s port p.dstId 1026 p.segment p.relay = .forward q seg relay))))))) ∧
  (let port : MPort := 0
 (let p : Packet := { pkt 1 0 [] with dst := 1 }
 (let s : State := mod0 []
 (s.aon = true) ∧ (p.kind = 1) ∧ (linkOn s (.myarn port) = true) ∧ ((myaAt s port.val).lk.phase = .up) ∧ (routing s port p.dstId 1026 p.segment p.relay = .deliver) ∧ (packetPart s p = none)))) :=
  ⟨by decide, by decide, by decide⟩

theorem meets_streamData :
  (let port : MPort := 0
 (let p : Packet := pkt 1 0 (List.replicate 64 1)
 (let n : Nat := 0
 (let k : Nat := 0
 (let st : Nat := 0
 (let b : HBuf := { units := [0], size := 64, put := 0, got := 0 }
 (let e : Strm := { source := some 9 }
 (let s : State := binding none
 (Delivered s port p 1 n) ∧ (let key := streamKey n p.ident
 (let v := countedIn s port p
 (recvAt s key = e) ∧ (e.source = some p.srcId) ∧ (boundStation v n p.ident = some (st, k)) ∧ (bufOf v n k = some b) ∧ (p.data.length ≤ b.room))))))))))) :=
  by decide

theorem meets_streamWrite :
  (let port : MPort := 0
 (let p : Packet := pkt 2 0x40 (List.replicate 64 1)
 (let n : Nat := 0
 (let s : State := mod0From { source := some 9 }
 (Delivered s port p 2 n) ∧ (let key := streamKey n p.ident
 (let v := countedIn s port p
 ((recvAt s key).source = some p.srcId) ∧ (myarnWriteBad v n p.arg.toNat (p.len.toNat % 8192) 64 = none))))))) ∧
  (let port : MPort := 0
 (let p : Packet := pkt 2 0x44 (List.replicate 64 1)
 (let n : Nat := 0
 (let s : State := mod0From { source := some 9 }
 (Delivered s port p 2 n) ∧ (let key := streamKey n p.ident
 (let v := countedIn s port p
 ((recvAt s key).source = some p.srcId) ∧ (let st := eAlign
 (myarnWriteBad v n p.arg.toNat (p.len.toNat % 8192) 64 = some st)))))))) :=
  ⟨by decide, by decide⟩

theorem meets_streamSource :
  (let port : MPort := 0
 (let p : Packet := pkt 2 0x40 (List.replicate 64 1)
 (let n : Nat := 0
 (let s : State := mod0From { source := some 8 }
 (Delivered s port p 2 n) ∧ (let key := streamKey n p.ident
 (let x := 8
 ((recvAt s key).source = some x) ∧ (x ≠ p.srcId))))))) ∧
  (let port : MPort := 0
 (let p : Packet := pkt 2 0x40 (List.replicate 64 1)
 (let n : Nat := 0
 (let s : State := { mod0 [] with received := (upFrom 8 1024).map (fun i => (i, { source := some 9 })) }
 (Delivered s port p 2 n) ∧ (let key := streamKey n p.ident
 (recvAt s key = {}) ∧ (1024 ≤ s.received.length)))))) :=
  ⟨by decide, by decide +kernel⟩

theorem meets_announce :
  (let port : MPort := 0
 (let p : Packet := pkt 3 64 (zeros 16)
 (let n : Nat := 0
 (let s : State := mod0From { source := some 9, count := 64 }
 (Delivered s port p 3 n) ∧ (let key := streamKey n p.ident
 (let e := recvAt s key
 (n < 8) ∧ (e.source = some p.srcId) ∧ (e.broken = none) ∧ ((∀ x ∈ s.held, x.key ≠ key)) ∧ (s.held.length < 256) ∧ ((e.count - lo32 p.arg).toNat < 2147483648))))))) ∧
  (let port : MPort := 0
 (let p : Packet := pkt 3 0x100000080 (zeros 16)
 (let n : Nat := 0
 (let s : State := mod0From { source := some 9, count := 64 }
 (Delivered s port p 3 n) ∧ (let key := streamKey n p.ident
 (let e := recvAt s key
 (n < 8) ∧ (e.source = some p.srcId) ∧ (e.broken = none) ∧ ((∀ x ∈ s.held, x.key ≠ key)) ∧ (s.held.length < 256) ∧ (2147483648 < (e.count - lo32 p.arg).toNat))))))) :=
  ⟨by decide, by decide⟩

theorem meets_announceCommits :
  (let h : Held := held0 true 0
 (let s : State := mod0 []
 (h.host = true) ∧ (nalUp s (portOf s h.part.val) = true))) ∧
  (let h : Held := held0 false 0
 (let s : State := mod0 []
 (h.host = false) ∧ (myarnWriteBad s h.part.val h.target.toNat 8 8 = none))) :=
  ⟨by decide, by decide⟩

theorem meets_announceExpires :
  (let part : PartId := 0
 (let stream : BitVec 16 := 7
 (let h : Held := held0 false 2974999
 (let s : State := { mod0From { source := some 9 } with held := [held0 false 2974999] }
 (s.aon = true) ∧ (timeCounts s = true) ∧ (s.held.find? (fun h => h.key == streamKey part.val stream) = some h) ∧ (annMs s h.port * 25000 < (s.time - h.time).toNat))))) ∧
  (let part : PartId := 0
 (let stream : BitVec 16 := 7
 (let h : Held := held0 false 2975000
 (let s : State := { mod0From { source := some 9 } with held := [held0 false 2975000] }
 (s.aon = true) ∧ (timeCounts s = true) ∧ (s.held.find? (fun h => h.key == streamKey part.val stream) = some h) ∧ ((s.time - h.time).toNat ≤ annMs s h.port * 25000))))) :=
  ⟨by decide, by decide⟩

theorem meets_myaDescriptors :
  (let p : NPort := 0
 (let r : RingId := 0
 (let d : Desc := descM 0x50 0x40 0x700000040 0x80
 (let s : State := sending (descM 0x50 0x40 0x700000040 0x80)
 (let u := settleRing s p r
 (let n := descPart d
 (let len := bits (arg d 1) 31 0
 (let id := (arg d 1).extractLsb' 32 16
 (Takes s p r 0x50 d) ∧ (len % 64 = 0) ∧ ((arg d 2).toNat % 64 = 0) ∧ (len ≠ 0) ∧ (stackBad u (arg d 0).toNat len 64 = none) ∧ (inReach u n (arg d 0).toNat len = true) ∧ (senderBad u d id = none) ∧ (myaUp u (routePort (routeOf (descRoute d))) = true))))))))) ∧
  (let p : NPort := 0
 (let r : RingId := 0
 (let d : Desc := descM 0x51 0x10007 8 5
 (let s : State := sending (descM 0x51 0x10007 8 5)
 (let u := settleRing s p r
 (let id := (arg d 1).extractLsb' 32 16
 (Takes s p r 0x51 d) ∧ ((arg d 1).toNat % 8 = 0) ∧ (let id := (arg d 0).extractLsb' 0 16
 (senderBad u d id = none) ∧ (myaUp u (routePort (routeOf (descRoute d))) = true)))))))) ∧
  (let p : NPort := 0
 (let r : RingId := 0
 (let d : Desc := desc 0x52 [7]
 (let s : State := sending (desc 0x52 [7])
 (let u := settleRing s p r
 (let n := descPart d
 (Takes s p r 0x52 d) ∧ (streamBusy u n ((arg d 0).extractLsb' 0 16) = false))))))) :=
  ⟨by decide, by decide, by decide⟩

theorem meets_barrierArrives :
  (let core : CoreId := 0
 (let eng : EngId := 0
 (let k : Nat := 7
 (let s : State := waitingAt 0x200 { broken := true }
 (s.aon = true) ∧ (arriving s core.val eng.val = some k) ∧ (let b := barAt s k
 (b.broken = true)))))) ∧
  (let core : CoreId := 0
 (let eng : EngId := 0
 (let k : Nat := 7
 (let s : State := waitingAt 0x200 {}
 (s.aon = true) ∧ (arriving s core.val eng.val = some k) ∧ (let b := barAt s k
 (b.broken = false) ∧ (b.awaiting = false) ∧ (b.loc < 65535)))))) ∧
  (let core : CoreId := 0
 (let eng : EngId := 0
 (let k : Nat := 7
 (let s : State := waitingAt 0x200 { awaiting := true }
 (s.aon = true) ∧ (arriving s core.val eng.val = some k) ∧ (let b := barAt s k
 (b.broken = false) ∧ (b.awaiting = true) ∧ (b.nextLoc < 65535)))))) :=
  ⟨by decide, by decide, by decide⟩

theorem meets_barrierSettles :
  (let k : Nat := 7
 (let s : State := barred 0x200 [] { loc := 1 }
 ((barAt s k).awaiting = false) ∧ ((barAt s k).broken = false) ∧ (barComplete s k = false))) ∧
  (let k : Nat := 7
 (let s : State := barred 0x210 [(0xB00720, 0xE00)] { loc := 2 }
 ((barAt s k).awaiting = false) ∧ ((barAt s k).broken = false) ∧ (barComplete s k = true) ∧ (barParent s k = true))) ∧
  (let k : Nat := 7
 (let s : State := barred 0x200 [] { loc := 2, nextLoc := 1 }
 ((barAt s k).awaiting = false) ∧ ((barAt s k).broken = false) ∧ (barComplete s k = true) ∧ (barParent s k = false))) ∧
  (let k : Nat := 7
 (let s : State := barred 0x200 [] { loc := 2, nextLoc := 1 }
 ((barAt s k).awaiting = false) ∧ ((barAt s k).broken = false) ∧ (barComplete s k = true) ∧ (barParent s k = false) ∧ (let j := 6
 (j ≠ k)))) :=
  ⟨by decide, by decide, by decide, by decide⟩

theorem meets_arriveCounted :
  (let port : MPort := 0
 (let p : Packet := pkt 4 0 []
 (let n : Nat := 0
 (let s : State := barred 0x200 [] { broken := true }
 (Delivered s port p 4 n) ∧ (let k := p.ident.toNat % 256
 (let b := barAt s k
 (b.broken = true))))))) ∧
  (let port : MPort := 0
 (let p : Packet := pkt 4 1 []
 (let n : Nat := 0
 (let s : State := barred 0x200 [] {}
 (Delivered s port p 4 n) ∧ (let k := p.ident.toNat % 256
 (let b := barAt s k
 (b.broken = false) ∧ (lo32 p.arg ≠ b.gen))))))) ∧
  (let port : MPort := 0
 (let p : Packet := pkt 4 0 []
 (let n : Nat := 0
 (let s : State := barred 0x201 [] {}
 (Delivered s port p 4 n) ∧ (let k := p.ident.toNat % 256
 (let v := countedIn s port p
 (let b := barAt s k
 (b.broken = false) ∧ (lo32 p.arg = b.gen) ∧ (barOwner v k ≠ n)))))))) ∧
  (let port : MPort := 0
 (let p : Packet := pkt 4 0 []
 (let n : Nat := 0
 (let s : State := barred 0x220 [(0xB00744, 9)] {}
 (Delivered s port p 4 n) ∧ (let k := p.ident.toNat % 256
 (let v := countedIn s port p
 (let b := barAt s k
 (let c := 0
 (b.broken = false) ∧ (lo32 p.arg = b.gen) ∧ (barOwner v k = n) ∧ ((upFrom 0 (barChildren v k)).find? (fun c => (childRoute v k c).dstId == p.srcId && !bitAt b.children c) = some c))))))))) ∧
  (let port : MPort := 0
 (let p : Packet := pkt 4 0 []
 (let n : Nat := 0
 (let s : State := barred 0x220 [(0xB00744, 9)] { children := 1 }
 (Delivered s port p 4 n) ∧ (let k := p.ident.toNat % 256
 (let v := countedIn s port p
 (let b := barAt s k
 (b.broken = false) ∧ (lo32 p.arg = b.gen) ∧ (barOwner v k = n) ∧ ((upFrom 0 (barChildren v k)).find? (fun c => (childRoute v k c).dstId == p.srcId && !bitAt b.children c) = none)))))))) :=
  ⟨by decide, by decide, by decide, by decide, by decide⟩

theorem meets_releaseTaken :
  (let port : MPort := 0
 (let p : Packet := pkt 5 0 []
 (let n : Nat := 0
 (let s : State := barred 0x210 [(0xB0072C, 9)] { awaiting := true }
 (Delivered s port p 5 n) ∧ (let k := p.ident.toNat % 256
 (let v := countedIn s port p
 ((barAt s k).broken = false) ∧ (lo32 p.arg = (barAt s k).gen) ∧ (barOwner v k = n) ∧ (barParent v k = true) ∧ ((parentRoute v k).dstId = p.srcId) ∧ ((barAt s k).awaiting = true))))))) ∧
  (let port : MPort := 0
 (let p : Packet := pkt 5 0 []
 (let n : Nat := 0
 (let s : State := barred 0x210 [(0xB0072C, 9)] {}
 (Delivered s port p 5 n) ∧ (let k := p.ident.toNat % 256
 ((barAt s k).broken = false) ∧ (lo32 p.arg = (barAt s k).gen) ∧ ((barAt s k).awaiting = false)))))) :=
  ⟨by decide, by decide⟩

theorem meets_barrierTimesOut :
  (let bar : BarId := 7
 (let since : W64 := 2999974
 (let s : State := barred 0x200 [(0xB00704, 1)] { since := some 2999974, gen := 4 }
 (s.aon = true) ∧ (timeCounts s = true) ∧ ((barAt s bar.val).broken = false) ∧ ((barAt s bar.val).since = some since) ∧ (let limit := bits (reg s (0xB00000 + 0x100 * bar.val + 4)) 19 0
 (0 < limit) ∧ (25 * limit < (s.time - since).toNat))))) ∧
  (let bar : BarId := 7
 (let since : W64 := 2999975
 (let s : State := barred 0x200 [(0xB00704, 1)] { since := some 2999975, gen := 4 }
 (s.aon = true) ∧ (timeCounts s = true) ∧ ((barAt s bar.val).broken = false) ∧ ((barAt s bar.val).since = some since) ∧ (let limit := bits (reg s (0xB00000 + 0x100 * bar.val + 4)) 19 0
 ((limit = 0 ∨ (s.time - since).toNat ≤ 25 * limit)))))) :=
  ⟨by decide, by decide⟩

theorem meets_bubblesPerGroup :
  (let b := 56
 (b ≤ 56)) ∧
  (let b := 7
 (b ≤ 56)) :=
  ⟨by decide, by decide⟩

theorem meets_bubbleDecided :
  (let r : Run := run0
 (r.lag = [])) ∧
  (let r : Run := { run0 with lag := [(3, 1), (32, 2)] }
 (let l := [(3, 1)]
 (let x := (32, 2)
 (r.lag = l ++ [x])))) :=
  ⟨by decide, by decide⟩

theorem meets_bubblesSkip :
  (let part : PartId := 0
 (let r : Run := { run0 with lag := [(32, 1)], wall := 1 }
 (let s : State := runIs { run0 with lag := [(32, 1)], wall := 1 }
 (s.aon = true) ∧ ((partAt s part.val).run = some r) ∧ (r.started = true) ∧ (s.hup.loss = .none) ∧ (isBubble (appliedBubble s part.val r).1 r.wall = true)))) :=
  by decide

theorem meets_slipsHold :
  (let part : PartId := 0
 (let r : Run := { run0 with stop := some { status := sTimeout } }
 (let s : State := runIs { run0 with stop := some { status := sTimeout } }
 (s.aon = true) ∧ ((partAt s part.val).run = some r) ∧ (r.started = true) ∧ (s.hup.loss = .none) ∧ (isBubble (appliedBubble s part.val r).1 r.wall = false) ∧ (r.stop ≠ none)))) ∧
  (let part : PartId := 0
 (let r : Run := { run0 with cycle := 5, ahead := { cause := 2, who := 3 } :: List.replicate 8 {} }
 (let s : State := slipping { cause := 2, who := 3 } { unbroken := 4, slip := 4 }
 (s.aon = true) ∧ ((partAt s part.val).run = some r) ∧ (r.started = true) ∧ (s.hup.loss = .none) ∧ (isBubble (appliedBubble s part.val r).1 r.wall = false) ∧ (let a := ({ cause := 2, who := 3 } : Ahead)
 (let rest := List.replicate 8 ({} : Ahead)
 (holding s part.val r = false) ∧ (r.ahead = a :: rest) ∧ (9 ≤ r.ahead.length) ∧ (a.cause ≠ 0)))))) :=
  ⟨by decide, by decide⟩

theorem meets_cyclesAdvance :
  (let part : PartId := 0
 (let r : Run := { run0 with cycle := 5, ahead := List.replicate 9 {} }
 (let a : Ahead := {}
 (let rest : List Ahead := List.replicate 8 {}
 (let s : State := slipping {} { unbroken := 4, slip := 4 }
 (s.aon = true) ∧ ((partAt s part.val).run = some r) ∧ (r.started = true) ∧ (s.hup.loss = .none) ∧ (isBubble (appliedBubble s part.val r).1 r.wall = false) ∧ (holding s part.val r = false) ∧ (r.ahead = a :: rest) ∧ (9 ≤ r.ahead.length) ∧ (a.cause = 0)))))) :=
  by decide

theorem meets_slipLimit :
  (let part : PartId := 0
 (let s : State := { slipping {} { unbroken := 4501, lastCause := 3, lastWho := 65539 } with staged := [(0xA00000, 1), (0xA04010, 0x300000)] }
 (s.aon = true) ∧ (runLive s part.val = true) ∧ (let x := (partAt s part.val).slips
 (let limit := bits (reg s (0xA04010 + 0x40 * part.val)) 31 20 * (if s.therm.bin then 1450 else 1500)
 (limit < x.unbroken) ∧ (3 ≤ x.lastCause))))) ∧
  (let part : PartId := 0
 (let s : State := { slipping {} { unbroken := 4501, lastCause := 2, lastWho := 65539 } with staged := [(0xA00000, 1), (0xA04010, 0x300000)] }
 (s.aon = true) ∧ (runLive s part.val = true) ∧ (let x := (partAt s part.val).slips
 (let limit := bits (reg s (0xA04010 + 0x40 * part.val)) 31 20 * (if s.therm.bin then 1450 else 1500)
 (limit < x.unbroken) ∧ (x.lastCause ≤ 2))))) ∧
  (let part : PartId := 0
 (let s : State := { slipping {} { unbroken := 4500, lastCause := 2 } with staged := [(0xA00000, 1), (0xA04010, 0x300000)] }
 (s.aon = true) ∧ (runLive s part.val = true) ∧ (let x := (partAt s part.val).slips
 (let limit := bits (reg s (0xA04010 + 0x40 * part.val)) 31 20 * (if s.therm.bin then 1450 else 1500)
 (x.unbroken ≤ limit))))) :=
  ⟨by decide, by decide, by decide⟩

theorem meets_ringsReplaced :
  (let s : State := runs
 (s.aon = true) ∧ (s.units.ring8 = none) ∧ (s.units.ring8Gone = false)) ∧
  (let ring : Fin 8 := 3
 (let s : State := { runs with units := { ring8 := some 1 } }
 (s.aon = true) ∧ ((s.units.ring8 ≠ none ∨ s.units.ring8Gone = true)) ∧ (ring.val ∉ s.units.ringsFailed))) ∧
  (let ring : Fin 8 := 3
 (let s : State := { runs with units := { ring8Gone := true } }
 (s.aon = true) ∧ (s.units.ring8 ≠ some ring.val) ∧ ((s.units.ring8 ≠ none ∨ s.units.ring8Gone = true)) ∧ ((2, ring.val) ∉ s.mesh.poisoned))) ∧
  (let ring : Fin 8 := 3
 (let s : State := { runs with units := { ring8 := some 3 } }
 (s.aon = true) ∧ (s.units.ring8 = some ring.val) ∧ ((2, ring.val) ∉ s.mesh.poisoned))) ∧
  (let s : State := runs
 (s.aon = true) ∧ (s.units.ring8 = none)) :=
  ⟨by decide, by decide, by decide, by decide, by decide⟩

theorem meets_tackEvents :
  (let s : State := runs
 (s.aon = true)) ∧
  (let s : State := runs
 (s.aon = true)) ∧
  (let s : State := runs
 (s.aon = true)) ∧
  (let s : State := runs
 (s.aon = true) ∧ (tackMode s = false) ∧ (s.mesh.channelFailed = false)) ∧
  (let s : State := { runs with mesh := { channelFailed := true } }
 (s.aon = true) ∧ ((tackMode s = true ∨ s.mesh.channelFailed = true))) ∧
  (let s : State := runs
 (s.aon = true) ∧ (s.mesh.sidebandFailed = false)) :=
  ⟨by decide, by decide, by decide, by decide, by decide, by decide⟩

theorem meets_windowIsWidest :
  (let errors : List Nat := List.replicate 10 1 ++ List.replicate 3 0 ++ List.replicate 20 2 ++ List.replicate 3 0 ++ List.replicate 28 5
 (let w := windowOf errors
 (let i := 12
 (w.1 ≤ i) ∧ (i < w.1 + w.2)))) ∧
  (let errors : List Nat := List.replicate 10 1 ++ List.replicate 3 0 ++ List.replicate 20 2 ++ List.replicate 3 0 ++ List.replicate 28 5
 (let first := 34
 (let len := 2
 (first + len ≤ 64) ∧ ((∀ i, first ≤ i → i < first + len → errors[i]? = some 0))))) ∧
  (let errors : List Nat := List.replicate 10 1 ++ List.replicate 3 0 ++ List.replicate 20 2 ++ List.replicate 3 0 ++ List.replicate 28 5
 (let w := windowOf errors
 (let first := 33
 (let len := 3
 (first + len ≤ 64) ∧ ((∀ i, first ≤ i → i < first + len → errors[i]? = some 0)) ∧ (len = w.2) ∧ (0 < len))))) :=
  ⟨by decide +kernel, ⟨by decide, fun i h1 h2 => by
    have : i = 34 ∨ i = 35 := by omega
    rcases this with rfl | rfl <;> decide +kernel⟩, ⟨by decide, fun i h1 h2 => by
    have : i = 33 ∨ i = 34 ∨ i = 35 := by omega
    rcases this with rfl | rfl | rfl <;> decide +kernel, by decide +kernel, by decide⟩⟩

theorem meets_retune :
  (let g : Crossing := .channel 3 true
 (let s : State := { up with crossings := [(.channel 3 true, { cal := some 1000 })], therm := { mon := [(0, 1010)] } }
 (s.aon = true) ∧ (aged s g = false) ∧ ((crossAt s g).seen = s.therm.reviewNo) ∧ (s.therm.reviewing = none))) ∧
  (let g : Crossing := .channel 3 true
 (let s : State := { up with crossings := [(.channel 3 true, { cal := some 1000 })], therm := { mon := [(0, 1011)] } }
 (s.aon = true) ∧ ((aged s g = true ∨ (crossAt s g).seen ≠ s.therm.reviewNo ∨ s.therm.reviewing ≠ none)))) :=
  ⟨by decide, by decide⟩

theorem meets_frameBoundary :
  (let s : State := { slipping {} { unbroken := 4, slip := 4, hold := 2, cSlip := 9 } with crossings := [(.channel 3 true, { code := 30 }), (.seam 0 1 2, { code := 33 })], frames := 2 }
 (s.aon = true)) :=
  by decide

theorem meets_rowBoundaries :
  (let u : Nat := 0
 (let s : State := nbuWith (filling 5) (desc 0 [])
 (owedBanks s u = []))) ∧
  (let u : Nat := 0
 (let s : State := owedBank 4
 (let y := (3, 4)
 (mostOwed (owedBanks s u) = some y) ∧ (4 ≤ y.2)))) ∧
  (let u : Nat := 0
 (let next : List Nat := [4, 5, 6, 3]
 (let s : State := owedBank 3
 (let y := (3, 3)
 (mostOwed (owedBanks s u) = some y) ∧ (y.2 < 4) ∧ (y.1 ∈ next.take 4))))) ∧
  (let u : Nat := 0
 (let next : List Nat := [4, 5, 6, 7, 3]
 (let s : State := owedBank 3
 (let y := (3, 3)
 (mostOwed (owedBanks s u) = some y) ∧ (y.2 < 4) ∧ (y.1 ∉ next.take 4))))) :=
  ⟨by decide, by decide, by decide, by decide⟩

theorem meets_refreshes :
  (let s : State := nbuWith {} (desc 0 [])
 (s.aon = true) ∧ (let site : SiteId := 0
 (let bg : Fin 256 := 0
 (site.val ∈ liveSites s) ∧ (let u := 256 * site.val + bg.val
 (nbuRuns s u = false))))) ∧
  (let s : State := nbuWith (filling 2999999) (desc 0 [])
 (s.aon = true) ∧ (let site : SiteId := 0
 (let bg : Fin 256 := 0
 (let bank : Fin 16 := 3
 (site.val ∈ liveSites s) ∧ (let u := 256 * site.val + bg.val
 (let key := bankKey u bank.val
 (let x := tget {} s.banks key
 (nbuRuns s u = true) ∧ (x.owed = false) ∧ (x.count < 4)))))))) ∧
  (let s : State := owedBank 3
 (s.aon = true) ∧ (let site : SiteId := 0
 (let bg : Fin 256 := 0
 (let bank : Fin 16 := 3
 (site.val ∈ liveSites s) ∧ (let u := 256 * site.val + bg.val
 (let key := bankKey u bank.val
 (let x := tget {} s.banks key
 (nbuRuns s u = true) ∧ (x.owed = true) ∧ (x.count < 4)))))))) ∧
  (let s : State := owedBank 4
 (s.aon = true) ∧ (let site : SiteId := 0
 (let bg : Fin 256 := 0
 (let bank : Fin 16 := 3
 (site.val ∈ liveSites s) ∧ (let u := 256 * site.val + bg.val
 (let key := bankKey u bank.val
 (let x := tget {} s.banks key
 (nbuRuns s u = true) ∧ (4 ≤ x.count)))))))) ∧
  (let s : State := { nbuWith {} (desc 0 []) with banks := [(bankKey 0 3, { owed := true, count := 4 })] }
 (s.aon = true) ∧ (let nbu : NbuId := 0
 (let y : Nat × Nat := (3, 4)
 (mostOwed (owedBanks s nbu.val) = some y) ∧ (4 ≤ y.2)))) ∧
  (let s : State := { nbuWith {} (desc 0 []) with banks := [(bankKey 0 3, { owed := true, count := 3 })] }
 (s.aon = true) ∧ (let nbu : NbuId := 0
 (let y : Nat × Nat := (3, 3)
 (mostOwed (owedBanks s nbu.val) = some y) ∧ (y.2 < 4)))) :=
  ⟨by decide, by decide, by decide, by decide, by decide, by decide⟩

theorem meets_mostOwedFirst :
  (let l : List (Nat × Nat) := [(1, 2), (3, 4), (5, 4)]
 (let y : Nat × Nat := (3, 4)
 (mostOwed l = some y))) ∧
  (let l : List (Nat × Nat) := [(1, 2), (3, 4), (5, 4)]
 (let y : Nat × Nat := (3, 4)
 (mostOwed l = some y) ∧ (let x := (1, 2)
 (x ∈ l)))) :=
  ⟨by decide, by decide⟩

theorem meets_recordChecks :
  (let w : List W32 := ([0x16] : List W32)
 (let known := 0x10 ≤ rOp w ∧ rOp w ≤ 0x15
 (¬known))) ∧
  (let w : List W32 := ([0x14, 0, 0, 1, 1, 7, 8, 1] : List W32)
 (let known := 0x10 ≤ rOp w ∧ rOp w ≤ 0x15
 (let clear := rw w 0 / 256 % 256 = 0 ∧ rw w 0 / 2 ^ 24 = 0 ∧ ∀ i, i < 16 → 5 ≤ i → i ∈ rUsed (rOp w) ∨ w.getD i 0 = 0
 (known) ∧ (¬clear)))) ∧
  (let w : List W32 := ([0x14, 0, 0, 1, 1, 7, 8] : List W32)
 (let known := 0x10 ≤ rOp w ∧ rOp w ≤ 0x15
 (let clear := rw w 0 / 256 % 256 = 0 ∧ rw w 0 / 2 ^ 24 = 0 ∧ ∀ i, i < 16 → 5 ≤ i → i ∈ rUsed (rOp w) ∨ w.getD i 0 = 0
 (known) ∧ (clear)))) :=
  ⟨by decide, by decide, by decide⟩

theorem meets_nbuOpDescriptor :
  (let p : NPort := 0
 (let r : RingId := 0
 (let d : Desc := descP 0x18 [1024, 64]
 (let s : State := nbuWith {} (descP 0x18 [1024, 64])
 (Takes s p r 0x18 d) ∧ (let u := settleRing s p r
 (let n := (arg d 0).toNat
 (let usable := nbuOn u.variant n = true ∧ nbuFenced u n = false
 (¬usable)))))))) ∧
  (let p : NPort := 0
 (let r : RingId := 0
 (let d : Desc := descP 0x18 [1, 64]
 (let s : State := nbuWith {} (descP 0x18 [1, 64])
 (Takes s p r 0x18 d) ∧ (let u := settleRing s p r
 (let n := (arg d 0).toNat
 (let usable := nbuOn u.variant n = true ∧ nbuFenced u n = false
 (usable) ∧ (nbuOwner u n ≠ descPart d)))))))) ∧
  (let p : NPort := 0
 (let r : RingId := 0
 (let d : Desc := descP 0x18 [0, 64]
 (let s : State := nbuWith {} (descP 0x18 [0, 64])
 (Takes s p r 0x18 d) ∧ (let u := settleRing s p r
 (let n := (arg d 0).toNat
 (let ref : DescRef := ⟨p, r, d.k⟩
 (let usable := nbuOn u.variant n = true ∧ nbuFenced u n = false
 (usable) ∧ (nbuOwner u n = descPart d) ∧ ((arg d 1).toNat % 64 = 0) ∧ (fetchOf u (.desc ref) = none))))))))) ∧
  (let p : NPort := 0
 (let r : RingId := 0
 (let d : Desc := descP 0x18 [0, 64]
 (let s : State := fetchedWith (.desc ⟨0, 0, 0⟩) (.unsupported 0) (nbuWith {} (descP 0x18 [0, 64]))
 (Takes s p r 0x18 d) ∧ (let u := settleRing s p r
 (let n := (arg d 0).toNat
 (let ref : DescRef := ⟨p, r, d.k⟩
 (let usable := nbuOn u.variant n = true ∧ nbuFenced u n = false
 (usable) ∧ (nbuOwner u n = descPart d) ∧ ((arg d 1).toNat % 64 = 0) ∧ (let x := .unsupported 0
 (let st := eRange
 (Fetched u (.desc ref) x) ∧ (readFailure x = some st))))))))))) ∧
  (let p : NPort := 0
 (let r : RingId := 0
 (let d : Desc := descP 0x18 [0, 64]
 (let s : State := gotList (recB [0x16]) (nbuWith {} (descP 0x18 [0, 64]))
 (Takes s p r 0x18 d) ∧ (let u := settleRing s p r
 (let n := (arg d 0).toNat
 (let ref : DescRef := ⟨p, r, d.k⟩
 (let usable := nbuOn u.variant n = true ∧ nbuFenced u n = false
 (usable) ∧ (nbuOwner u n = descPart d) ∧ ((arg d 1).toNat % 64 = 0) ∧ (let b := recB [0x16]
 (Fetched u (.desc ref) (.data b [])) ∧ (let w := recordWords b
 (let st := eRange
 (let k := 3
 (recordBad w = some (st, k)))))))))))))) ∧
  (let p : NPort := 0
 (let r : RingId := 0
 (let d : Desc := descP 0x18 [0, 64]
 (let s : State := gotList (recB [0x14, 0, 0, 0xFFFFFFFF, 1]) (nbuWith {} (descP 0x18 [0, 64]))
 (Takes s p r 0x18 d) ∧ (let u := settleRing s p r
 (let n := (arg d 0).toNat
 (let ref : DescRef := ⟨p, r, d.k⟩
 (let v := dropFetch u (.desc ref)
 (let usable := nbuOn u.variant n = true ∧ nbuFenced u n = false
 (usable) ∧ (nbuOwner u n = descPart d) ∧ ((arg d 1).toNat % 64 = 0) ∧ (let b := recB [0x14, 0, 0, 0xFFFFFFFF, 1]
 (Fetched u (.desc ref) (.data b [])) ∧ (let w := recordWords b
 (recordBad w = none) ∧ (rangesBad v w = true)))))))))))) ∧
  (let p : NPort := 0
 (let r : RingId := 0
 (let d : Desc := descP 0x18 [0, 64]
 (let s : State := gotList (recB [0x14, 0, 0, 1, 1]) (nbuWith { ops := (upFrom 0 16).map (fun k => { fillOp with slot := k }) } (descP 0x18 [0, 64]))
 (Takes s p r 0x18 d) ∧ (let u := settleRing s p r
 (let n := (arg d 0).toNat
 (let ref : DescRef := ⟨p, r, d.k⟩
 (let v := dropFetch u (.desc ref)
 (let usable := nbuOn u.variant n = true ∧ nbuFenced u n = false
 (usable) ∧ (nbuOwner u n = descPart d) ∧ ((arg d 1).toNat % 64 = 0) ∧ (let b := recB [0x14, 0, 0, 1, 1]
 (Fetched u (.desc ref) (.data b [])) ∧ (let w := recordWords b
 (recordBad w = none) ∧ (rangesBad v w = false) ∧ ((∀ x ∈ v.repairs, x.nbu ≠ n)) ∧ (freeSlot v n = none)))))))))))) ∧
  (let p : NPort := 0
 (let r : RingId := 0
 (let d : Desc := descP 0x18 [0, 64]
 (let s : State := gotList (recB [0x14, 0, 0, 1, 1]) (nbuWith { ops := [fillOp] } (descP 0x18 [0, 64]))
 (Takes s p r 0x18 d) ∧ (let u := settleRing s p r
 (let n := (arg d 0).toNat
 (let ref : DescRef := ⟨p, r, d.k⟩
 (let v := dropFetch u (.desc ref)
 (let usable := nbuOn u.variant n = true ∧ nbuFenced u n = false
 (usable) ∧ (nbuOwner u n = descPart d) ∧ ((arg d 1).toNat % 64 = 0) ∧ (let b := recB [0x14, 0, 0, 1, 1]
 (Fetched u (.desc ref) (.data b [])) ∧ (let w := recordWords b
 (recordBad w = none) ∧ (rangesBad v w = false) ∧ ((∀ x ∈ v.repairs, x.nbu ≠ n)) ∧ (let slot := 1
 (freeSlot v n = some slot))))))))))))) :=
  ⟨by decide, by decide, by decide, by decide, by decide, by decide, by decide, by decide⟩

theorem meets_operationsInOrder :
  (let u : Nat := 0
 (let o : Op := { fillOp with slot := 3 }
 (let s : State := nbuWith {} (desc 0 [])
 (¬(nbuFenced s u = true ∧ nbuFenced s (buddyOf u) = true)) ∧ ((nbuAt s u).ops = []) ∧ (o.started = false) ∧ (ClockId.nbu ∉ s.pllLost) ∧ (((nbuFenced s u = true ∨ nbuFenced s (buddyOf u) = true) → ∀ x ∈ (nbuAt s (buddyOf u)).ops, x.started = false)) ∧ (buddyOf u ≠ u)))) ∧
  (let u : Nat := 0
 (let s : State := nbuWith (filling 5) (desc 0 [])
 (¬(nbuFenced s u = true ∧ nbuFenced s (buddyOf u) = true)) ∧ (let x := ({ fillOp with started := true, start := 5 } : Op)
 (let rest := []
 ((nbuAt s u).ops = x :: rest) ∧ (x.started = true))))) ∧
  (let u : Nat := 0
 (let s : State := nbuWith {} (desc 0 [])
 (¬(nbuFenced s u = true ∧ nbuFenced s (buddyOf u) = true)) ∧ (let v := 1
 (v ≠ u)))) ∧
  (let u : Nat := 0
 (let s : State := nbuWith {} (desc 0 [])
 (¬(nbuFenced s u = true ∧ nbuFenced s (buddyOf u) = true)))) :=
  ⟨by decide, by decide, by decide, by decide⟩

theorem meets_nbuAborts :
  (let p : NPort := 0
 (let r : RingId := 0
 (let d : Desc := descP 0x19 [0x100000000]
 (let s : State := nbuWith (filling 5) (descP 0x19 [0x100000000])
 (Takes s p r 0x19 d) ∧ (let u := settleRing s p r
 (let seq := BitVec.ofNat 32 (bits (arg d 0) 31 0)
 (let rg := bits (arg d 0) 37 32
 (let n := descPart d
 (let x := 0
 (let i := 0
 (opOfDesc u p rg seq n = some (x, i)))))))))))) ∧
  (let p : NPort := 0
 (let r : RingId := 0
 (let d : Desc := descP 0x19 [0x100000000]
 (let s : State := { nbuWith {} (descP 0x19 [0x100000000]) with parts := [(0, { operated := [(1, 0)] })] }
 (Takes s p r 0x19 d) ∧ (let u := settleRing s p r
 (let seq := BitVec.ofNat 32 (bits (arg d 0) 31 0)
 (let rg := bits (arg d 0) 37 32
 (let n := descPart d
 (opOfDesc u p rg seq n = none) ∧ ((p.val * 64 + rg, seq) ∈ (partAt u n).operated))))))))) ∧
  (let p : NPort := 0
 (let r : RingId := 0
 (let d : Desc := descP 0x19 [0x100000000]
 (let s : State := nbuWith {} (descP 0x19 [0x100000000])
 (Takes s p r 0x19 d) ∧ (let u := settleRing s p r
 (let seq := BitVec.ofNat 32 (bits (arg d 0) 31 0)
 (let rg := bits (arg d 0) 37 32
 (let n := descPart d
 (opOfDesc u p rg seq n = none) ∧ ((p.val * 64 + rg, seq) ∉ (partAt u n).operated))))))))) :=
  ⟨by decide, by decide, by decide⟩

theorem meets_summaryPolled :
  (let site : SiteId := 0
 (let pseudo : Fin 64 := 0
 (let k : Nat := 0
 (let o : Op := { fillOp with started := true, start := 2999900 }
 (let rest : List Op := []
 (let s : State := nbuWith (filling 2999900) (desc 0 [])
 (s.aon = true) ∧ (hemWorks s = true) ∧ (k < 4) ∧ (let u := 256 * site.val + pseudo.val + 64 * k
 ((∀ j, j < 4 → j ≠ k → (nbuAt s (256 * site.val + pseudo.val + 64 * j)).ops = [])) ∧ (nbuOn s.variant u = true) ∧ ((nbuAt s u).ops = o :: rest) ∧ (o.started = true) ∧ (o.finished = none) ∧ (opTime s u o ≤ 40 * (s.time - o.start).toNat)))))))) ∧
  (let site : SiteId := 0
 (let pseudo : Fin 64 := 0
 (let k : Nat := 0
 (let o : Op := { fillOp with started := true, start := 2999999 }
 (let rest : List Op := []
 (let s : State := nbuWith (filling 2999999) (desc 0 [])
 (s.aon = true) ∧ (hemWorks s = true) ∧ (k < 4) ∧ (let u := 256 * site.val + pseudo.val + 64 * k
 ((∀ j, j < 4 → j ≠ k → (nbuAt s (256 * site.val + pseudo.val + 64 * j)).ops = [])) ∧ (nbuOn s.variant u = true) ∧ ((nbuAt s u).ops = o :: rest) ∧ (o.started = true) ∧ (o.finished = none) ∧ (40 * (s.time - o.start).toNat < opTime s u o)))))))) :=
  ⟨by decide, by decide⟩

theorem meets_fillWrites :
  (let o : Op := fillOp
 (rOp o.words = 0x14)) :=
  by decide

theorem meets_operationCompletes :
  (let nbu : NbuId := 0
 (let o : Op := fillOp
 (let rest : List Op := []
 (let s : State := nbuWith { ops := [fillOp] } (desc 0 [])
 (s.aon = true) ∧ ((nbuAt s nbu.val).ops = o :: rest) ∧ (o.finished = none))))) ∧
  (let nbu : NbuId := 0
 (let o : Op := { fillOp with finished := some 0 }
 (let rest : List Op := []
 (let st : Byte := 0
 (let s : State := nbuWith { ops := [{ fillOp with finished := some 0 }] } (desc 0 [])
 (s.aon = true) ∧ ((nbuAt s nbu.val).ops = o :: rest) ∧ (o.finished = some st)))))) ∧
  (let nbu : NbuId := 0
 (let o : Op := { fillOp with finished := some 0 }
 (let rest : List Op := []
 (let st : Byte := 0
 (let s : State := nbuWith { ops := [{ fillOp with finished := some 0 }] } (desc 0 [])
 (s.aon = true) ∧ ((nbuAt s nbu.val).ops = o :: rest) ∧ (o.finished = some st) ∧ (let ref := (⟨0, 1, 0⟩ : DescRef)
 (let n := (0 : PartId)
 (let q := (0 : W32)
 (o.source = .desc ref n q))))))))) :=
  ⟨by decide, by decide, by decide⟩

theorem meets_operationTimesOut :
  (let nbu : NbuId := 0
 (let o : Op := { fillOp with started := true, start := 5 }
 (let rest : List Op := []
 (let s : State := { nbuWith (filling 5) (desc 0 []) with staged := (0x500300, 1) :: stackRegs }
 (s.aon = true) ∧ (s.hup.loss = .none) ∧ ((nbuAt s nbu.val).ops = o :: rest) ∧ (o.started = true) ∧ (25000 * opLimit s < (s.time - o.start).toNat) ∧ (let ref := (⟨0, 1, 0⟩ : DescRef)
 (let n := (0 : PartId)
 (let q := (0 : W32)
 (o.source = .desc ref n q)))))))) ∧
  (let nbu : NbuId := 0
 (let o : Op := { fillOp with started := true, start := 5, source := .station 0 0 0 }
 (let rest : List Op := []
 (let s : State := { nbuRun imgNbu run0 { ops := [{ fillOp with started := true, start := 5, source := .station 0 0 0 }] } with staged := (0x500300, 1) :: stackRegs }
 (s.aon = true) ∧ (s.hup.loss = .none) ∧ ((nbuAt s nbu.val).ops = o :: rest) ∧ (o.started = true) ∧ (25000 * opLimit s < (s.time - o.start).toNat) ∧ (let n := (0 : PartId)
 (let k := 0
 (let q := 0
 (o.source = .station n k q)))))))) ∧
  (let nbu : NbuId := 0
 (let o : Op := { fillOp with started := true, start := 2975000 }
 (let rest : List Op := []
 (let s : State := { nbuWith (filling 2975000) (desc 0 []) with staged := (0x500300, 1) :: stackRegs }
 (s.aon = true) ∧ (s.hup.loss = .none) ∧ ((nbuAt s nbu.val).ops = o :: rest) ∧ (o.started = true) ∧ ((s.time - o.start).toNat ≤ 25000 * opLimit s))))) :=
  ⟨by decide, by decide, by decide⟩

theorem meets_nbuFences :
  (let nbu : NbuId := 0
 (let s : State := nbuWith { fenced := true } (desc 0 [])
 (s.aon = true) ∧ (nbuOn s.variant nbu.val = true) ∧ (nbuFenced s nbu.val = true))) ∧
  (let nbu : NbuId := 0
 (let s : State := nbuWith (filling 5) (desc 0 [])
 (s.aon = true) ∧ (nbuOn s.variant nbu.val = true) ∧ (nbuFenced s nbu.val = false) ∧ (nbuFenced s (buddyOf nbu.val) = false) ∧ (buddyOf nbu.val ≠ nbu.val))) :=
  ⟨by decide, by decide⟩

theorem meets_buddiesTakeTurns :
  (let u : Nat := 0
 (let s : State := turns [{ fillOp with buddy := true, started := true }] [fillOp]
 (nbuFenced s u = true) ∧ (nbuFenced s (buddyOf u) = false) ∧ (buddyOf (buddyOf u) = u) ∧ (buddyOf u ≠ u) ∧ (ClockId.nbu ∉ s.pllLost) ∧ (let hand := fun (v : Nat) => (nbuAt s v).ops.any (fun o => o.started)
 (hand u = true ∨ hand (buddyOf u) = true) ∧ ((nbuAt s u).ops ≠ []) ∧ ((nbuAt s (buddyOf u)).ops ≠ [])))) ∧
  (let u : Nat := 0
 (let s : State := turns [{ fillOp with buddy := true }] [fillOp]
 (nbuFenced s u = true) ∧ (nbuFenced s (buddyOf u) = false) ∧ (buddyOf (buddyOf u) = u) ∧ (buddyOf u ≠ u) ∧ (ClockId.nbu ∉ s.pllLost) ∧ (let hand := fun (v : Nat) => (nbuAt s v).ops.any (fun o => o.started)
 (hand u = false) ∧ (hand (buddyOf u) = false) ∧ (let o := fillOp
 (let rest := []
 ((nbuAt s (buddyOf u)).ops = o :: rest)))))) ∧
  (let u : Nat := 0
 (let s : State := turns [{ fillOp with buddy := true }] []
 (nbuFenced s u = true) ∧ (nbuFenced s (buddyOf u) = false) ∧ (buddyOf (buddyOf u) = u) ∧ (buddyOf u ≠ u) ∧ (ClockId.nbu ∉ s.pllLost) ∧ (let hand := fun (v : Nat) => (nbuAt s v).ops.any (fun o => o.started)
 (hand u = false) ∧ ((nbuAt s (buddyOf u)).ops = []) ∧ (let o := { fillOp with buddy := true }
 (let rest := []
 ((nbuAt s u).ops = o :: rest)))))) :=
  ⟨by decide, by decide, by decide⟩

set_option maxRecDepth 20000 in
theorem meets_invocationStarts :
  (let part : PartId := 0
 (let station : Nat := 0
 (let img : Image := imgNbu
 (let st : Station := sta 12 [0x14]
 (let v : Invoke := inv0
 (let s : State := { nbuRun imgNbu run0 {} with invokes := [inv0] }
 (s.aon = true) ∧ ((partAt s part.val).image = some img) ∧ (stationAt s part.val station = some st) ∧ (invokeOf s part.val station = some v) ∧ (st.kind = 12) ∧ (rOp st.p ≠ 0x11) ∧ (v.running = false) ∧ (v.number < invocationsOf img station) ∧ (outputWaits s part.val station = false) ∧ (runLive s part.val = true) ∧ (hemWorks s = true) ∧ (inputs img station = []))))))) ∧
  (let part : PartId := 0
 (let station : Nat := 1
 (let tiles : List (W64 × Bool) := []
 (let img : Image := imgIn
 (let st : Station := sta 12 [0x14]
 (let v : Invoke := invIn []
 (let s : State := { nbuRun imgIn run0 {} with invokes := [invIn []] }
 (s.aon = true) ∧ ((partAt s part.val).image = some img) ∧ (stationAt s part.val station = some st) ∧ (invokeOf s part.val station = some v) ∧ (st.kind = 12) ∧ (rOp st.p ≠ 0x11) ∧ (v.running = false) ∧ (v.number < invocationsOf img station) ∧ (outputWaits s part.val station = false) ∧ (runLive s part.val = true) ∧ (hemWorks s = true) ∧ (let x := strm 0 1
 (let l := []
 (inputs img station = x :: l) ∧ (let t := inTiles (stationProg img station)
 (let need := t * (kcSize x.fmt x.kc / 8)
 (let r := takeTiles s part.val station (need - v.words.length) tiles
 (let words := v.words ++ r.1
 (words.length < need)))))))))))))) ∧
  (let part : PartId := 0
 (let station : Nat := 1
 (let tiles : List (W64 × Bool) := []
 (let img : Image := imgIn
 (let st : Station := sta 12 [0x14]
 (let v : Invoke := invIn tileWords
 (let s : State := { nbuRun imgIn run0 {} with invokes := [invIn tileWords] }
 (s.aon = true) ∧ ((partAt s part.val).image = some img) ∧ (stationAt s part.val station = some st) ∧ (invokeOf s part.val station = some v) ∧ (st.kind = 12) ∧ (rOp st.p ≠ 0x11) ∧ (v.running = false) ∧ (v.number < invocationsOf img station) ∧ (outputWaits s part.val station = false) ∧ (runLive s part.val = true) ∧ (hemWorks s = true) ∧ (let x := strm 0 1
 (let l := []
 (inputs img station = x :: l) ∧ (let t := inTiles (stationProg img station)
 (let need := t * (kcSize x.fmt x.kc / 8)
 (let r := takeTiles s part.val station (need - v.words.length) tiles
 (let words := v.words ++ r.1
 (let g := groupTiles (tilesOf x words)
 (let first := (⟨0, 0, 0, wordBytes tileWords, []⟩ : Tile)
 (let rest := []
 (need ≤ words.length) ∧ (g = (first :: rest, false)) ∧ (t ≠ 0))))))))))))))))) :=
  ⟨by decide, by decide, by decide +kernel⟩

theorem meets_invocationEnds :
  (let part : PartId := 0
 (let station : Nat := 0
 (let img : Image := imgNbu
 (let v : Invoke := inv0
 (let s : State := { nbuRun imgNbu run0 {} with invokes := [inv0] }
 (s.aon = true) ∧ ((partAt s part.val).image = some img) ∧ (invokeOf s part.val station = some v) ∧ (hemWorks s = true) ∧ ((∀ x ∈ img.streams, x.src ≠ station)) ∧ ((v.running = false ∨ v.left.all (reachedEnd s v) = false))))))) ∧
  (let part : PartId := 0
 (let station : Nat := 0
 (let img : Image := imgNbu
 (let v : Invoke := { inv0 with running := true, left := [(0, 0)] }
 (let s : State := { nbuRun imgNbu run0 {} with invokes := [{ inv0 with running := true, left := [(0, 0)] }] }
 (s.aon = true) ∧ ((partAt s part.val).image = some img) ∧ (invokeOf s part.val station = some v) ∧ (hemWorks s = true) ∧ ((∀ x ∈ img.streams, x.src ≠ station)) ∧ (v.running = true) ∧ (runLive s part.val = true) ∧ (v.left.all (reachedEnd s v) = true) ∧ ((∀ d ∈ s.decodes, ¬(d.part = part ∧ d.station = station)))))))) :=
  ⟨by decide, by decide⟩

theorem meets_ordinaryAccesses :
  (let s : State := nbuWith (filling 2999999) (desc 0 [])
 (s.aon = true) ∧ (let a : StackAccess := { station := none, write := true, addr := 0x8000000040, len := 64, data := zeros 64 }
 (stackBad s a.addr.toNat a.len 64 = none) ∧ (hemWorks s = true) ∧ (a.write = true) ∧ (busyStack s a.addr.toNat false (a.len / 64) = true) ∧ (a.station = none))) ∧
  (let s : State := nbuRun imgNbu run0 (filling 2999999)
 (s.aon = true) ∧ (let a : StackAccess := { station := some (0, 2), write := true, addr := 0x8000000040, len := 64, data := zeros 64 }
 (stackBad s a.addr.toNat a.len 64 = none) ∧ (hemWorks s = true) ∧ (a.write = true) ∧ (busyStack s a.addr.toNat false (a.len / 64) = true) ∧ (let n := (0 : PartId)
 (let k := 2
 (a.station = some (n, k)))))) ∧
  (let s : State := nbuWith (filling 2999999) (desc 0 [])
 (s.aon = true) ∧ (let a : StackAccess := { station := none, write := true, addr := 0x8000000080, len := 64, data := zeros 64 }
 (stackBad s a.addr.toNat a.len 64 = none) ∧ (hemWorks s = true) ∧ ((a.write = true → busyStack s a.addr.toNat false (a.len / 64) = false)))) ∧
  (let s : State := nbuWith (filling 2999999) (desc 0 [])
 (s.aon = true) ∧ (let a : StackAccess := { station := none, write := false, addr := 0x8000000040, len := 64, data := [] }
 (let held := a.write = false ∧ busyStack s a.addr.toNat true 1 = true
 (held)))) ∧
  (let s : State := nbuWith (filling 2999999) (desc 0 [])
 (s.aon = true) ∧ (let a : StackAccess := { station := none, write := true, addr := 0x8010000080, len := 64, data := zeros 64 }
 (let u := (stackPlace s a.addr.toNat).1
 (let held := a.write = false ∧ busyStack s a.addr.toNat true 1 = true
 (¬held) ∧ (nbuRuns s u = false) ∧ ((nbuAt s u).queue = []))))) ∧
  (let s : State := nbuWith (filling 2999999) (desc 0 [])
 (s.aon = true) ∧ (let a : StackAccess := { station := none, write := true, addr := 0x8000000080, len := 64, data := zeros 64 }
 (let u := (stackPlace s a.addr.toNat).1
 (let held := a.write = false ∧ busyStack s a.addr.toNat true 1 = true
 (¬held) ∧ ((nbuRuns s u = true ∨ (nbuAt s u).queue ≠ [])))))) ∧
  (let s : State := nbuWith (filling 2999999) (desc 0 [])
 (s.aon = true)) :=
  ⟨by decide, by decide, by decide, by decide, by decide, by decide, by decide⟩

theorem meets_waitingAccepted :
  (let nbu : NbuId := 0
 (let s : State := nbuRun imgNbu run0 {}
 (s.aon = true) ∧ (hemWorks s = true) ∧ ((∀ c ∈ s.commits, commitNbu s c ≠ nbu.val)) ∧ (waitingPiece s nbu.val = none) ∧ (waitingInvoke s nbu.val = none))) ∧
  (let nbu : NbuId := 0
 (let s : State := { nbuRun imgNbu run0 { program := progFill 0xFFFFFFFF } with invokes := [{ inv0 with running := true, left := [(0, 0)] }] }
 (s.aon = true) ∧ (hemWorks s = true) ∧ ((∀ c ∈ s.commits, commitNbu s c ≠ nbu.val)) ∧ (waitingPiece s nbu.val = none) ∧ (let slot := 0
 (let v := ({ inv0 with running := true, left := [(0, 0)] } : Invoke)
 (let w := recordWords (recB [0x14, 0, 0, 0xFFFFFFFF, 1, 7, 8])
 (freeSlot s nbu.val = some slot) ∧ (waitingInvoke s nbu.val = some (v, w)) ∧ (rangesBad s w = true)))))) ∧
  (let nbu : NbuId := 0
 (let s : State := { nbuRun imgNbu run0 { program := progFill 1 } with invokes := [{ inv0 with running := true, left := [(0, 0)] }] }
 (s.aon = true) ∧ (hemWorks s = true) ∧ ((∀ c ∈ s.commits, commitNbu s c ≠ nbu.val)) ∧ (waitingPiece s nbu.val = none) ∧ (let slot := 0
 (let v := ({ inv0 with running := true, left := [(0, 0)] } : Invoke)
 (let w := recordWords (recB [0x14, 0, 0, 1, 1, 7, 8])
 (freeSlot s nbu.val = some slot) ∧ (waitingInvoke s nbu.val = some (v, w)) ∧ (rangesBad s w = false)))))) :=
  ⟨by decide, by decide, by decide⟩

theorem meets_appends :
  (let part : PartId := 0
 (let station : Nat := 1
 (let run : Run := runKv tableHead
 (let st : Station := sta 11 [0, 32, 0, 0, 0, 1]
 (let a : Append := { part := 0, station := 1, words := List.replicate 520 (0, false) }
 (let x : Stream := strm 0 1
 (let l : List Stream := []
 (let tb : BlockTable := tableOf 0x10000 tableHead
 (let map : List Byte := [0, 0, 0, 0, 1, 0, 0, 0]
 (let s : State := kvRun tableHead { part := 0, station := 1, words := List.replicate 520 (0, false) } { inv0 with station := 2 }
 (s.aon = true) ∧ ((partAt s part.val).run = some run) ∧ (stationAt s part.val station = some st) ∧ (appendOf s part.val station = some a) ∧ (streamsOf s part.val station false = x :: l) ∧ (runLive s part.val = true) ∧ (hemWorks s = true) ∧ (heldTable run (st.par 0) = some (tb, map)))))))))))) ∧
  (let part : PartId := 0
 (let station : Nat := 1
 (let run : Run := runKv tableHead
 (let st : Station := sta 11 [0, 32, 0, 0, 0, 1]
 (let a : Append := { part := 0, station := 1, words := List.replicate 520 (0, false) }
 (let x : Stream := strm 0 1
 (let l : List Stream := []
 (let tb : BlockTable := tableOf 0x10000 tableHead
 (let map : List Byte := [0, 0, 0, 0, 1, 0, 0, 0]
 (let s : State := kvRun tableHead { part := 0, station := 1, words := List.replicate 520 (0, false) } { inv0 with station := 2 }
 (s.aon = true) ∧ ((partAt s part.val).run = some run) ∧ (stationAt s part.val station = some st) ∧ (appendOf s part.val station = some a) ∧ (streamsOf s part.val station false = x :: l) ∧ (runLive s part.val = true) ∧ (hemWorks s = true) ∧ (heldTable run (st.par 0) = some (tb, map)) ∧ (a.waiting = false))))))))))) ∧
  (let part : PartId := 0
 (let station : Nat := 1
 (let run : Run := runKv tableHead
 (let st : Station := sta 11 [0, 32, 0, 0, 0, 1]
 (let a : Append := { part := 0, station := 1, words := List.replicate 520 (0, false), waiting := true }
 (let x : Stream := strm 0 1
 (let l : List Stream := []
 (let tb : BlockTable := tableOf 0x10000 tableHead
 (let map : List Byte := [0, 0, 0, 0, 1, 0, 0, 0]
 (let s : State := kvRun tableHead { part := 0, station := 1, words := List.replicate 520 (0, false), waiting := true } { inv0 with station := 2 }
 (s.aon = true) ∧ ((partAt s part.val).run = some run) ∧ (stationAt s part.val station = some st) ∧ (appendOf s part.val station = some a) ∧ (streamsOf s part.val station false = x :: l) ∧ (runLive s part.val = true) ∧ (hemWorks s = true) ∧ (heldTable run (st.par 0) = some (tb, map)) ∧ (a.waiting = true))))))))))) :=
  ⟨by decide +kernel, by decide +kernel, by decide +kernel⟩

theorem meets_decodeStarts :
  (let part : PartId := 0
 (let station : Nat := 2
 (let tiles : List (W64 × Bool) := []
 (let j : DecodeJob := (decodeJob (kvRun tableHead { part := 0, station := 1 } inv0) 0 2).getD ⟨sta 0 [], sta 0 [], 0, tableOf 0 [], [], 0⟩
 (let img : Image := imgKv
 (let v : Invoke := { inv0 with station := 2 }
 (let x : Stream := strm 0 2
 (let l : List Stream := []
 (let s : State := kvRun tableHead { part := 0, station := 1 } { inv0 with station := 2 }
 (s.aon = true) ∧ (decodeJob s part.val station = some j) ∧ ((partAt s part.val).image = some img) ∧ (invokeOf s part.val station = some v) ∧ (streamsOf s part.val station false = x :: l) ∧ (rOp j.st.p = 0x11) ∧ (v.running = false) ∧ (v.number < invocationsOf img station) ∧ (outputWaits s part.val station = false) ∧ (runLive s part.val = true) ∧ (hemWorks s = true) ∧ (let need := inTiles (stationProg img station) * (kcSize x.fmt x.kc / 8)
 (let r := takeTiles s part.val station (need - v.words.length) tiles
 (let words := v.words ++ r.1
 (words.length < need))))))))))))) ∧
  (let part : PartId := 0
 (let station : Nat := 2
 (let tiles : List (W64 × Bool) := []
 (let j : DecodeJob := (decodeJob (kvRun tableHead { part := 0, station := 1 } inv0) 0 2).getD ⟨sta 0 [], sta 0 [], 0, tableOf 0 [], [], 0⟩
 (let img : Image := imgKv
 (let v : Invoke := { inv0 with station := 2, words := tileWords, due := some 1 }
 (let x : Stream := strm 0 2
 (let l : List Stream := []
 (let s : State := kvRun tableHead { part := 0, station := 1 } { inv0 with station := 2, words := tileWords, due := some 1 }
 (s.aon = true) ∧ (decodeJob s part.val station = some j) ∧ ((partAt s part.val).image = some img) ∧ (invokeOf s part.val station = some v) ∧ (streamsOf s part.val station false = x :: l) ∧ (rOp j.st.p = 0x11) ∧ (v.running = false) ∧ (v.number < invocationsOf img station) ∧ (outputWaits s part.val station = false) ∧ (runLive s part.val = true) ∧ (hemWorks s = true) ∧ (let need := inTiles (stationProg img station) * (kcSize x.fmt x.kc / 8)
 (let r := takeTiles s part.val station (need - v.words.length) tiles
 (let words := v.words ++ r.1
 (let taken := modInvoke r.2 part.val station (fun w => { w with words })
 (let due := if v.words = [] ∧ words ≠ [] then noteDue taken part.val station j.partnerId else taken
 (let u := appendAllRows due part.val j.partnerId 65536
 (let a := { part := 0, station := 1 }
 (let w := { inv0 with station := 2, words := tileWords, due := some 1 }
 (need ≤ words.length) ∧ (appendOf u part.val j.partnerId = some a) ∧ (invokeOf u part.val station = some w) ∧ ((a.group < w.due.getD 0 ∨ runLive u part.val = false))))))))))))))))))) ∧
  (let part : PartId := 0
 (let station : Nat := 2
 (let tiles : List (W64 × Bool) := []
 (let j : DecodeJob := (decodeJob (kvRun tableHead { part := 0, station := 1 } inv0) 0 2).getD ⟨sta 0 [], sta 0 [], 0, tableOf 0 [], [], 0⟩
 (let img : Image := imgKv
 (let v : Invoke := { inv0 with station := 2, words := tileWords }
 (let x : Stream := strm 0 2
 (let l : List Stream := []
 (let s : State := kvRun tableHead { part := 0, station := 1 } { inv0 with station := 2, words := tileWords }
 (s.aon = true) ∧ (decodeJob s part.val station = some j) ∧ ((partAt s part.val).image = some img) ∧ (invokeOf s part.val station = some v) ∧ (streamsOf s part.val station false = x :: l) ∧ (rOp j.st.p = 0x11) ∧ (v.running = false) ∧ (v.number < invocationsOf img station) ∧ (outputWaits s part.val station = false) ∧ (runLive s part.val = true) ∧ (hemWorks s = true) ∧ (let need := inTiles (stationProg img station) * (kcSize x.fmt x.kc / 8)
 (let r := takeTiles s part.val station (need - v.words.length) tiles
 (let words := v.words ++ r.1
 (let taken := modInvoke r.2 part.val station (fun w => { w with words })
 (let due := if v.words = [] ∧ words ≠ [] then noteDue taken part.val station j.partnerId else taken
 (let u := appendAllRows due part.val j.partnerId 65536
 (let a := { part := 0, station := 1 }
 (let w := { inv0 with station := 2, words := tileWords }
 (need ≤ words.length) ∧ (appendOf u part.val j.partnerId = some a) ∧ (invokeOf u part.val station = some w) ∧ (w.due.getD 0 ≤ a.group) ∧ (runLive u part.val = true)))))))))))))))))) :=
  ⟨by decide, by decide +kernel, by decide +kernel⟩

theorem meets_kvDescriptors :
  (let p : NPort := 0
 (let r : RingId := 0
 (let d : Desc := descP 0x20 [0x10000, 64, 1]
 (let s : State := tabled (descP 0x20 [0x10000, 64, 1])
 (let u := settleRing s p r
 (let ref : DescRef := ⟨p, r, d.k⟩
 (let at_ := (arg d 0).toNat
 (let n := bits (arg d 2) 16 0
 (1 ≤ n) ∧ (n ≤ 65536) ∧ ((arg d 1).toNat % 8 = 0) ∧ (stackBad u at_ 64 64 = none) ∧ (inReach u (descPart d) at_ 64 = true) ∧ (regionBound u at_ = false) ∧ (fetchOf u (.desc ref) = none) ∧ (Takes s p r 0x20 d))))))))) ∧
  (let p : NPort := 0
 (let r : RingId := 0
 (let d : Desc := descP 0x21 [0x10000, 64, 1]
 (let s : State := tabled (descP 0x21 [0x10000, 64, 1])
 (let u := settleRing s p r
 (let ref : DescRef := ⟨p, r, d.k⟩
 (let at_ := (arg d 0).toNat
 (let n := bits (arg d 2) 16 0
 (1 ≤ n) ∧ (n ≤ 65536) ∧ ((arg d 1).toNat % 8 = 0) ∧ (stackBad u at_ 64 64 = none) ∧ (inReach u (descPart d) at_ 64 = true) ∧ (regionBound u at_ = false) ∧ (fetchOf u (.desc ref) = none) ∧ (Takes s p r 0x21 d))))))))) ∧
  (let p : NPort := 0
 (let r : RingId := 0
 (let d : Desc := descP 0x20 [0x10000, 64, 1]
 (let s : State := gotList [2, 0, 0, 0] (tabled (descP 0x20 [0x10000, 64, 1]))
 (let u := settleRing s p r
 (let ref : DescRef := ⟨p, r, d.k⟩
 (let at_ := (arg d 0).toNat
 (let n := bits (arg d 2) 16 0
 (1 ≤ n) ∧ (n ≤ 65536) ∧ ((arg d 1).toNat % 8 = 0) ∧ (stackBad u at_ 64 64 = none) ∧ (inReach u (descPart d) at_ 64 = true) ∧ (regionBound u at_ = false) ∧ (let b := [2, 0, 0, 0]
 (Fetched u (.desc ref) (.data b [])) ∧ (Clean (dropFetch u (.desc ref)) [(at_, 64)]) ∧ (let w := readTable (dropFetch u (.desc ref)) at_ 64
 (let ids := listWords b n
 (let tb := tableAt w at_
 (headerOk at_ (stackEnd w at_ - at_) (peekStack w at_ 64) = true) ∧ (let q := 2
 (ids.find? (fun q => decide (tb.nSeq ≤ q)) = some q) ∧ (Takes s p r 0x20 d)))))))))))))) ∧
  (let p : NPort := 0
 (let r : RingId := 0
 (let d : Desc := descP 0x21 [0x10000, 64, 1]
 (let s : State := gotList [2, 0, 0, 0] (tabled (descP 0x21 [0x10000, 64, 1]))
 (let u := settleRing s p r
 (let ref : DescRef := ⟨p, r, d.k⟩
 (let at_ := (arg d 0).toNat
 (let n := bits (arg d 2) 16 0
 (1 ≤ n) ∧ (n ≤ 65536) ∧ ((arg d 1).toNat % 8 = 0) ∧ (stackBad u at_ 64 64 = none) ∧ (inReach u (descPart d) at_ 64 = true) ∧ (regionBound u at_ = false) ∧ (let b := [2, 0, 0, 0]
 (Fetched u (.desc ref) (.data b [])) ∧ (Clean (dropFetch u (.desc ref)) [(at_, 64)]) ∧ (let w := readTable (dropFetch u (.desc ref)) at_ 64
 (let ids := listWords b n
 (let tb := tableAt w at_
 (headerOk at_ (stackEnd w at_ - at_) (peekStack w at_ 64) = true) ∧ (let q := 2
 (ids.find? (fun q => decide (tb.nSeq ≤ q)) = some q) ∧ (Takes s p r 0x21 d)))))))))))))) ∧
  (let p : NPort := 0
 (let r : RingId := 0
 (let d : Desc := descP 0x20 [0x10000, 64, 1]
 (let s : State := gotList [1, 0, 0, 0] (tabled (descP 0x20 [0x10000, 64, 1]))
 (let u := settleRing s p r
 (let ref : DescRef := ⟨p, r, d.k⟩
 (let at_ := (arg d 0).toNat
 (let n := bits (arg d 2) 16 0
 (1 ≤ n) ∧ (n ≤ 65536) ∧ ((arg d 1).toNat % 8 = 0) ∧ (stackBad u at_ 64 64 = none) ∧ (inReach u (descPart d) at_ 64 = true) ∧ (regionBound u at_ = false) ∧ (let b := [1, 0, 0, 0]
 (Fetched u (.desc ref) (.data b [])) ∧ (Clean (dropFetch u (.desc ref)) [(at_, 64)]) ∧ (let w := readTable (dropFetch u (.desc ref)) at_ 64
 (let ids := listWords b n
 (let tb := tableAt w at_
 (headerOk at_ (stackEnd w at_ - at_) (peekStack w at_ 64) = true) ∧ ((∀ q ∈ ids, q < tb.nSeq)) ∧ (Takes s p r 0x20 d))))))))))))) ∧
  (let p : NPort := 0
 (let r : RingId := 0
 (let d : Desc := descP 0x21 [0x10000, 64, 1]
 (let s : State := gotList [1, 0, 0, 0] (tabled (descP 0x21 [0x10000, 64, 1]))
 (let u := settleRing s p r
 (let ref : DescRef := ⟨p, r, d.k⟩
 (let at_ := (arg d 0).toNat
 (let n := bits (arg d 2) 16 0
 (1 ≤ n) ∧ (n ≤ 65536) ∧ ((arg d 1).toNat % 8 = 0) ∧ (stackBad u at_ 64 64 = none) ∧ (inReach u (descPart d) at_ 64 = true) ∧ (regionBound u at_ = false) ∧ (let b := [1, 0, 0, 0]
 (Fetched u (.desc ref) (.data b [])) ∧ (Clean (dropFetch u (.desc ref)) [(at_, 64)]) ∧ (let w := readTable (dropFetch u (.desc ref)) at_ 64
 (let ids := listWords b n
 (let tb := tableAt w at_
 (headerOk at_ (stackEnd w at_ - at_) (peekStack w at_ 64) = true) ∧ ((∀ q ∈ ids, q < tb.nSeq)) ∧ (Takes s p r 0x21 d))))))))))))) :=
  ⟨by decide, by decide, by decide +kernel, by decide +kernel, by decide +kernel, by decide +kernel⟩

theorem meets_trimFails :
  (let reg : Fin 256 := 3
 (let s : State := powered { trimFail := [3] }
 (s.aon = true) ∧ (clusterOn s.variant (reg.val / 8) = true) ∧ (reg.val ∈ s.power.trimFail))) ∧
  (let reg : Fin 256 := 3
 (let s : State := powered { trimFail := [8] }
 (s.aon = true) ∧ (clusterOn s.variant (reg.val / 8) = true) ∧ (reg.val ∉ s.power.trimFail) ∧ ((∀ x ∈ s.power.trimFail, x / 8 ≠ reg.val / 8)))) ∧
  (let reg : Fin 256 := 3
 (let s : State := powered { trimFail := [7] }
 (s.aon = true) ∧ (clusterOn s.variant (reg.val / 8) = true) ∧ (let u := addDefect (raise { s with power := { s.power with trimFail := s.power.trimFail ++ [reg.val] } } { kind := 0x702, unit := 5, id := reg.val }) 0x702 5 reg.val 2
 (reg.val ∉ s.power.trimFail) ∧ ((∃ x ∈ s.power.trimFail, x / 8 = reg.val / 8)) ∧ (partOfCluster u (reg.val / 8) ≠ none)))) ∧
  (let reg : Fin 256 := 3
 (let s : State := { powered { trimFail := [7] } with staged := [] }
 (s.aon = true) ∧ (clusterOn s.variant (reg.val / 8) = true) ∧ (let u := addDefect (raise { s with power := { s.power with trimFail := s.power.trimFail ++ [reg.val] } } { kind := 0x702, unit := 5, id := reg.val }) 0x702 5 reg.val 2
 (reg.val ∉ s.power.trimFail) ∧ (partOfCluster u (reg.val / 8) = none)))) :=
  ⟨by decide, by decide, by decide, by decide⟩

theorem meets_headersTurnOn :
  (let c : ClusterId := 0
 (let droop : Bool := false
 (let pct : List Nat := [3]
 (let s : State := powered { avs := [(0, { good := 1000 })], hdr := [(0, { stage := 3, turning := true, last := 2999950 })] }
 (s.aon = true) ∧ (let h := hdrAt s c.val
 (let clear := droop = false ∧ ∀ p ∈ pct, p < peakPct s
 (h.turning = true) ∧ (h.forced = false) ∧ (50 ≤ (s.time - h.last).toNat) ∧ (railSettled s c.val = true) ∧ (clear) ∧ (h.stage < 7))))))) ∧
  (let c : ClusterId := 0
 (let droop : Bool := false
 (let pct : List Nat := [3]
 (let s : State := powered { avs := [(0, { good := 1000 })], hdr := [(0, { stage := 7, turning := true, last := 2999950 })] }
 (s.aon = true) ∧ (let h := hdrAt s c.val
 (let clear := droop = false ∧ ∀ p ∈ pct, p < peakPct s
 (h.turning = true) ∧ (h.forced = false) ∧ (50 ≤ (s.time - h.last).toNat) ∧ (railSettled s c.val = true) ∧ (clear) ∧ (h.stage = 7))))))) ∧
  (let c : ClusterId := 0
 (let droop : Bool := true
 (let pct : List Nat := [3]
 (let s : State := powered { avs := [(0, { good := 1000 })], hdr := [(0, { stage := 3, turning := true, last := 2999950, waited := 999 })] }
 (s.aon = true) ∧ (let h := hdrAt s c.val
 (let clear := droop = false ∧ ∀ p ∈ pct, p < peakPct s
 (h.turning = true) ∧ (h.forced = false) ∧ (50 ≤ (s.time - h.last).toNat) ∧ (railSettled s c.val = true) ∧ (¬clear) ∧ (h.waited < 1000))))))) ∧
  (let c : ClusterId := 0
 (let droop : Bool := true
 (let pct : List Nat := [3]
 (let s : State := powered { avs := [(0, { good := 1000 })], hdr := [(0, { stage := 3, turning := true, last := 2999950, waited := 1000 })] }
 (s.aon = true) ∧ (let h := hdrAt s c.val
 (let clear := droop = false ∧ ∀ p ∈ pct, p < peakPct s
 (h.turning = true) ∧ (h.forced = false) ∧ (50 ≤ (s.time - h.last).toNat) ∧ (railSettled s c.val = true) ∧ (¬clear) ∧ (1000 ≤ h.waited))))))) ∧
  (let c : ClusterId := 0
 (let s : State := powered { avs := [(0, { good := 1000 })], hdr := [(0, { stage := 3, turning := true, last := 2999951 })] }
 (s.aon = true) ∧ (let h := hdrAt s c.val
 ((h.turning = false ∨ (s.time - h.last).toNat < 50)) ∧ (h.forced = false)))) ∧
  (let c : ClusterId := 0
 (let s : State := powered { avs := [(0, { good := 1000 })], hdr := [(0, { stage := 3, turning := true, last := 2999950, forced := true })] }
 (s.aon = true) ∧ (let h := hdrAt s c.val
 (h.forced = true) ∧ (50 ≤ (s.time - h.last).toNat) ∧ (h.turning = true) ∧ (h.stage < 7)))) ∧
  (let c : ClusterId := 0
 (let s : State := powered { avs := [(0, { good := 1000 })], hdr := [(0, { stage := 7, turning := true, last := 2999950, forced := true })] }
 (s.aon = true) ∧ (let h := hdrAt s c.val
 (h.forced = true) ∧ (50 ≤ (s.time - h.last).toNat) ∧ (h.turning = true) ∧ (h.stage = 7)))) ∧
  (let c : ClusterId := 0
 (let s : State := powered { hdr := [(0, { stage := 8, turning := false, last := 2999950, forced := true })], stagePart := [(0, true), (8, true)] }
 (s.aon = true) ∧ (let h := hdrAt s c.val
 (h.forced = true) ∧ (50 ≤ (s.time - h.last).toNat) ∧ (h.turning = false)))) :=
  ⟨by decide, by decide, by decide, by decide, by decide, by decide, by decide, by decide⟩

theorem meets_telemetryChecked :
  (let sum : Nat := 1000
 (let read : Nat := 900
 (let s : State := powered { mismatch := [(0, 4)] }
 (s.aon = true) ∧ (let differs := sum < 10 * (sum - read) ∨ sum < 10 * (read - sum)
 (¬differs))))) ∧
  (let sum : Nat := 1000
 (let read : Nat := 899
 (let s : State := powered { mismatch := [(0, 8)] }
 (s.aon = true) ∧ (let n := tget 0 s.power.mismatch 0
 (let differs := sum < 10 * (sum - read) ∨ sum < 10 * (read - sum)
 (differs) ∧ (n < 9)))))) ∧
  (let sum : Nat := 1000
 (let read : Nat := 1101
 (let s : State := powered { mismatch := [(0, 9)] }
 (s.aon = true) ∧ (let n := tget 0 s.power.mismatch 0
 (let differs := sum < 10 * (sum - read) ∨ sum < 10 * (read - sum)
 (differs) ∧ (n = 9)))))) :=
  ⟨by decide, by decide, by decide⟩

theorem meets_capSelects :
  (let v : BitVec 2 := 3
 (let s : State := { powered { pins := 3 } with staged := [(0x700000, 900), (0x70000C, 1200)] ++ runs.staged }
 (s.aon = true) ∧ (let u := { s with power := { s.power with pins := v, selected := v } }
 (capSelected s ≤ capSelected u)))) ∧
  (let v : BitVec 2 := 0
 (let s : State := { powered { selected := 1, pins := 1 } with staged := [(0x700000, 900), (0x700004, 1200)] ++ runs.staged }
 (s.aon = true) ∧ (let u := { s with power := { s.power with pins := v, selected := v } }
 (capSelected u < capSelected s)))) :=
  ⟨by decide, by decide⟩

theorem meets_droops :
  (let c : ClusterId := 0
 (let part : PartId := 0
 (let s : State := powered {}
 (s.aon = true) ∧ (partOfCluster s c.val = some part.val) ∧ (started s part.val = true)))) ∧
  (let c : ClusterId := 0
 (let s : State := { powered {} with staged := [] }
 (s.aon = true) ∧ (partOfCluster s c.val = none))) ∧
  (let part : PartId := 0
 (let s : State := { powered { droopOn := [(0, true)], droopUntil := [(0, 2999999)] } with staged := (0x70001C, 0x10000) :: runs.staged }
 (s.aon = true) ∧ (tget false s.power.droopOn part.val = true) ∧ (let past := tickCycles s * (s.time - BitVec.ofNat 64 (tget 0 s.power.droopUntil part.val)).toNat
 (bits (reg s 0x70001C) 31 16 ≤ past)))) ∧
  (let part : PartId := 0
 (let s : State := { powered { droopOn := [(0, true)], droopUntil := [(0, 3000000)] } with staged := (0x70001C, 0x10000) :: runs.staged }
 (s.aon = true) ∧ (tget false s.power.droopOn part.val = true) ∧ (let past := tickCycles s * (s.time - BitVec.ofNat 64 (tget 0 s.power.droopUntil part.val)).toNat
 (past < bits (reg s 0x70001C) 31 16)))) :=
  ⟨by decide, by decide, by decide, by decide⟩

theorem meets_overCurrents :
  (let half : Fin 2 := 1
 (let s : State := powered {}
 (s.aon = true) ∧ ((s.darn.sources.any (fun c => sameSource c { kind := 0x707, unit := 17, id := half.val })) = false))) ∧
  (let half : Fin 2 := 1
 (let s : State := { powered {} with darn := { sources := [{ first := { kind := 0x707, unit := 17, id := 1, part := 0xF, station := 0xFFFF }, more := 0, moreTime := 0 }] } }
 (s.aon = true) ∧ ((s.darn.sources.any (fun c => sameSource c { kind := 0x707, unit := 17, id := half.val })) = true))) ∧
  (let half : Fin 2 := 1
 (let s : State := powered { ocSince := [(1, some 2997500)] }
 (s.aon = true) ∧ (let since := 2997500
 (tget none s.power.ocSince half.val = some since) ∧ (2500 ≤ (s.time - since).toNat)))) ∧
  (let half : Fin 2 := 1
 (let s : State := powered { ocSince := [(1, some 2997501)] }
 (s.aon = true) ∧ (let since := 2997501
 (tget none s.power.ocSince half.val = some since) ∧ ((s.time - since).toNat < 2500)))) :=
  ⟨by decide, by decide, by decide, by decide⟩

theorem meets_lendingFormed :
  (let mw : List Nat := [3, 4]
 (let s : State := { powered { allow := 5 } with cores := [(0, { gated := true }), (5, { gated := true })] }
 (s.aon = true) ∧ (mw.length = (gatedCores s).length) ∧ ((gatedCores s).Nodup))) :=
  by decide

theorem meets_railsReadBack :
  (let rail : Fin 6 := 2
 (let w : W64 := 2996251
 (let s : State := powered { avs := [(2, { target := 800, written := some 2996251 })] }
 (s.aon = true) ∧ ((avsAt s rail.val).written = some w) ∧ ((s.time - w).toNat < 3750)))) ∧
  (let rail : Fin 6 := 2
 (let mv : Option Nat := some 810
 (let alert : Bool := false
 (let w : W64 := 2996250
 (let s : State := powered { avs := [(2, { target := 800, want := 900, written := some 2996250 })] }
 (s.aon = true) ∧ ((avsAt s rail.val).written = some w) ∧ (let r := avsAt s rail.val
 (let good := alert = false ∧ mv.any (fun m => decide (m ≤ r.target.toNat + 10 ∧ r.target.toNat ≤ m + 10)) = true
 (3750 ≤ (s.time - w).toNat) ∧ (good)))))))) ∧
  (let rail : Fin 6 := 2
 (let mv : Option Nat := some 811
 (let alert : Bool := false
 (let w : W64 := 2996250
 (let s : State := powered { avs := [(2, { target := 800, want := 900, written := some 2996250, retries := 1 })] }
 (s.aon = true) ∧ ((avsAt s rail.val).written = some w) ∧ (let r := avsAt s rail.val
 (let good := alert = false ∧ mv.any (fun m => decide (m ≤ r.target.toNat + 10 ∧ r.target.toNat ≤ m + 10)) = true
 (3750 ≤ (s.time - w).toNat) ∧ (¬good) ∧ (r.retries < 2)))))))) ∧
  (let rail : Fin 6 := 2
 (let mv : Option Nat := none
 (let alert : Bool := false
 (let w : W64 := 2996250
 (let s : State := powered { avs := [(2, { target := 800, want := 900, written := some 2996250, retries := 2 })] }
 (s.aon = true) ∧ ((avsAt s rail.val).written = some w) ∧ (let r := avsAt s rail.val
 (let good := alert = false ∧ mv.any (fun m => decide (m ≤ r.target.toNat + 10 ∧ r.target.toNat ≤ m + 10)) = true
 (3750 ≤ (s.time - w).toNat) ∧ (¬good) ∧ (2 ≤ r.retries)))))))) :=
  ⟨by decide, by decide, by decide, by decide⟩

theorem meets_railsStep :
  (let a : Nat := 2
 (let s : State := powered { avs := [(2, { target := 800, want := 900, written := some 2996250 })] }
 (let r := avsAt s a
 (r.written ≠ none)))) ∧
  (let a : Nat := 2
 (let s : State := powered { avs := [(2, { target := 800, want := 900 })] }
 (let r := avsAt s a
 (r.written = none) ∧ (r.target ≠ r.want)))) ∧
  (let a : Nat := 2
 (let s : State := powered { avs := [(2, { target := 800, want := 820 })] }
 (let r := avsAt s a
 (r.written = none) ∧ (r.target ≠ r.want) ∧ (r.target.toNat < r.want.toNat)))) ∧
  (let a : Nat := 2
 (let s : State := powered { avs := [(2, { target := 900, want := 800 })] }
 (let r := avsAt s a
 (r.written = none) ∧ (r.target ≠ r.want) ∧ (r.want.toNat < r.target.toNat)))) ∧
  (let a : Nat := 2
 (let b := 3
 (b ≠ a))) :=
  ⟨by decide, by decide, by decide, by decide, by decide⟩

theorem meets_sensorsFlag :
  (let i : Fin 352 := 5
 (let since : W64 := 298749999
 (let s : State := warm { sensor := [(5, { off := some 298749999 })] }
 (s.aon = true) ∧ ((sensorAt s i.val).off = some since) ∧ ((sensorAt s i.val).faulty = false) ∧ ((sensorAt s i.val).flagged = false) ∧ (1250000 < (s.time - since).toNat)))) ∧
  (let i : Fin 352 := 5
 (let since : W64 := 298750000
 (let s : State := warm { sensor := [(5, { off := some 298750000 })] }
 (s.aon = true) ∧ ((sensorAt s i.val).off = some since) ∧ ((sensorAt s i.val).faulty = false) ∧ ((sensorAt s i.val).flagged = false) ∧ ((s.time - since).toNat ≤ 1250000)))) ∧
  (let i : Fin 352 := 5
 (let since : W64 := 50000000
 (let s : State := warm { sensor := [(5, { flagged := true, back := some 50000000 })] }
 (s.aon = true) ∧ ((sensorAt s i.val).back = some since) ∧ (250000000 ≤ (s.time - since).toNat)))) ∧
  (let i : Fin 352 := 5
 (let since : W64 := 50000001
 (let s : State := warm { sensor := [(5, { flagged := true, back := some 50000001 })] }
 (s.aon = true) ∧ ((sensorAt s i.val).back = some since) ∧ ((s.time - since).toNat < 250000000)))) :=
  ⟨by decide, by decide, by decide, by decide⟩

theorem meets_sampled :
  (let s : State := warm { sensor := [(1, { reading := 7, missing := some 9, faulty := true })] }
 (s.aon = true)) :=
  by decide

theorem meets_thermalContribution :
  (let h : Int := 80
 (80 ≤ h)) ∧
  (let h : Int := -32
 (h ≤ -32)) ∧
  (let h : Int := 5
 (let k : Int := 9
 (h ≤ k))) :=
  ⟨by decide, by decide, by decide⟩

theorem meets_haltReleased :
  (let part : PartId := 0
 (let since : W64 := 50000000
 (let s : State := halted 50000000
 (s.aon = true) ∧ ((partAt s part.val).thermalHalt = true) ∧ (tget none s.therm.cool part.val = some since) ∧ ((partAt s part.val).reset = none) ∧ (250000000 ≤ (s.time - since).toNat)))) ∧
  (let part : PartId := 0
 (let since : W64 := 50000001
 (let s : State := halted 50000001
 (s.aon = true) ∧ ((partAt s part.val).thermalHalt = true) ∧ (tget none s.therm.cool part.val = some since) ∧ ((partAt s part.val).reset = none) ∧ ((s.time - since).toNat < 250000000)))) :=
  ⟨by decide, by decide⟩

theorem meets_tripped :
  (let i : Fin 352 := 5
 (let s : State := warm {}
 (s.aon = true) ∧ (clusterOn s.variant (sensorCluster i.val) = true))) :=
  by decide

theorem meets_tachsChecked :
  (let s : State := warm {}
 (s.aon = true) ∧ (s.therm.lost = none)) :=
  by decide

theorem meets_fanFails :
  (let f : Fin 6 := 2
 (let since : W64 := 250000000
 (let s : State := warm { fan := [(2, { slow := some 250000000 })] }
 (s.aon = true) ∧ ((fanAt s f.val).slow = some since) ∧ ((fanAt s f.val).failed = false) ∧ (50000000 ≤ (s.time - since).toNat)))) ∧
  (let f : Fin 6 := 2
 (let since : W64 := 250000001
 (let s : State := warm { fan := [(2, { slow := some 250000001 })] }
 (s.aon = true) ∧ ((fanAt s f.val).slow = some since) ∧ ((fanAt s f.val).failed = false) ∧ ((s.time - since).toNat < 50000000)))) :=
  ⟨by decide, by decide⟩

theorem meets_inletsRead :
  (let s : State := { warm { inletMiss := some 5 } with staged := (0x700104, 0x320000) :: runs.staged }
 (s.aon = true) ∧ (let v : BitVec 16 := 400
 (v.toInt ≤ 16 * inletMax s))) ∧
  (let s : State := warm {}
 (s.aon = true) ∧ (s.therm.inletMiss = none)) ∧
  (let s : State := warm { inletMiss := some 275000000 }
 (s.aon = true) ∧ (let m := 275000000
 (s.therm.inletMiss = some m) ∧ (s.therm.inletSubst = false) ∧ (25000000 ≤ (s.time - m).toNat))) :=
  ⟨by decide, by decide, by decide⟩

theorem meets_dutyUpdated :
  (let s : State := warm { duty := 200 }
 (s.aon = true)) :=
  by decide

theorem meets_airflowMeasured :
  (let s : State := warm { inlet := 400 }
 (s.aon = true)) :=
  by decide

theorem meets_dutyFactorRoot :
  (let d : Nat := 255
 (d ≤ 255)) :=
  by decide

theorem meets_airflowCapped :
  (let s : State := warm { capAir := some 300 }
 (s.aon = true) ∧ (thetaMean s = none)) ∧
  (let s : State := warm { thetaN := List.replicate 60 (some 20), inlet := 400 }
 (s.aon = true) ∧ (let m := 20
 (thetaMean s = some m))) :=
  ⟨by decide, by decide⟩

theorem meets_airflowReturns :
  (let why : Loss := .tach
 (let since : W64 := 50000000
 (let s : State := warm { lost := some .tach, lostFine := some 50000000 }
 (s.aon = true) ∧ (s.therm.lost = some why) ∧ (s.therm.lostFine = some since) ∧ (250000000 ≤ (s.time - since).toNat)))) ∧
  (let why : Loss := .tach
 (let since : W64 := 50000001
 (let s : State := warm { lost := some .tach, lostFine := some 50000001 }
 (s.aon = true) ∧ (s.therm.lost = some why) ∧ (s.therm.lostFine = some since) ∧ ((s.time - since).toNat < 250000000)))) :=
  ⟨by decide, by decide⟩

theorem meets_marginsReviewed :
  (let s : State := warm {}
 (s.aon = true) ∧ (let a : Access := { port := 0, tag := 5 }
 (Open a s) ∧ (s.therm.reviewing = none))) ∧
  (let s : State := warm { reviewing := some 5 }
 (s.aon = true) ∧ (let a : Access := { port := 0, tag := 5 }
 (Open a s) ∧ (s.therm.reviewing ≠ none))) ∧
  (let s : State := warm {}
 (s.aon = true) ∧ (s.therm.reviewing = none) ∧ (s.therm.powered < reviewFrames)) ∧
  (let s : State := warm { reviewing := some 5, powered := 7 }
 (s.aon = true) ∧ ((s.therm.reviewing ≠ none ∨ reviewFrames ≤ s.therm.powered))) :=
  ⟨by decide, by decide, by decide, by decide⟩

theorem meets_packAuthenticates :
  (let s : State := packed { st := .unauthenticated, retryAt := some 5 }
 (s.aon = true) ∧ (let b : List Byte := List.replicate 12288 0
 (authDue s = true) ∧ (b.length = 12288))) ∧
  (let s : State := packed { st := .authenticating, record := zeros 900, challenge := some 3, authSince := 99950000000 }
 (s.aon = true) ∧ (let c : BitVec 256 := 3
 (s.hup.challenge = some c) ∧ ((s.time - s.hup.authSince).toNat ≤ 50000000))) ∧
  (let s : State := packed { st := .authenticating, record := zeros 900, challenge := some 3, authSince := 99949999999 }
 (s.aon = true) ∧ (let c : BitVec 256 := 3
 (s.hup.challenge = some c) ∧ (50000000 < (s.time - s.hup.authSince).toNat))) ∧
  (let s : State := packed { st := .authenticating }
 (s.aon = true) ∧ (s.hup.challenge = none)) :=
  ⟨by decide +kernel, by decide, by decide, by decide⟩

theorem meets_packPolled :
  (let p : PackPoll := { answered := false, serial := [], uv := 0 }
 (let s : State := packed { st := .ready, missed := 8 }
 (s.aon = true) ∧ (s.hup.challenge = none) ∧ (p.answered = false) ∧ (s.hup.missed < 9))) ∧
  (let p : PackPoll := { answered := false, serial := [], uv := 0 }
 (let s : State := packed { st := .ready, missed := 9 }
 (s.aon = true) ∧ (s.hup.challenge = none) ∧ (p.answered = false) ∧ (s.hup.missed = 9))) ∧
  (let p : PackPoll := { answered := true, serial := [1], uv := 100 }
 (let s : State := packed { st := .ready, missed := 9, serial := [1] }
 (s.aon = true) ∧ (s.hup.challenge = none) ∧ (p.answered = true) ∧ (let u := sample { s with hup := { s.hup with missed := 0 } } (packMv s p.uv)
 (p.serial = u.hup.serial) ∧ (u.hup.st ≠ .open_)))) :=
  ⟨by decide, by decide, by decide⟩

theorem meets_packTests :
  (let uv : Nat := 1000
 (let due : W64 := 10000000000
 (let s : State := packed { st := .ready, testDue := some 10000000000, restMv := packMv runs 1000 }
 (s.aon = true) ∧ (s.hup.testDue = some due) ∧ (s.hup.test = false) ∧ (s.hup.testTry = none) ∧ (let u := sample s (packMv s uv)
 (testReady u = true))))) ∧
  (let uv : Nat := 1000
 (let due : W64 := 10000000000
 (let s : State := packed { st := .unauthenticated, testDue := some 10000000000 }
 (s.aon = true) ∧ (s.hup.testDue = some due) ∧ (s.hup.test = false) ∧ (s.hup.testTry = none) ∧ (let u := sample s (packMv s uv)
 (testReady u = false) ∧ (90000000000 ≤ (u.time - due).toNat))))) ∧
  (let uv : Nat := 1000
 (let due : W64 := 10000000001
 (let s : State := packed { st := .unauthenticated, testDue := some 10000000001 }
 (s.aon = true) ∧ (s.hup.testDue = some due) ∧ (s.hup.test = false) ∧ (s.hup.testTry = none) ∧ (let u := sample s (packMv s uv)
 (testReady u = false) ∧ ((u.time - due).toNat < 90000000000))))) :=
  ⟨by decide, by decide, by decide⟩

theorem meets_packTestEnds :
  (let since : W64 := 99997500001
 (let s : State := packed { st := .testing, test := true, testSince := some 99997500001, testMv := 40 }
 (s.aon = true) ∧ (s.hup.testSince = some since) ∧ ((s.time - since).toNat < 2500000))) ∧
  (let since : W64 := 99997500000
 (let s : State := packed { st := .testing, test := true, testSince := some 99997500000, testMv := 400000 }
 (s.aon = true) ∧ (s.hup.testSince = some since) ∧ (2500000 ≤ (s.time - since).toNat))) :=
  ⟨by decide, by decide⟩

theorem meets_testAsked :
  (let a : Access := { port := 0, tag := 5 }
 (let s : State := packed {}
 (Open a s) ∧ (s.hup.test = false) ∧ (s.hup.loss = .none))) ∧
  (let a : Access := { port := 0, tag := 5 }
 (let s : State := packed { test := true }
 (Open a s) ∧ ((s.hup.test = true ∨ s.hup.loss ≠ .none)))) :=
  ⟨by decide, by decide⟩

theorem meets_windowRecomputed :
  (let s : State := packed { st := .ready, efull := 100000, enow := 90000, cap := 2000 }
 (s.aon = true)) :=
  by decide

theorem meets_countersStored :
  (let s : State := packed { serial := [1], cnt := { events := 3 }, store := [([2], {}), ([1], {})] }
 (s.aon = true)) :=
  by decide

theorem meets_powerLossAccepted :
  (let s : State := packed { test := true, guarantee := true, window := 77 }
 (s.aon = true) ∧ (s.hup.loss = .none)) ∧
  (let s : State := packed { guarantee := true, window := 77 }
 (s.aon = true) ∧ (s.hup.loss = .none) ∧ (let rail : Fin 11 := 3
 (rail.val ≠ 10) ∧ (s.pins.pwrfail = true))) ∧
  (let s : State := packed {}
 (s.aon = true) ∧ (s.hup.loss = .none) ∧ (let rail : Fin 11 := 10
 ((rail.val = 10 ∨ s.pins.pwrfail = false)))) :=
  ⟨by decide, by decide, by decide⟩

theorem meets_mainsAndRideThrough :
  (let s : State := packed {}
 (s.aon = true) ∧ (s.hup.loss = .none)) ∧
  (let s : State := packed { loss := .ride, tFail := 99999999000, frozen := 77 }
 (s.aon = true) ∧ (s.hup.loss = .ride) ∧ (s.hup.perstDeferred = false) ∧ ((s.time - s.hup.tFail).toNat < rideEnd s)) ∧
  (let s : State := packed { loss := .ride, tFail := 99999997825, frozen := 77 }
 (s.aon = true) ∧ (s.hup.loss = .ride) ∧ (rideEnd s ≤ (s.time - s.hup.tFail).toNat)) ∧
  (let s : State := packed { loss := .ride, tFail := 99999997826, frozen := 77 }
 (s.aon = true) ∧ (s.hup.loss = .ride) ∧ ((s.time - s.hup.tFail).toNat < rideEnd s) ∧ (spare s ≤ 0)) ∧
  (let s : State := packed { loss := .ride, tFail := 99999997826, frozen := 77, enow := 90000000, efull := 90000000 }
 (s.aon = true) ∧ (s.hup.loss = .ride) ∧ ((s.time - s.hup.tFail).toNat < rideEnd s) ∧ (0 < spare s)) :=
  ⟨by decide, by decide, by decide, by decide, by decide⟩

theorem meets_lastWillRuns :
  (let s : State := packed { loss := .ride, slot1 := some { seq := 4, bytes := [] } }
 ((newestWill s.hup).1 = true)) ∧
  (let s : State := packed { loss := .ride, slot0 := some { seq := 4, bytes := [] } }
 ((newestWill s.hup).1 = false)) :=
  ⟨by decide, by decide⟩

theorem meets_safeReset :
  (let since : W64 := 99997500000
 (let s : State := packed { loss := .safe, pwrSafe := true, returned := some 99997500000 }
 (s.aon = true) ∧ (s.hup.returned = some since) ∧ (s.hup.pwrSafe = true) ∧ (s.pins.pwrfail = true) ∧ (2500000 ≤ (s.time - since).toNat))) ∧
  (let since : W64 := 99997500001
 (let s : State := packed { loss := .safe, pwrSafe := true, returned := some 99997500001 }
 (s.aon = true) ∧ (s.hup.returned = some since) ∧ (s.hup.pwrSafe = true) ∧ (s.pins.pwrfail = true) ∧ ((s.time - since).toNat < 2500000))) :=
  ⟨by decide, by decide⟩

theorem meets_powersUp :
  (let s : State := { up with aon := false }
 ((s.aon = false ∨ s.boot.phase = 0))) ∧
  (let s : State := up
 (s.aon = true) ∧ (s.boot.phase ≠ 0)) :=
  ⟨by decide, by decide⟩

theorem meets_startSteps :
  (let s : State := atPhase 0
 (s.oscLost = false)) :=
  by decide

theorem meets_powerGoods :
  (let s : State := { atPhase 1 with boot := { phase := 1, flashBad := true } }
 (s.aon = true) ∧ (s.boot.phase = 1) ∧ (s.oscLost = false) ∧ (s.hup.loss = .none) ∧ (s.boot.flashBad = true) ∧ (s.boot.lifeImage = false)) ∧
  (let s : State := atPhase 1
 (s.aon = true) ∧ (s.boot.phase = 1) ∧ (s.oscLost = false) ∧ (s.hup.loss = .none) ∧ ((s.boot.flashBad = false ∨ s.boot.lifeImage = true))) ∧
  (let s : State := atPhase 9
 (s.aon = true) ∧ ((s.boot.phase ≠ 1 ∨ s.oscLost = true ∨ s.hup.loss ≠ .none))) :=
  ⟨by decide, by decide, by decide⟩

theorem meets_failureNoted :
  (let s : State := { up with boot := { phase := 4, fuseBad := [(1, 7)] } }
 (let unit : Nat := 1
 (let id : Nat := 7
 (unit < 256) ∧ (id < 4294967296) ∧ (s.boot.fuseBad.contains (unit, id) = true)))) ∧
  (let s : State := up
 (let unit : Nat := 1
 (let id : Nat := 7
 (unit < 256) ∧ (id < 4294967296) ∧ (s.boot.fuseBad.contains (unit, id) = false) ∧ (listed s (unit, id) = false) ∧ (s.boot.list.length < 8192)))) ∧
  (let s : State := { up with boot := { phase := 4, list := [⟨1, 1, 1, 7, 0, 0, 0, 255⟩] } }
 (let unit : Nat := 1
 (let id : Nat := 7
 (unit < 256) ∧ (id < 4294967296) ∧ (s.boot.fuseBad.contains (unit, id) = false) ∧ (listed s (unit, id) = true)))) :=
  ⟨by decide, by decide, by decide⟩

theorem meets_lifelineNotices :
  (let s : State := { up with boot := { phase := 3 }, time := 30000000 }
 (s.aon = true) ∧ (s.boot.phase = 3) ∧ (s.boot.noticed.all (fun t => decide (25000000 ≤ (s.time - t).toNat)) = true)) ∧
  (let s : State := up
 (s.aon = true) ∧ (s.boot.phase ≠ 3)) ∧
  (let s : State := { up with boot := { phase := 3, noticed := some 2000000 } }
 (s.aon = true) ∧ (let t := 2000000
 (s.boot.noticed = some t) ∧ ((s.time - t).toNat < 25000000))) :=
  ⟨by decide, by decide, by decide⟩

theorem meets_lifelineLoads :
  (let s : State := atPhase 3
 (s.aon = true) ∧ (s.boot.phase = 3)) ∧
  (let s : State := up
 (s.aon = true) ∧ (s.boot.phase ≠ 3)) ∧
  (let s : State := fetchedWith .lifeline (.unsupported 0) (atPhase 4)
 (s.aon = true) ∧ (s.boot.phase = 4) ∧ (let x := .unsupported 0
 (let st := eRange
 (Fetched s .lifeline x) ∧ (readFailure x = some st)))) ∧
  (let s : State := fetchedWith .lifeline (.data [1] []) (atPhase 4)
 (s.aon = true) ∧ (s.boot.phase = 4) ∧ (let b : List Byte := [1]
 (Fetched s .lifeline (.data b [])))) :=
  ⟨by decide, by decide, by decide, by decide⟩

theorem meets_fwUpdates :
  (let p : NPort := 0
 (let r : RingId := 0
 (let d : Desc := fwDesc 0 4096
 (let s : State := ownerless (fwDesc 0 4096)
 (Takes s p r 0x70 d) ∧ (let u := settleRing s p r
 (holdsSem u p = false)))))) ∧
  (let p : NPort := 0
 (let r : RingId := 0
 (let d : Desc := fwDesc 0 4096
 (let s : State := { asked (fwDesc 0 4096) with fwUpdate := some { desc := none, image := [] } }
 (Takes s p r 0x70 d) ∧ (let u := settleRing s p r
 (holdsSem u p = true) ∧ (u.fwUpdate ≠ none)))))) ∧
  (let p : NPort := 0
 (let r : RingId := 0
 (let d : Desc := fwDesc 4 4096
 (let s : State := asked (fwDesc 4 4096)
 (Takes s p r 0x70 d) ∧ (let u := settleRing s p r
 (let n := bits (arg d 1) 31 0
 (holdsSem u p = true) ∧ (u.fwUpdate = none) ∧ (((arg d 0).toNat % 64 ≠ 0 ∨ n % 64 ≠ 0)))))))) ∧
  (let p : NPort := 0
 (let r : RingId := 0
 (let d : Desc := fwDesc 0 0
 (let s : State := asked (fwDesc 0 0)
 (Takes s p r 0x70 d) ∧ (let u := settleRing s p r
 (let n := bits (arg d 1) 31 0
 (holdsSem u p = true) ∧ (u.fwUpdate = none) ∧ ((arg d 0).toNat % 64 = 0) ∧ (n % 64 = 0) ∧ ((n < 4096 ∨ 67108864 < n)))))))) ∧
  (let p : NPort := 0
 (let r : RingId := 0
 (let d : Desc := fwDesc 0 4096
 (let s : State := asked (fwDesc 0 4096)
 (Takes s p r 0x70 d) ∧ (let u := settleRing s p r
 (let n := bits (arg d 1) 31 0
 (holdsSem u p = true) ∧ (u.fwUpdate = none) ∧ ((arg d 0).toNat % 64 = 0) ∧ (n % 64 = 0) ∧ (4096 ≤ n) ∧ (n ≤ 67108864) ∧ (let ref : DescRef := ⟨p, r, d.k⟩
 (fetchOf u (.desc ref) = none)))))))) ∧
  (let p : NPort := 0
 (let r : RingId := 0
 (let d : Desc := fwDesc 0 4096
 (let s : State := fetchedWith (.desc ⟨0, 0, 0⟩) (.unsupported 0) (asked (fwDesc 0 4096))
 (Takes s p r 0x70 d) ∧ (let u := settleRing s p r
 (let n := bits (arg d 1) 31 0
 (holdsSem u p = true) ∧ (u.fwUpdate = none) ∧ ((arg d 0).toNat % 64 = 0) ∧ (n % 64 = 0) ∧ (4096 ≤ n) ∧ (n ≤ 67108864) ∧ (let ref : DescRef := ⟨p, r, d.k⟩
 (let x := .unsupported 0
 (let st := eRange
 (Fetched u (.desc ref) x) ∧ (readFailure x = some st)))))))))) ∧
  (let p : NPort := 0
 (let r : RingId := 0
 (let d : Desc := fwDesc 0 4096
 (let s : State := gotList [1] (asked (fwDesc 0 4096))
 (Takes s p r 0x70 d) ∧ (let u := settleRing s p r
 (let n := bits (arg d 1) 31 0
 (holdsSem u p = true) ∧ (u.fwUpdate = none) ∧ ((arg d 0).toNat % 64 = 0) ∧ (n % 64 = 0) ∧ (4096 ≤ n) ∧ (n ≤ 67108864) ∧ (let ref : DescRef := ⟨p, r, d.k⟩
 (let b := [1]
 (Fetched u (.desc ref) (.data b [])))))))))) :=
  ⟨by decide, by decide, by decide, by decide, by decide, by decide, by decide⟩

theorem meets_fwUpdateEnds :
  (let s : State := { up with fwUpdate := some { desc := some ⟨0, 0, 0⟩, image := [1] } }
 (s.aon = true) ∧ (let ref : DescRef := (⟨0, 0, 0⟩ : DescRef)
 (let img : List Byte := [1]
 (s.fwUpdate = some { desc := some ref, image := img })))) ∧
  (let s : State := { up with fwUpdate := some { desc := some ⟨0, 0, 0⟩, image := [1] } }
 (s.aon = true) ∧ (let ref : DescRef := (⟨0, 0, 0⟩ : DescRef)
 (let img : List Byte := [1]
 (s.fwUpdate = some { desc := some ref, image := img })))) ∧
  (let s : State := { up with fwUpdate := some { desc := none, image := [1] } }
 (s.aon = true) ∧ (let img : List Byte := [1]
 (s.fwUpdate = some { desc := none, image := img }))) ∧
  (let s : State := up
 (s.aon = true) ∧ (s.fwUpdate = none)) :=
  ⟨by decide, by decide, by decide, by decide⟩

theorem meets_defectClears :
  (let p : NPort := 0
 (let r : RingId := 0
 (let d : Desc := desc 0x71 [0, 8784]
 (let s : State := ownerless (desc 0x71 [0, 8784])
 (Takes s p r 0x71 d) ∧ (let u := settleRing s p r
 (holdsSem u p = false)))))) ∧
  (let p : NPort := 0
 (let r : RingId := 0
 (let d : Desc := desc 0x71 [0, 8783]
 (let s : State := asked (desc 0x71 [0, 8783])
 (Takes s p r 0x71 d) ∧ (let u := settleRing s p r
 (holdsSem u p = true) ∧ (bits (arg d 1) 15 0 ≠ 8784)))))) ∧
  (let p : NPort := 0
 (let r : RingId := 0
 (let d : Desc := desc 0x71 [0, 8784]
 (let s : State := asked (desc 0x71 [0, 8784])
 (Takes s p r 0x71 d) ∧ (let u := settleRing s p r
 (let ref : DescRef := ⟨p, r, d.k⟩
 (holdsSem u p = true) ∧ (bits (arg d 1) 15 0 = 8784) ∧ (fetchOf u (.desc ref) = none))))))) ∧
  (let p : NPort := 0
 (let r : RingId := 0
 (let d : Desc := desc 0x71 [0, 8784]
 (let s : State := gotList [1] (asked (desc 0x71 [0, 8784]))
 (Takes s p r 0x71 d) ∧ (let u := settleRing s p r
 (let ref : DescRef := ⟨p, r, d.k⟩
 (holdsSem u p = true) ∧ (bits (arg d 1) 15 0 = 8784) ∧ (let b := [1]
 (Fetched u (.desc ref) (.data b []))))))))) :=
  ⟨by decide, by decide, by decide, by decide⟩

theorem meets_coreSpared :
  (let core : PhysId := 3
 (let s : State := { runs with units := { skip := [(rowKey 3, 2)] } }
 (s.aon = true) ∧ (¬Moving s core.val) ∧ (s.units.fenced.contains (physCluster core.val) = false) ∧ (let c := physCluster core.val
 (let row := (physPlace core.val).2.1 % 4
 (let pos := (physPlace core.val).2.2.2
 (pos ≠ skipOf s c row) ∧ ((skipOf s c row ≠ 8 ∨ s.units.spareGone.contains (rowKey core.val) = true))))))) ∧
  (let core : PhysId := 3
 (let s : State := runs
 (s.aon = true) ∧ (¬Moving s core.val) ∧ (s.units.fenced.contains (physCluster core.val) = false) ∧ (let c := physCluster core.val
 (let row := (physPlace core.val).2.1 % 4
 (let pos := (physPlace core.val).2.2.2
 (pos ≠ skipOf s c row) ∧ (skipOf s c row = 8) ∧ (s.units.spareGone.contains (rowKey core.val) = false) ∧ (let n := 0
 (clusterPart s c = some n))))))) ∧
  (let core : PhysId := 3
 (let s : State := up
 (s.aon = true) ∧ (¬Moving s core.val) ∧ (s.units.fenced.contains (physCluster core.val) = false) ∧ (let c := physCluster core.val
 (let row := (physPlace core.val).2.1 % 4
 (let pos := (physPlace core.val).2.2.2
 (pos ≠ skipOf s c row) ∧ (skipOf s c row = 8) ∧ (s.units.spareGone.contains (rowKey core.val) = false) ∧ (clusterPart s c = none)))))) ∧
  (let core : PhysId := 3
 (let s : State := { runs with units := { skip := [(rowKey 3, (physPlace 3).2.2.2)] } }
 (s.aon = true) ∧ (¬Moving s core.val) ∧ (s.units.fenced.contains (physCluster core.val) = false) ∧ (let c := physCluster core.val
 (let row := (physPlace core.val).2.1 % 4
 (let pos := (physPlace core.val).2.2.2
 (pos = skipOf s c row)))))) :=
  ⟨by decide, by decide, by decide, by decide⟩

theorem meets_sparingEnds :
  (let core : PhysId := 3
 (let s : State := runs
 (s.aon = true) ∧ (sparingOf s core.val = none))) ∧
  (let core : PhysId := 3
 (let s : State := { runs with sparings := [{ cluster := 0, row := (physPlace 3).2.1 % 4, pos := (physPlace 3).2.2.2, part := some 0, begun := 5 }] }
 (s.aon = true) ∧ (let x := ({ cluster := 0, row := (physPlace 3).2.1 % 4, pos := (physPlace 3).2.2.2, part := some 0, begun := 5 } : Sparing)
 (sparingOf s core.val = some x)))) :=
  ⟨by decide, by decide⟩

theorem meets_hemResets :
  (let s : State := runs
 (s.aon = true) ∧ (s.hemReset = none)) ∧
  (let s : State := ownerless (desc 0x72 [])
 (s.aon = true) ∧ (s.hemReset = none) ∧ (let p : NPort := 0
 (let r : RingId := 0
 (let d : Desc := desc 0x72 []
 (Takes s p r 0x72 d) ∧ (holdsSem s p = false))))) ∧
  (let s : State := asked (desc 0x72 [])
 (s.aon = true) ∧ (s.hemReset = none) ∧ (let p : NPort := 0
 (let r : RingId := 0
 (let d : Desc := desc 0x72 []
 (Takes s p r 0x72 d) ∧ (holdsSem s p = true))))) ∧
  (let s : State := { runs with hemReset := some { desc := none, begun := 0 } }
 (s.aon = true) ∧ (s.hemReset ≠ none)) :=
  ⟨by decide, by decide, by decide, by decide⟩

theorem meets_hemResumes :
  (let s : State := runs
 (s.aon = true) ∧ (s.hemReset = none)) ∧
  (let s : State := { runs with hemReset := some { desc := none, begun := 0 }, parts := [(0, { st := .running, run := some run0, hemLost := true })] }
 (s.aon = true) ∧ (let h := ({ desc := none, begun := 0 } : HemReset)
 (s.hemReset = some h))) :=
  ⟨by decide, by decide⟩

theorem meets_deviceResets :
  (let s : State := runs
 (s.aon = true) ∧ (s.oscLost = false)) ∧
  (let s : State := ownerless (desc 0x73 [])
 (s.aon = true) ∧ (s.oscLost = false) ∧ (let p : NPort := 0
 (let r : RingId := 0
 (let d : Desc := desc 0x73 []
 (Takes s p r 0x73 d) ∧ (let u := settleRing s p r
 (holdsSem u p = false)))))) ∧
  (let s : State := asked (desc 0x73 [])
 (s.aon = true) ∧ (s.oscLost = false) ∧ (let p : NPort := 0
 (let r : RingId := 0
 (let d : Desc := desc 0x73 []
 (Takes s p r 0x73 d) ∧ (let u := settleRing s p r
 (holdsSem u p = true)))))) ∧
  (let s : State := { runs with devReset := some (2975000, 2) }
 (s.aon = true) ∧ (s.oscLost = false) ∧ (let since := 2975000
 (s.devReset = some (since, 2)) ∧ (25000 ≤ (s.time - since).toNat))) ∧
  (let s : State := { runs with devReset := some (2975001, 2) }
 (s.aon = true) ∧ (s.oscLost = false) ∧ (let since := 2975001
 (s.devReset = some (since, 2)) ∧ ((s.time - since).toNat < 25000))) ∧
  (let s : State := runs
 (s.aon = true) ∧ (s.oscLost = false) ∧ (s.devReset = none)) :=
  ⟨by decide, by decide, by decide, by decide, by decide, by decide⟩

theorem meets_perstResets :
  (let s : State := runs
 (s.aon = true) ∧ (s.pins.perst = true)) ∧
  (let s : State := { runs with pins := { perst := false } }
 (s.aon = true) ∧ (s.pins.perst = false)) ∧
  (let s : State := { runs with pins := { perst := false, perstLow := some 2997501 } }
 (s.aon = true) ∧ (let since := 2997501
 (s.pins.perstLow = some since) ∧ ((s.time - since).toNat < 2500))) ∧
  (let s : State := { runs with pins := { perst := false, perstLow := some 2997500 } }
 (s.aon = true) ∧ (let since := 2997500
 (s.pins.perstLow = some since) ∧ (2500 ≤ (s.time - since).toNat) ∧ (s.oscLost = false) ∧ (s.hup.loss = .none))) ∧
  (let s : State := { runs with pins := { perst := false, perstLow := some 2997500 }, hup := { loss := .ride } }
 (s.aon = true) ∧ (let since := 2997500
 (s.pins.perstLow = some since) ∧ (2500 ≤ (s.time - since).toNat) ∧ (s.hup.loss ≠ .none))) ∧
  (let s : State := runs
 (s.aon = true) ∧ (s.pins.perstLow = none)) ∧
  (let s : State := { runs with pins := { perst := false, perstLow := some 2997500 }, nal := [] }
 (s.aon = true)) :=
  ⟨by decide, by decide, by decide, by decide, by decide, by decide, by decide⟩

theorem meets_clocksLost :
  (let s : State := { runs with pllLost := [.nbu] }
 (s.aon = true) ∧ (let c : ClockId := .nbu
 ((s.pllLost.contains c = true ∨ (c = .osc ∧ s.oscLost = true))))) ∧
  (let s : State := runs
 (s.aon = true) ∧ (let c : ClockId := .halfW
 (c ≠ .osc) ∧ (s.pllLost.contains c = false) ∧ (c = .halfW))) ∧
  (let s : State := runs
 (s.aon = true) ∧ (let c : ClockId := .halfE
 (c ≠ .osc) ∧ (s.pllLost.contains c = false) ∧ (c = .halfE))) ∧
  (let s : State := nbuWith (filling 5) (desc 0 [])
 (s.aon = true) ∧ (let c : ClockId := .nbu
 (c ≠ .osc) ∧ (s.pllLost.contains c = false) ∧ (c = .nbu))) ∧
  (let s : State := runs
 (s.aon = true) ∧ (let c : ClockId := .serdes
 (c ≠ .osc) ∧ (s.pllLost.contains c = false) ∧ (c = .serdes))) ∧
  (let s : State := runs
 (s.aon = true) ∧ (s.oscLost = false) ∧ (s.pllLost.contains .osc = false)) ∧
  (let s : State := runs
 (s.aon = true) ∧ (let c : ClockId := .nbu
 (s.pllLost.contains c = false))) ∧
  (let s : State := { runs with pllLost := [.halfW, .nbu] }
 (s.aon = true) ∧ (let c : ClockId := .halfW
 (c ≠ .serdes) ∧ (c ≠ .nbu) ∧ (s.pllLost.contains c = true))) ∧
  (let s : State := { runs with pllLost := [.halfW, .nbu] }
 (s.aon = true) ∧ (s.pllLost.contains .nbu = true)) ∧
  (let s : State := { runs with oscLost := true }
 (s.aon = true) ∧ (s.oscLost = true)) ∧
  (let s : State := runs
 (s.aon = true) ∧ (s.oscLost = false)) :=
  ⟨by decide, by decide, by decide, by decide, by decide, by decide, by decide, by decide, by decide, by decide, by decide⟩

theorem meets_alertCleared :
  (let a : Access := { port := 0, tag := 5 }
 (let v : W32 := 1
 (let s : State := { up with darn := { pending := true } }
 (Open a s) ∧ (v = 1)))) ∧
  (let a : Access := { port := 0, tag := 5 }
 (let v : W32 := 0
 (let s : State := { up with darn := { pending := true } }
 (Open a s) ∧ (v = 0)))) ∧
  (let a : Access := { port := 0, tag := 5 }
 (let v : W32 := 2
 (let s : State := { up with darn := { pending := true } }
 (Open a s) ∧ (1 < v.toNat)))) :=
  ⟨by decide, by decide, by decide⟩

theorem meets_svnCommits :
  (let p : NPort := 0
 (let r : RingId := 0
 (let d : Desc := desc 0x62 []
 (let s : State := ownerless (desc 0x62 [])
 (Takes s p r 0x62 d) ∧ (let u := settleRing s p r
 (holdsSem u p = false)))))) ∧
  (let p : NPort := 0
 (let r : RingId := 0
 (let d : Desc := desc 0x62 []
 (let s : State := { asked (desc 0x62 []) with fwUpdate := some { desc := none, image := [] } }
 (Takes s p r 0x62 d) ∧ (let u := settleRing s p r
 (holdsSem u p = true) ∧ (u.fwUpdate ≠ none)))))) ∧
  (let p : NPort := 0
 (let r : RingId := 0
 (let d : Desc := desc 0x62 []
 (let s : State := { asked (desc 0x62 []) with rot := { counter := 2, svn := 5, slot := 1 }, boot := { phase := 9, image := List.replicate 64 3 } }
 (Takes s p r 0x62 d) ∧ (let u := settleRing s p r
 (holdsSem u p = true) ∧ (u.fwUpdate = none)))))) :=
  ⟨by decide, by decide, by decide⟩

theorem meets_certificatesRead :
  (let p : NPort := 0
 (let r : RingId := 0
 (let d : Desc := desc 0x61 [4, 17632]
 (let s : State := asked (desc 0x61 [4, 17632])
 (Takes s p r 0x61 d) ∧ ((arg d 0).toNat % 64 ≠ 0))))) ∧
  (let p : NPort := 0
 (let r : RingId := 0
 (let d : Desc := desc 0x61 [64, 17631]
 (let s : State := asked (desc 0x61 [64, 17631])
 (Takes s p r 0x61 d) ∧ ((arg d 0).toNat % 64 = 0) ∧ (bits (arg d 1) 31 0 < 17632))))) ∧
  (let p : NPort := 0
 (let r : RingId := 0
 (let d : Desc := desc 0x61 [64, 17632]
 (let s : State := asked (desc 0x61 [64, 17632])
 (Takes s p r 0x61 d) ∧ ((arg d 0).toNat % 64 = 0) ∧ (17632 ≤ bits (arg d 1) 31 0))))) ∧
  (let p : NPort := 0
 (let r : RingId := 0
 (let d : Desc := desc 0x61 [64, 17632]
 (let s : State := asked (desc 0x61 [64, 17632])
 (Takes s p r 0x61 d))))) :=
  ⟨by decide, by decide, by decide, by decide⟩

theorem meets_attests :
  (let p : NPort := 0
 (let r : RingId := 0
 (let d : Desc := attestD 3
 (let s : State := { asked (attestD 3) with staged := [(0x10018, 2)] }
 (Takes s p r 0x60 d) ∧ ((arg d 0).toNat % 64 = 0) ∧ (9072 ≤ bits (arg d 1) 31 0) ∧ (let u := settleRing s p r
 (let mask := bits (arg d 1) 39 32
 (let n := 1
 (n < 8) ∧ (mask / 2 ^ n % 2 = 1) ∧ (portOf u n ≠ p) ∧ ((∀ k < n, mask / 2 ^ k % 2 = 1 → portOf u k = p))))))))) ∧
  (let p : NPort := 0
 (let r : RingId := 0
 (let d : Desc := attestD 3
 (let s : State := { asked (attestD 3) with rot := { scan := true } }
 (Takes s p r 0x60 d) ∧ ((arg d 0).toNat % 64 = 0) ∧ (9072 ≤ bits (arg d 1) 31 0) ∧ (let u := settleRing s p r
 (let mask := bits (arg d 1) 39 32
 ((∀ n < 8, mask / 2 ^ n % 2 = 1 → portOf u n = p)) ∧ (u.rot.scan = true))))))) ∧
  (let p : NPort := 0
 (let r : RingId := 0
 (let d : Desc := attestD 3
 (let s : State := { asked (attestD 3) with rot := { queue := List.replicate 4 waits } }
 (Takes s p r 0x60 d) ∧ ((arg d 0).toNat % 64 = 0) ∧ (9072 ≤ bits (arg d 1) 31 0) ∧ (let u := settleRing s p r
 (let mask := bits (arg d 1) 39 32
 ((∀ n < 8, mask / 2 ^ n % 2 = 1 → portOf u n = p)) ∧ (u.rot.scan = false) ∧ (4 ≤ u.rot.queue.length))))))) ∧
  (let p : NPort := 0
 (let r : RingId := 0
 (let d : Desc := attestD 3
 (let s : State := { asked (attestD 3) with rot := { queue := List.replicate 3 waits } }
 (Takes s p r 0x60 d) ∧ ((arg d 0).toNat % 64 = 0) ∧ (9072 ≤ bits (arg d 1) 31 0) ∧ (let u := settleRing s p r
 (let mask := bits (arg d 1) 39 32
 ((∀ n < 8, mask / 2 ^ n % 2 = 1 → portOf u n = p)) ∧ (u.rot.scan = false) ∧ (u.rot.queue.length < 4))))))) :=
  ⟨by decide, by decide, by decide, by decide⟩

theorem meets_reportLaidOut :
  (let mask : Nat := 1
 (let nonce : List Byte := List.replicate 32 7
 (nonce.length = 32) ∧ (mask < 256))) ∧
  (let mask : Nat := 1
 (let nonce : List Byte := List.replicate 32 7
 (nonce.length = 32) ∧ (mask < 256) ∧ (let n := 1
 (n < 8) ∧ (mask / 2 ^ n % 2 = 0)))) :=
  ⟨by decide, by decide⟩

theorem meets_reportSigned :
  (let s : State := runs
 (s.aon = true) ∧ (s.rot.queue = [])) ∧
  (let s : State := { runs with rot := { queue := [waits, waits] } }
 (s.aon = true) ∧ (let a := waits
 (let l := [waits]
 (s.rot.queue = a :: l)))) ∧
  (let s : State := { runs with rot := { queue := [waits, waits] } }
 (s.aon = true) ∧ (let a := waits
 (a ∈ s.rot.queue))) :=
  ⟨by decide, by decide, by decide⟩

theorem meets_debugUnlocks :
  (let p : NPort := 0
 (let r : RingId := 0
 (let d : Desc := desc 0x63 [4, 8784]
 (let s : State := asked (desc 0x63 [4, 8784])
 (Takes s p r 0x63 d) ∧ ((arg d 0).toNat % 64 ≠ 0))))) ∧
  (let p : NPort := 0
 (let r : RingId := 0
 (let d : Desc := desc 0x63 [64, 8784]
 (let s : State := { asked (desc 0x63 [64, 8784]) with rot := { failed := 3 } }
 (Takes s p r 0x63 d) ∧ ((arg d 0).toNat % 64 = 0) ∧ (s.rot.failed = 3))))) ∧
  (let p : NPort := 0
 (let r : RingId := 0
 (let d : Desc := desc 0x63 [64, 8783]
 (let s : State := asked (desc 0x63 [64, 8783])
 (Takes s p r 0x63 d) ∧ ((arg d 0).toNat % 64 = 0) ∧ (s.rot.failed ≠ 3) ∧ (bits (arg d 1) 15 0 ≠ 8784))))) ∧
  (let p : NPort := 0
 (let r : RingId := 0
 (let d : Desc := desc 0x63 [64, 8784]
 (let s : State := asked (desc 0x63 [64, 8784])
 (Takes s p r 0x63 d) ∧ (let u := settleRing s p r
 (let ref : DescRef := ⟨p, r, d.k⟩
 ((arg d 0).toNat % 64 = 0) ∧ (s.rot.failed ≠ 3) ∧ (bits (arg d 1) 15 0 = 8784) ∧ (fetchOf u (.desc ref) = none))))))) ∧
  (let p : NPort := 0
 (let r : RingId := 0
 (let d : Desc := desc 0x63 [64, 8784]
 (let s : State := gotList [1] (asked (desc 0x63 [64, 8784]))
 (Takes s p r 0x63 d) ∧ (let u := settleRing s p r
 (let ref : DescRef := ⟨p, r, d.k⟩
 ((arg d 0).toNat % 64 = 0) ∧ (s.rot.failed ≠ 3) ∧ (bits (arg d 1) 15 0 = 8784) ∧ (let b := [1]
 (Fetched u (.desc ref) (.data b []))))))))) ∧
  (let p : NPort := 0
 (let r : RingId := 0
 (let d : Desc := desc 0x63 [64, 8784]
 (let s : State := asked (desc 0x63 [64, 8784])
 (Takes s p r 0x63 d))))) :=
  ⟨by decide, by decide, by decide, by decide, by decide, by decide⟩

theorem meets_jtagAnswers :
  (let s : State := runs
 (s.aon = true)) :=
  by decide

theorem meets_patrolReads :
  (let cls : ScrubClass := .hamper
 (let s : State := { runs with staged := (0x800F00, 0) :: runs.staged }
 (s.aon = true) ∧ (scrubPeriod s cls = 0))) ∧
  (let cls : ScrubClass := .hamper
 (let s : State := { runs with staged := (0x800F00, 1) :: runs.staged, scrub := [(2, { pos := 1, begun := 3000000 })] }
 (s.aon = true) ∧ ((s.time - (scrubAt s cls).begun).toNat * scrubTotal s cls < (scrubAt s cls).pos * scrubPeriod s cls))) ∧
  (let cls : ScrubClass := .hamper
 (let s : State := { runs with staged := (0x800F00, 1) :: runs.staged }
 (s.aon = true) ∧ (let id := .hamper
 (let w := 0
 (scrubPeriod s cls ≠ 0) ∧ (portsServe s = true) ∧ ((scrubAt s cls).pos * scrubPeriod s cls ≤ (s.time - (scrubAt s cls).begun).toNat * scrubTotal s cls) ∧ (scrubPlace s cls (scrubAt s cls).pos = some (id, w)) ∧ (outputBusy s id w = false))))) :=
  ⟨by decide, by decide, by decide⟩

theorem meets_wordsAreRead :
  (let s : State := struck 0 (checkOf 0)
 (let id : MemId := .stack
 (let w : Nat := 5
 ((id = .stack → (stkAt s (eccKey s id w - 5000)).dead = false)) ∧ (let x := rawWord (memAt s id) w
 (syndrome x.1 x.2 = 0))))) ∧
  (let s : State := struck 0 (checkOf 0 ^^^ poisonCheck 0 ^^^ checkOf 0)
 (let id : MemId := .stack
 (let w : Nat := 5
 ((id = .stack → (stkAt s (eccKey s id w - 5000)).dead = false)) ∧ (let x := rawWord (memAt s id) w
 (syndrome x.1 x.2 = 0x5A))))) ∧
  (let s : State := struck 1 (checkOf 0)
 (let id : MemId := .stack
 (let w : Nat := 5
 ((id = .stack → (stkAt s (eccKey s id w - 5000)).dead = false)) ∧ (let x := rawWord (memAt s id) w
 (let k := 0
 (classify (syndrome x.1 x.2) = .corrected k)))))) ∧
  (let s : State := { struck 3 (checkOf 0) with deferred := [5] }
 (let id : MemId := .stack
 (let w : Nat := 5
 ((id = .stack → (stkAt s (eccKey s id w - 5000)).dead = false)) ∧ (let x := rawWord (memAt s id) w
 (classify (syndrome x.1 x.2) = .uncorrectable) ∧ (id = .stack) ∧ (s.deferred.contains w = true))))) ∧
  (let s : State := struck 3 (checkOf 0)
 (let id : MemId := .stack
 (let w : Nat := 5
 ((id = .stack → (stkAt s (eccKey s id w - 5000)).dead = false)) ∧ (let x := rawWord (memAt s id) w
 (classify (syndrome x.1 x.2) = .uncorrectable) ∧ (¬(id = .stack ∧ s.deferred.contains w = true)))))) :=
  ⟨by decide, by decide, by decide, by decide, by decide⟩

theorem meets_codeCorrects :
  (let k := 63
 (k < 64)) :=
  by decide

theorem meets_scrubIsBehind :
  (let cls : ScrubClass := .stack
 (let s : State := { runs with time := 90000000000, staged := (0x800F00, 0x10000) :: runs.staged }
 (s.aon = true) ∧ (scrubPeriod s cls ≠ 0) ∧ (scrubPeriod s cls ≤ (s.time - (scrubAt s cls).begun).toNat) ∧ ((scrubAt s cls).behind = false))) ∧
  (let cls : ScrubClass := .stack
 (let s : State := { runs with time := 89999999999, staged := (0x800F00, 0x10000) :: runs.staged }
 (s.aon = true) ∧ ((scrubPeriod s cls = 0 ∨ (s.time - (scrubAt s cls).begun).toNat < scrubPeriod s cls ∨ (scrubAt s cls).behind = true)))) :=
  ⟨by decide, by decide⟩

theorem meets_rangesAreScrubbed :
  (let p : NPort := 0
 (let r : RingId := 0
 (let d : Desc := desc 0x28 [4, 64]
 (let s : State := stacked (desc 0x28 [4, 64])
 (Takes s p r 0x28 d) ∧ (let u := settleRing s p r
 (let a := (arg d 0).toNat
 (let n := bits (arg d 1) 31 0
 (let st := eAlign
 (stackBad u a n 64 = some st))))))))) ∧
  (let p : NPort := 0
 (let r : RingId := 0
 (let d : Desc := desc 0x28 [0x8000000040, 64]
 (let s : State := { stacked (desc 0x28 [0x8000000040, 64]) with nbus := [(0, filling 2999999)] }
 (Takes s p r 0x28 d) ∧ (let u := settleRing s p r
 (let a := (arg d 0).toNat
 (let n := bits (arg d 1) 31 0
 (stackBad u a n 64 = none) ∧ (busyStack u a true (n / 64) = true)))))))) ∧
  (let p : NPort := 0
 (let r : RingId := 0
 (let d : Desc := desc 0x28 [64, 64]
 (let s : State := stacked (desc 0x28 [64, 64])
 (Takes s p r 0x28 d) ∧ (let u := settleRing s p r
 (let a := (arg d 0).toNat
 (let n := bits (arg d 1) 31 0
 (stackBad u a n 64 = none) ∧ (busyStack u a true (n / 64) = false)))))))) :=
  ⟨by decide, by decide, by decide⟩

theorem meets_repairsAreTaken :
  (let p : NPort := 0
 (let r : RingId := 0
 (let d : Desc := desc 0x29 [3]
 (let s : State := stacked (desc 0x29 [3])
 (Takes s p r 0x29 d) ∧ (let u := settleRing s p r
 (let x := arg d 0
 (let site := bits x 3 0
 ((site ∉ liveSites u ∨ 20480 ≤ bits x 30 16))))))))) ∧
  (let p : NPort := 0
 (let r : RingId := 0
 (let d : Desc := desc 0x29 [0x100000000]
 (let s : State := { stacked (desc 0x29 [0x100000000]) with parts := [(0, { st := .running })] }
 (Takes s p r 0x29 d) ∧ (let u := settleRing s p r
 (let x := arg d 0
 (let site := bits x 3 0
 (site ∈ liveSites u) ∧ (bits x 30 16 < 20480) ∧ (bitAt x 32 = true) ∧ ((∃ n ∈ allParts, isRunning u n = true))))))))) ∧
  (let p : NPort := 0
 (let r : RingId := 0
 (let d : Desc := desc 0x29 [0x100000000]
 (let s : State := stacked (desc 0x29 [0x100000000])
 (Takes s p r 0x29 d) ∧ (let u := settleRing s p r
 (let x := arg d 0
 (let site := bits x 3 0
 (site ∈ liveSites u) ∧ (bits x 30 16 < 20480) ∧ ((bitAt x 32 = false ∨ ∀ n ∈ allParts, isRunning u n = false))))))))) :=
  ⟨by decide, by decide, by decide⟩

theorem meets_repairsAreApplied :
  (let site : SiteId := 0
 (let bg : Fin 256 := 0
 (let s : State := { nbuWith (filling 2999999) (desc 0 []) with repairs := [{ desc := ⟨0, 1, 0⟩, nbu := 0, bank := 3, row := 9, hard := false }] }
 (s.aon = true) ∧ (let u := site.val * 256 + bg.val
 (let r := ({ desc := ⟨0, 1, 0⟩, nbu := 0, bank := 3, row := 9, hard := false } : Repair)
 (s.repairs.find? (fun r => r.nbu == u) = some r) ∧ ((nbuAt s u).ops ≠ [])))))) ∧
  (let site : SiteId := 0
 (let bg : Fin 256 := 0
 (let s : State := { nbuWith {} (desc 0 []) with repairs := [{ desc := ⟨0, 1, 0⟩, nbu := 0, bank := 3, row := 9, hard := false }] }
 (s.aon = true) ∧ (let u := site.val * 256 + bg.val
 (let r := ({ desc := ⟨0, 1, 0⟩, nbu := 0, bank := 3, row := 9, hard := false } : Repair)
 (s.repairs.find? (fun r => r.nbu == u) = some r) ∧ ((nbuAt s u).ops = []) ∧ (portsServe s = true)))))) ∧
  (let site : SiteId := 0
 (let bg : Fin 256 := 0
 (let s : State := nbuWith {} (desc 0 [])
 (s.aon = true) ∧ (let u := site.val * 256 + bg.val
 (s.repairs.find? (fun r => r.nbu == u) = none))))) :=
  ⟨by decide, by decide, by decide⟩

theorem meets_checkersAreTested :
  (let s : State := { runs with frames := 5, mesh := { lastTest := 4 } }
 (s.aon = true) ∧ ((s.frames - s.mesh.lastTest).toNat < 2)) ∧
  (let s : State := { runs with frames := 5, mesh := { lastTest := 3, bitPos := 71 } }
 (s.aon = true) ∧ (2 ≤ (s.frames - s.mesh.lastTest).toNat)) :=
  ⟨by decide, by decide⟩

theorem meets_faultyTreesAct :
  (let s : State := { stacked (desc 0 []) with stk := [(0, { trained := true, secondDecoder := true })] }
 (let n : SiteId := (0 : SiteId)
 ((stkAt s n.val).secondDecoder = true))) ∧
  (let s : State := stacked (desc 0 [])
 (let k : Fin 9 := (3 : Fin 9)
 (k.val ≠ 8) ∧ (s.units.ring8 ≠ some k.val) ∧ (spareRing s = true))) :=
  ⟨by decide, by decide⟩

theorem meets_flipsAreArmed :
  (let a : Access := { port := 0, tag := 5 }
 (let s : State := { injecting {} with sem := {} }
 (Open a s) ∧ (holdsSem s a.port = false))) ∧
  (let a : Access := { port := 0, tag := 5 }
 (let s : State := injecting { armed := true }
 (Open a s) ∧ (holdsSem s a.port = true) ∧ (s.ecct.armed = true))) ∧
  (let a : Access := { port := 0, tag := 5 }
 (let s : State := injecting { maskLo := 1 }
 (Open a s) ∧ (holdsSem s a.port = true) ∧ (s.ecct.armed = false))) ∧
  (let a : Access := { port := 0, tag := 5 }
 (let s : State := injecting { addr := 0x200000, maskLo := 1 }
 (Open a s) ∧ (holdsSem s a.port = true) ∧ (s.ecct.armed = false) ∧ (flipSize s.ecct.target ≤ bits s.ecct.addr 25 0))) ∧
  (let a : Access := { port := 0, tag := 5 }
 (let s : State := injecting {}
 (Open a s) ∧ (holdsSem s a.port = true) ∧ (s.ecct.armed = false) ∧ (bits s.ecct.addr 25 0 < flipSize s.ecct.target) ∧ (s.ecct.maskLo = 0) ∧ (s.ecct.maskHi = 0) ∧ (s.ecct.maskChk = 0))) ∧
  (let a : Access := { port := 0, tag := 5 }
 (let s : State := { injecting { maskLo := 1 } with staged := stackRegs }
 (Open a s) ∧ (holdsSem s a.port = true) ∧ (s.ecct.armed = false) ∧ (bits s.ecct.addr 25 0 < flipSize s.ecct.target) ∧ (¬(s.ecct.maskLo = 0 ∧ s.ecct.maskHi = 0 ∧ s.ecct.maskChk = 0)) ∧ (flipPermitted s = false))) ∧
  (let a : Access := { port := 0, tag := 5 }
 (let s : State := injecting { maskLo := 1 }
 (Open a s) ∧ (holdsSem s a.port = true) ∧ (s.ecct.armed = false) ∧ (bits s.ecct.addr 25 0 < flipSize s.ecct.target) ∧ (¬(s.ecct.maskLo = 0 ∧ s.ecct.maskHi = 0 ∧ s.ecct.maskChk = 0)) ∧ (flipPermitted s = true))) :=
  ⟨by decide, by decide, by decide, by decide, by decide, by decide, by decide⟩

theorem meets_splitsReachTheStack :
  (let a : Access := { port := 0, tag := 5 }
 (let s : State := { injecting {} with sem := {} }
 (Open a s) ∧ (holdsSem s a.port = false))) ∧
  (let a : Access := { port := 0, tag := 5 }
 (let s : State := injecting { splitHi := 0xFF }
 (Open a s) ∧ (let addr := splitAddr s
 (holdsSem s a.port = true) ∧ (stackLegal s addr = false)))) ∧
  (let a : Access := { port := 0, tag := 5 }
 (let s : State := { injecting { splitLo := 0x40 } with staged := stackRegs }
 (Open a s) ∧ (let addr := splitAddr s
 (holdsSem s a.port = true) ∧ (stackLegal s addr = true) ∧ (splitPermitted s addr = false)))) ∧
  (let a : Access := { port := 0, tag := 5 }
 (let s : State := injecting { splitLo := 0x100000 }
 (Open a s) ∧ (let addr := splitAddr s
 (holdsSem s a.port = true) ∧ (stackLegal s addr = true) ∧ (splitPermitted s addr = true) ∧ (splitKept s addr = true)))) ∧
  (let a : Access := { port := 0, tag := 5 }
 (let s : State := { injecting { splitLo := 0x40, splitHi := 0x80 } with nbus := [(0, filling 2999999)] }
 (Open a s) ∧ (let addr := splitAddr s
 (holdsSem s a.port = true) ∧ (stackLegal s addr = true) ∧ (splitPermitted s addr = true) ∧ (splitKept s addr = false) ∧ (busyStack s (addr / 64 * 64) false 1 = true)))) ∧
  (let a : Access := { port := 0, tag := 5 }
 (let s : State := injecting { splitLo := 0x40, dataLo := 3, check := 9 }
 (Open a s) ∧ (let addr := splitAddr s
 (holdsSem s a.port = true) ∧ (stackLegal s addr = true) ∧ (splitPermitted s addr = true) ∧ (splitKept s addr = false) ∧ (busyStack s (addr / 64 * 64) false 1 = false)))) :=
  ⟨by decide, by decide, by decide, by decide, by decide, by decide⟩

theorem meets_stepIdles :
  (let s : State := up
 (s.pending = []) ∧ (s.aon = true)) ∧
  (let s : State := { up with aon := false }
 (s.pending = []) ∧ (s.aon = false)) :=
  ⟨by decide, by decide⟩

theorem meets_nothingWithoutPower :
  (let c : Instr := .powerLossAccept
 (let s : State := { up with aon := false }
 (s.aon = false) ∧ (wakes c = false))) :=
  by decide

theorem meets_fusesReported :
  (let s : State := { up with rot := { counter := 64, svn := 64 } }
 (fusesLegal s)) :=
  by decide

theorem meets_reportsAreWritten :
  (let s : State := runs
 (let r : Report := { kind := 0x206, unit := 4, id := 1 }
 (s.darn.storm = false) ∧ (s.darn.sources.any (fun c => sameSource c r) = false) ∧ (s.darn.frameRecs < rateMax s))) ∧
  (let s : State := runs
 (let r : Report := { kind := 0x206, unit := 4, id := 1 }
 (s.darn.storm = false) ∧ (s.darn.sources.any (fun c => sameSource c r) = false) ∧ (s.darn.frameRecs < rateMax s) ∧ (let k := 1
 (k ≠ s.darn.head.toNat)))) :=
  ⟨by decide, by decide⟩

theorem meets_reportsCoalesce :
  (let s : State := raise runs { kind := 0x206, unit := 4, id := 1 }
 (let r : Report := { kind := 0x206, unit := 4, id := 1 }
 (s.darn.storm = false) ∧ (s.darn.sources.any (fun c => sameSource c r) = true))) :=
  by decide

theorem meets_stormsBegin :
  (let s : State := { runs with darn := { frameRecs := 256 } }
 (let r : Report := { kind := 0x10B, unit := 4, id := 1 }
 (s.darn.storm = false) ∧ (s.darn.sources.any (fun c => sameSource c r) = false) ∧ (rateMax s ≤ s.darn.frameRecs) ∧ (alerting r.kind = false))) ∧
  (let s : State := { runs with darn := { storm := true } }
 (let r : Report := { kind := 0x10B, unit := 4, id := 1 }
 (s.darn.storm = true) ∧ (alerting r.kind = false))) :=
  ⟨by decide, by decide⟩

theorem meets_onlyPressesApply : mayApply .powerLossAccept = false ∧
    exec .powerLossAccept runs = .next (after .powerLossAccept runs) := ⟨rfl, loss_runs _⟩

theorem meets_freezingStays :
    let s : State := { up with fold := { frozen := true } }
    mayThaw .powerLossAccept = false ∧ exec .powerLossAccept s = .next (after .powerLossAccept s) ∧ s.fold.frozen = true :=
  ⟨rfl, loss_runs _, rfl⟩

theorem meets_alertsStay :
    let s : State := { up with darn := { pending := true } }
    maySilence .powerLossAccept = false ∧ exec .powerLossAccept s = .next (after .powerLossAccept s) ∧ s.darn.pending = true :=
  ⟨rfl, loss_runs _, rfl⟩

theorem meets_memoriesStay :
    let s : State := { up with pending := [.powerLossAccept] }
    step s = .next (after .powerLossAccept up) ∧ memoriesCanonical s :=
  ⟨loss_steps up, fun _ => rfl, fun _ => rfl, rfl, rfl⟩

theorem meets_settingsStay :
    let s : State := { folded1 with pending := [.powerLossAccept] }
    step s = .next (after .powerLossAccept folded1) ∧ settingsLegal s ∧ foldLegal s :=
  ⟨loss_steps folded1, (legal_fresh (s := { up with pending := [] }) rfl rfl).1, by decide⟩

theorem meets_packLinesStay :
    let s : State := { packed { st := .testing, test := true } with pending := [.powerLossAccept] }
    step s = .next (after .powerLossAccept (packed { st := .testing, test := true })) ∧ packLinesApart s :=
  ⟨loss_steps _, by decide⟩

/-- A commit asked for while the running image's svn is above the counter. -/
def committing : State :=
  { asked (desc 0x62 []) with
    rot := { counter := 2, svn := 5, slot := 1 }, boot := { phase := 9, image := List.replicate 64 3 } }

theorem meets_counterNeverFalls :
    step { committing with pending := [.svnCommit 0 0] } = .next (after (.svnCommit 0 0) { committing with pending := [] }) ∧
      committing.rot.counter < (after (.svnCommit 0 0) { committing with pending := [] }).rot.counter :=
  ⟨exec_after (c := .svnCommit 0 0) (s := { committing with pending := [] }) ⟨_, rfl⟩, by decide⟩

theorem meets_fusesStayLegal :
    let s : State := { up with pending := [.powerLossAccept] }
    step s = .next (after .powerLossAccept up) ∧ fusesLegal s := ⟨loss_steps up, by decide⟩

/-- The frames of `onlyNamed` have commands on both sides. -/
theorem meets_frames : reachesFar (.droop 0) = false ∧ reachesFar (.runStart 0) = true := ⟨rfl, rfl⟩

theorem meets_coreMemoryFrame :
    exec (.fetFill 0) (issuing 2 (iw 0x23 0 0 0 0 1)) = .next (after (.fetFill 0) (issuing 2 (iw 0x23 0 0 0 0 1))) :=
  exec_after ⟨_, rfl⟩

end Sys2Proof.Tests
end

section
/-! Frames and crossings (R8, R9, R18–R23): the window of a sweep, a group's delay code, and what a frame boundary latches. -/

namespace Sys2Proof.Machine

/-! The window of a sweep (R20) -/

/-- The codes `first` to `first + len - 1` of a sweep had no error. -/
def CleanRun (sweep : List Nat) (first len : Nat) : Prop := ∀ i, first ≤ i → i < first + len → sweep[i]? = some 0

/-- w is a clean run below code k, a widest of them and the lowest of those (log 97). -/
def WidestBelow (sweep : List Nat) (k : Nat) (w : Nat × Nat) : Prop :=
  w.1 + w.2 ≤ k ∧ CleanRun sweep w.1 w.2 ∧
    ∀ first len, first + len ≤ k → CleanRun sweep first len → len ≤ w.2 ∧ (len = w.2 → 0 < len → w.1 ≤ first)

variable {sweep : List Nat} {k j first len : Nat} {best : Nat × Nat}

theorem cleanRun_empty : CleanRun sweep first 0 := fun i _ _ => by omega

theorem CleanRun.extend (h : CleanRun sweep j len) (hk : sweep[j + len]? = some 0) : CleanRun sweep j (len + 1) := by
  intro i hi hl
  by_cases hik : i = j + len
  · rw [hik, hk]
  · exact h i hi (by omega)

theorem widestBelow_zero : WidestBelow sweep 0 (0, 0) := ⟨Nat.le_refl _, cleanRun_empty, fun _ _ h _ => by omega⟩

/-- A run that ends at a code with errors adds nothing. -/
theorem WidestBelow.succ (h : WidestBelow sweep k best) (hk : sweep[k]? ≠ some 0) : WidestBelow sweep (k + 1) best := by
  obtain ⟨hle, hclean, hmax⟩ := h
  refine ⟨by omega, hclean, fun f n hn hc => ?_⟩
  by_cases hlast : f + n ≤ k
  · exact hmax f n hlast hc
  · by_cases h0 : n = 0
    · omega
    · exact absurd (hc k (by omega) (by omega)) hk

/-- The run that starts at j, where no run from below goes on, against the widest run below it. -/
theorem WidestBelow.close (h : WidestBelow sweep j best) (hj : ∀ i, i + 1 = j → sweep[i]? ≠ some 0)
    (hrun : CleanRun sweep j len) (hfirst : 0 < len → first = j) :
    WidestBelow sweep (j + len) (if best.2 < len then (first, len) else best) := by
  obtain ⟨hle, hclean, hmax⟩ := h
  have below_or_within : ∀ f n, 0 < n → CleanRun sweep f n → f + n ≤ j ∨ j ≤ f := fun f n hn hc =>
    Decidable.byContradiction fun hcross => hj (j - 1) (by omega) (hc _ (by omega) (by omega))
  split
  · next hwider =>
    obtain rfl := hfirst (by omega)
    refine ⟨Nat.le_refl _, hrun, fun f n hn hc => ?_⟩
    rcases Nat.eq_zero_or_pos n with h0 | hpos
    · omega
    · rcases below_or_within f n hpos hc with hb | hw
      · have := (hmax f n hb hc).1
        omega
      · exact ⟨by dsimp only; omega, fun _ _ => hw⟩
  · next hnot =>
    refine ⟨by omega, hclean, fun f n hn hc => ?_⟩
    rcases Nat.eq_zero_or_pos n with h0 | hpos
    · omega
    · rcases below_or_within f n hpos hc with hb | hw
      · exact hmax f n hb hc
      · exact ⟨by omega, fun _ _ => by omega⟩

/-- `widestRun` at code j + len, with the clean run from j open, finds the widest run of the whole sweep. -/
theorem widestRun_widestBelow (rest : List Nat) (hrest : sweep.drop (j + len) = rest) (h : WidestBelow sweep j best)
    (hj : ∀ i, i + 1 = j → sweep[i]? ≠ some 0) (hrun : CleanRun sweep j len) (hfirst : 0 < len → first = j)
    (hle : j + len ≤ sweep.length) : WidestBelow sweep sweep.length (widestRun (j + len) first len best rest) := by
  induction rest generalizing j first len best with
  | nil =>
    have hlen : sweep.length = j + len := by have := List.drop_eq_nil_iff.1 hrest; omega
    rw [hlen]
    exact h.close hj hrun hfirst
  | cons e rest ih =>
    have hlt : j + len < sweep.length := Nat.lt_of_not_le fun hge =>
      List.cons_ne_nil e rest (hrest.symm.trans (List.drop_eq_nil_of_le hge))
    rw [List.drop_eq_getElem_cons hlt, List.cons.injEq] at hrest
    obtain ⟨he, hdrop⟩ := hrest
    have hget : sweep[j + len]? = some e := by rw [List.getElem?_eq_getElem hlt, he]
    unfold widestRun
    split
    · next h0 =>
      exact ih (j := j) (len := len + 1) hdrop h hj (hrun.extend (by rw [hget, h0])) (fun _ => by split <;> omega) hlt
    · next h0 =>
      have hbad : sweep[j + len]? ≠ some 0 := by rw [hget]; simpa using h0
      refine ih (j := j + len + 1) (len := 0) hdrop ((h.close hj hrun hfirst).succ hbad) (fun i hi => ?_) cleanRun_empty
        (fun h0 => absurd h0 (Nat.lt_irrefl _)) hlt
      rw [show i = j + len by omega]
      exact hbad

/-- The window of a sweep is a widest clean run, the lowest of those. -/
theorem windowOf_widestBelow (errors : List Nat) :
    WidestBelow (errors.take 64) (errors.take 64).length (windowOf errors) :=
  widestRun_widestBelow (j := 0) (len := 0) _ rfl widestBelow_zero (fun i hi => by omega) cleanRun_empty
    (fun h0 => absurd h0 (Nat.lt_irrefl _)) (Nat.zero_le _)

/-- Within the 64 codes of a sweep, a run is clean in the list of errors where it is in its first 64 entries. -/
theorem cleanRun_take_iff (errors : List Nat) (h : first + len ≤ 64) :
    CleanRun (errors.take 64) first len ↔ CleanRun errors first len := by
  unfold CleanRun
  refine forall_congr' fun i => forall_congr' fun _ => forall_congr' fun hi => ?_
  rw [List.getElem?_take_of_lt (by omega)]

/-- A clean run lies within the sweep. -/
theorem CleanRun.le_length (h : CleanRun sweep first len) (hpos : 0 < len) : first + len ≤ sweep.length := by
  have := (List.getElem?_eq_some_iff.1 (h (first + len - 1) (by omega) (by omega))).1
  omega

theorem windowIsWidest : Claims.windowIsWidest := fun errors => by
  obtain ⟨hle, hclean, hmax⟩ := windowOf_widestBelow errors
  have h64 : (errors.take 64).length ≤ 64 := List.length_take_le _ _
  refine ⟨fun i hi hl => ⟨by omega, (cleanRun_take_iff errors (by omega)).1 hclean i hi hl⟩, fun f n hn hc => ?_⟩
  rcases Nat.eq_zero_or_pos n with h0 | hpos
  · omega
  · have hrun := (cleanRun_take_iff errors hn).2 hc
    exact hmax f n (hrun.le_length hpos) hrun

end Sys2Proof.Machine
end

section
/-! Delay codes of crossings (R22, R23): what a new centre and the step at a boundary leave of the codes. -/

namespace Sys2Proof.Machine

/-- A lookup in a list whose values are all changed by one function. -/
theorem lookup_map_snd {α β γ : Type} [BEq α] (f : β → γ) (k : α) (l : List (α × β)) :
    (l.map fun y => (y.1, f y.2)).lookup k = (l.lookup k).map f := by
  induction l with
  | nil => rfl
  | cons y l ih =>
    rw [List.map_cons, List.lookup_cons, List.lookup_cons, ih]
    split <;> rfl

/-- Striking out a key hides no other key. -/
theorem lookup_filter_ne {α β : Type} [DecidableEq α] {k g : α} (h : k ≠ g) (l : List (α × β)) :
    (l.filter fun y => y.1 != g).lookup k = l.lookup k := by
  induction l with
  | nil => rfl
  | cons y l ih =>
    by_cases hy : y.1 = g
    · rw [List.filter_cons_of_neg (by simp [hy]), ih, List.lookup_cons, beq_false_of_ne (hy ▸ h)]
    · rw [List.filter_cons_of_pos (by simp [hy]), List.lookup_cons, List.lookup_cons, ih]

theorem lookup_filter_self {α β : Type} [DecidableEq α] (g : α) (l : List (α × β)) :
    (l.filter fun y => y.1 != g).lookup g = none :=
  List.lookup_eq_none_iff.2 fun y hy => by
    have hne : y.1 ≠ g := by simpa using (List.mem_filter.1 hy).2
    simp [hne.symm]

@[simp] theorem crossAt_setCross_same (s : State) (g : Crossing) (x : Cross) : crossAt (setCross s g x) g = x := by
  simp [crossAt, setCross, List.lookup_append, lookup_filter_self]

@[simp] theorem crossAt_setCross_ne (s : State) {g h : Crossing} (x : Cross) (hne : h ≠ g) :
    crossAt (setCross s g x) h = crossAt s h := by
  have hgone : [(g, x)].lookup h = none := by rw [List.lookup_cons, beq_false_of_ne hne]; rfl
  rw [crossAt, setCross, List.lookup_append, lookup_filter_ne hne, hgone, Option.or_none]
  rfl

theorem exec_retuneMeasurement (g : Crossing) (errors : List Nat) (s : State) :
    exec (.retuneMeasurement g errors) s = execRetuneMeasurement g errors s := rfl

/-- Neither aged, nor at a review: the sweep is not made (R22). -/
theorem exec_retuneMeasurement_idle (g : Crossing) (errors : List Nat) {s : State} (haged : aged s g = false)
    (hseen : (crossAt s g).seen = s.therm.reviewNo) (hrev : s.therm.reviewing = none) :
    exec (.retuneMeasurement g errors) s = .next s := by
  simp [exec_retuneMeasurement, execRetuneMeasurement, whenAon, haged, hseen, hrev]

/-- The group after a measurement: calibrated, its centre moved to the middle of the window, its code as before. -/
def retuned (s : State) (g : Crossing) (errors : List Nat) : State :=
  setCross s g { crossAt s g with
    cal := match crossCluster g with | some c => some (tget 0 s.therm.mon c) | none => none
    seen := s.therm.reviewNo
    centre := if (windowOf errors).2 = 0 then (crossAt s g).centre else centreOf (windowOf errors).1 (windowOf errors).2 }

/-- With a cause, the group is retuned, and a window of fewer than 4 codes is reported (R22, R23). -/
theorem exec_retuneMeasurement_measured (g : Crossing) (errors : List Nat) {s : State} (haon : s.aon = true)
    (hcause : aged s g = true ∨ (crossAt s g).seen ≠ s.therm.reviewNo ∨ s.therm.reviewing ≠ none) :
    exec (.retuneMeasurement g errors) s = .next
      (if (windowOf errors).2 < 4 then raise (retuned s g errors)
        { kind := kMarginLow, unit := (crossUnit g).1, id := (crossUnit g).2.1, detail := (crossUnit g).2.2 }
      else retuned s g errors) := by
  have hgo : ¬ (aged s g = false ∧ (crossAt s g).seen = s.therm.reviewNo ∧ s.therm.reviewing.isNone = true) := by
    rintro ⟨ha, hs, hr⟩
    rcases hcause with h | h | h
    · exact Bool.false_ne_true (ha.symm.trans h)
    · exact h hs
    · exact h (Option.isNone_iff_eq_none.1 hr)
  rw [exec_retuneMeasurement, execRetuneMeasurement, whenAon, if_pos haon, if_neg hgo]
  rfl

theorem retune : Claims.retune := fun g errors s haon =>
  ⟨fun haged hseen hrev => exec_retuneMeasurement_idle g errors haged hseen hrev, fun hcause => by
    have hexec := exec_retuneMeasurement_measured g errors haon hcause
    refine ⟨retuned s g errors, by rw [retuned, crossAt_setCross_same]; rfl, by rw [retuned, crossAt_setCross_same],
      fun h hne => crossAt_setCross_ne s _ hne, rfl, fun hwide => ?_, fun hnarrow => ?_⟩
    · rwa [if_neg (Nat.not_lt.2 hwide)] at hexec
    · rwa [if_pos hnarrow] at hexec⟩

/-- One step of a code toward its centre. -/
def stepCode (x : Cross) : BitVec 6 :=
  if x.code.toNat < x.centre.toNat then x.code + 1 else if x.centre.toNat < x.code.toNat then x.code - 1 else x.code

/-- A group with its code one step nearer to its centre. -/
def Cross.stepped (x : Cross) : Cross := { x with code := stepCode x }

end Sys2Proof.Machine
end

section
/-! Frame boundaries (R8, R9): of all that a boundary does, only the latch of the slip records and the step of the delay codes
touch what R185 and R22 speak of. -/

namespace Sys2Proof.Machine

/-- What a frame boundary answers for here: time, frames, delay codes, the applied settings, and the partitions' slip records. -/
@[ext] structure FrameView where
  time : W64
  frames : W64
  crossings : List (Crossing × Cross)
  reg : Nat → W32
  slips : Nat → Slips

/-- The view of a state. -/
def State.frameView (s : State) : FrameView := ⟨s.time, s.frames, s.crossings, reg s, fun n => (partAt s n).slips⟩

/-! Operations that leave the view as it was -/

theorem frameView_congr {s t : State} (htime : t.time = s.time) (hframes : t.frames = s.frames)
    (hcross : t.crossings = s.crossings) (hvariant : t.variant = s.variant) (hstaged : t.staged = s.staged)
    (hparts : t.parts = s.parts) : t.frameView = s.frameView :=
  FrameView.ext htime hframes hcross (funext (reg_congr hvariant hstaged))
    (funext fun n => by show (tget {} t.parts n).slips = _; rw [hparts]; rfl)

theorem NalOnly.frameView {s t : State} (h : NalOnly s t) : t.frameView = s.frameView := by
  unfold NalOnly at h; rw [h]; exact frameView_congr rfl rfl rfl rfl rfl rfl

theorem Reported.frameView {s t : State} (h : Reported s t) : t.frameView = s.frameView := by
  unfold Reported at h; rw [h]; exact frameView_congr rfl rfl rfl rfl rfl rfl

@[simp] theorem frameView_ite (c : Prop) [Decidable c] (a b : State) :
    (if c then a else b).frameView = if c then a.frameView else b.frameView := apply_ite _ _ _ _

@[simp] theorem foldl_frameView {β : Type} (f : State → β → State) (l : List β) (s : State)
    (h : ∀ s x, (f s x).frameView = s.frameView) : (l.foldl f s).frameView = s.frameView := by
  induction l generalizing s with
  | nil => rfl
  | cons x l ih => rw [List.foldl_cons, ih, h]

/-- A change of a partition reaches its slip record alone. -/
theorem modPart_frameView_eq (s : State) (n : Nat) (f : Part → Part) :
    (modPart s n f).frameView =
      { s.frameView with slips := fun k => if k = n then (f (partAt s n)).slips else s.frameView.slips k } := by
  refine FrameView.ext rfl rfl rfl rfl (funext fun k => ?_)
  show (partAt (modPart s n f) k).slips = if k = n then (f (partAt s n)).slips else (partAt s k).slips
  by_cases h : k = n
  · rw [if_pos h, h, partAt_modPart_same]
  · rw [if_neg h, partAt_modPart_ne s n f h]

@[simp] theorem modPart_frameView (s : State) (n : Nat) (f : Part → Part) (h : ∀ p, (f p).slips = p.slips) :
    (modPart s n f).frameView = s.frameView := by
  rw [modPart_frameView_eq, h]
  refine FrameView.ext rfl rfl rfl rfl (funext fun k => ?_)
  by_cases hk : k = n
  · exact (if_pos hk).trans (by rw [hk]; rfl)
  · exact if_neg hk

@[simp] theorem frameView_darn (s : State) (d : Darn) : State.frameView { s with darn := d } = s.frameView :=
  frameView_congr rfl rfl rfl rfl rfl rfl
@[simp] theorem frameView_power (s : State) (p : Power) : State.frameView { s with power := p } = s.frameView :=
  frameView_congr rfl rfl rfl rfl rfl rfl
@[simp] theorem frameView_units (s : State) (u : Units) : State.frameView { s with units := u } = s.frameView :=
  frameView_congr rfl rfl rfl rfl rfl rfl
@[simp] theorem frameView_mesh (s : State) (m : Mesh) : State.frameView { s with mesh := m } = s.frameView :=
  frameView_congr rfl rfl rfl rfl rfl rfl
@[simp] theorem frameView_boot (s : State) (b : Boot) : State.frameView { s with boot := b } = s.frameView :=
  frameView_congr rfl rfl rfl rfl rfl rfl
@[simp] theorem frameView_sparings (s : State) (l : List Sparing) : State.frameView { s with sparings := l } = s.frameView :=
  frameView_congr rfl rfl rfl rfl rfl rfl
@[simp] theorem frameView_units_sparings (s : State) (u : Units) (l : List Sparing) :
    State.frameView { s with units := u, sparings := l } = s.frameView :=
  frameView_congr rfl rfl rfl rfl rfl rfl

@[simp] theorem modNal_frameView (s : State) (p : NPort) (f : Nal → Nal) : (modNal s p f).frameView = s.frameView :=
  frameView_congr rfl rfl rfl rfl rfl rfl
@[simp] theorem modMya_frameView (s : State) (n : Nat) (f : Mya → Mya) : (modMya s n f).frameView = s.frameView :=
  frameView_congr rfl rfl rfl rfl rfl rfl
@[simp] theorem modRing_frameView (s : State) (p : NPort) (r : RingId) (f : Ring → Ring) :
    (modRing s p r f).frameView = s.frameView := frameView_congr rfl rfl rfl rfl rfl rfl
@[simp] theorem modCore_frameView (s : State) (n : Nat) (f : Core → Core) : (modCore s n f).frameView = s.frameView :=
  frameView_congr rfl rfl rfl rfl rfl rfl
@[simp] theorem modStk_frameView (s : State) (n : Nat) (f : Stk → Stk) : (modStk s n f).frameView = s.frameView :=
  frameView_congr rfl rfl rfl rfl rfl rfl
@[simp] theorem modEcc_frameView (s : State) (k : Nat) (f : EccInst → EccInst) : (modEcc s k f).frameView = s.frameView :=
  frameView_congr rfl rfl rfl rfl rfl rfl
@[simp] theorem modTherm_frameView (s : State) (f : Therm → Therm) : (modTherm s f).frameView = s.frameView :=
  frameView_congr rfl rfl rfl rfl rfl rfl
@[simp] theorem dropFetch_frameView (s : State) (r : Reader) : (dropFetch s r).frameView = s.frameView :=
  frameView_congr rfl rfl rfl rfl rfl rfl
@[simp] theorem dropXfer_frameView (s : State) (x : Nat) : (dropXfer s x).frameView = s.frameView :=
  frameView_congr rfl rfl rfl rfl rfl rfl

@[simp] theorem modCores_frameView (s : State) (n : Nat) (f : Core → Core) : (modCores s n f).frameView = s.frameView := by
  simp [modCores]

@[simp] theorem modLk_frameView (s : State) (l : Link) (f : Lk → Lk) : (modLk s l f).frameView = s.frameView := by
  cases l <;> rfl

@[simp] theorem portCount_frameView (s : State) (l : Link) (off n : Nat) : (portCount s l off n).frameView = s.frameView := by
  cases l <;> rfl

@[simp] theorem control_frameView (s : State) (l : Link) (b : List Byte) : (control s l b).frameView = s.frameView :=
  modLk_frameView _ _ _

/-! Reports, and the latches that raise them -/

@[simp] theorem writeRec_frameView (s : State) (rep : Report) (flags count : Nat) (time : W64) (detail : Nat) :
    (writeRec s rep flags count time detail).frameView = s.frameView := (writeRec_reported _ _ _ _ _ _).frameView

@[simp] theorem raise_frameView (s : State) (rep : Report) : (raise s rep).frameView = s.frameView :=
  (raise_reported s rep).frameView

theorem raiseIf_frameView (s : State) (c : Prop) [Decidable c] (rep : Report) :
    (if c then raise s rep else s).frameView = s.frameView := by
  rw [frameView_ite, raise_frameView, ite_self]

@[simp] theorem raisePort_frameView (s : State) (l : Link) (nalson myarn detail : Nat) :
    (raisePort s l nalson myarn detail).frameView = s.frameView := by
  cases l <;> exact raise_frameView _ _

@[simp] theorem darnFrame_frameView (s : State) : (darnFrame s).frameView = s.frameView := by
  simp [darnFrame]

@[simp] theorem droopFrame_frameView (s : State) : (droopFrame s).frameView = s.frameView :=
  foldl_frameView _ _ _ fun s n => by
    extract_lets mine
    clear_value mine
    cases mine with
    | nil => rfl
    | cons x l => exact raise_frameView _ _

/-! Completions and the end of a transfer -/

@[simp] theorem finish_frameView (s : State) (ref : DescRef) (status : Byte) (detail result : W64) (ports : List NPort) :
    (finish s ref status detail result ports).frameView = s.frameView := by
  unfold finish
  extract_lets ring up closed
  have hclosed : closed.frameView = s.frameView := (modRing_frameView _ _ _ _).trans (dropFetch_frameView _ _)
  split
  · rfl
  · split
    · extract_lets completion
      split
      · exact (afterFlush_nalOnly _ _ _).frameView.trans hclosed
      · exact (pushTxns_nalOnly _ _ _).frameView.trans hclosed
    · exact hclosed

@[simp] theorem advanceRing_frameView (s : State) (p : NPort) (r : RingId) (fuel : Nat) :
    (advanceRing s p r fuel).frameView = s.frameView := by
  induction fuel generalizing s with
  | zero => rfl
  | succ fuel ih =>
    unfold advanceRing
    split
    · rfl
    · split
      · rw [ih, finish_frameView]
      · split
        · rfl
        · split
          · rw [ih, finish_frameView]
          · rfl
      · rfl

@[simp] theorem complete_frameView (s : State) (ref : DescRef) (status : Byte) (detail result : W64) (ports : List NPort) :
    (complete s ref status detail result ports).frameView = s.frameView :=
  (advanceRing_frameView _ _ _ _).trans (finish_frameView _ _ _ _ _ _)

/-- A stop request is noted in the run; the slip record of the partition goes on. -/
@[simp] theorem stopRun_frameView (s : State) (n : Nat) (e : Ending) : (stopRun s n e).frameView = s.frameView := by
  unfold stopRun
  split
  · split
    · rfl
    · simp
  · rfl

@[simp] theorem endXfer_frameView (s : State) (id : Nat) (e : Ending) : (endXfer s id e).frameView = s.frameView := by
  unfold endXfer
  split
  · rfl
  · split
    · exact stopRun_frameView _ _ _
    · split
      · exact (complete_frameView _ _ _ _ _ _).trans (dropXfer_frameView _ _)
      · exact dropXfer_frameView _ _

/-! Lanes that fail (R287, R342) -/

@[simp] theorem beginRetrain_frameView (s : State) (l : Link) (cause : Byte) :
    (beginRetrain s l cause).frameView = s.frameView := by
  simp [beginRetrain]

@[simp] theorem beginFull_frameView (s : State) (l : Link) : (beginFull s l).frameView = s.frameView := by
  simp [beginFull]

@[simp] theorem failNalLane_frameView (s : State) (p : NPort) (lane : Nat) : (failNalLane s p lane).frameView = s.frameView := by
  simp [failNalLane]

@[simp] theorem stopSenders_frameView (s : State) (p : MPort) : (stopSenders s p).frameView = s.frameView :=
  foldl_frameView _ _ _ fun s n => by
    split
    · split
      · exact stopRun_frameView _ _ _
      · rfl
    · rfl

@[simp] theorem endWrites_frameView (s : State) (p : MPort) : (endWrites s p).frameView = s.frameView :=
  foldl_frameView _ _ _ fun t x => by
    split
    · split
      · split
        · exact endXfer_frameView _ _ _
        · rfl
      · rfl
    · rfl

@[simp] theorem returnUnits_frameView (s : State) (i : Option MPort) (c : Nat) (p : Packet) :
    (returnUnits s i c p).frameView = s.frameView := by
  cases i
  · rfl
  · exact modLk_frameView _ _ _

@[simp] theorem myaDown_frameView (s : State) (p : MPort) : (myaDown s p).frameView = s.frameView := by
  unfold myaDown
  extract_lets n closed told drop _ _ dropped
  have hdrop : ∀ c (l : List OutPkt) (s : State), (l.foldl (drop c) s).frameView = s.frameView := fun c l s =>
    foldl_frameView _ _ _ fun s o => by
      dsimp only [drop]
      split
      · simp
      · rfl
  calc (endWrites (stopSenders dropped p) p).frameView
      _ = told.frameView := by rw [endWrites_frameView, stopSenders_frameView, hdrop, hdrop, hdrop]
      _ = s.frameView := by simp [told, closed]

@[simp] theorem failMyaLane_frameView (s : State) (p : MPort) (lane : Nat) : (failMyaLane s p lane).frameView = s.frameView := by
  simp [failMyaLane, linkDown]

@[simp] theorem laneFrame_frameView (s : State) (l : Link) (lane count : Nat) :
    (laneFrame s l lane count).frameView = s.frameView := by
  cases l <;> simp [laneFrame]

@[simp] theorem lanesFrame_frameView (symbols : List (Link × Nat × Nat)) (s : State) (l : Link) :
    (lanesFrame symbols s l).frameView = s.frameView := by
  simp [lanesFrame]

/-! Wires steered, and cores spared for them (R171, R172, R194) -/

@[simp] theorem addDefect_frameView (s : State) (rec unit id : Nat) (src : BitVec 2) :
    (addDefect s rec unit id src).frameView = s.frameView := by
  simp [addDefect]

@[simp] theorem fenceCluster_frameView (s : State) (c : Nat) : (fenceCluster s c).frameView = s.frameView := by
  unfold fenceCluster
  split
  · rfl
  · extract_lets u fenced
    have hfenced : fenced.frameView = s.frameView := frameView_units_sparings _ _ _
    split
    · split
      · rw [raise_frameView, foldl_frameView _ _ _ fun s k => modCore_frameView s k resetCore, hfenced]
      · exact hfenced
    · exact hfenced

@[simp] theorem spareCore_frameView (s : State) (rec p : Nat) : (spareCore s rec p).frameView = s.frameView := by
  unfold spareCore
  extract_lets c row pos d listed row'
  have hlisted : listed.frameView = s.frameView := addDefect_frameView _ _ _ _ _
  split
  · simp
  · split
    · exact (frameView_units _ _).trans hlisted
    · split
      · exact (fenceCluster_frameView _ _).trans hlisted
      · split
        · exact (raise_frameView _ _).trans ((frameView_units _ _).trans hlisted)
        · exact (frameView_sparings _ _).trans hlisted

@[simp] theorem steerWire_frameView (s : State) (w : WireCount) : (steerWire s w).frameView = s.frameView := by
  simp [steerWire]

/-! The other latches of a boundary -/

@[simp] theorem stackFrame_frameView (s : State) (n : Nat) (t : Option Byte) : (stackFrame s n t).frameView = s.frameView := by
  cases t
  · exact (raise_frameView _ _).trans (modStk_frameView _ _ _)
  · exact modStk_frameView _ _ _

@[simp] theorem monitorFrame_frameView (s : State) (m : Nat) (v : W32) : (monitorFrame s m v).frameView = s.frameView :=
  frameView_congr rfl rfl rfl rfl rfl rfl

@[simp] theorem kvFrame_frameView (s : State) : (kvFrame s).frameView = s.frameView := frameView_congr rfl rfl rfl rfl rfl rfl

@[simp] theorem domainFrame_frameView (s : State) (l : List DomainSample) : (domainFrame s l).frameView = s.frameView := by
  simp [domainFrame]

@[simp] theorem bubbleFrame_frameView (s : State) : (bubbleFrame s).frameView = s.frameView :=
  (frameView_power _ _).trans (foldl_frameView _ _ _ fun _ _ => modPart_frameView _ _ _ fun _ => rfl)

/-- A read of a table whose entries are all changed, through what the change leaves of them. -/
theorem tget_map_of_keeps {α β : Type} (π : α → β) (f : Nat × α → Nat × α) (hkey : ∀ x, (f x).1 = x.1)
    (hval : ∀ x, π (f x).2 = π x.2) (d : α) (t : Tab α) (k : Nat) : π (tget d (t.map f) k) = π (tget d t k) := by
  induction t with
  | nil => rfl
  | cons x t ih =>
    simp only [List.map_cons, tget, hkey]
    split
    · exact hval x
    · exact ih

@[simp] theorem statFrame_frameView (s : State) : (statFrame s).frameView = s.frameView := by
  refine FrameView.ext rfl rfl rfl rfl (funext fun n => ?_)
  change Part.slips (tget {} (s.parts.map _) n) = Part.slips (tget {} s.parts n)
  apply tget_map_of_keeps Part.slips <;> exact fun _ => rfl

@[simp] theorem setBudgets_frameView (s : State) (room : Int) (total : Nat) (l : List Nat) :
    (setBudgets s room total l).frameView = s.frameView := by
  induction l generalizing s with
  | nil => rfl
  | cons n l ih =>
    unfold setBudgets
    exact (ih _).trans ((raiseIf_frameView _ _ _).trans (frameView_power _ _))

@[simp] theorem budgetFrame_frameView (s : State) (p : Nat) (hot : Bool) : (budgetFrame s p hot).frameView = s.frameView := by
  unfold budgetFrame
  extract_lets h _ measured _ averaged r bk room total _ shared
  have hshared : shared.frameView = s.frameView :=
    (frameView_power _ _).trans ((frameView_power _ _).trans (frameView_power _ _))
  split
  · split
    · exact (frameView_power _ _).trans hshared
    · exact hshared
  · exact (setBudgets_frameView _ _ _ _).trans hshared

/-! What a boundary changes -/

/-- A partition's slip record as it latches (R185, R186). -/
def FrameView.latched (v : FrameView) (n : Nat) : Slips :=
  let x := v.slips n
  let w := fun (k : Nat) => BitVec.ofNat 32 (min k 0xFFFFFFFF)
  { x with
    slip := 0, hold := 0, causes := [0, 0, 0, 0, 0], maxRun := 0, fSlip := w x.slip, fHold := w x.hold, fCauses := x.causes.map w,
    fMaxRun := w x.maxRun, cOver := if bits (v.reg (0xA04010 + 0x40 * n)) 19 0 < x.slip then x.cOver + 1 else x.cOver,
    frame := v.frames - 1 }

/-- One partition's record latches. -/
def FrameView.latch (v : FrameView) (n : Nat) : FrameView :=
  { v with slips := fun k => if k = n then v.latched n else v.slips k }

/-- Every partition's record latches. -/
def FrameView.latchAll (v : FrameView) : FrameView :=
  { v with slips := fun n => if n ∈ allParts then v.latched n else v.slips n }

/-- Every crossing's code moves a step toward its centre. -/
def FrameView.step (v : FrameView) : FrameView := { v with crossings := v.crossings.map fun y => (y.1, y.2.stepped) }

/-- The records of distinct partitions latch independently. -/
theorem foldl_latch (l : List Nat) (hl : l.Nodup) (v : FrameView) :
    l.foldl FrameView.latch v = { v with slips := fun n => if n ∈ l then v.latched n else v.slips n } := by
  induction l generalizing v with
  | nil => simp
  | cons m l ih =>
    obtain ⟨hm, hl⟩ := List.nodup_cons.1 hl
    rw [List.foldl_cons, ih hl]
    refine FrameView.ext rfl rfl rfl rfl (funext fun n => ?_)
    by_cases hnm : n = m
    · subst hnm; simp [hm, FrameView.latch]
    · simp [hnm, FrameView.latch, FrameView.latched]

@[simp] theorem slipFrame_frameView (s : State) : (slipFrame s).frameView = s.frameView.latchAll := by
  refine Eq.trans (List.foldl_hom State.frameView fun s n => ?_).symm (foldl_latch allParts (by decide) s.frameView)
  rw [frameView_ite, raise_frameView, ite_self, modPart_frameView_eq]
  simp only [decide_eq_true_eq]
  rfl

@[simp] theorem stepCodes_frameView (s : State) : (stepCodes s).frameView = s.frameView.step := rfl

theorem crossAt_of_step {s t : State} (h : t.crossings = s.frameView.step.crossings) (g : Crossing) :
    crossAt t g = (crossAt s g).stepped := by
  unfold crossAt
  rw [h, FrameView.step, lookup_map_snd]
  change ((s.crossings.lookup g).map Cross.stepped).getD {} = _
  cases s.crossings.lookup g <;> rfl

/-- The state in which the next frame begins. -/
def frameStart (s : State) : State :=
  { s with time := if s.time.toNat < (25000 * (s.frames + 1)).toNat then 25000 * (s.frames + 1) else s.time
           frames := s.frames + 1 }

theorem exec_frameBoundary (f : FrameInputs) (s : State) : exec (.frameBoundary f) s = execFrameBoundary f s := rfl

/-- In the view, a boundary is the start of the frame, the latch of the slip records, and the step of the codes. -/
theorem exec_frameBoundary_view (f : FrameInputs) {s : State} (haon : s.aon = true) :
    ∃ t, exec (.frameBoundary f) s = .next t ∧ t.frameView = (frameStart s).frameView.latchAll.step := by
  rw [exec_frameBoundary, execFrameBoundary, whenAon, if_pos haon]
  extract_lets k started latched domains wires links readouts monitors released
  have hlatched : latched.frameView = started.frameView.latchAll := by simp [latched]
  have hwires : wires.frameView = latched.frameView :=
    (foldl_frameView _ _ _ steerWire_frameView).trans (domainFrame_frameView _ _)
  have hlinks : links.frameView = wires.frameView := foldl_frameView _ _ _ (lanesFrame_frameView _)
  have hreadouts : readouts.frameView = links.frameView := foldl_frameView _ _ _ fun _ _ => stackFrame_frameView _ _ _
  have hmonitors : monitors.frameView = readouts.frameView := foldl_frameView _ _ _ fun _ _ => by
    rw [frameView_ite, monitorFrame_frameView, ite_self]
  refine ⟨_, rfl, ?_⟩
  calc (budgetFrame released _ _).frameView
      _ = monitors.frameView.step := by rw [budgetFrame_frameView, modTherm_frameView, stepCodes_frameView]
      _ = started.frameView.latchAll.step := by rw [hmonitors, hreadouts, hlinks, hwires, hlatched]

theorem frameBoundary : Claims.frameBoundary := fun f s haon => by
  obtain ⟨t, hexec, hview⟩ := exec_frameBoundary_view f haon
  have hframes : t.frames = s.frames + 1 := congrArg FrameView.frames hview
  have htime : t.time = _ := congrArg FrameView.time hview
  have hcross : ∀ g, crossAt t g = (crossAt s g).stepped := crossAt_of_step (congrArg FrameView.crossings hview)
  have hslips : ∀ n, n < 8 → (partAt t n).slips = (frameStart s).frameView.latched n := fun n hn =>
    (congrFun (congrArg FrameView.slips hview) n).trans (if_pos (by simp [allParts]; omega))
  have hreg : (frameStart s).frameView.reg = reg s := funext (reg_congr rfl rfl)
  refine ⟨t, hexec, hframes, htime, fun n hn => ?_, fun g => ?_⟩
  · dsimp only
    rw [hslips n hn, FrameView.latched, hreg]
    exact ⟨rfl, rfl, rfl, rfl, rfl, rfl, rfl, rfl, rfl⟩
  · rw [hcross g]
    exact ⟨rfl, rfl⟩

end Sys2Proof.Machine

namespace Sys2Proof

/-- Settles O30: `widestRun` keeps the widest clean run below the open one; a measurement sets its own group alone; and of a
boundary nothing but the latch and the step of the codes reaches what the statement reads. -/
theorem framesBeginAndCrossingsTrack : Obligations.FramesBeginAndCrossingsTrack :=
  ⟨Machine.windowIsWidest, Machine.retune, Machine.frameBoundary⟩

end Sys2Proof
end

section
/-! Bubbles (R384, R386): how many of a group's cycles a ratio takes, and which contribution decides. -/

namespace Sys2Proof.Machine

theorem upFrom_eq_range' (a n : Nat) : upFrom a n = List.range' a n := by
  induction n generalizing a with
  | zero => rfl
  | succ n ih => rw [upFrom, ih, List.range'_succ]

theorem upFrom_zero_eq_range (n : Nat) : upFrom 0 n = List.range n := by
  rw [upFrom_eq_range', List.range_eq_range']

/-- The bubbles among the first n cycles of a group are the share of b that they reach: a cycle adds one where the share rises. -/
theorem length_filter_isBubble {b : Nat} (hb : b ≤ 64) {n : Nat} (hn : n ≤ 64) :
    ((upFrom 0 n).filter fun i => isBubble b i).length = n * b / 64 := by
  rw [upFrom_zero_eq_range]
  induction n with
  | zero => simp
  | succ n ih =>
    rw [List.range_succ, List.filter_append, List.length_append, ih (by omega), Nat.add_mul, Nat.one_mul]
    by_cases hrise : n * b / 64 < (n * b + b) / 64
    · have hbubble : isBubble b n = true := by simpa [isBubble, Nat.mod_eq_of_lt (show n < 64 by omega), Nat.add_mul] using hrise
      rw [List.filter_cons_of_pos hbubble, List.filter_nil, List.length_singleton]
      omega
    · have hnone : ¬ isBubble b n = true := by simpa [isBubble, Nat.mod_eq_of_lt (show n < 64 by omega), Nat.add_mul] using hrise
      rw [List.filter_cons_of_neg hnone, List.filter_nil, List.length_nil]
      omega

theorem bubblesPerGroup : Claims.bubblesPerGroup := fun b hb =>
  ⟨by rw [length_filter_isBubble (by omega) (Nat.le_refl _)]; omega, fun i => decide_eq_true_iff⟩

theorem largest_eq_max? (l : List Nat) : largest l = l.max?.getD 0 := by
  rw [largest, List.foldl_max, Nat.zero_max]

theorem le_largest {l : List Nat} {x : Nat} (h : x ∈ l) : x ≤ largest l := by
  rw [largest_eq_max?]
  exact List.le_max?_getD_of_mem h

theorem largest_mem {l : List Nat} (h : l ≠ []) : largest l ∈ l := by
  obtain ⟨m, hm⟩ := Option.ne_none_iff_exists'.1 (mt List.max?_eq_none_iff.1 h)
  rw [largest_eq_max?, hm]
  exact List.max?_mem hm

theorem firstIdx_eq_findIdx? {α : Type} (p : α → Bool) (k : Nat) (l : List α) :
    firstIdx p k l = (l.findIdx? p).map (k + ·) := by
  induction l generalizing k with
  | nil => rfl
  | cons x l ih =>
    rw [firstIdx, List.findIdx?_cons, ih]
    split
    · rfl
    · simp [Function.comp_def, Nat.add_comm, Nat.add_left_comm]

/-- The index of a value in a list that has it. -/
theorem getElem?_firstIdx_eq {l : List Nat} {x : Nat} (h : x ∈ l) : l[(firstIdx (fun y => y == x) 0 l).getD 0]? = some x := by
  obtain ⟨i, hi⟩ := Option.isSome_iff_exists.1 (List.findIdx?_isSome.trans (List.any_beq'.trans (List.contains_iff_mem.2 h)))
  obtain ⟨hlt, hval, -⟩ := List.findIdx?_eq_some_iff_getElem.1 hi
  rw [firstIdx_eq_findIdx?, hi]
  simpa [hlt] using hval

theorem bubbleDecided : Claims.bubbleDecided := fun s n r => by
  refine ⟨fun hlag => ?_, fun l x hlag => ?_, ?_, ?_⟩
  · rw [appliedBubble, hlag]
    rfl
  · rw [appliedBubble, hlag, List.getLast?_concat]
    rfl
  · exact List.all_eq_true.2 fun x hx => decide_eq_true (le_largest hx)
  · rw [bubbleCause, Nat.add_sub_cancel_left]
    exact getElem?_firstIdx_eq (largest_mem (List.cons_ne_nil _ _))

end Sys2Proof.Machine
end

section
/-! What the operations of a partition cycle leave alone: those on the memories and on the cores, the partitions; and every one of
them, the slip records, the cycle numbers and the slip tree's decisions. -/

namespace Sys2Proof.Machine

/-- A fold of steps that each keep a projection keeps it. -/
theorem foldl_proj {γ β : Type} (π : State → γ) (f : State → β → State) (l : List β) (s : State)
    (h : ∀ s x, π (f s x) = π s) : π (l.foldl f s) = π s :=
  List.foldlRecOn l f (motive := fun t => π t = π s) rfl fun t ht x _ => (h t x).trans ht

/-! Records -/

@[simp] theorem raise_parts (s : State) (rep : Report) : (raise s rep).parts = s.parts := by
  have h := raise_reported s rep
  unfold Reported at h; rw [h]
@[simp] theorem raise_units (s : State) (rep : Report) : (raise s rep).units = s.units := by
  have h := raise_reported s rep
  unfold Reported at h; rw [h]
@[simp] theorem raise_mesh (s : State) (rep : Report) : (raise s rep).mesh = s.mesh := by
  have h := raise_reported s rep
  unfold Reported at h; rw [h]

/-! The cores of a partition -/

/-- Changing the cores of a partition changes no other part of the state. -/
theorem modCores_eq (s : State) (n : Nat) (f : Core → Core) : modCores s n f = { s with cores := (modCores s n f).cores } := by
  unfold modCores
  generalize coresOf s n = l
  induction l generalizing s with
  | nil => rfl
  | cons c l ih => exact (ih (modCore s c f)).trans rfl

@[simp] theorem modCores_parts (s : State) (n : Nat) (f : Core → Core) : (modCores s n f).parts = s.parts := by
  rw [modCores_eq]
@[simp] theorem modCores_units (s : State) (n : Nat) (f : Core → Core) : (modCores s n f).units = s.units := by
  rw [modCores_eq]
@[simp] theorem modCores_mesh (s : State) (n : Nat) (f : Core → Core) : (modCores s n f).mesh = s.mesh := by
  rw [modCores_eq]

/-- A change of a core that leaves its engines alone leaves the engines of every core alone. -/
theorem eng_modCore (s : State) (n : Nat) (f : Core → Core) (h : ∀ c, (f c).eng = c.eng) (k : Nat) :
    (coreAt (modCore s n f) k).eng = (coreAt s k).eng := by
  by_cases hk : k = n
  · rw [hk, coreAt_modCore_same, h]
  · rw [coreAt_modCore_ne s n f hk]

theorem eng_modCores (s : State) (n : Nat) (f : Core → Core) (h : ∀ c, (f c).eng = c.eng) (k : Nat) :
    (coreAt (modCores s n f) k).eng = (coreAt s k).eng :=
  foldl_proj (fun t => (coreAt t k).eng) _ _ s fun t c => eng_modCore t c f h k

/-! Memories and their carriers: the partitions stay -/

@[simp] theorem modEcc_parts (s : State) (key : Nat) (f : EccInst → EccInst) : (modEcc s key f).parts = s.parts := rfl

@[simp] theorem flagCandidate_parts (s : State) (key addr : Nat) : (flagCandidate s key addr).parts = s.parts := by
  unfold flagCandidate
  dsimp only
  split
  · rfl
  · split
    · exact raise_parts _ _
    · rfl

@[simp] theorem noteCorrected_parts (s : State) (key addr : Nat) (y : Byte) : (noteCorrected s key addr y).parts = s.parts := by
  unfold noteCorrected
  dsimp only
  split
  · split
    · exact flagCandidate_parts _ _ _
    · rfl
  · rfl

@[simp] theorem noteUncorrectable_parts (s : State) (key addr : Nat) : (noteUncorrectable s key addr).parts = s.parts :=
  (flagCandidate_parts _ _ _).trans (raise_parts _ _)

@[simp] theorem noteLink_parts (s : State) (cls detail : Nat) : (noteLink s cls detail).parts = s.parts := by
  refine (raise_parts _ _).trans ?_
  split <;> rfl

@[simp] theorem countPoison_parts (s : State) (cls : Nat) (l : List (W64 × Bool)) : (countPoison s cls l).parts = s.parts := by
  unfold countPoison
  dsimp only
  split <;> rfl

@[simp] theorem crossWords_parts (s : State) (cls detail : Nat) (bad : List Nat) (l : List (W64 × Bool)) :
    (crossWords s cls detail bad l).2.parts = s.parts := by
  refine (foldl_proj State.parts _ _ _ fun t _ => noteLink_parts t cls detail).trans ?_
  split
  · exact countPoison_parts _ _ _
  · rfl

@[simp] theorem setMem_parts (s : State) (id : MemId) (m : CodeMem) : (setMem s id m).parts = s.parts := by
  cases id <;> rfl

@[simp] theorem storeWord_parts (s : State) (id : MemId) (w : Nat) (d : W64) (c : Byte) :
    (storeWord s id w d c).parts = s.parts := by
  unfold storeWord
  split
  · exact setMem_parts _ _ _
  · exact setMem_parts _ _ _

@[simp] theorem writeBack_parts (s : State) (id : MemId) (w : Nat) (d : W64) (c : Byte) :
    (writeBack s id w d c).parts = s.parts := by
  unfold writeBack
  split
  · split <;> rfl
  · exact storeWord_parts _ _ _ _ _

@[simp] theorem readWord_parts (s : State) (id : MemId) (w : Nat) : (readWord s id w).2.parts = s.parts := by
  unfold readWord
  dsimp only
  split
  · exact noteUncorrectable_parts _ _ _
  · split
    case h_1 => rfl
    case h_2 => rfl
    case h_3 =>
      split
      · rfl
      · exact (writeBack_parts _ _ _ _ _).trans (noteUncorrectable_parts _ _ _)
    case h_4 => exact (writeBack_parts _ _ _ _ _).trans (noteCorrected_parts _ _ _ _)

@[simp] theorem readWords_parts (s : State) (id : MemId) (w n : Nat) : (readWords s id w n).2.parts = s.parts := by
  induction n generalizing s w with
  | zero => rfl
  | succ n ih => exact (ih _ _).trans (readWord_parts _ _ _)

@[simp] theorem writeWord_parts (s : State) (id : MemId) (w : Nat) (x : W64 × Bool) : (writeWord s id w x).parts = s.parts :=
  storeWord_parts _ _ _ _ _

@[simp] theorem writeWords_parts (s : State) (id : MemId) (w : Nat) (l : List (W64 × Bool)) :
    (writeWords s id w l).parts = s.parts := by
  induction l generalizing s w with
  | nil => rfl
  | cons x l ih => exact (ih _ _).trans (writeWord_parts _ _ _ _)

@[simp] theorem readMem_parts (s : State) (id : MemId) (a n : Nat) : (readMem s id a n).2.parts = s.parts :=
  readWords_parts _ _ _ _

@[simp] theorem bufRead_parts (s : State) (b : HBuf) (o n : Nat) : (bufRead s b o n).2.parts = s.parts := by
  induction n generalizing s o with
  | zero => rfl
  | succ n ih => exact (ih _ _).trans (readWord_parts _ _ _)

/-! Arms and routers: the partitions stay -/

@[simp] theorem stepArm_parts (s : State) (core e : Nat) : (stepArm s core e).parts = s.parts := rfl

@[simp] theorem channelCount_parts (s : State) (a : Arm) (b : Beat) : (channelCount s a b).parts = s.parts := by
  unfold channelCount
  split
  · exact countPoison_parts _ _ _
  · rfl

@[simp] theorem leave_parts (s : State) (n c core i : Nat) (p : Place) (t : PlanStep) (bad : List LinkWord)
    (word : Nat → Option Beat) (l : List Nat) : (leave s n c core i p t bad word l).2.parts = s.parts := by
  induction l generalizing s with
  | nil => rfl
  | cons o l ih =>
    unfold leave
    split
    · exact ih _
    · exact (ih _).trans (crossWords_parts _ _ _ _ _)

@[simp] theorem readStep_parts (s : State) (core i : Nat) : (readStep s core i).parts = s.parts := by
  unfold readStep
  dsimp only
  split
  · exact readMem_parts _ _ _ _
  · rfl

/-! The course of a partition: its slip record, cycle number and decisions -/

/-- What a partition cycle answers for of a partition: the slip record, the partition cycle and the slip tree's decisions. -/
def Part.course (p : Part) : Slips × Option (Nat × List Ahead) := (p.slips, p.run.map fun r => (r.cycle, r.ahead))

/-- The course of every partition. -/
def State.courses (s : State) (n : Nat) : Slips × Option (Nat × List Ahead) := (partAt s n).course

theorem courses_of_parts {s t : State} (h : t.parts = s.parts) : t.courses = s.courses :=
  funext fun n => by rw [State.courses, partAt, h]; rfl

/-- A change of a partition that leaves its course alone leaves every course alone. -/
theorem modPart_courses (s : State) (n : Nat) (f : Part → Part) (h : ∀ p, (f p).course = p.course) :
    (modPart s n f).courses = s.courses := funext fun k => by
  by_cases hk : k = n
  · rw [State.courses, hk, partAt_modPart_same, h]
    rfl
  · rw [State.courses, partAt_modPart_ne s n f hk]
    rfl

theorem setBuf_courses (s : State) (n k : Nat) (b : HBuf) : (setBuf s n k b).courses = s.courses :=
  modPart_courses _ _ _ fun p => by rw [Part.course, Option.map_map]; rfl

theorem bufPut_courses (s : State) (n k : Nat) (l : List (W64 × Bool)) : (bufPut s n k l).courses = s.courses := by
  unfold bufPut
  split
  · rfl
  · exact (setBuf_courses _ _ _ _).trans (courses_of_parts (foldl_proj State.parts _ _ _ fun _ _ => writeWord_parts _ _ _ _))

theorem bufGet_courses (s : State) (n k words : Nat) : (bufGet s n k words).2.courses = s.courses := by
  unfold bufGet
  split
  · rfl
  · exact (setBuf_courses _ _ _ _).trans (courses_of_parts (bufRead_parts _ _ _ _))

theorem depart_courses (s : State) (n c : Nat) (bad : List LinkWord) (l : List (Nat × Nat × Nat)) :
    (depart s n c bad l).2.courses = s.courses := by
  induction l generalizing s with
  | nil => rfl
  | cons x l ih => exact (ih _).trans ((courses_of_parts (crossWords_parts _ _ _ _ _)).trans (bufGet_courses _ _ _ _))

theorem takeBeat_courses (s : State) (n core e : Nat) : (takeBeat s n core e).2.courses = s.courses := by
  unfold takeBeat
  split
  · exact modPart_courses _ _ _ fun _ => rfl
  · split
    · exact courses_of_parts ((stepArm_parts _ _ _).trans ((channelCount_parts _ _ _).trans (readWords_parts _ _ _ _)))
    · rfl

theorem takeBeats_courses (s : State) (n core : Nat) (l : List Nat) : (takeBeats s n core l).2.courses = s.courses := by
  induction l generalizing s with
  | nil => rfl
  | cons e l ih => exact (ih _).trans (takeBeat_courses _ _ _ _)

theorem deliver_courses (s : State) (n core e port : Nat) (b : Option Beat) : (deliver s n core e port b).courses = s.courses := by
  unfold deliver
  split
  · split
    · rfl
    · exact modPart_courses _ _ _ fun _ => rfl
  · split
    · exact courses_of_parts ((writeWords_parts _ _ _ _).trans (channelCount_parts _ _ _))
    · rfl

theorem moveCore_courses (s : State) (n c core i : Nat) (t : PlanStep) (bad : List LinkWord) (inp : Nat → Option Beat) :
    (moveCore s n c core i t bad inp).2.courses = s.courses := by
  unfold moveCore
  extract_lets p m taken word out left delivered
  have hdelivered : delivered.courses = s.courses := calc
    delivered.courses = left.courses := foldl_proj State.courses _ _ _ fun _ _ => deliver_courses _ _ _ _ _ _
    _ = taken.courses := courses_of_parts (leave_parts _ _ _ _ _ _ _ _ _ _)
    _ = s.courses := takeBeats_courses _ _ _ _
  dsimp only
  split
  · exact hdelivered
  · exact (foldl_proj State.courses _ _ _ fun _ _ => courses_of_parts (stepArm_parts _ _ _)).trans hdelivered

theorem moveCores_courses (s : State) (n c : Nat) (bad : List LinkWord) (due : List Flight) (l : List (Nat × Nat)) :
    (moveCores s n c bad due l).2.courses = s.courses := by
  induction l generalizing s with
  | nil => rfl
  | cons x l ih =>
    unfold moveCores
    extract_lets a old new moved
    have ha : a.2.courses = s.courses := by
      dsimp only [a]
      split
      · exact moveCore_courses _ _ _ _ _ _ _ _
      · rfl
    refine (ih moved).trans ((courses_of_parts ?_).trans ha)
    refine (modCore_parts _ _ _).trans ?_
    split
    · rfl
    · exact readStep_parts _ _ _

/-- The partition's course after it advances: the next partition cycle, all else as it was. -/
theorem advance_courses (s : State) (n : Nat) (r : Run) (bad : List LinkWord) :
    (advance s n r bad).courses n = ((s.courses n).1, (s.courses n).2.map fun x => (r.cycle + 1, x.2)) := by
  unfold advance
  extract_lets c stored d departed flights gone absorbed m
  have hm : m.2.courses = s.courses := calc
    m.2.courses = absorbed.courses := moveCores_courses _ _ _ _ _ _
    _ = departed.courses := modPart_courses _ _ _ fun _ => rfl
    _ = stored.courses := depart_courses _ _ _ _ _
    _ = s.courses := foldl_proj State.courses _ _ _ fun t f => by
      split
      · exact bufPut_courses _ _ _ _
      · rfl
  rw [← hm, State.courses, modRun, partAt_modPart_same, Part.course, State.courses, Part.course, Option.map_map, Option.map_map]
  rfl

end Sys2Proof.Machine
end

section
/-! PARTITION_CYCLE (R181–R184, R383–R386): bubbles, holds, data slips, and cycles that advance. -/

namespace Sys2Proof.Machine

/-! The run after one more wall cycle -/

/-- Looking ahead adds to the decisions alone. -/
theorem lookAhead_eq (s : State) (n k : Nat) (r : Run) : lookAhead s n k r = { r with ahead := (lookAhead s n k r).ahead } := by
  induction k generalizing r with
  | zero => rfl
  | succ k ih =>
    unfold lookAhead
    rw [ih]

theorem wallCycle_eq (s : State) (n : Nat) (r : Run) :
    wallCycle s n r = { r with
      wall := r.wall + 1, lag := ((bubbleRatio s n, bubbleCause s n) :: r.lag).take 4, ahead := (wallCycle s n r).ahead } :=
  lookAhead_eq _ _ _ _

@[simp] theorem wallCycle_cycle (s : State) (n : Nat) (r : Run) : (wallCycle s n r).cycle = r.cycle := by rw [wallCycle_eq]
@[simp] theorem wallCycle_wall (s : State) (n : Nat) (r : Run) : (wallCycle s n r).wall = r.wall + 1 := by rw [wallCycle_eq]
@[simp] theorem wallCycle_bufs (s : State) (n : Nat) (r : Run) : (wallCycle s n r).bufs = r.bufs := by rw [wallCycle_eq]
@[simp] theorem wallCycle_flights (s : State) (n : Nat) (r : Run) : (wallCycle s n r).flights = r.flights := by
  rw [wallCycle_eq]

/-- With nine decisions standing, a wall cycle decides nothing more. -/
theorem wallCycle_ahead_of_full (s : State) (n : Nat) {r : Run} (h : 9 ≤ r.ahead.length) : (wallCycle s n r).ahead = r.ahead := by
  rw [wallCycle, Nat.sub_eq_zero_of_le h, lookAhead]

/-! The counts of a wall cycle -/

theorem wallCounts_eq (s : State) (n : Nat) :
    wallCounts s n = { s with cores := (wallCounts s n).cores, mesh := (wallCounts s n).mesh } := by
  unfold wallCounts
  rw [modCores_eq]

@[simp] theorem wallCounts_hup (s : State) (n : Nat) : (wallCounts s n).hup = s.hup := by rw [wallCounts_eq]

theorem partAt_wallCounts (s : State) (n k : Nat) : partAt (wallCounts s n) k = partAt s k := by
  rw [wallCounts_eq]; rfl

@[simp] theorem holding_wallCounts (s : State) (n : Nat) (r : Run) : holding (wallCounts s n) n r = holding s n r := by
  rw [wallCounts_eq]; rfl

theorem eng_wallCounts (s : State) (n k : Nat) : (coreAt (wallCounts s n) k).eng = (coreAt s k).eng :=
  eng_modCores s n _ (fun c => by split <;> rfl) k

/-- The state after a wall cycle's counts, with the run's decisions set to l. -/
def cycled (s : State) (n : Nat) (r : Run) (l : List Ahead) : State :=
  modRun (wallCounts s n) n fun _ => { wallCycle (wallCounts s n) n r with ahead := l }

/-- The state after a wall cycle that a bubble or a hold takes (R183, R184). -/
def paused (s : State) (n : Nat) (r : Run) : State := cycled s n r (dropSlip (wallCycle (wallCounts s n) n r).ahead)

/-- t differs from s at most in the cores, the mesh and the partitions. -/
def MachineryOnly (s t : State) : Prop := t = { s with cores := t.cores, mesh := t.mesh, parts := t.parts }

theorem MachineryOnly.trans {s t u : State} (h : MachineryOnly s t) (k : MachineryOnly t u) : MachineryOnly s u := by
  unfold MachineryOnly at *; rw [k, h]

theorem modPart_machineryOnly (s : State) (n : Nat) (f : Part → Part) : MachineryOnly s (modPart s n f) := rfl

theorem modCores_machineryOnly (s : State) (n : Nat) (f : Core → Core) : MachineryOnly s (modCores s n f) := by
  unfold MachineryOnly; rw [modCores_eq]

theorem wallCounts_machineryOnly (s : State) (n : Nat) : MachineryOnly s (wallCounts s n) := by
  unfold MachineryOnly; rw [wallCounts_eq]

theorem cycled_machineryOnly (s : State) (n : Nat) (r : Run) (l : List Ahead) : MachineryOnly s (cycled s n r l) :=
  (wallCounts_machineryOnly s n).trans (modPart_machineryOnly _ _ _)

variable {s : State} {n : Nat} {r : Run} {l : List Ahead}

theorem partAt_cycled (hrun : (partAt s n).run = some r) :
    partAt (cycled s n r l) n = { partAt s n with run := some { wallCycle (wallCounts s n) n r with ahead := l } } := by
  rw [cycled, modRun, partAt_modPart_same, partAt_wallCounts, hrun]
  rfl

theorem partAt_paused (hrun : (partAt s n).run = some r) :
    partAt (paused s n r) n = { partAt s n with
      run := some { wallCycle (wallCounts s n) n r with ahead := dropSlip (wallCycle (wallCounts s n) n r).ahead } } :=
  partAt_cycled hrun

theorem eng_cycled (k : Nat) : (coreAt (cycled s n r l) k).eng = (coreAt s k).eng := eng_wallCounts s n k

/-! The cycle that the counts exclude -/

@[simp] theorem partAt_exclude (s : State) (n k : Nat) : partAt (exclude s n) k = partAt s k := by
  rw [partAt, exclude, modCores_parts]; rfl

@[simp] theorem eng_exclude (s : State) (n k : Nat) : (coreAt (exclude s n) k).eng = (coreAt s k).eng := by
  unfold exclude
  refine eng_modCores _ _ _ ?_ _
  exact fun _ => rfl

theorem partAt_bubbleCycle (s : State) (n cause : Nat) :
    partAt (bubbleCycle s n cause) n = { partAt s n with bubbles := { (partAt s n).bubbles with
      run := (partAt s n).bubbles.run + 1, causes := bump (partAt s n).bubbles.causes (cause - 1),
      total := (partAt s n).bubbles.total + 1 } } := by
  rw [bubbleCycle, partAt_exclude, partAt_modPart_same]

theorem partAt_holdCycle (s : State) (n : Nat) :
    partAt (holdCycle s n) n = { partAt s n with slips := { (partAt s n).slips with
      hold := (partAt s n).slips.hold + 1, cHold := (partAt s n).slips.cHold + 1, unbroken := 0 } } := by
  rw [holdCycle, partAt_exclude, partAt_modPart_same]

theorem partAt_slipCycle (s : State) (n cause who : Nat) :
    partAt (slipCycle s n cause who) n = { partAt s n with slips := { (partAt s n).slips with
      slip := (partAt s n).slips.slip + 1, cSlip := (partAt s n).slips.cSlip + 1,
      causes := bump (partAt s n).slips.causes (cause - 1), unbroken := (partAt s n).slips.unbroken + 1,
      maxRun := max (partAt s n).slips.maxRun ((partAt s n).slips.unbroken + 1), lastCause := cause, lastWho := who } } := by
  rw [slipCycle, partAt_exclude, partAt_modPart_same]

theorem eng_bubbleCycle (s : State) (n cause k : Nat) : (coreAt (bubbleCycle s n cause) k).eng = (coreAt s k).eng :=
  eng_exclude _ _ _

theorem eng_holdCycle (s : State) (n k : Nat) : (coreAt (holdCycle s n) k).eng = (coreAt s k).eng := eng_exclude _ _ _

theorem bubbleCycle_machineryOnly (s : State) (n cause : Nat) : MachineryOnly s (bubbleCycle s n cause) :=
  (modPart_machineryOnly _ _ _).trans (modCores_machineryOnly _ _ _)

/-! What a partition cycle comes to -/

/-- The row of unbroken data slips ends (R185). -/
def rowEnded (s : State) (n : Nat) : State := modPart s n fun p => { p with slips := { p.slips with unbroken := 0 } }

section Cases

variable {part : PartId} {bad : List LinkWord} {a : Ahead} {rest : List Ahead}

theorem exec_partitionCycle (part : PartId) (bad : List LinkWord) (s : State) :
    exec (.partitionCycle part bad) s = execPartitionCycle part bad s := rfl

variable (haon : s.aon = true) (hrun : (partAt s part.val).run = some r) (hstart : r.started = true) (hloss : s.hup.loss = .none)
include haon hrun hstart hloss

/-- A bubble is counted under its cause. -/
theorem exec_partitionCycle_of_bubble (hbubble : isBubble (appliedBubble s part.val r).1 r.wall = true) :
    exec (.partitionCycle part bad) s =
      .next (bubbleCycle (paused s part.val r) part.val (appliedBubble s part.val r).2) := by
  simp only [exec_partitionCycle, execPartitionCycle, whenAon, haon, hrun, hstart, wallCounts_hup, hloss, hbubble]
  rfl

variable (hbubble : isBubble (appliedBubble s part.val r).1 r.wall = false)
include hbubble

/-- With no bubble, a hold that applies is counted. -/
theorem exec_partitionCycle_of_holding (hhold : holding s part.val r = true) :
    exec (.partitionCycle part bad) s = .next (holdCycle (paused s part.val r) part.val) := by
  simp only [exec_partitionCycle, execPartitionCycle, whenAon, haon, hrun, hstart, wallCounts_hup, hloss, hbubble,
    holding_wallCounts, hhold]
  rfl

variable (hhold : holding s part.val r = false) (hahead : r.ahead = a :: rest) (hfull : 9 ≤ r.ahead.length)
include hhold hahead hfull

/-- With neither bubble nor hold, the first decision is due. -/
theorem exec_partitionCycle_of_due :
    exec (.partitionCycle part bad) s = .next
      (if a.cause ≠ 0 then slipCycle (cycled s part.val r rest) part.val a.cause a.who
       else advance (barrierTime (rowEnded (cycled s part.val r rest) part.val) part.val) part.val
         (wallCycle (wallCounts s part.val) part.val r) bad) := by
  have hdue : (wallCycle (wallCounts s part.val) part.val r).ahead = a :: rest :=
    (wallCycle_ahead_of_full _ _ hfull).trans hahead
  simp only [exec_partitionCycle, execPartitionCycle, whenAon, haon, hrun, hstart, wallCounts_hup, hloss, hbubble,
    holding_wallCounts, hhold, hdue]
  rfl

end Cases

/-! The statements -/

/-- The engines of a core are those it has where its table of engines is. -/
theorem engAt_of_eng {c d : Core} (h : c.eng = d.eng) (e : Nat) : engAt c e = engAt d e := by rw [engAt, h]; rfl

theorem bubblesSkip : Claims.bubblesSkip := fun part bad r s haon hrun hstart hloss hbubble => by
  have hpart := partAt_bubbleCycle (paused s part.val r) part.val (appliedBubble s part.val r).2
  rw [partAt_paused hrun] at hpart
  refine ⟨_, exec_partitionCycle_of_bubble haon hrun hstart hloss hbubble, ?_⟩
  rw [hpart]
  exact ⟨rfl, rfl, rfl, rfl,
    ⟨_, rfl, wallCycle_cycle _ _ _, wallCycle_wall _ _ _, wallCycle_bufs _ _ _, wallCycle_flights _ _ _⟩,
    fun k e => engAt_of_eng ((eng_bubbleCycle _ _ _ _).trans (eng_cycled k)) e,
    (cycled_machineryOnly _ _ _ _).trans (bubbleCycle_machineryOnly _ _ _)⟩

/-- A run that is to stop is held (R183). -/
theorem holding_of_stop (s : State) (n : Nat) {r : Run} (h : r.stop ≠ none) : holding s n r = true := by
  rw [holding, Option.isSome_iff_ne_none.2 h, Bool.or_true]

theorem slipsHold : Claims.slipsHold := fun part bad r s haon hrun hstart hloss hbubble => by
  refine ⟨fun hstop => ?_, fun a rest hhold hahead hfull hcause => ?_⟩
  · have hpart := partAt_holdCycle (paused s part.val r) part.val
    rw [partAt_paused hrun] at hpart
    refine ⟨_, exec_partitionCycle_of_holding haon hrun hstart hloss hbubble (holding_of_stop s _ hstop), ?_⟩
    rw [hpart]
    exact ⟨rfl, ⟨_, rfl, wallCycle_cycle _ _ _⟩, fun k e => engAt_of_eng ((eng_holdCycle _ _ _).trans (eng_cycled k)) e⟩
  · have hpart := partAt_slipCycle (cycled s part.val r rest) part.val a.cause a.who
    rw [partAt_cycled hrun] at hpart
    have hexec := exec_partitionCycle_of_due (bad := bad) haon hrun hstart hloss hbubble hhold hahead hfull
    rw [if_pos hcause] at hexec
    refine ⟨_, hexec, ?_⟩
    rw [hpart]
    exact ⟨rfl, _, rfl, wallCycle_cycle _ _ _, rfl⟩

/-- The course of a partition whose row of slips has ended, before it advances. -/
theorem courses_barrierTime_rowEnded (s : State) (n : Nat) :
    (barrierTime (rowEnded s n) n).courses n =
      ({ (partAt s n).slips with unbroken := 0 }, (partAt s n).run.map fun r => (r.cycle, r.ahead)) := by
  rw [barrierTime, courses_of_parts (modCores_parts _ _ _), State.courses, rowEnded, partAt_modPart_same]
  rfl

theorem cyclesAdvance : Claims.cyclesAdvance :=
  fun part bad r a rest s haon hrun hstart hloss hbubble hhold hahead hfull hcause => by
  have hexec := exec_partitionCycle_of_due (bad := bad) haon hrun hstart hloss hbubble hhold hahead hfull
  rw [if_neg (not_not_intro hcause)] at hexec
  have hcourse := advance_courses (barrierTime (rowEnded (cycled s part.val r rest) part.val) part.val) part.val
    (wallCycle (wallCounts s part.val) part.val r) bad
  rw [courses_barrierTime_rowEnded, partAt_cycled hrun, wallCycle_cycle] at hcourse
  obtain ⟨hslips, hnext⟩ := Prod.ext_iff.1 hcourse
  obtain ⟨r', hr', hnext⟩ := Option.map_eq_some_iff.1 hnext
  obtain ⟨hcycle, hrest⟩ := Prod.ext_iff.1 hnext
  exact ⟨_, hexec, ⟨r', hr', hcycle, hrest⟩, (congrArg Slips.unbroken hslips :), (congrArg Slips.slip hslips :)⟩

end Sys2Proof.Machine
end

section
/-! The slip limit (R186), the Seam rings (R190–R192, R266) and the Tack network (R199, R201). -/

namespace Sys2Proof.Machine

/-! The slip limit -/

theorem exec_slipLimit (part : PartId) {s : State} (haon : s.aon = true) (hlive : runLive s part.val = true) :
    exec (.slipLimit part) s = .next
      (if bits (reg s (0xA04010 + 0x40 * part.val)) 31 20 * usCycles s < (partAt s part.val).slips.unbroken then
        stopRun (raise s
          { kind := kSlipLimit
            unit := if (partAt s part.val).slips.lastCause ≤ 2 then uCore else uPart
            id := if (partAt s part.val).slips.lastCause ≤ 2 then (partAt s part.val).slips.lastWho / 65536 else part.val
            part := some part.val, status := sSlipLimit
            detail := (partAt s part.val).slips.lastCause + (partAt s part.val).slips.lastWho % 4096 * 16 })
          part.val { status := sSlipLimit }
      else s) := by
  change execSlipLimit part s = _
  simp only [execSlipLimit, whenAon, haon, hlive, true_and, if_true]

theorem slipLimit : Claims.slipLimit := fun part s haon hlive => by
  have hexec := exec_slipLimit part haon hlive
  rw [usCycles] at hexec
  refine ⟨fun hover hcause => ?_, fun hover hcause => ?_, fun hwithin => ?_⟩
  · rw [if_pos hover, if_neg (by omega), if_neg (by omega)] at hexec
    exact hexec
  · rw [if_pos hover, if_pos hcause, if_pos hcause] at hexec
    exact hexec
  · rw [if_neg (Nat.not_lt.2 hwithin)] at hexec
    exact hexec

/-! The Seam rings -/

@[simp] theorem noteLink_units (s : State) (cls detail : Nat) : (noteLink s cls detail).units = s.units := by
  refine (raise_units _ _).trans ?_
  split <;> rfl

@[simp] theorem noteLink_mesh (s : State) (cls detail : Nat) : (noteLink s cls detail).mesh = s.mesh := by
  refine (raise_mesh _ _).trans ?_
  split <;> rfl

/-- Ring 8 may take a ring's traffic while it carries none and has not failed. -/
theorem spareRing_iff (s : State) : spareRing s = true ↔ s.units.ring8 = none ∧ s.units.ring8Gone = false := by
  simp [spareRing]

theorem not_spareRing {s : State} (h : s.units.ring8 ≠ none ∨ s.units.ring8Gone = true) : ¬ spareRing s = true := by
  rw [spareRing_iff]
  rintro ⟨hfree, hgood⟩
  rcases h with hbusy | hgone
  · exact hbusy hfree
  · exact Bool.false_ne_true (hgood.symm.trans hgone)

theorem failRing_of_not_mem {s : State} {k : Nat} (h : k ∉ s.units.ringsFailed) :
    failRing s k = { s with units := { s.units with ringsFailed := s.units.ringsFailed ++ [k] } } := by
  rw [failRing, if_neg (by simpa using h)]

theorem failRing_eq (s : State) (k : Nat) :
    failRing s k = { s with units := { s.units with
      ringsFailed := if k ∈ s.units.ringsFailed then s.units.ringsFailed else s.units.ringsFailed ++ [k] } } := by
  by_cases h : k ∈ s.units.ringsFailed
  · rw [if_pos h, failRing, if_pos (by simpa using h)]
  · rw [if_neg h, failRing_of_not_mem h]

/-- The words of a ring that has not failed yet become poison, with the record (R192). -/
theorem poisonRing_of_not_mem {s : State} {k : Nat} (h : (2, k) ∉ s.mesh.poisoned) :
    poisonRing s k = raise { s with
      mesh := { s.mesh with poisoned := s.mesh.poisoned ++ [(2, k)] }
      units := { s.units with
        ringsFailed := if k ∈ s.units.ringsFailed then s.units.ringsFailed else s.units.ringsFailed ++ [k] } }
      { kind := kSeamFailed, unit := uRing, id := k } := by
  unfold poisonRing
  rw [if_neg (by simpa using h)]
  dsimp only
  rw [failRing_eq]

theorem exec_seamRingReplaced (ring : Fin 8) (s : State) :
    exec (.seamRingReplaced ring) s = execSeamRingReplaced ring s := rfl

theorem exec_uncorrectableRingWord (ring : Fin 9) (east : Bool) (slot : Fin 64) (s : State) :
    exec (.uncorrectableRingWord ring east slot) s = execUncorrectableRingWord ring east slot s := rfl

section Rings

variable {s : State} {ring : Fin 8} {east : Bool} {slot : Fin 64} {j : Nat}

/-- A word of rings 0 to 7 with ring 8 free: the ring moves onto it and replays its slots (R191). -/
theorem exec_ringWord_of_spare (haon : s.aon = true) (hspare : spareRing s = true) :
    exec (.uncorrectableRingWord (ring.castLE (by decide)) east slot) s =
      .next (beginReplay (replaceRing (noteLink s 3 ring.val) ring.val) ring.val) := by
  have hring : ring.val ≠ 8 := by omega
  have hother : (noteLink s 3 ring.val).units.ring8 ≠ some ring.val := by
    rw [noteLink_units, ((spareRing_iff s).1 hspare).1]
    exact (Option.some_ne_none _).symm
  have hspare' : spareRing (noteLink s 3 ring.val) = true := by
    rw [spareRing, noteLink_units]
    exact hspare
  rw [exec_uncorrectableRingWord, execUncorrectableRingWord, whenAon, if_pos haon]
  exact congrArg Host.Outcome.next ((if_neg hring).trans ((if_neg hother).trans (if_pos hspare')))

/-- A word of rings 0 to 7 that ring 8 does not carry and cannot take: the ring's words become poison (R192). -/
theorem exec_ringWord_of_no_spare (haon : s.aon = true) (hother : s.units.ring8 ≠ some ring.val)
    (hnone : s.units.ring8 ≠ none ∨ s.units.ring8Gone = true) (hclean : (2, ring.val) ∉ s.mesh.poisoned) :
    exec (.uncorrectableRingWord (ring.castLE (by decide)) east slot) s =
      .next (poisonRing (noteLink s 3 ring.val) ring.val) := by
  have hring : ring.val ≠ 8 := by omega
  have hother' : (noteLink s 3 ring.val).units.ring8 ≠ some ring.val := by rwa [noteLink_units]
  have hnone' : ¬ spareRing (noteLink s 3 ring.val) = true := not_spareRing (by rwa [noteLink_units])
  have hclean' : ¬ (noteLink s 3 ring.val).mesh.poisoned.contains (2, ring.val) = true := by
    rwa [noteLink_mesh, List.contains_iff_mem]
  rw [exec_uncorrectableRingWord, execUncorrectableRingWord, whenAon, if_pos haon]
  exact congrArg Host.Outcome.next
    ((if_neg hring).trans ((if_neg hother').trans ((if_neg hnone').trans (if_neg hclean'))))

/-- The state after a word of ring 8: counted, and ring 8 given up. -/
def ring8Lost (s : State) : State :=
  { noteLink s 3 8 with units := { s.units with ring8Gone := true } }

theorem ring8Lost_mesh (s : State) : (ring8Lost s).mesh = s.mesh := noteLink_mesh _ _ _

theorem ring8Lost_eq (s : State) :
    { noteLink s 3 8 with units := { (noteLink s 3 8).units with ring8Gone := true } } = ring8Lost s := by
  rw [noteLink_units, ring8Lost]

/-- A word of ring 8 while it carries a ring: that ring's words become poison (R192). -/
theorem exec_ring8Word_of_carrying (haon : s.aon = true) (hcarried : s.units.ring8 = some j)
    (hclean : (2, j) ∉ s.mesh.poisoned) :
    exec (.uncorrectableRingWord 8 east slot) s = .next (poisonRing (ring8Lost s) j) := by
  have hring8 : (noteLink s 3 8).units.ring8 = some j := by rwa [noteLink_units]
  have hclean' : ¬ (noteLink s 3 8).mesh.poisoned.contains (2, j) = true := by rwa [noteLink_mesh, List.contains_iff_mem]
  rw [exec_uncorrectableRingWord, execUncorrectableRingWord, whenAon, if_pos haon]
  refine congrArg Host.Outcome.next ((if_pos rfl).trans ?_)
  dsimp only
  split
  · next k hk =>
    obtain rfl : j = k := Option.some.inj (hring8.symm.trans hk)
    exact (if_neg hclean').trans (congrArg (poisonRing · j) (ring8Lost_eq s))
  · next hk => exact absurd (hring8.symm.trans hk) (Option.some_ne_none j)

/-- A word of ring 8 while it is free: a defect (R192). -/
theorem exec_ring8Word_of_free (haon : s.aon = true) (hfree : s.units.ring8 = none) :
    exec (.uncorrectableRingWord 8 east slot) s = .next (addDefect (ring8Lost s) kSeamFailed uRing 8 2) := by
  have hring8 : (noteLink s 3 8).units.ring8 = none := by rwa [noteLink_units]
  rw [exec_uncorrectableRingWord, execUncorrectableRingWord, whenAon, if_pos haon]
  refine congrArg Host.Outcome.next ((if_pos rfl).trans ?_)
  dsimp only
  split
  · next k hk => exact absurd (hk.symm.trans hring8) (Option.some_ne_none k)
  · exact congrArg (addDefect · kSeamFailed uRing 8 2) (ring8Lost_eq s)

end Rings

theorem ringsReplaced : Claims.ringsReplaced := fun ring east slot s haon => by
  have hseam : exec (.seamRingReplaced ring) s =
      .next (if spareRing s then replaceRing s ring.val else failRing s ring.val) := by
    rw [exec_seamRingReplaced, execSeamRingReplaced, whenAon, if_pos haon]
  refine ⟨fun hfree hgood => ?_, fun hnone hmem => ?_, fun hfree hgood => ?_, fun hother hnone hclean => ?_,
    fun hcarried hclean => ?_, fun hfree => ?_⟩
  · rw [if_pos ((spareRing_iff s).2 ⟨hfree, hgood⟩)] at hseam
    exact hseam
  · rw [if_neg (not_spareRing hnone), failRing_of_not_mem hmem] at hseam
    exact hseam
  · exact exec_ringWord_of_spare haon ((spareRing_iff s).2 ⟨hfree, hgood⟩)
  · refine (exec_ringWord_of_no_spare haon hother hnone hclean).trans ?_
    rw [poisonRing_of_not_mem (by rwa [noteLink_mesh])]
    rfl
  · refine (exec_ring8Word_of_carrying haon hcarried hclean).trans ?_
    rw [poisonRing_of_not_mem (by rwa [ring8Lost_mesh])]
    rfl
  · exact exec_ring8Word_of_free haon hfree

/-! The Tack network -/

theorem exec_tackMessageLost {s : State} (haon : s.aon = true) (src dst : BitVec 16) (chan : Fin 2) :
    exec (.tackMessageLost src dst chan) s = .next (raise (tackMessage s src.toNat dst.toNat chan.val)
      { kind := kTackLost, unit := uDevice, detail := src.toNat + dst.toNat * 65536 }) := by
  change execTackMessageLost src dst chan s = _
  simp only [execTackMessageLost, whenAon, haon, if_true]

/-- The record of a request that timed out (R199). -/
def timeoutReport (src dst : BitVec 16) : Report :=
  { kind := kTackLost, unit := uDevice, status := sTimeout, detail := src.toNat + dst.toNat * 65536 }

theorem exec_tackRequestTimeout_none {s : State} (haon : s.aon = true) {src dst : BitVec 16} {chan : Fin 2} :
    exec (.tackRequestTimeout src dst chan none) s =
      .next (raise (tackMessage s src.toNat dst.toNat chan.val) (timeoutReport src dst)) := by
  change execTackRequestTimeout src dst chan none s = _
  simp only [execTackRequestTimeout, timeoutReport, whenAon, haon, if_true]

theorem exec_tackRequestTimeout_some {s : State} (haon : s.aon = true) {src dst : BitVec 16} {chan : Fin 2} {a : Access} :
    exec (.tackRequestTimeout src dst chan (some a)) s =
      .next (raise (answer (tackMessage s src.toNat dst.toNat chan.val) a sTimeout 0) (timeoutReport src dst)) := by
  change execTackRequestTimeout src dst chan (some a) s = _
  simp only [execTackRequestTimeout, timeoutReport, whenAon, haon, if_true]

theorem exec_tackSeamChannelFailed (sideband : Bool) (s : State) :
    exec (.tackSeamChannelFailed sideband) s = execTackSeamChannelFailed sideband s := rfl

/-- The number of a sequence after all entries under its key have gone up by one. -/
theorem lookup_map_bump (k : Nat × Nat × Nat) (l : List ((Nat × Nat × Nat) × BitVec 16)) :
    (l.map fun x => if x.1 = k then (x.1, x.2 + 1) else x).lookup k = (l.lookup k).map (· + 1) := by
  induction l with
  | nil => rfl
  | cons x l ih =>
    obtain ⟨j, v⟩ := x
    by_cases h : j = k
    · subst h
      simp only [List.map_cons, if_true, List.lookup_cons_self, Option.map_some]
    · simp only [List.map_cons, if_neg h, List.lookup_cons, beq_false_of_ne (Ne.symm h), ih]

theorem any_key_eq_isSome_lookup (k : Nat × Nat × Nat) (l : List ((Nat × Nat × Nat) × BitVec 16)) :
    l.any (fun x => x.1 == k) = (l.lookup k).isSome := by
  induction l with
  | nil => rfl
  | cons x l ih =>
    obtain ⟨j, v⟩ := x
    by_cases h : j = k
    · subst h
      simp only [List.any_cons, List.lookup_cons_self, beq_self_eq_true, Bool.true_or, Option.isSome_some]
    · simp only [List.any_cons, List.lookup_cons, beq_false_of_ne h, beq_false_of_ne (Ne.symm h), Bool.false_or, ih]

/-- A message takes the next number of its sequence (R199). -/
theorem lookup_seqs_tackMessage (s : State) (src dst chan : Nat) :
    (tackMessage s src dst chan).mesh.seqs.lookup (src, dst, chan) =
      some ((s.mesh.seqs.lookup (src, dst, chan)).getD 0 + 1) := by
  dsimp only [tackMessage]
  rw [any_key_eq_isSome_lookup]
  cases hseq : s.mesh.seqs.lookup (src, dst, chan) with
  | none =>
    rw [if_neg (by simp), List.lookup_append, hseq, List.lookup_cons, beq_self_eq_true]
    rfl
  | some v =>
    rw [if_pos Option.isSome_some, lookup_map_bump, hseq]
    rfl

@[simp] theorem stopRun_units (s : State) (n : Nat) (e : Ending) : (stopRun s n e).units = s.units := by
  unfold stopRun
  split
  · split
    · rfl
    · exact modCores_units _ _ _
  · rfl

@[simp] theorem stopRun_mesh (s : State) (n : Nat) (e : Ending) : (stopRun s n e).mesh = s.mesh := by
  unfold stopRun
  split
  · split
    · rfl
    · exact modCores_mesh _ _ _
  · rfl

@[simp] theorem failRing_mesh (s : State) (k : Nat) : (failRing s k).mesh = s.mesh := by rw [failRing_eq]

theorem mem_failRing {s : State} {j k : Nat} :
    j ∈ (failRing s k).units.ringsFailed ↔ j = k ∨ j ∈ s.units.ringsFailed := by
  rw [failRing_eq]
  dsimp only
  split
  · next h => exact ⟨Or.inr, fun hj => hj.elim (fun hjk => hjk ▸ h) id⟩
  · rw [List.mem_append, List.mem_singleton, or_comm]

theorem mem_foldl_failRing {l : List Nat} {s : State} {j : Nat} :
    j ∈ (l.foldl failRing s).units.ringsFailed ↔ j ∈ l ∨ j ∈ s.units.ringsFailed := by
  induction l generalizing s with
  | nil => simp
  | cons k l ih => rw [List.foldl_cons, ih, mem_failRing, List.mem_cons, or_left_comm, or_assoc]

theorem foldl_stopRun_units (l : List Nat) (s : State) (e : Ending) :
    (l.foldl (fun s n => stopRun s n e) s).units = s.units :=
  foldl_proj State.units _ l s fun t n => stopRun_units t n e

theorem foldl_stopRun_mesh (l : List Nat) (s : State) (e : Ending) :
    (l.foldl (fun s n => stopRun s n e) s).mesh = s.mesh :=
  foldl_proj State.mesh _ l s fun t n => stopRun_mesh t n e

/-- Ring 8 can take no ring's traffic any more. -/
def ring8Gone (s : State) : State := { s with units := { s.units with ring8Gone := true } }

@[simp] theorem ring8Gone_mesh (s : State) : (ring8Gone s).mesh = s.mesh := rfl
@[simp] theorem ring8Gone_ring8Gone (s : State) : (ring8Gone s).units.ring8Gone = true := rfl
@[simp] theorem ring8Gone_ringsFailed (s : State) : (ring8Gone s).units.ringsFailed = s.units.ringsFailed := rfl

/-- The sideband fails: all nine rings have failed, and the runs of the partitions across the seam stop (R201). -/
theorem exec_sidebandFailed {s : State} (haon : s.aon = true) (hsound : s.mesh.sidebandFailed = false) :
    ∃ l : List Nat, exec (.tackSeamChannelFailed true) s =
      .next (l.foldl (fun s n => stopRun s n { status := sLinkDown }) (ring8Gone ((upFrom 0 8).foldl failRing (raise
        { s with mesh := { s.mesh with sidebandFailed := true } } { kind := kTackSeam, unit := uDevice })))) := by
  rw [exec_tackSeamChannelFailed, execTackSeamChannelFailed, whenAon, if_pos haon, if_pos rfl, if_neg (by simp [hsound])]
  dsimp only
  generalize (upFrom 0 8).foldl failRing _ = failed
  exact ⟨_, rfl⟩

theorem tackEvents : Claims.tackEvents := fun src dst chan s haon => by
  refine ⟨⟨exec_tackRequestTimeout_none haon, fun a => exec_tackRequestTimeout_some haon⟩,
    ⟨_, exec_tackMessageLost haon src dst chan, ?_, ?_⟩, fun hmode hsound => ?_, fun h => ?_, fun hsound => ?_⟩
  · rw [raise_mesh]
    exact lookup_seqs_tackMessage _ _ _ _
  · rw [raise_mesh]
    rfl
  · change exec _ s = _
    rw [exec_tackSeamChannelFailed, execTackSeamChannelFailed, whenAon, if_pos haon, if_neg Bool.false_ne_true,
      if_neg (by simp [hmode, hsound])]
  · change exec _ s = _
    rw [exec_tackSeamChannelFailed, execTackSeamChannelFailed, whenAon, if_pos haon, if_neg Bool.false_ne_true, if_pos h]
  · obtain ⟨l, hexec⟩ := exec_sidebandFailed haon hsound
    refine ⟨_, hexec, ?_⟩
    rw [foldl_stopRun_mesh, foldl_stopRun_units, ring8Gone_mesh, foldl_proj State.mesh failRing _ _ failRing_mesh, raise_mesh]
    refine ⟨rfl, ring8Gone_ring8Gone _, fun k hk => ?_⟩
    rw [ring8Gone_ringsFailed, mem_foldl_failRing, upFrom_zero_eq_range]
    exact Or.inl (List.mem_range.2 hk)

end Sys2Proof.Machine

namespace Sys2Proof

/-- Settles O29: a wall cycle's outcome is read off the bubble tree, the holds and the slip tree, and no operation of an advancing
cycle touches a slip record, a cycle number or a decision; the events of rings and of Tack are read case by case. -/
theorem bubblesSlipsAndRingFailuresAreCounted : Obligations.BubblesSlipsAndRingFailuresAreCounted :=
  ⟨Machine.bubblesPerGroup, Machine.bubbleDecided, Machine.bubblesSkip, Machine.slipsHold, Machine.cyclesAdvance,
    Machine.slipLimit, Machine.ringsReplaced, Machine.tackEvents⟩

end Sys2Proof
end

section
/-! Set-up writes through a Nalson port (R297, R298, R443): one that is open acts on the state that has heard it, and one whose
header slot has a reserved bit set changes nothing. -/

namespace Sys2Proof.Machine

open Sys2Proof.Claims (Open heard)

variable {a : Access} {s : State} {off : Nat}

theorem whenAon_of_on (haon : s.aon = true) (f : State → State) : whenAon s f = .next (f s) := by
  rw [whenAon, if_pos haon]

@[simp] theorem released_modNal (s : State) (p : NPort) (f : Nal → Nal) : released (modNal s p f) = released s := rfl

/-- The answer that a write's status and state stand for (R297). -/
def answered (a : Access) (r : Byte × State) : State := answer r.2 a r.1 0

/-- What a write answers, by the status and the state its register gives. -/
theorem runs_of_status {c : Instr} {r : Byte × State} {t : State} {st : Byte} (hexec : exec c s = .next (answered a r))
    (hstatus : r = (st, t)) : exec c s = .next (answer t a st 0) := by
  rw [hexec, hstatus, answered]

/-- An open write acts on the state that has heard it, and answers its status. -/
theorem whenAon_setupWrite_of_open (h : Open a s) (halign : off % 4 = 0) (f : State → Byte × State) :
    whenAon s (fun s => setupWrite s a off f) = .next (answered a (f (heard s a off))) := by
  obtain ⟨haon, hrel, -, hother⟩ := h
  rw [whenAon_of_on haon, setupWrite, if_neg (Decidable.not_not.2 halign), if_neg (Decidable.not_not.2 hother)]
  dsimp only
  rw [released_modNal, if_pos hrel]
  rfl

/-- A write whose header slot has a reserved bit set (R297). -/
theorem whenAon_setupWrite_of_reserved (haon : s.aon = true) (hother : a.other ≠ 0) (halign : off % 4 = 0)
    (f : State → Byte × State) : whenAon s (fun s => setupWrite s a off f) = .next (answer s a eReserved 0) := by
  rw [whenAon_of_on haon, setupWrite, if_neg (Decidable.not_not.2 halign), if_pos hother]

/-! A reserved bit in the header slot (R297) -/

theorem pressWrite_of_reserved (hother : a.other ≠ 0) (v : W32) : pressWrite s a v = answer s a eReserved 0 := by
  simp [pressWrite, show ¬ a.other = 0#64 from hother, setupWrite]

theorem lifeWrite_of_reserved (hother : a.other ≠ 0) (off : Nat) (f : State → Byte × State) :
    lifeWrite s a off f = answer s a eReserved 0 := by
  rw [lifeWrite, if_pos hother]

/-- The offset field of an SRD body. -/
theorem bits_srdBody (off : BitVec 28) : bits (off.setWidth 64) 27 0 = off.toNat := by
  rw [bits, BitVec.toNat_setWidth]
  omega

/-- The offset field of an SWR body. -/
theorem bits_swrBody (v : W32) (off : BitVec 28) : bits (v ++ off.setWidth 32 : W64) 27 0 = off.toNat := by
  have happend : (v ++ off.setWidth 32 : W64).toNat = v.toNat <<< 32 + (off.setWidth 32).toNat := by
    rw [BitVec.toNat_append, Nat.shiftLeft_add_eq_or_of_lt (BitVec.isLt _)]
  rw [bits, happend, BitVec.toNat_setWidth, Nat.shiftLeft_eq]
  omega

theorem exec_srd_of_reserved (haon : s.aon = true) (hother : a.other ≠ 0) {body : W64} (halign : bits body 27 0 % 4 = 0) :
    exec (.srd a body) s = .next (answer s a eReserved 0) := by
  change execSrd a body s = _
  rw [execSrd, whenAon_of_on haon]
  dsimp only
  rw [if_neg (Decidable.not_not.2 halign), if_pos (Or.inr hother)]

theorem exec_swr_of_reserved (haon : s.aon = true) (hother : a.other ≠ 0) {body : W64} (halign : bits body 27 0 % 4 = 0) :
    exec (.swr a body) s = .next (answer s a eReserved 0) := by
  change execSwr a body s = _
  rw [execSwr, whenAon_of_on haon]
  dsimp only
  rw [if_neg (Decidable.not_not.2 halign), if_pos (Or.inr hother)]

theorem reservedSlots : Claims.reservedSlots := fun a off v s haon hother => by
  have hwrite {o : Nat} (halign : o % 4 = 0) (f : State → Byte × State) := whenAon_setupWrite_of_reserved haon hother halign f
  refine ⟨?_, hwrite rfl _, hwrite rfl _, fun halign => hwrite halign _, hwrite rfl _, hwrite rfl _, hwrite rfl _, ?_, ?_,
    fun halign _ => ⟨exec_srd_of_reserved haon hother ?_, exec_swr_of_reserved haon hother ?_⟩⟩
  · change execSemaphoreClaim a s = _
    rw [execSemaphoreClaim, whenAon_of_on haon, if_pos hother]
  · change execFoldPress a v s = _
    rw [execFoldPress, whenAon_of_on haon, pressWrite_of_reserved hother]
  · change execLifeGo a v s = _
    rw [execLifeGo, whenAon_of_on haon, lifeWrite_of_reserved hother]
  · rwa [bits_srdBody]
  · rwa [bits_swrBody]

end Sys2Proof.Machine
end

section
/-! The semaphore (R331–R333): claimed, released, broken, expired. -/

namespace Sys2Proof.Machine

open Sys2Proof.Claims (Open heard heardSem)

variable {a : Access} {s : State} {p : NPort}

theorem claimSem_of_free (h : s.sem.held = false ∨ s.sem.owner = p) : claimSem s p =
    { s with sem := { s.sem with held := true, expired := false, owner := p, renewed := s.time } } := by
  rw [claimSem, if_pos (by simpa using h)]

theorem claimSem_of_taken (hheld : s.sem.held = true) (hother : s.sem.owner ≠ p) : claimSem s p = s := by
  rw [claimSem, if_neg (by simp [hheld, hother])]

theorem exec_semaphoreClaim_of_open (h : Open a s) : exec (.semaphoreClaim a) s =
    .next (answer (claimSem (heardSem s a) a.port) a ok (semWord (claimSem (heardSem s a) a.port))) := by
  obtain ⟨haon, hrel, -, hother⟩ := h
  change execSemaphoreClaim a s = _
  rw [execSemaphoreClaim, whenAon_of_on haon, if_neg (Decidable.not_not.2 hother)]
  dsimp only
  rw [released_modNal, if_pos hrel]
  rfl

theorem semWord_renewed (s : State) (p : NPort) :
    semWord { s with sem := { s.sem with held := true, expired := false, owner := p, renewed := s.time } } =
      BitVec.ofNat 32 (100 * 65536 + 4 + p.val) := by
  have hlease : leaseMs { s with sem := { s.sem with held := true, expired := false, owner := p, renewed := s.time } } = 100 := by
    simp [leaseMs, since]
  simp [semWord, hlease, one]

theorem semaphoreClaim : Claims.semaphoreClaim := fun a s hopen => by
  have hexec := exec_semaphoreClaim_of_open hopen
  refine ⟨fun hfree => hexec.trans ?_, fun hheld hother => hexec.trans ?_⟩
  · rw [claimSem_of_free (s := heardSem s a) hfree, semWord_renewed]
    rfl
  · rw [claimSem_of_taken (s := heardSem s a) hheld hother]
    rfl

theorem dropFold_of_idle (h : s.fold.waiting = none) :
    dropFold s = { s with fold := { s.fold with words := [], waiting := none } } := by
  rw [dropFold, h]

theorem dropFold_of_waiting {w : Access} (h : s.fold.waiting = some w) :
    dropFold s = pressAnswer { s with fold := { s.fold with words := [], waiting := none } } w eOwner := by
  rw [dropFold, h]

theorem semCtl_release_of_owner (hheld : s.sem.held = true) (howner : s.sem.owner = p) : semCtl s p 1 =
    (ok, dropFold { s with sem := { s.sem with held := false, expired := false, owner := 0 } }) := by
  simp [semCtl, bitAt, hheld, howner]

theorem semCtl_release_of_other (h : s.sem.held = false ∨ s.sem.owner ≠ p) : semCtl s p 1 = (eOwner, s) := by
  have hnot : (s.sem.held && s.sem.owner == p) = false := by rcases h with h | h <;> simp [h]
  simp [semCtl, bitAt, hnot]

/-- The semaphore as its breaker holds it, with the fold gone (R333). -/
def takenOver (s : State) (p : NPort) : State :=
  dropFold { s with sem := { s.sem with expired := false, owner := p, renewed := s.time, breaks := s.sem.breaks + 1 } }

theorem semCtl_break_of_expired (hheld : s.sem.held = true) (hexpired : s.sem.expired = true) (hother : s.sem.owner ≠ p) :
    semCtl s p 2 = (ok, raise (takenOver s p) { kind := kSemBroken, unit := uNalson, id := p.val, detail := s.sem.owner.val }) := by
  simp [semCtl, takenOver, bitAt, hheld, hexpired, hother]

theorem semCtl_break_of_unbreakable (h : s.sem.held = false ∨ s.sem.expired = false ∨ s.sem.owner = p) :
    semCtl s p 2 = (eState, s) := by
  have hnot : (s.sem.held && s.sem.expired && s.sem.owner != p) = false := by
    rcases h with h | h | h <;> simp [h]
  simp [semCtl, bitAt, hnot]

theorem semCtl_both (s : State) (p : NPort) : semCtl s p 3 = (eRange, s) := by simp [semCtl, bitAt]

theorem exec_semaphoreRelease_of_open (h : Open a s) (v : W32) :
    exec (.semaphoreRelease a v) s = .next (answered a (semCtl (heard s a 0x10008) a.port v)) :=
  whenAon_setupWrite_of_open h rfl _

theorem exec_semaphoreBreak_of_open (h : Open a s) (v : W32) :
    exec (.semaphoreBreak a v) s = .next (answered a (semCtl (heard s a 0x10008) a.port v)) :=
  whenAon_setupWrite_of_open h rfl _

theorem semaphoreRelease : Claims.semaphoreRelease := fun a s hopen => by
  have hexec := exec_semaphoreRelease_of_open hopen 1
  refine ⟨fun hheld howner => ?_, fun hother => runs_of_status hexec (semCtl_release_of_other hother)⟩
  have hfreed := runs_of_status hexec (semCtl_release_of_owner hheld howner)
  refine ⟨fun hidle => hfreed.trans ?_, fun w hwaits => hfreed.trans ?_⟩
  · rw [dropFold_of_idle (by exact hidle)]
    rfl
  · rw [dropFold_of_waiting (by exact hwaits)]
    rfl

theorem semaphoreBreak : Claims.semaphoreBreak := fun a s hopen => by
  have hexec := exec_semaphoreBreak_of_open hopen
  refine ⟨fun hheld hexpired hother => ?_, fun hkept => runs_of_status (hexec 2) (semCtl_break_of_unbreakable hkept),
    runs_of_status (hexec 3) (semCtl_both _ _)⟩
  have htaken := runs_of_status (hexec 2) (semCtl_break_of_expired hheld hexpired hother)
  refine ⟨fun hidle => htaken.trans ?_, fun w hwaits => htaken.trans ?_⟩
  · rw [takenOver, dropFold_of_idle (by exact hidle)]
    rfl
  · rw [takenOver, dropFold_of_waiting (by exact hwaits)]
    rfl

theorem leaseExpiry : Claims.leaseExpiry := fun s haon hheld hlive => by
  have hexec : exec .leaseExpiry s = .next (if 2500000 ≤ (s.time - s.sem.renewed).toNat then
      { s with sem := { s.sem with expired := true } } else s) := by
    change execLeaseExpiry s = _
    rw [execLeaseExpiry, whenAon_of_on haon, hheld, hlive]
    simp only [Bool.not_false, Bool.and_self, Bool.true_and, decide_eq_true_eq]
    rfl
  exact ⟨fun hover => hexec.trans (by rw [if_pos hover]), fun hrun => hexec.trans (by rw [if_neg (Nat.not_le.2 hrun)])⟩

end Sys2Proof.Machine

namespace Sys2Proof

/-- Settles O1: an open access acts on the state that has heard it, and what `claimSem`, `semCtl` and `dropFold` answer there is
said once per case of the semaphore. -/
theorem semaphoreIsClaimedReleasedAndBroken : Obligations.SemaphoreIsClaimedReleasedAndBroken :=
  ⟨Machine.semaphoreClaim, Machine.semaphoreRelease, Machine.semaphoreBreak, Machine.leaseExpiry⟩

end Sys2Proof
end

section
/-! The fold (R336–R339): a staged write by the first check that it fails, and writes of FOLD_CHECK, FOLD_FREEZE and
FOLD_DISCARD. -/

namespace Sys2Proof.Machine

open Sys2Proof.Claims (Open heard)

variable {a : Access} {s : State} {p : NPort} {off : Nat} {v : W32} {r : Staged} {st : Byte}

theorem foldWrite_of_unowned (hr : stagedAt s.variant off = some r) (hsem : holdsSem s p = false) :
    foldWrite s p off v = (eOwner, s) := by
  simp [foldWrite, hr, hsem]

theorem foldWrite_of_waiting (hr : stagedAt s.variant off = some r) (hsem : holdsSem s p = true)
    (hwaits : s.fold.waiting ≠ none) : foldWrite s p off v = (eState, s) := by
  simp [foldWrite, hr, hsem, Option.isSome_iff_ne_none.2 hwaits]

theorem not_frozen (h : r.frz = false ∨ s.fold.frozen = false) : ¬ (r.frz = true ∧ s.fold.frozen = true) := by
  rcases h with h | h <;> simp [h]

section Owned
variable (hr : stagedAt s.variant off = some r) (hsem : holdsSem s p = true) (hidle : s.fold.waiting = none)
include hr hsem hidle

theorem foldWrite_of_frozen (hfrz : r.frz = true) (hfrozen : s.fold.frozen = true) : foldWrite s p off v = (eFrozen, s) := by
  simp [foldWrite, hr, hsem, hidle, hfrz, hfrozen]

variable (hthawed : ¬ (r.frz = true ∧ s.fold.frozen = true))
include hthawed

theorem foldWrite_of_reserved (hrsv : v &&& r.rsv ≠ 0) : foldWrite s p off v = (eReserved, s) := by
  simp [foldWrite, hr, hsem, hidle, hthawed, show ¬ v &&& r.rsv = 0#32 from hrsv]

variable (hrsv : v &&& r.rsv = 0)
include hrsv

theorem foldWrite_of_bad (hbad : r.bad v = some st) : foldWrite s p off v = (st, s) := by
  simp [foldWrite, hr, hsem, hidle, hthawed, hrsv, hbad]

variable (hlegal : r.bad v = none)
include hlegal

theorem foldWrite_of_acrossBad (hacross : acrossBad (stageWord s off v) off v = some st) : foldWrite s p off v = (st, s) := by
  simp [foldWrite, hr, hsem, hidle, hthawed, hrsv, hlegal, hacross]

variable (hacross : acrossBad (stageWord s off v) off v = none)
include hacross

theorem foldWrite_of_full (hfull : 512 ≤ s.fold.words.length) (hnew : folded s off = false) :
    foldWrite s p off v = (eNoResource, s) := by
  simp [foldWrite, hr, hsem, hidle, hthawed, hrsv, hlegal, hacross, Nat.not_lt.2 hfull, hnew]

theorem foldWrite_of_room (hroom : s.fold.words.length < 512 ∨ folded s off = true) :
    foldWrite s p off v = (ok, stageWord s off v) := by
  simp [foldWrite, hr, hsem, hidle, hthawed, hrsv, hlegal, hacross, hroom]

end Owned

theorem exec_foldWrite_of_open (h : Open a s) {off : BitVec 28} (halign : off.toNat % 4 = 0) (v : W32) :
    exec (.foldWrite a off v) s = .next (answered a (foldWrite (heard s a off.toNat) a.port off.toNat v)) :=
  whenAon_setupWrite_of_open h halign _

theorem foldWriteStages : Claims.foldWrite := fun a off v s hopen halign hlegal hsem hidle hacross hroom => by
  obtain ⟨r, hr, hchecks⟩ := Option.any_eq_true _ _ |>.1 hlegal
  simp only [Bool.and_eq_true, Bool.not_eq_true', Bool.and_eq_false_iff, beq_iff_eq, Option.isNone_iff_eq_none] at hchecks
  obtain ⟨⟨hthawed, hrsv⟩, hbad⟩ := hchecks
  exact runs_of_status (exec_foldWrite_of_open hopen halign v)
    (foldWrite_of_room hr hsem hidle (not_frozen hthawed) hrsv hbad hacross hroom)

theorem foldWriteRefused : Claims.foldWriteRefused := fun a off v s hopen halign hstaged => by
  obtain ⟨r, hr⟩ := Option.isSome_iff_exists.1 hstaged
  have hexec := exec_foldWrite_of_open hopen halign v
  dsimp only
  rw [hr]
  refine ⟨fun hsem => runs_of_status hexec (foldWrite_of_unowned hr hsem),
    fun hsem hwaits => runs_of_status hexec (foldWrite_of_waiting hr hsem hwaits), fun hsem hidle =>
    ⟨fun hfrz hfrozen => runs_of_status hexec (foldWrite_of_frozen hr hsem hidle hfrz hfrozen), fun hthawed =>
      ⟨fun hrsv => runs_of_status hexec (foldWrite_of_reserved hr hsem hidle (not_frozen hthawed) hrsv), fun hrsv =>
        ⟨fun st hbad => runs_of_status hexec (foldWrite_of_bad hr hsem hidle (not_frozen hthawed) hrsv hbad), fun hbad =>
          ⟨fun st hacross => runs_of_status hexec (foldWrite_of_acrossBad hr hsem hidle (not_frozen hthawed) hrsv hbad hacross),
            fun hacross hfull hnew => runs_of_status hexec
              (foldWrite_of_full hr hsem hidle (not_frozen hthawed) hrsv hbad hacross hfull hnew)⟩⟩⟩⟩⟩

/-- A write of go to a FOLD register by the owner acts, but not over a press that waits where the register says so (R337). -/
theorem foldCtl_of_go (hsem : holdsSem s p = true) {waits : Bool} (hgo : waits = true → s.fold.waiting = none)
    (f : State → Byte × State) : foldCtl s p 1 0xFFFFFFFE waits f = f s := by
  cases waits <;> simp_all [foldCtl, bitAt]

theorem foldCtl_of_waiting (hsem : holdsSem s p = true) (hwaits : s.fold.waiting ≠ none) (f : State → Byte × State) :
    foldCtl s p 1 0xFFFFFFFE true f = (eState, s) := by
  simp [foldCtl, bitAt, hsem, Option.isSome_iff_ne_none.2 hwaits]

theorem foldChecks_of_pass (h : pressBad s (laid s) = none) :
    foldChecks s = (ok, { s with fold := { s.fold with detail := 0 } }) := by
  rw [foldChecks, h]

theorem foldChecks_of_failure {k : Nat} (h : pressBad s (laid s) = some (k, off)) : foldChecks s =
    (eInconsistent, { s with fold := { s.fold with detail := BitVec.ofNat 64 (off + k * 2 ^ 32) } }) := by
  rw [foldChecks, h]

theorem freezeFold_of_empty (h : s.fold.words = []) :
    freezeFold s = (ok, { s with fold := { s.fold with frozen := true } }) := by
  rw [freezeFold, h]
  rfl

theorem freezeFold_of_staged (h : s.fold.words ≠ []) : freezeFold s = (eState, s) := by
  rw [freezeFold, if_neg (by simpa using h)]

theorem foldCheck : Claims.foldCheck := fun a s hopen hsem => by
  have hexec : exec (.foldCheck a 1) s = .next (answered a (foldCtl _ a.port 1 0xFFFFFFFE false foldChecks)) :=
    whenAon_setupWrite_of_open (off := 0x20000) hopen rfl _
  rw [foldCtl_of_go (s := heard s a 0x20000) hsem (waits := false) nofun] at hexec
  exact ⟨fun hpass => runs_of_status hexec (foldChecks_of_pass hpass),
    fun k off hfail => runs_of_status hexec (foldChecks_of_failure hfail)⟩

theorem foldFreeze : Claims.foldFreeze := fun a s hopen hsem => by
  have hexec : exec (.foldFreeze a 1) s = .next (answered a (foldCtl _ a.port 1 0xFFFFFFFE true freezeFold)) :=
    whenAon_setupWrite_of_open (off := 0x20008) hopen rfl _
  have hgo (hidle : s.fold.waiting = none) : foldCtl (heard s a 0x20008) a.port 1 0xFFFFFFFE true freezeFold = _ :=
    foldCtl_of_go (s := heard s a 0x20008) hsem (fun _ => hidle) _
  refine ⟨fun hempty hidle => runs_of_status hexec ((hgo hidle).trans (freezeFold_of_empty hempty)), fun hbusy => ?_⟩
  by_cases hidle : s.fold.waiting = none
  · exact runs_of_status hexec ((hgo hidle).trans (freezeFold_of_staged (hbusy.resolve_right (Decidable.not_not.2 hidle))))
  · exact runs_of_status hexec (foldCtl_of_waiting (s := heard s a 0x20008) hsem hidle _)

theorem foldDiscard : Claims.foldDiscard := fun a s hopen hsem => by
  have hexec : exec (.foldDiscard a 1) s = .next (answered a (foldCtl _ a.port 1 0xFFFFFFFE true discardFold)) :=
    whenAon_setupWrite_of_open (off := 0x2000C) hopen rfl _
  exact ⟨fun hidle => runs_of_status hexec (foldCtl_of_go (s := heard s a 0x2000C) hsem (fun _ => hidle) _),
    fun hwaits => runs_of_status hexec (foldCtl_of_waiting (s := heard s a 0x2000C) hsem hwaits _)⟩

end Sys2Proof.Machine
end

section
/-! Reads of staged registers (R336, R512): no window and no 64-bit register covers a staged offset, so a read is of the applied
value. -/

namespace Sys2Proof.Machine

variable {s : State} {v : Variant} {off : Nat}

/-- An offset of the PART block at one of its staged registers. -/
abbrev PartPlace (o : Nat) : Prop :=
  o < 0x100 ∧ o % 0x20 = 0 ∨ 0x4000 ≤ o ∧ o < 0x4200 ∧ o % 0x40 < 0x18 ∨ 0x5000 ≤ o ∧ o < 0x5008

/-- An offset whose aligned 8 bytes touch no window and no 64-bit register, by its block of the map. -/
inductive WordPlace (off : Nat) : Prop
  | gaf (hb : off / 0x10000 = 0x01) (ho : off % 0x10000 = 0x18)
  | hem (hb : off / 0x10000 = 0x30) (ho : off % 0x10000 < 0x110)
  | pyrrel (hb : off / 0x10000 = 0x50) (ho : off % 0x10000 < 0x400)
  | lehr (hb : off / 0x10000 = 0x70) (ho : off % 0x10000 < 0x110)
  | hup (hb : off / 0x10000 = 0x78) (ho : off % 0x10000 < 0x10)
  | darn (hb : off / 0x10000 = 0x80) (ho : off % 0x10000 < 8 ∨ 0xF00 ≤ off % 0x10000 ∧ off % 0x10000 < 0x1000)
  | part (hb : off / 0x10000 = 0xA0) (ho : PartPlace (off % 0x10000))
  | bar (hb : off / 0x10000 = 0xB0) (ho : off % 0x100 < 0x10 ∨ 0x20 ≤ off % 0x100)
  | rot (hb : off / 0x10000 = 0xD0) (ho : 0x1000 ≤ off % 0x10000)
  | myarn (hl : 0x60 ≤ off / 0x10000) (hu : off / 0x10000 < 0x68) (ho : off % 0x10000 < 8 ∨ 0xC000 ≤ off % 0x10000)

theorem myarnPorts_le (v : Variant) : myarnPorts v ≤ 8 := by cases v <;> decide

theorem lehrStaged_lt {o : Nat} (h : (lehrStaged v o).isSome = true) : o < 0x110 := by
  unfold lehrStaged at h
  split at h
  · omega
  · split at h <;> first | omega | cases h

theorem partStaged_place {o : Nat} (h : (partStaged o).isSome = true) : PartPlace o := by
  unfold partStaged at h
  split at h
  · split at h
    · omega
    · cases h
  split at h
  · split at h <;> first | omega | cases h
  · split at h <;> first | omega | cases h

theorem barStaged_place {o : Nat} (h : (barStaged o).isSome = true) : o < 0x10 ∨ 0x20 ≤ o := by
  refine Decidable.byContradiction fun hnot => ?_
  unfold barStaged at h
  split at h
  case h_5 => rw [if_neg (by omega), if_neg (by omega)] at h; cases h
  all_goals omega

/-- Every staged register is at such a place. -/
theorem stagedAt_place (h : (stagedAt v off).isSome = true) : WordPlace off := by
  unfold stagedAt at h
  split at h
  · cases h
  next halign =>
  dsimp only at h
  split at h
  case h_1 hb =>
    split at h
    · exact .gaf hb (by omega)
    · cases h
  case h_2 hb =>
    refine .hem hb ?_
    split at h <;> first | omega | cases h
  case h_3 hb =>
    refine .pyrrel hb ?_
    split at h
    · omega
    split at h
    · omega
    split at h
    · omega
    · cases h
  case h_4 hb => exact .lehr hb (lehrStaged_lt h)
  case h_5 hb =>
    refine .hup hb ?_
    split at h <;> first | omega | cases h
  case h_6 hb =>
    refine .darn hb ?_
    split at h <;> first | omega | cases h
  case h_7 hb => exact .part hb (partStaged_place h)
  case h_8 hb => exact .bar hb (barStaged_place h)
  case h_9 hb =>
    split at h
    · next ho => exact .rot hb ho.1
    · cases h
  case h_10 =>
    split at h
    · next hport =>
      have hports := myarnPorts_le v
      refine .myarn hport.1 (by omega) ?_
      split at h
      · omega
      split at h
      · omega
      · cases h
    · cases h

/-- The ranges such offsets lie in. -/
theorem WordPlace.ranges (h : WordPlace off) : off < 0x500400 ∨ 0x600000 ≤ off ∧ off < 0x700110 ∨
    0x780000 ≤ off ∧ off < 0x780010 ∨ 0x800000 ≤ off ∧ off < 0x801000 ∨ 0xA00000 ≤ off ∧ off < 0xA05008 ∨
    0xB00000 ≤ off ∧ off < 0xC00000 ∨ 0xD01000 ≤ off ∧ off < 0xE00000 := by
  cases h <;> omega

theorem darnWindow_eq_none (h : off < 0x801000) : darnWindow s off = none := by
  rw [darnWindow, if_neg (by omega), if_neg (by omega), if_neg (by omega), if_neg (by omega), if_neg (by omega)]

theorem window_eq_none (h : WordPlace off) (sel : Nat) : window s sel off = none := by
  have hranges := h.ranges
  unfold window
  dsimp only
  rw [if_neg (by omega), if_neg (by omega), if_neg (by omega), if_neg (by omega)]
  by_cases hdarn : 0x800000 ≤ off ∧ off < 0x900000
  · rw [if_pos hdarn]
    exact darnWindow_eq_none (by omega)
  · rw [if_neg hdarn, if_neg (by omega), if_neg (by omega), if_neg (by omega), if_neg (by omega), if_neg (by omega),
      if_neg (by omega), if_neg (by omega), if_neg (by omega)]

/-- By the arms of `wide`, in its order: those of blocks without a place, those whose one test a place fails, and four more. -/
theorem wide_eq_none (h : WordPlace off) : wide s off = none := by
  unfold wide
  dsimp only
  split
  case h_1 | h_3 | h_4 | h_5 | h_6 | h_7 | h_11 | h_16 => exfalso; cases h <;> omega
  case h_2 | h_8 | h_9 | h_10 | h_15 => rw [if_neg (by cases h <;> omega)]
  case h_12 | h_13 => split <;> first | rfl | (exfalso; cases h <;> omega)
  case h_14 =>
    have hpart : PartPlace (off % 0x10000) := by cases h <;> first | assumption | omega
    split
    · rw [if_neg (by omega), if_neg (by omega)]
    split
    · rw [if_neg (by omega), if_neg (by omega)]
    · rfl
  case h_17 =>
    have hports := myarnPorts_le s.variant
    have hhigh : off / 0x10000 = 0xD0 ∧ 0x1000 ≤ off % 0x10000 ∨
        off / 0x10000 < 0x68 ∧ (off % 0x10000 < 8 ∨ 0xC000 ≤ off % 0x10000) := by
      cases h <;> first | contradiction | omega
    split
    · split <;> first | rfl | omega
    split
    · rw [if_neg (by omega)]
    · rw [if_neg (by omega)]

theorem WordPlace.low (h : WordPlace off) (hhigh : off % 8 = 4) : WordPlace (off - 4) := by
  cases h with
  | gaf hb ho => omega
  | hem hb ho => exact .hem (by omega) (by omega)
  | pyrrel hb ho => exact .pyrrel (by omega) (by omega)
  | lehr hb ho => exact .lehr (by omega) (by omega)
  | hup hb ho => exact .hup (by omega) (by omega)
  | darn hb ho => exact .darn (by omega) (by omega)
  | part hb ho => exact .part (by omega) (by omega)
  | bar hb ho => exact .bar (by omega) (by omega)
  | rot hb ho => exact .rot (by omega) (by omega)
  | myarn hl hu ho => exact .myarn (by omega) (by omega) (by omega)

theorem stagedReads : Claims.stagedReads := fun s sel off hstaged => by
  have hplace := stagedAt_place hstaged
  have hlow : (if off % 8 = 4 then wide s (off - 4) else none) = none := by
    split
    · next hhigh => exact wide_eq_none (hplace.low hhigh)
    · rfl
  rw [regRead, window_eq_none hplace, wide_eq_none hplace, hlow, if_pos hstaged]

end Sys2Proof.Machine

namespace Sys2Proof

/-- Settles O2: `foldWrite` is said once per check of the table, each under the checks before it; the other FOLD writes go through
`foldCtl`; and a read of a staged register meets no window and no 64-bit register. -/
theorem foldStagesChecksAndDiscards : Obligations.FoldStagesChecksAndDiscards :=
  ⟨Machine.foldWriteStages, Machine.foldWriteRefused, Machine.stagedReads, Machine.foldCheck, Machine.foldFreeze,
    Machine.foldDiscard, Machine.reservedSlots⟩

end Sys2Proof
end

section
/-! What an engine that goes on, a message that leaves and a record leave of the barriers: everything (R364, R366, R367). -/

namespace Sys2Proof.Machine

@[simp] theorem raise_bars (s : State) (rep : Report) : (raise s rep).bars = s.bars := by
  have h := raise_reported s rep
  unfold Reported at h; rw [h]

@[simp] theorem tackMessage_bars (s : State) (src dst chan : Nat) : (tackMessage s src dst chan).bars = s.bars := rfl

@[simp] theorem postPeg_bars (s : State) (core e q k : Nat) : (postPeg s core e q k).bars = s.bars := by
  unfold postPeg
  split
  · rfl
  · dsimp only
    split
    · exact raise_bars _ _
    · rfl

@[simp] theorem retireHead_bars (s : State) (core e : Nat) : (retireHead s core e).bars = s.bars := by
  unfold retireHead
  dsimp only
  split
  · rfl
  · split
    · exact (modCore_bars _ _ _).trans ((postPeg_bars _ _ _ _ _).trans (modCore_bars _ _ _))
    · rfl

@[simp] theorem drainFlight_bars (s : State) (core e n : Nat) : (drainFlight s core e n).bars = s.bars := by
  induction n generalizing s with
  | zero => rfl
  | succ n ih => exact (ih _).trans (retireHead_bars _ _ _)

@[simp] theorem freeEngine_bars (s : State) (core e k : Nat) (g : W32) : (freeEngine s core e k g).bars = s.bars := by
  unfold freeEngine
  dsimp only
  split
  · exact (drainFlight_bars _ _ _ _).trans (modCore_bars _ _ _)
  · rfl

@[simp] theorem freeEngines_bars (s : State) (k : Nat) (g : W32) : (freeEngines s k g).bars = s.bars :=
  foldl_proj State.bars _ _ _ fun t c =>
    (foldl_proj State.bars _ _ _ fun t e => freeEngine_bars t c e k g).trans (tackMessage_bars t tackL0 c 1)

@[simp] theorem barSend_bars (s : State) (r : Route) (kind : Byte) (index : Nat) (gen : W32) :
    (barSend s r kind index gen).bars = s.bars := by
  unfold barSend
  split
  · exact modMya_bars _ _ _
  · rfl

theorem barAt_of_bars {s t : State} (h : t.bars = s.bars) (k : Nat) : barAt t k = barAt s k := by
  rw [barAt, h]; rfl

/-! Releases and completion (R365, R367) -/

/-- A barrier in its next generation: the arrivals of that generation in place, the release counted. -/
def Bar.next (b : Bar) : Bar :=
  { b with gen := b.gen + 1, loc := b.nextLoc, children := b.nextChildren, nextLoc := 0, nextChildren := 0, awaiting := false,
           since := b.nextSince, nextSince := none, releases := b.releases + 1 }

theorem releaseBar_bars (s : State) (k : Nat) : (releaseBar s k).bars = (modBar s k Bar.next).bars := by
  unfold releaseBar modBar
  dsimp only
  rw [foldl_proj State.bars _ _ _ fun t c => barSend_bars t (childRoute t k c) 5 (childIndex t k c) (barAt s k).gen,
    freeEngines_bars]
  rfl

theorem barAt_releaseBar_same (s : State) (k : Nat) : barAt (releaseBar s k) k = (barAt s k).next :=
  (barAt_of_bars (releaseBar_bars s k) k).trans (barAt_modBar_same s k _)

theorem barAt_releaseBar_ne (s : State) {j k : Nat} (h : j ≠ k) : barAt (releaseBar s k) j = barAt s j :=
  (barAt_of_bars (releaseBar_bars s k) j).trans (barAt_modBar_ne s k _ h)

variable {s : State} {k : Nat}

theorem settleBar_of_incomplete (h : barComplete s k = false) : settleBar s k = s := by
  rw [settleBar, h]
  exact if_pos (Bool.or_true _)

/-- A complete barrier that is neither broken nor awaits its release. -/
theorem settleBar_of_complete (hawait : (barAt s k).awaiting = false) (hwhole : (barAt s k).broken = false)
    (hdone : barComplete s k = true) : settleBar s k =
      if barParent s k then
        barSend (modBar s k fun b => { b with awaiting := true }) (parentRoute s k) 4 (parentIndex s k) (barAt s k).gen
      else releaseBar s k := by
  rw [settleBar, hawait, hwhole, hdone]
  rfl

theorem barrierSettles : Claims.barrierSettles := fun k s hawait hwhole => by
  refine ⟨settleBar_of_incomplete, fun hdone hparent => ?_, fun hdone hroot => ?_⟩
  · rw [settleBar_of_complete hawait hwhole hdone, if_pos hparent]
  · rw [settleBar_of_complete hawait hwhole hdone, if_neg (ne_true_of_eq_false hroot)]
    exact ⟨barAt_releaseBar_same s k, fun j hj => barAt_releaseBar_ne s hj⟩

end Sys2Proof.Machine
end

section
/-! BARRIER_ARRIVAL and BARRIER_TIMEOUT (R364, R368). -/

namespace Sys2Proof.Machine

variable {core : CoreId} {eng : EngId} {bar : BarId} {k : Nat} {first : W64} {s : State}

/-- Changes that do the same to barrier k do the same to the state. -/
theorem modBar_congr {f g : Bar → Bar} (h : f (barAt s k) = g (barAt s k)) : modBar s k f = modBar s k g :=
  congrArg (fun b => { s with bars := tset {} s.bars k b }) h

/-- The barrier with one more arrival of an engine: in the next generation while it awaits its release, else in the current. -/
def Bar.arrived (now : W64) (b : Bar) : Bar :=
  if b.awaiting then { b with nextLoc := min (b.nextLoc + 1) 65535, nextSince := b.nextSince <|> some now }
  else { b with loc := min (b.loc + 1) 65535, since := b.since <|> some now }

theorem modBar_arrived_of_current (hawait : (barAt s k).awaiting = false) (hroom : (barAt s k).loc < 65535) :
    modBar s k (Bar.arrived s.time) =
      modBar s k fun b => { b with loc := b.loc + 1, since := b.since <|> some s.time } :=
  modBar_congr (by rw [Bar.arrived, if_neg (ne_true_of_eq_false hawait), Nat.min_eq_left hroom])

theorem modBar_arrived_of_awaiting (hawait : (barAt s k).awaiting = true) (hroom : (barAt s k).nextLoc < 65535) :
    modBar s k (Bar.arrived s.time) =
      modBar s k fun b => { b with nextLoc := b.nextLoc + 1, nextSince := b.nextSince <|> some s.time } :=
  modBar_congr (by rw [Bar.arrived, if_pos hawait, Nat.min_eq_left hroom])

/-- A BAR whose arrival is acknowledged waits for generation g (R364). -/
def nameGeneration (s : State) (core e : Nat) (g : W32) : State :=
  modCore s core fun c => modEng c e fun x => { x with
    flight := x.flight.map fun f => match f.until_ with
      | .barrier j none => { f with until_ := .barrier j (some g) }
      | _ => f }

theorem exec_barrierArrival (haon : s.aon = true) (harrives : arriving s core.val eng.val = some k) :
    exec (.barrierArrival core eng) s = .next
      (if (barAt s k).broken then stopRun s (barOwner s k) { status := sTimeout }
       else settleBar (tackMessage (nameGeneration (modBar s k (Bar.arrived s.time)) core.val eng.val
         (if (barAt s k).awaiting then (barAt s k).gen + 1 else (barAt s k).gen)) core.val tackL0 1) k) := by
  change execBarrierArrival core eng s = _
  rw [execBarrierArrival, whenAon_of_on haon, harrives]
  rfl

theorem barrierArrives : Claims.barrierArrives := fun core eng k s haon harrives => by
  have hexec := exec_barrierArrival haon harrives
  refine ⟨fun hbroken => ?_, fun hwhole hawait hroom => ?_, fun hwhole hawait hroom => ?_⟩
  · rw [if_pos hbroken] at hexec
    exact hexec
  · rw [if_neg (ne_true_of_eq_false hwhole), modBar_arrived_of_current hawait hroom] at hexec
    exact hexec
  · rw [if_neg (ne_true_of_eq_false hwhole), modBar_arrived_of_awaiting hawait hroom] at hexec
    exact hexec

/-- A record leaves the applied settings alone. -/
theorem barOwner_raise (s : State) (rep : Report) (k : Nat) : barOwner (raise s rep) k = barOwner s k := by
  have h := raise_reported s rep
  unfold Reported at h
  rw [h]
  rfl

/-- BAR_LIMIT_k, in microseconds (R363). -/
def barLimit (s : State) (k : Nat) : Nat := bits (reg s (barBase k + 4)) 19 0

theorem exec_barrierTimeout (haon : s.aon = true) (hfirst : (barAt s bar.val).since = some first) :
    exec (.barrierTimeout bar) s = .next
      (if timeCounts s = true ∧ (barAt s bar.val).broken = false ∧ 0 < barLimit s bar.val ∧
          25 * barLimit s bar.val < (s.time - first).toNat then
        stopRun (raise (modBar s bar.val fun b => { b with broken := true })
          { kind := kBarTimeout, unit := uBarrier, id := bar.val, detail := (barAt s bar.val).gen.toNat })
          (barOwner s bar.val) { status := sTimeout }
      else s) := by
  change execBarrierTimeout bar s = _
  rw [execBarrierTimeout, whenAon_of_on haon]
  dsimp only
  rw [hfirst, barOwner_raise]
  rfl

theorem barrierTimesOut : Claims.barrierTimesOut := fun bar first s haon htime hwhole hfirst => by
  have hexec := exec_barrierTimeout haon hfirst
  refine ⟨fun hlimit hover => ?_, fun hwithin => ?_⟩
  · rw [if_pos ⟨htime, hwhole, hlimit, hover⟩] at hexec
    exact hexec
  · have hnot : ¬ (0 < barLimit s bar.val ∧ 25 * barLimit s bar.val < (s.time - first).toNat) := fun ⟨hlimit, hover⟩ =>
      hwithin.elim (Nat.ne_of_gt hlimit) (Nat.not_le.2 hover)
    rw [if_neg fun h => hnot h.2.2] at hexec
    exact hexec

end Sys2Proof.Machine
end

section
/-! ARRIVE and RELEASE (R366, R367): what a barrier message does where it is delivered. -/

namespace Sys2Proof.Machine

open Sys2Proof.Claims (Delivered countedIn)

/-- A packet that is delivered and taken: its effect, and its units are free again. -/
theorem whenAon_arrivePacket_of_delivered {s u : State} {port : MPort} {p : Packet} {kind : Byte} {n : Nat}
    {f : State → Nat → Option State} (h : Delivered s port p kind n) (htaken : f (countedIn s port p) n = some u) :
    whenAon s (fun s => arrivePacket s port p kind f) = .next (returnUnits u (some port) (channelOf kind) p) := by
  obtain ⟨haon, hkind, hon, hup, hroute, hpart⟩ := h
  have hgo : ¬ (p.kind ≠ kind ∨ (lkAt s (.myarn port)).phase ≠ .up ∨ linkOn s (.myarn port) = false) := by
    rintro (hk | hp | hl)
    · exact hk hkind
    · exact hp hup
    · exact ne_true_of_eq_false hl hon
  have hf : f (portCount s (.myarn port) 0x68 (p.len.toNat % 8192)) n = some u := htaken
  rw [whenAon_of_on haon, arrivePacket, if_neg hgo]
  simp only [hroute, hpart, hf]

theorem arriveCounted : Claims.arriveCounted := fun port p n s hdel => by
  have taken {f u} (h : f (countedIn s port p) n = some u) := whenAon_arrivePacket_of_delivered (f := f) hdel h
  refine ⟨fun hbroken => taken (if_pos hbroken), fun hwhole hgen => taken ?_, fun hwhole hgen howner => taken ?_,
    fun c hwhole hgen howner hchild => taken ?_, fun hwhole hgen howner hnone => taken ?_⟩
  · exact (if_neg (ne_true_of_eq_false hwhole)).trans (if_pos hgen)
  all_goals refine (if_neg (ne_true_of_eq_false hwhole)).trans ((if_neg (not_not_intro hgen)).trans ?_)
  · exact if_pos howner
  all_goals refine (if_neg (not_not_intro howner)).trans ?_
  · split
    · next hnone => exact absurd (hchild.symm.trans hnone) (Option.some_ne_none c)
    · next d hd =>
      obtain rfl : c = d := Option.some.inj (hchild.symm.trans hd)
      rfl
  · split
    · rfl
    · next d hd => exact absurd (hd.symm.trans hnone) (Option.some_ne_none d)

theorem releaseTaken : Claims.releaseTaken := fun port p n s hdel hwhole => by
  have taken {f u} (h : f (countedIn s port p) n = some u) := whenAon_arrivePacket_of_delivered (f := f) hdel h
  refine ⟨fun hgen howner hparent hsource hawait => taken ?_, fun hgen hawait => taken ?_⟩
  all_goals refine (if_neg (ne_true_of_eq_false hwhole)).trans ((if_neg (not_not_intro hgen)).trans ?_)
  · exact if_pos ⟨howner, hparent, hsource, hawait⟩
  · exact if_neg fun ⟨_, _, _, h⟩ => ne_true_of_eq_false hawait h

end Sys2Proof.Machine

namespace Sys2Proof

/-- Settles O28: arrivals and time limits are read off their events' branches, a delivered message off its barrier's; and neither the
engines nor the messages that a release sends on touch a barrier, so it changes its own alone. -/
theorem barriersCountAndRelease : Obligations.BarriersCountAndRelease :=
  ⟨Machine.barrierArrives, Machine.barrierSettles, Machine.arriveCounted, Machine.releaseTaken, Machine.barrierTimesOut⟩

end Sys2Proof
end

section
/-! Trim regulators (R378, R379) -/

namespace Sys2Proof.Machine

/-- The state in which a regulator that had not failed is recorded as failed. -/
def trimRecorded (s : State) (reg : Nat) : State :=
  addDefect (raise { s with power := { s.power with trimFail := s.power.trimFail ++ [reg] } }
    { kind := kTrimFailed, unit := uTrim, id := reg }) kTrimFailed uTrim reg 2

variable {s : State} {reg : Fin 256}

theorem exec_trimRegulatorFail_of_failed (haon : s.aon = true) (hmem : reg.val ∈ s.power.trimFail) :
    exec (.trimRegulatorFail reg) s = .next s := by
  change execTrimRegulatorFail reg s = _
  rw [execTrimRegulatorFail, whenAon_of_on haon]
  exact congrArg _ (if_pos (.inl (List.contains_iff_mem.mpr hmem)))

/-- A new failure in an enabled cluster is recorded, and fences the cluster exactly if it is a partition's and has failed before. -/
theorem exec_trimRegulatorFail_of_new (haon : s.aon = true) (hon : clusterOn s.variant (reg.val / 8) = true)
    (hnew : reg.val ∉ s.power.trimFail) :
    exec (.trimRegulatorFail reg) s = .next
      (if s.power.trimFail.any (fun t => t / 8 == reg.val / 8) = true ∧
          (partOfCluster (trimRecorded s reg.val) (reg.val / 8)).isSome = true then
        fenceCluster (trimRecorded s reg.val) (reg.val / 8)
      else trimRecorded s reg.val) := by
  change execTrimRegulatorFail reg s = _
  rw [execTrimRegulatorFail, whenAon_of_on haon]
  refine congrArg _ (if_neg ?_)
  rintro (hold | hoff)
  · exact hnew (List.contains_iff_mem.mp hold)
  · exact ne_true_of_eq_false hoff hon

theorem trimFails : Claims.trimFails := fun reg s haon hon => by
  have hrun := exec_trimRegulatorFail_of_new haon hon
  refine ⟨exec_trimRegulatorFail_of_failed haon, fun hnew hfirst => (hrun hnew).trans (congrArg _ (if_neg ?_)),
    fun hnew ⟨x, hx, hsame⟩ hpart => (hrun hnew).trans (congrArg _ (if_pos ⟨?_, ?_⟩)),
    fun hnew hnone => (hrun hnew).trans (congrArg _ (if_neg ?_))⟩
  · rintro ⟨hsecond, -⟩
    obtain ⟨x, hx, hsame⟩ := List.any_eq_true.mp hsecond
    exact hfirst x hx (eq_of_beq hsame)
  · exact List.any_eq_true.mpr ⟨x, hx, beq_iff_eq.mpr hsame⟩
  · exact Option.isSome_iff_ne_none.mpr hpart
  · rintro ⟨-, hsome⟩
    exact Option.isSome_iff_ne_none.mp hsome hnone

end Sys2Proof.Machine
end

section
/-! Header stages (R380, R381) -/

namespace Sys2Proof.Machine

variable {s : State} {c : ClusterId} {droop : Bool} {pct : List Nat}

@[simp] theorem hdrAt_modHdr_same (s : State) (c : Nat) (f : Hdr → Hdr) : hdrAt (modHdr s c f) c = f (hdrAt s c) :=
  tget_tmod_same _ _ _

/-- A change of a header counts by what it makes of the header that stands there. -/
theorem modHdr_congr {c : Nat} {f g : Hdr → Hdr} (h : f (hdrAt s c) = g (hdrAt s c)) : modHdr s c f = modHdr s c g :=
  congrArg (fun v => { s with power := { s.power with hdr := tset {} s.power.hdr c v } }) h

/-- A stage before the eighth: the turn-on goes on. -/
theorem runStage_of_lt {c : Nat} (hstage : (hdrAt s c).stage < 7) :
    runStage s c = modHdr s c (fun h => { h with stage := h.stage + 1, last := s.time, turning := true }) := by
  rw [runStage, if_pos hstage]
  exact modHdr_congr (by simp [hstage])

/-- The eighth stage ends the turn-on and fills the cluster's L2 (log 104). -/
theorem runStage_of_last {c : Nat} (hstage : (hdrAt s c).stage = 7) :
    runStage s c = fillL2 (modHdr s c (fun h => { h with stage := 8, last := s.time, turning := false })) c := by
  rw [runStage, if_neg (by omega)]
  exact congrArg (fillL2 · c) (modHdr_congr (by simp [hstage]))

/-- A checked stage may run now: the headers turn on, are not forced, and the time and the rail allow it. -/
structure StageDue (s : State) (c : Nat) : Prop where
  turning : (hdrAt s c).turning = true
  unforced : (hdrAt s c).forced = false
  spaced : 50 ≤ since s (hdrAt s c).last
  settled : railSettled s c = true

/-- The contributions that a forced turn-on gives the partitions of the adjacent clusters at peak (R381). -/
def peaksNoted (s : State) (c : Nat) (pct : List Nat) : State :=
  (((besides c).zip pct).filter (fun x => decide (peakPct s ≤ x.2))).foldl (fun s x => match partOfCluster s x.1 with
    | some n => { s with power := { s.power with stagePart := tset false s.power.stagePart (8 * c + n) true } }
    | none => s) s

/-- What a stage that is due comes to: it runs, waits, or is forced from now on (log 104). -/
def dueStage (s : State) (c : Nat) (droop : Bool) (pct : List Nat) : State :=
  if droop = false ∧ pct.all (fun p => decide (p < peakPct s)) = true then runStage s c
  else if (hdrAt s c).waited < 1000 then modHdr s c (fun h => { h with waited := h.waited + 1, last := s.time - 25 })
  else modHdr (peaksNoted s c pct) c (fun h => { h with forced := true })

theorem exec_headerStage_of_idle (haon : s.aon = true)
    (hidle : (hdrAt s c.val).turning = false ∨ since s (hdrAt s c.val).last < 50) :
    exec (.headerStage c droop pct) s = .next s := by
  change execHeaderStage c droop pct s = _
  rw [execHeaderStage, whenAon_of_on haon]
  refine congrArg _ (if_pos ?_)
  rcases hidle with hoff | hsoon
  · exact .inl hoff
  · exact .inr (.inr (.inl hsoon))

theorem exec_headerStage_of_due (haon : s.aon = true) (hdue : StageDue s c.val) :
    exec (.headerStage c droop pct) s = .next (dueStage s c.val droop pct) := by
  obtain ⟨hturning, hunforced, hspaced, hsettled⟩ := hdue
  change execHeaderStage c droop pct s = _
  rw [execHeaderStage, whenAon_of_on haon]
  refine congrArg _ (if_neg ?_)
  rintro (hoff | hforced | hsoon | hrising)
  · exact ne_true_of_eq_false hoff hturning
  · exact ne_true_of_eq_false hunforced hforced
  · exact Nat.not_lt.mpr hspaced hsoon
  · exact ne_true_of_eq_false hrising hsettled

/-- The checks of R380: no droop, and no adjacent cluster at peak. -/
def ChecksPass (s : State) (droop : Bool) (pct : List Nat) : Prop := droop = false ∧ ∀ p ∈ pct, p < peakPct s

theorem checksPass_iff : droop = false ∧ pct.all (fun p => decide (p < peakPct s)) = true ↔ ChecksPass s droop pct := by
  simp only [ChecksPass, List.all_eq_true, decide_eq_true_eq]

theorem dueStage_of_clear {c : Nat} (hclear : ChecksPass s droop pct) :
    dueStage s c droop pct = runStage s c :=
  if_pos (checksPass_iff.mpr hclear)

theorem dueStage_of_waits {c : Nat} (hfail : ¬ ChecksPass s droop pct)
    (hwaited : (hdrAt s c).waited < 1000) :
    dueStage s c droop pct = modHdr s c (fun h => { h with waited := h.waited + 1, last := s.time - 25 }) :=
  (if_neg (mt checksPass_iff.mp hfail)).trans (if_pos hwaited)

theorem dueStage_of_waited {c : Nat} (hfail : ¬ ChecksPass s droop pct)
    (hwaited : 1000 ≤ (hdrAt s c).waited) :
    dueStage s c droop pct = modHdr (peaksNoted s c pct) c (fun h => { h with forced := true }) :=
  (if_neg (mt checksPass_iff.mp hfail)).trans (if_neg (Nat.not_lt.mpr hwaited))

/-- The contributions of a forced turn-on change nothing else. -/
theorem peaksNoted_changes_stagePart (s : State) (c : Nat) (pct : List Nat) :
    ∃ m, peaksNoted s c pct = { s with power := { s.power with stagePart := m } } := by
  rw [peaksNoted]
  generalize ((besides c).zip pct).filter (fun x => decide (peakPct s ≤ x.2)) = peaks
  induction peaks generalizing s with
  | nil => exact ⟨s.power.stagePart, rfl⟩
  | cons x peaks ih =>
    rw [List.foldl_cons]
    split
    · obtain ⟨m, hm⟩ := ih { s with power := { s.power with stagePart := _ } }
      exact ⟨m, hm⟩
    · exact ih s

@[simp] theorem hdrAt_peaksNoted (s : State) (c : Nat) (pct : List Nat) (k : Nat) :
    hdrAt (peaksNoted s c pct) k = hdrAt s k := by
  obtain ⟨m, hm⟩ := peaksNoted_changes_stagePart s c pct
  rw [hm]
  rfl

/-- A stage forced after the last wait: the header alone is marked, beside the contributions. -/
theorem forced_keeps_stage (s : State) (c : Nat) (pct : List Nat) :
    let t := modHdr (peaksNoted s c pct) c (fun h => { h with forced := true })
    (hdrAt t c).forced = true ∧ (hdrAt t c).stage = (hdrAt s c).stage ∧ t = { s with power := t.power } := by
  refine ⟨?_, ?_, ?_⟩
  · rw [hdrAt_modHdr_same]
  · rw [hdrAt_modHdr_same, hdrAt_peaksNoted]
  · obtain ⟨m, hm⟩ := peaksNoted_changes_stagePart s c pct
    rw [hm]
    rfl

/-! Forced stages -/

/-- A forced stage that is due runs whatever the checks would find; after the last its contributions are lifted, and it is recorded. -/
theorem exec_headerStageForced_of_due (haon : s.aon = true) (hforced : (hdrAt s c.val).forced = true)
    (hspaced : 50 ≤ since s (hdrAt s c.val).last) :
    exec (.headerStageForced c) s = .next (if (hdrAt s c.val).turning then runStage s c.val else raise (modHdr
      { s with power := { s.power with stagePart := s.power.stagePart.filter (fun x => x.1 / 8 != c.val) } } c.val
        (fun h => { h with forced := false })) { kind := kHeaderForced, unit := uCluster, id := c.val }) := by
  change execHeaderStageForced c s = _
  rw [execHeaderStageForced, whenAon_of_on haon]
  refine congrArg _ (if_neg ?_)
  rintro (hchecked | hsoon)
  · exact ne_true_of_eq_false hchecked hforced
  · exact Nat.not_lt.mpr hspaced hsoon

theorem headersTurnOn : Claims.headersTurnOn := fun c droop pct s haon => by
  refine ⟨fun hturning hunforced hspaced hsettled => ?_, fun hidle _ => exec_headerStage_of_idle haon hidle,
    fun hforced hspaced => ?_⟩
  · have due {t} (ht : dueStage s c.val droop pct = t) : exec (.headerStage c droop pct) s = .next t :=
      ht ▸ exec_headerStage_of_due haon ⟨hturning, hunforced, hspaced, hsettled⟩
    exact ⟨fun hclear hstage => due ((dueStage_of_clear hclear).trans (runStage_of_lt hstage)),
      fun hclear hstage => due ((dueStage_of_clear hclear).trans (runStage_of_last hstage)),
      fun hfail hwaited => due (dueStage_of_waits hfail hwaited),
      fun hfail hwaited => ⟨_, due (dueStage_of_waited hfail hwaited), forced_keeps_stage s c.val pct⟩⟩
  · have hexec := exec_headerStageForced_of_due haon hforced hspaced
    exact ⟨fun hturning hstage => hexec.trans (congrArg _ <| (if_pos hturning).trans (runStage_of_lt hstage)),
      fun hturning hstage => hexec.trans (congrArg _ <| (if_pos hturning).trans (runStage_of_last hstage)),
      fun hturned => hexec.trans (congrArg _ (if_neg (ne_true_of_eq_false hturned)))⟩

end Sys2Proof.Machine
end

section
/-! AVSBus rails (R375): their steps and their read-backs. -/

namespace Sys2Proof.Machine

variable {s : State} {a : Nat} {mv : Option Nat} {alert : Bool}

@[simp] theorem avsAt_modAvs_same (s : State) (a : Nat) (f : Avs → Avs) : avsAt (modAvs s a f) a = f (avsAt s a) :=
  tget_tmod_same _ _ _

@[simp] theorem avsAt_modAvs_ne (s : State) {a b : Nat} (f : Avs → Avs) (h : b ≠ a) : avsAt (modAvs s a f) b = avsAt s b :=
  tget_tmod_ne _ _ h

/-! Steps -/

/-- A step up gets nearer by at most 50 mV, and not past the value wanted. -/
theorem stepMv_of_lt {t w : Nat} (h : t < w) : t < stepMv t w ∧ stepMv t w ≤ t + 50 ∧ stepMv t w ≤ w := by
  rw [stepMv, if_pos h]
  omega

/-- A step down gets nearer by at most 50 mV, and not past the value wanted. -/
theorem stepMv_of_gt {t w : Nat} (h : w < t) : stepMv t w < t ∧ t ≤ stepMv t w + 50 ∧ w ≤ stepMv t w := by
  rw [stepMv, if_neg (Nat.not_lt.mpr (Nat.le_of_lt h))]
  omega

/-- A step between two targets fits the register's 12 bits. -/
theorem toNat_stepMv (t w : BitVec 12) : (BitVec.ofNat 12 (stepMv t.toNat w.toNat)).toNat = stepMv t.toNat w.toNat := by
  rw [BitVec.toNat_ofNat, Nat.mod_eq_of_lt]
  have ht := t.isLt
  have hw := w.isLt
  unfold stepMv
  split <;> omega

theorem avsAt_avsWrite_of_pending (h : (avsAt s a).written ≠ none) : avsAt (avsWrite s a) a = avsAt s a := by
  rw [avsWrite, avsAt_modAvs_same, if_pos (.inl (Option.isSome_iff_ne_none.mpr h))]

theorem avsAt_avsWrite_of_free (hfree : (avsAt s a).written = none) (hfar : (avsAt s a).target ≠ (avsAt s a).want) :
    avsAt (avsWrite s a) a = { avsAt s a with
      target := BitVec.ofNat 12 (stepMv (avsAt s a).target.toNat (avsAt s a).want.toNat), written := some s.time, retries := 0 } := by
  rw [avsWrite, avsAt_modAvs_same, if_neg]
  rintro (hpending | hthere)
  · exact Option.isSome_iff_ne_none.mp hpending hfree
  · exact hfar hthere

theorem railsStep : Claims.railsStep := fun a s => by
  refine ⟨avsAt_avsWrite_of_pending, fun hfree hfar => ?_, fun b hb => avsAt_modAvs_ne _ _ hb⟩
  simp only [avsAt_avsWrite_of_free hfree hfar, toNat_stepMv, true_and]
  rcases Nat.lt_or_gt_of_ne (mt BitVec.eq_of_toNat_eq hfar) with hup | hdown
  · have hstep := stepMv_of_lt hup
    omega
  · have hstep := stepMv_of_gt hdown
    omega

/-! Read-backs -/

/-- A rail's record with the voltage that a read-back gave, if it gave one. -/
def seenMv (mv : Option Nat) (r : Avs) : Avs :=
  match mv with
  | some m => { r with readback := BitVec.ofNat 12 m }
  | none => r

theorem seenMv_changes_readback (mv : Option Nat) (r : Avs) : ∃ v, seenMv mv r = { r with readback := v } :=
  match mv with
  | some m => ⟨BitVec.ofNat 12 m, rfl⟩
  | none => ⟨r.readback, rfl⟩

/-- A read-back that R375 takes: no alert, and a voltage within 10 mV of the target. -/
def ReadsWell (r : Avs) (mv : Option Nat) (alert : Bool) : Prop :=
  alert = false ∧ mv.any (fun m => decide (m ≤ r.target.toNat + 10 ∧ r.target.toNat ≤ m + 10)) = true

theorem avsReadback_of_good (hpending : (avsAt s a).written ≠ none) (hgood : ReadsWell (avsAt s a) mv alert) :
    avsReadback s a mv alert = avsWrite (modAvs s a (fun r => { r with
      readback := BitVec.ofNat 12 (mv.getD 0), good := r.target, fault := false, retries := 0, written := none })) a := by
  obtain ⟨rfl, hnear⟩ := hgood
  cases mv with
  | none => exact absurd hnear Bool.false_ne_true
  | some m =>
    obtain ⟨hlow, hhigh⟩ := of_decide_eq_true hnear
    simp [avsReadback, hpending, hlow, hhigh]

/-- A read-back that R375 does not take is retried, or is the third failure, which keeps the last good setpoint (log 103). -/
theorem avsReadback_of_bad (hpending : (avsAt s a).written ≠ none) (hbad : ¬ ReadsWell (avsAt s a) mv alert) :
    avsReadback s a mv alert = if (avsAt s a).retries < 2 then
        modAvs s a (fun r => { seenMv mv r with retries := r.retries + 1, written := some s.time })
      else raise (modAvs s a (fun r => { seenMv mv r with
        target := r.good, want := r.good, fault := true, retries := 0, written := none }))
          { kind := kAvsFault, unit := uRail, id := a } := by
  cases mv with
  | none => simp [avsReadback, hpending, seenMv]
  | some m =>
    have hfail : (!alert && decide (m ≤ (avsAt s a).target.toNat + 10) && decide ((avsAt s a).target.toNat ≤ m + 10)) = false := by
      simpa [ReadsWell] using hbad
    simp [avsReadback, hpending, hfail, seenMv]

theorem exec_avsReadback_of_pending {rail : Fin 6} {w : W64} (haon : s.aon = true)
    (hw : (avsAt s rail.val).written = some w) : exec (.avsReadback rail mv alert) s = .next
      (if since s w < 3750 then s else avsReadback s rail.val mv alert) := by
  change execAvsReadback rail mv alert s = _
  rw [execAvsReadback, whenAon_of_on haon]
  simp only [hw]

theorem railsReadBack : Claims.railsReadBack := fun rail mv alert w s haon hw => by
  have hpending : (avsAt s rail.val).written ≠ none := hw ▸ Option.some_ne_none w
  have hexec := exec_avsReadback_of_pending (mv := mv) (alert := alert) haon hw
  have due {t} (hdue : 3750 ≤ since s w) (ht : avsReadback s rail.val mv alert = t) :
      exec (.avsReadback rail mv alert) s = .next t := by
    rw [hexec, if_neg (Nat.not_lt.mpr hdue), ht]
  refine ⟨fun hearly => hexec.trans (congrArg _ (if_pos hearly)), fun hdue hgood => due hdue (avsReadback_of_good hpending hgood),
    fun hdue hbad hagain => ⟨_, due hdue ((avsReadback_of_bad hpending hbad).trans (if_pos hagain)), ?_⟩,
    fun hdue hbad hthird => ⟨_, due hdue ((avsReadback_of_bad hpending hbad).trans (if_neg (Nat.not_lt.mpr hthird))), ?_⟩⟩
  all_goals
    rw [avsAt_modAvs_same]
    obtain ⟨v, hv⟩ := seenMv_changes_readback mv (avsAt s rail.val)
    rw [hv]
  · exact ⟨rfl, rfl, rfl, rfl, rfl⟩
  · exact ⟨rfl, rfl, rfl, rfl⟩

end Sys2Proof.Machine
end

section
/-! CURRENT_TELEMETRY_CHECK (R382) -/

namespace Sys2Proof.Machine

variable {s : State} {sum read : Nat}

theorem differ_iff : differ sum read = true ↔ sum < 10 * (sum - read) ∨ sum < 10 * (read - sum) := by
  simp [differ]

/-- Rail 0 with n disagreeing seconds in a row on record. -/
def mismatchSet (s : State) (n : Nat) : State :=
  { s with power := { s.power with mismatch := tset 0 s.power.mismatch 0 n } }

/-- A check of one rail records the seconds in a row that it has differed, and raises the tenth. -/
theorem exec_currentTelemetryCheck_one {n : Nat} (haon : s.aon = true)
    (hn : (if differ sum read then tget 0 s.power.mismatch 0 + 1 else 0) = n) :
    exec (.currentTelemetryCheck [sum] [read]) s = .next (if n = 10 then
      raise (mismatchSet s (min n 11)) { kind := kCurrentMismatch, unit := uRail, id := 0 } else mismatchSet s (min n 11)) := by
  subst hn
  change execCurrentTelemetryCheck [sum] [read] s = _
  rw [execCurrentTelemetryCheck, whenAon_of_on haon]
  rfl

theorem telemetryChecked : Claims.telemetryChecked := fun sum read s haon => by
  refine ⟨fun hagree => exec_currentTelemetryCheck_one haon (if_neg (mt differ_iff.mp hagree)), fun hdiffer hfew => ?_,
    fun hdiffer hnine => ?_⟩
  all_goals refine (exec_currentTelemetryCheck_one haon (if_pos (differ_iff.mpr hdiffer))).trans (congrArg _ ?_)
  · rw [if_neg (by omega), Nat.min_eq_left (by omega)]
    rfl
  · rw [hnine]
    rfl

end Sys2Proof.Machine

namespace Sys2Proof

/-- Settles O35: each event's branch is read off the model once, a stage or a step counts by what it makes of its own header or rail,
and what a forced turn-on gives its neighbours touches no header. -/
theorem headersTrimsAndRails : Obligations.HeadersTrimsAndRails :=
  ⟨Machine.trimFails, Machine.headersTurnOn, Machine.railsReadBack, Machine.railsStep, Machine.telemetryChecked⟩

end Sys2Proof
end

section

/-! The operations of the model leave the root of trust as it is, but for its own (R491–R503) and those of resets and
starts: one lemma for each operation, in the order of their dependence. -/

namespace Sys2Proof.Machine

/-- The root of trust of a state, as a function of its own: the field itself would be unfolded through whole operations
whenever two of its values are compared. -/
def State.trust (s : State) : Rot := s.rot

/-- An update of other fields, as { s with … } elaborates to it, leaves the root of trust as it was. -/
@[simp] theorem trust_mk
    x0 x1 x2 x3 x4 x5 x6 x7 x8 x9 x10 x11 x12 x13 x14 x15 x16 x17 x18 x19 x20 x21 x22 x23
    x24 x25 x26 x27 x28 x29 x30 x31 x32 x33 x34 x35 x36 x37 x38 x39 x40 x41 x42 x43 x44 x45 x46 x47
    x48 x49 x50 x51 x52 x54 x55 x56 x57 x58 x59 x60 x61 (s : State) :
    State.trust (State.mk x0 x1 x2 x3 x4 x5 x6 x7 x8 x9 x10 x11 x12 x13 x14 x15 x16 x17 x18
      x19 x20 x21 x22 x23 x24 x25 x26 x27 x28 x29 x30 x31 x32 x33 x34 x35 x36 x37 x38 x39 x40 x41 x42
      x43 x44 x45 x46 x47 x48 x49 x50 x51 x52 s.rot x54 x55 x56 x57 x58 x59 x60 x61) = s.trust := rfl

@[simp] theorem trust_ite (c : Prop) [Decidable c] (s t : State) :
    (if c then s else t).trust = if c then s.trust else t.trust := by
  split <;> rfl
@[simp] theorem trust_fst_ite {α : Type} (c : Prop) [Decidable c] (x y : State × α) :
    (if c then x else y).1.trust = if c then x.1.trust else y.1.trust := by split <;> rfl
@[simp] theorem trust_snd_ite {α : Type} (c : Prop) [Decidable c] (x y : α × State) :
    (if c then x else y).2.trust = if c then x.2.trust else y.2.trust := by split <;> rfl
@[simp] theorem foldl_trust {β : Type} (f : State → β → State) (l : List β) (s : State)
    (h : ∀ s x, (f s x).trust = s.trust) : (l.foldl f s).trust = s.trust :=
  foldl_proj State.trust f l s h
@[simp] theorem foldl_fst_trust {α β : Type} (f : State × α → β → State × α) (l : List β) (a : State × α)
    (h : ∀ a x, (f a x).1.trust = a.1.trust) : (l.foldl f a).1.trust = a.1.trust :=
  List.foldlRecOn l f (motive := fun b => b.1.trust = a.1.trust) rfl fun b hb x _ => (h b x).trans hb
@[simp] theorem foldl_snd_trust {α β : Type} (f : α × State → β → α × State) (l : List β) (a : α × State)
    (h : ∀ a x, (f a x).2.trust = a.2.trust) : (l.foldl f a).2.trust = a.2.trust :=
  List.foldlRecOn l f (motive := fun b => b.2.trust = a.2.trust) rfl fun b hb x _ => (h b x).trans hb

/-! Units, host transactions, records and descriptors (R3, R299, R315–R320, R479–R486) -/

@[simp] theorem setReg_trust (s : State) (off : Nat) (v : W32) : (setReg s off v).trust = s.trust := by
  unfold setReg; split <;> simp
@[simp] theorem tackMessage_trust (s : State) (src dst chan : Nat) : (tackMessage s src dst chan).trust = s.trust := by
  simp [tackMessage]
@[simp] theorem tackRead_trust (s : State) (off : Nat) : (tackRead s off).trust = s.trust := by
  unfold tackRead; split <;> simp
@[simp] theorem modPart_trust (s : State) (n : Nat) (f : Part → Part) : (modPart s n f).trust = s.trust := by
  simp [modPart]
@[simp] theorem modCore_trust (s : State) (n : Nat) (f : Core → Core) : (modCore s n f).trust = s.trust := by
  simp [modCore]
@[simp] theorem modNal_trust (s : State) (p : NPort) (f : Nal → Nal) : (modNal s p f).trust = s.trust := by
  simp [modNal]
@[simp] theorem modMya_trust (s : State) (n : Nat) (f : Mya → Mya) : (modMya s n f).trust = s.trust := by
  simp [modMya]
@[simp] theorem modRing_trust (s : State) (p : NPort) (r : RingId) (f : Ring → Ring) :
    (modRing s p r f).trust = s.trust := by simp [modRing]
@[simp] theorem modErr_trust (s : State) (p : NPort) (f : ErrRing → ErrRing) : (modErr s p f).trust = s.trust := by
  simp [modErr]
@[simp] theorem modNbu_trust (s : State) (id : Nat) (f : Nbu → Nbu) : (modNbu s id f).trust = s.trust := by
  simp [modNbu]
@[simp] theorem modBar_trust (s : State) (k : Nat) (f : Bar → Bar) : (modBar s k f).trust = s.trust := by
  simp [modBar]
@[simp] theorem modStk_trust (s : State) (n : Nat) (f : Stk → Stk) : (modStk s n f).trust = s.trust := by
  simp [modStk]
@[simp] theorem modCores_trust (s : State) (n : Nat) (f : Core → Core) : (modCores s n f).trust = s.trust := by
  simp [modCores]
@[simp] theorem pushTxn_trust (s : State) (p : NPort) (t : Txn) : (pushTxn s p t).trust = s.trust := by
  simp [pushTxn]
@[simp] theorem pushTxns_trust (s : State) (p : NPort) (l : List Txn) : (pushTxns s p l).trust = s.trust := by
  simp [pushTxns]
@[simp] theorem pumpReads_trust (s : State) (p : NPort) (m : Nat) : (pumpReads s p m).trust = s.trust := by
  fun_induction pumpReads s p m <;> simp_all
@[simp] theorem askRead_trust (s : State) (p : NPort) (r : Mrd) : (askRead s p r).trust = s.trust := by
  simp [askRead]
@[simp] theorem setFetch_trust (s : State) (id : Reader) (f : Fetch) : (setFetch s id f).trust = s.trust := by
  simp [setFetch]
@[simp] theorem dropFetch_trust (s : State) (id : Reader) : (dropFetch s id).trust = s.trust := by simp [dropFetch]
@[simp] theorem askFetch_trust (s : State) (f : Fetch) (off : Nat) : (askFetch s f off).trust = s.trust := by
  simp [askFetch]
@[simp] theorem beginFetch_trust (s : State) (id : Reader) (p : NPort) (addr : W64) (len : Nat) :
    (beginFetch s id p addr len).trust = s.trust := by simp [beginFetch]
@[simp] theorem fetched_trust (s : State) (id : Reader) (p : NPort) (addr : W64) (len : Nat)
    (k : State → HostRead → State) (h : ∀ u x, (k u x).trust = u.trust) :
    (fetched s id p addr len k).trust = s.trust := by fun_cases fetched s id p addr len k <;> simp_all
@[simp] theorem afterFlush_trust (s : State) (q : NPort) (l : List Txn) : (afterFlush s q l).trust = s.trust := by
  simp [afterFlush]
@[simp] theorem ringWrite_trust (s : State) (p : NPort) (r : Rec) : (ringWrite s p r).1.trust = s.trust := by
  simp [ringWrite]
@[simp] theorem writeRec_trust (s : State) (rep : Report) (flags count : Nat) (time : W64) (detail : Nat) :
    (writeRec s rep flags count time detail).trust = s.trust := by simp [writeRec]
@[simp] theorem stormCount_trust (s : State) (kind : Nat) : (stormCount s kind).trust = s.trust := by
  simp [stormCount]
@[simp] theorem stormReport_trust (s : State) (rep : Report) : (stormReport s rep).trust = s.trust := by
  simp [stormReport]
@[simp] theorem raise_trust (s : State) (rep : Report) : (raise s rep).trust = s.trust := by simp [raise]
@[simp] theorem darnFrame_trust (s : State) : (darnFrame s).trust = s.trust := by simp [darnFrame]
@[simp] theorem finish_trust (s : State) (ref : DescRef) (status : Byte) (detail result : W64)
    (dataPorts : List NPort) : (finish s ref status detail result dataPorts).trust = s.trust := by
  simp [finish]; split <;> simp
@[simp] theorem advanceRing_trust (s : State) (p : NPort) (r : RingId) (m : Nat) :
    (advanceRing s p r m).trust = s.trust := by fun_induction advanceRing s p r m <;> simp_all
@[simp] theorem settleRing_trust (s : State) (p : NPort) (r : RingId) : (settleRing s p r).trust = s.trust := by
  simp [settleRing]
@[simp] theorem complete_trust (s : State) (ref : DescRef) (status : Byte) (detail result : W64)
    (dataPorts : List NPort) : (complete s ref status detail result dataPorts).trust = s.trust := by simp [complete]
@[simp] theorem reject_trust (s : State) (ref : DescRef) (status : Byte) (order item : Nat) :
    (reject s ref status order item).trust = s.trust := by simp [reject]
@[simp] theorem acceptDesc_trust (s : State) (ref : DescRef) : (acceptDesc s ref).trust = s.trust := by
  simp [acceptDesc]
@[simp] theorem completeOk_trust (s : State) (ref : DescRef) (result : W64) :
    (completeOk s ref result).trust = s.trust := by simp [completeOk]
@[simp] theorem withDescriptor_trust (s : State) (p : NPort) (r : RingId) (op : Byte)
    (k : State → DescRef → Desc → State) (h : ∀ u ref d, (k u ref d).trust = u.trust) :
    (withDescriptor s p r op k).trust = s.trust := by
  unfold withDescriptor; dsimp only; split
  · split
    · rw [h, settleRing_trust]
    · exact settleRing_trust _ _ _
  · exact settleRing_trust _ _ _
@[simp] theorem refuseRead_trust (s : State) (ref : DescRef) (st : Byte) : (refuseRead s ref st).trust = s.trust := by
  simp [refuseRead]
@[simp] theorem withRead_trust (s : State) (ref : DescRef) (addr : W64) (len : Nat) (k : State → List Byte → State)
    (h : ∀ u x, (k u x).trust = u.trust) : (withRead s ref addr len k).trust = s.trust :=
  fetched_trust _ _ _ _ _ _ fun u r => by split <;> simp [h]
@[simp] theorem idleTick_trust (s : State) : (idleTick s).trust = s.trust := by simp [idleTick]
@[simp] theorem takeFree_trust (s : State) : (takeFree s).2.trust = s.trust := by simp [takeFree]

/-! The coded memories (R260–R273) -/

@[simp] theorem setMem_trust (s : State) (id : MemId) (m : CodeMem) : (setMem s id m).trust = s.trust := by
  unfold setMem; split <;> simp
@[simp] theorem modEcc_trust (s : State) (key : Nat) (f : EccInst → EccInst) : (modEcc s key f).trust = s.trust := by
  simp [modEcc]
@[simp] theorem flagCandidate_trust (s : State) (key addr : Nat) : (flagCandidate s key addr).trust = s.trust := by
  simp [flagCandidate]
@[simp] theorem noteCorrected_trust (s : State) (key addr : Nat) (y : Byte) :
    (noteCorrected s key addr y).trust = s.trust := by simp [noteCorrected]; split <;> simp
@[simp] theorem noteUncorrectable_trust (s : State) (key addr : Nat) :
    (noteUncorrectable s key addr).trust = s.trust := by simp [noteUncorrectable]
@[simp] theorem notePoison_trust (s : State) (key : Nat) : (notePoison s key).trust = s.trust := by
  simp [notePoison]
@[simp] theorem noteLink_trust (s : State) (cls detail : Nat) : (noteLink s cls detail).trust = s.trust := by
  simp [noteLink]
@[simp] theorem countPoison_trust (s : State) (cls : Nat) (l : List (W64 × Bool)) :
    (countPoison s cls l).trust = s.trust := by simp [countPoison]
@[simp] theorem crossWords_trust (s : State) (cls detail : Nat) (bad : List Nat) (l : List (W64 × Bool)) :
    (crossWords s cls detail bad l).2.trust = s.trust := by simp [crossWords]
@[simp] theorem storeWord_trust (s : State) (id : MemId) (w : Nat) (d : W64) (c : Byte) :
    (storeWord s id w d c).trust = s.trust := by simp [storeWord]
@[simp] theorem writeBack_trust (s : State) (id : MemId) (w : Nat) (d : W64) (c : Byte) :
    (writeBack s id w d c).trust = s.trust := by simp [writeBack]
@[simp] theorem readWord_trust (s : State) (id : MemId) (w : Nat) : (readWord s id w).2.trust = s.trust := by
  simp [readWord]; split <;> simp
@[simp] theorem readWords_trust (s : State) (id : MemId) (w m : Nat) : (readWords s id w m).2.trust = s.trust := by
  induction m generalizing s w with
  | zero => rfl
  | succ n ih => simp [readWords, ih]
@[simp] theorem writeWord_trust (s : State) (id : MemId) (w : Nat) (x : W64 × Bool) :
    (writeWord s id w x).trust = s.trust := by simp [writeWord]
@[simp] theorem fillZero_trust (s : State) (id : MemId) : (fillZero s id).trust = s.trust := by simp [fillZero]
@[simp] theorem writeWords_trust (s : State) (id : MemId) (w : Nat) (l : List (W64 × Bool)) :
    (writeWords s id w l).trust = s.trust := by fun_induction writeWords s id w l <;> simp_all
@[simp] theorem readMem_trust (s : State) (id : MemId) (a n : Nat) : (readMem s id a n).2.trust = s.trust := by
  simp [readMem]
@[simp] theorem mergeWord_trust (s : State) (id : MemId) (w o : Nat) (bytes : List Byte) (p : Bool) :
    (mergeWord s id w o bytes p).trust = s.trust := by simp [mergeWord]
@[simp] theorem writeMem_trust (s : State) (id : MemId) (a : Nat) (p : Bool) (n : Nat) (b : List Byte) :
    (writeMem s id a p n b).trust = s.trust := by
  induction n generalizing s a b with
  | zero => simp [writeMem]
  | succ n ih => cases b <;> simp [writeMem, ih]
@[simp] theorem writeRun_trust (s : State) (id : MemId) (a n : Nat) (b : List (Byte × Bool)) :
    (writeRun s id a n b).trust = s.trust := by
  induction n generalizing s a b with
  | zero => simp [writeRun]
  | succ n ih => cases b <;> simp [writeRun, ih]
@[simp] theorem writeBytes_trust (s : State) (id : MemId) (a : Nat) (b : List Byte) (p : Bool) :
    (writeBytes s id a b p).trust = s.trust := by simp [writeBytes]
@[simp] theorem readStack_trust (s : State) (a m : Nat) : (readStack s a m).2.trust = s.trust := by
  induction m generalizing s a with
  | zero => rfl
  | succ n ih => simp [readStack, ih]
@[simp] theorem readTable_trust (s : State) (a n : Nat) : (readTable s a n).trust = s.trust := by simp [readTable]
@[simp] theorem writeStack_trust (s : State) (a : Nat) (l : List (W64 × Bool)) :
    (writeStack s a l).trust = s.trust := by fun_induction writeStack s a l <;> simp_all
@[simp] theorem releaseDeferred_trust (s : State) : (releaseDeferred s).trust = s.trust := by
  refine foldl_trust _ _ _ fun t w => ?_
  split
  · rfl
  · dsimp only; split <;> simp
@[simp] theorem reportPoison_trust (s : State) (n : Nat) (station : Option Nat) :
    (reportPoison s n station).trust = s.trust := by simp [reportPoison]
@[simp] theorem consumePoison_trust (s : State) (n : Nat) (station : Option Nat) :
    (consumePoison s n station).trust = s.trust := by simp [consumePoison]
@[simp] theorem readTile_trust (s : State) (id : MemId) (a tag kc : Nat) :
    (readTile s id a tag kc).2.trust = s.trust := by simp [readTile]
@[simp] theorem writePieces_trust (s : State) (id : MemId) (a : Nat) (l : List (Nat × List Byte × Bool)) :
    (writePieces s id a l).trust = s.trust := by fun_induction writePieces s id a l <;> simp_all
@[simp] theorem writeTile_trust (s : State) (id : MemId) (a : Nat) (f : OutForm) (rows : Nat) (l : List OutBlk) :
    (writeTile s id a f rows l).trust = s.trust := by simp [writeTile]

/-! The engines of a core and the defect list (R88–R91, R449–R451) -/

@[simp] theorem coreConsumes_trust (s : State) (core e : Nat) : (coreConsumes s core e).trust = s.trust := by
  unfold coreConsumes; split <;> simp
@[simp] theorem addStats_trust (s : State) (n st : Nat) (l : List Nat) : (addStats s n st l).trust = s.trust := by
  simp [addStats]
@[simp] theorem countCensus_trust (s : State) (core e : Nat) (c : Census) :
    (countCensus s core e c).trust = s.trust := by unfold countCensus; (repeat' split) <;> simp
@[simp] theorem trailerMismatch_trust (s : State) (core e : Nat) (side : TileSide) :
    (trailerMismatch s core e side).trust = s.trust := by unfold trailerMismatch; split <;> simp
@[simp] theorem coreCount_trust (s : State) (core off n : Nat) : (coreCount s core off n).trust = s.trust := by
  simp [coreCount]
@[simp] theorem coreCycles_trust (s : State) (core off : Nat) : (coreCycles s core off).trust = s.trust := by
  simp [coreCycles]
@[simp] theorem stalled_trust (s : State) (core e : Nat) : (stalled s core e).trust = s.trust := by simp [stalled]
@[simp] theorem stopRun_trust (s : State) (n : Nat) (e : Ending) : (stopRun s n e).trust = s.trust := by
  unfold stopRun; split <;> simp
@[simp] theorem haltIllegal_trust (s : State) (core e : Nat) (st : Byte) :
    (haltIllegal s core e st).trust = s.trust := by unfold haltIllegal; split <;> simp
@[simp] theorem postPeg_trust (s : State) (core e q k : Nat) : (postPeg s core e q k).trust = s.trust := by
  simp [postPeg]
@[simp] theorem retireHead_trust (s : State) (core e : Nat) : (retireHead s core e).trust = s.trust := by
  simp [retireHead]; split <;> simp
@[simp] theorem passHead_trust (s : State) (core e : Nat) : (passHead s core e).trust = s.trust := by
  simp [passHead]
@[simp] theorem jumpTo_trust (s : State) (core e target : Nat) : (jumpTo s core e target).trust = s.trust := by
  simp [jumpTo]
@[simp] theorem issueIf_trust (s : State) (core e fn : Nat) (free : Core → IWord → Bool)
    (check : State → Core → Eng → IWord → Option Byte) (effect : State → IWord → State)
    (h : ∀ u x, (effect u x).trust = u.trust) : (issueIf s core e fn free check effect).trust = s.trust := by
  fun_cases issueIf s core e fn free check effect <;> simp_all
@[simp] theorem issue_trust (s : State) (core e fn : Nat) (check : State → Core → Eng → IWord → Option Byte)
    (effect : State → IWord → State) (h : ∀ u x, (effect u x).trust = u.trust) :
    (issue s core e fn check effect).trust = s.trust := issueIf_trust _ _ _ _ _ _ _ h
@[simp] theorem launch_trust (s : State) (core e : Nat) (w : IWord) (f : InFlight) (oneCycle : Bool) :
    (launch s core e w f oneCycle).trust = s.trust := by simp [launch]
@[simp] theorem issued_trust (s : State) (core e : Nat) (w : IWord) (f : InFlight) (oneCycle : Bool) :
    (issued s core e w f oneCycle).trust = s.trust := by simp [issued]
@[simp] theorem issuedData_trust (s : State) (core e : Nat) (w : IWord) (f : InFlight) :
    (issuedData s core e w f).trust = s.trust := by simp [issuedData]
@[simp] theorem addDefect_trust (s : State) (rec unit id : Nat) (src : BitVec 2) :
    (addDefect s rec unit id src).trust = s.trust := by simp [addDefect]
@[simp] theorem fenceCluster_trust (s : State) (c : Nat) : (fenceCluster s c).trust = s.trust := by
  simp [fenceCluster]; split <;> simp
@[simp] theorem spareCore_trust (s : State) (rec p : Nat) : (spareCore s rec p).trust = s.trust := by
  simp [spareCore]; split <;> simp
@[simp] theorem passDecoder_trust (s : State) (id : MemId) : (passDecoder s id).trust = s.trust := by
  simp [passDecoder]
@[simp] theorem finishSparing_trust (s : State) (x : Sparing) : (finishSparing s x).trust = s.trust := by
  unfold finishSparing; dsimp only
  rw [raise_trust]
  refine (foldl_trust _ _ _ fun t c => ?_).trans (foldl_trust _ _ _ fun t c => by simp)
  split <;> simp

/-! The arrays and their drains (R96–R106, R129–R151) -/

@[simp] theorem modArr_trust (s : State) (core : Nat) (g : Bool) (f : Arr → Arr) :
    (modArr s core g f).trust = s.trust := by simp [modArr]
@[simp] theorem readTiles_trust (s : State) (id : MemId) (tag kc : Nat) (l : List Int) :
    (readTiles s id tag kc l).2.trust = s.trust := by
  induction l generalizing s with
  | nil => rfl
  | cons x l ih => simp [readTiles, ih]
@[simp] theorem noteTrailers_trust (s : State) (core e : Nat) (side : TileSide) (l : List Tile) :
    (noteTrailers s core e side l).trust = s.trust := by simp [noteTrailers]
@[simp] theorem arithmeticFault_trust (s : State) (core : Nat) : (arithmeticFault s core).trust = s.trust := by
  simp [arithmeticFault]
@[simp] theorem faultUnresolved_trust (s : State) (core : Nat) : (faultUnresolved s core).trust = s.trust := by
  simp [faultUnresolved]
@[simp] theorem holdRedo_trust (s : State) (core : Nat) (r : Redo) : (holdRedo s core r).trust = s.trust := by
  simp [holdRedo]
@[simp] theorem mmActs_trust (s : State) (core : Nat) (g : Bool) (w : IWord) :
    (mmActs s core g w).2.trust = s.trust := by simp [mmActs]
@[simp] theorem mmPass_trust (s : State) (core : Nat) (g : Bool) (x : MmJob) (ups : List Upset) (j : Nat)
    (rows : List MmRow) : (mmPass s core g x ups j rows).1.trust = s.trust := by simp [mmPass]
@[simp] theorem mmEnd_trust (s : State) (core : Nat) (g : Bool) (w : IWord) (bad : Bool) :
    (mmEnd s core g w bad).trust = s.trust := by simp [mmEnd]
@[simp] theorem mmEffect_trust (core : Nat) (g : Bool) (fault : ArrayFault) (s : State) (w : IWord) :
    (mmEffect core g fault s w).trust = s.trust := by unfold mmEffect; dsimp only; (repeat' split) <;> simp
@[simp] theorem mmRedo_trust (core : Nat) (g : Bool) (r : Redo) (s : State) : (mmRedo core g r s).trust = s.trust := by
  unfold mmRedo; dsimp only; (repeat' split) <;> simp
@[simp] theorem skipAudit_trust (s : State) (n core st : Nat) : (skipAudit s n core st).trust = s.trust := by
  simp [skipAudit]
@[simp] theorem auditTile_trust (s : State) (n core : Nat) (a : Audit) (bf16In : Bool) (ys zs : List Acc) :
    (auditTile s n core a bf16In ys zs).trust = s.trust := by simp [auditTile]
@[simp] theorem noteTile_trust (s : State) (core e : Nat) (f : OutForm) (addr : Nat) (begins : Bool)
    (blks : List OutBlk) (rows : List (Option (List Acc))) :
    (noteTile s core e f addr begins blks rows).trust = s.trust := by
  unfold noteTile; dsimp only; (repeat' split) <;> simp
@[simp] theorem drainTile_trust (s : State) (core e : Nat) (f : OutForm) (addr : Nat)
    (rows : List (Option (List Acc))) : (drainTile s core e f addr rows).1.trust = s.trust := by simp [drainTile]
@[simp] theorem addValues_trust (s : State) (core addr m : Nat) (l : List W32) :
    (addValues s core addr m l).1.trust = s.trust := by
  induction m generalizing s addr l with
  | zero => rfl
  | succ n ih => simp [addValues, ih]
@[simp] theorem writeVector_trust (s : State) (core e addr : Nat) (add : Bool) (n : Nat) (l : List (W32 × Bool)) :
    (writeVector s core e addr add n l).trust = s.trust := by simp [writeVector]

/-! Parameters and the operations of the near-bank units (R158–R164, R216–R228) -/

@[simp] theorem pokeStack_trust (s : State) (a : Nat) (b : List Byte) : (pokeStack s a b).trust = s.trust := by
  simp [pokeStack]
@[simp] theorem zeroStack_trust (s : State) (a n : Nat) : (zeroStack s a n).trust = s.trust := by simp [zeroStack]
@[simp] theorem setPb_trust (s : State) (id : Nat) (e : PbEntry) : (setPb s id e).trust = s.trust := by simp [setPb]
@[simp] theorem withTables_trust (s : State) (ref : DescRef) (part : Nat) (l : List (Nat × Nat)) (k : State → State)
    (h : ∀ u, (k u).trust = u.trust) : (withTables s ref part l k).trust = s.trust := by simp [withTables, h]
@[simp] theorem withIds_trust (s : State) (ref : DescRef) (d : Desc) (k : State → List Nat → State)
    (h : ∀ u x, (k u x).trust = u.trust) : (withIds s ref d k).trust = s.trust := by
  unfold withIds; dsimp only
  split; · simp
  split; · simp
  split; · simp
  refine withRead_trust _ _ _ _ _ fun u l => withTables_trust _ _ _ _ _ fun v => ?_
  split <;> simp [h]
@[simp] theorem addXfer_trust (s : State) (x : Xfer) : (addXfer s x).trust = s.trust := by simp [addXfer]
@[simp] theorem readLocal_trust (s : State) (u off m : Nat) : (readLocal s u off m).2.trust = s.trust := by
  induction m generalizing s off with
  | zero => rfl
  | succ n ih => simp [readLocal, ih]
@[simp] theorem putStores_trust (s : State) (u : Nat) (l : Stores) : (putStores s u l).trust = s.trust := by
  simp [putStores]
@[simp] theorem readRuns_trust (s : State) (u off len n : Nat) : (readRuns s u off len n).2.trust = s.trust := by
  simp [readRuns]
@[simp] theorem readCarriers_trust (s : State) (u off n : Nat) : (readCarriers s u off n).2.trust = s.trust := by
  simp [readCarriers]
@[simp] theorem gemvTiles_trust (s : State) (u : Nat) (w : List W32) (nt : Nat) :
    (gemvTiles s u w nt).2.trust = s.trust := by simp [gemvTiles]
@[simp] theorem gemvValues_trust (s : State) (u : Nat) (w : List W32) (vscale : W32) :
    (gemvValues s u w vscale).2.trust = s.trust := by simp [gemvValues]
@[simp] theorem readLists_trust (s : State) (u : Nat) (w : List W32) : (readLists s u w).trust = s.trust := by
  simp [readLists]
@[simp] theorem localBytes_trust (s : State) (u off n : Nat) : (localBytes s u off n).2.trust = s.trust := by
  simp [localBytes]
@[simp] theorem readTokens_trust (s : State) (u tag d : Nat) (l : List (List (Nat × Nat))) :
    (readTokens s u tag d l).2.trust = s.trust := by
  induction l generalizing s with
  | nil => rfl
  | cons x l ih => simp [readTokens, ih]
@[simp] theorem attnValues_trust (s : State) (u : Nat) (w : List W32) (vscale : W32) :
    (attnValues s u w vscale).2.trust = s.trust := by simp [attnValues]
@[simp] theorem commitStores_trust (s : State) (u : Nat) (w : List W32) : (commitStores s u w).2.trust = s.trust := by
  simp [commitStores]
@[simp] theorem runOp_trust (s : State) (u : Nat) (o : Op) : (runOp s u o).2.trust = s.trust := by
  simp [runOp]; split <;> simp

/-! Pages, the gather log and commits (R238–R250) -/

@[simp] theorem setTail_trust (s : State) (a : Nat) (t : Tail) : (setTail s a t).trust = s.trust := by
  simp [setTail]
@[simp] theorem setPlist_trust (s : State) (a k v : Nat) : (setPlist s a k v).trust = s.trust := by simp [setPlist]
@[simp] theorem setPage_trust (s : State) (a : Nat) (p : Page) (bad : Bool) : (setPage s a p bad).trust = s.trust := by
  simp [setPage]
@[simp] theorem modKv_trust (s : State) (site : Nat) (f : KvSite → KvSite) : (modKv s site f).trust = s.trust := by
  simp [modKv]
@[simp] theorem setRing_trust (s : State) (u head tail used : Nat) : (setRing s u head tail used).trust = s.trust := by
  simp [setRing]
@[simp] theorem tailAdvance_trust (s : State) (u m : Nat) : (tailAdvance s u m).trust = s.trust := by
  induction m generalizing s with
  | zero => rfl
  | succ n ih => rw [tailAdvance]; (repeat' split) <;> simp [ih]
@[simp] theorem settleLog_trust (s : State) (u : Nat) : (settleLog s u).trust = s.trust := by simp [settleLog]
@[simp] theorem startNext_trust (s : State) (u : Nat) : (startNext s u).trust = s.trust := by
  unfold startNext; split <;> simp
@[simp] theorem serveAccess_trust (s : State) (a : StackAccess) : (serveAccess s a).trust = s.trust := by
  simp [serveAccess]
@[simp] theorem releaseHeld_trust (s : State) (u : Nat) : (releaseHeld s u).trust = s.trust := by simp [releaseHeld]
@[simp] theorem nextTurn_trust (s : State) (u : Nat) : (nextTurn s u).trust = s.trust := by simp [nextTurn]
@[simp] theorem serveQueue_trust (s : State) (u n : Nat) : (serveQueue s u n).trust = s.trust := by
  simp [serveQueue]
@[simp] theorem idleQueue_trust (s : State) (u : Nat) : (idleQueue s u).trust = s.trust := by simp [idleQueue]
@[simp] theorem removeOp_trust (s : State) (u i : Nat) (status : Byte) (torn : Bool) :
    (removeOp s u i status torn).trust = s.trust := by unfold removeOp; split <;> simp
@[simp] theorem settleJobs_trust (s : State) : (settleJobs s).trust = s.trust :=
  (foldl_trust _ _ _ fun t j => by split <;> simp).trans rfl
@[simp] theorem stopTrigger_trust (s : State) (n : Nat) (begun : Option W64) (e : Ending) :
    (stopTrigger s n begun e).trust = s.trust := by unfold stopTrigger; split <;> simp
@[simp] theorem closePage_trust (s : State) (u : Nat) (o : Op) (status : Byte) :
    (closePage s u o status).trust = s.trust := by unfold closePage; (repeat' split) <;> simp
@[simp] theorem tearOp_trust (s : State) (u : Nat) (o : Op) : (tearOp s u o).trust = s.trust := by simp [tearOp]
@[simp] theorem dropOp_trust (s : State) (u i : Nat) (status : Byte) (detail : W64) :
    (dropOp s u i status detail).trust = s.trust := by unfold dropOp; (repeat' split) <;> simp
@[simp] theorem abandonRun_trust (s : State) (o : Op) : (abandonRun s o).trust = s.trust := by
  unfold abandonRun; split <;> simp
@[simp] theorem acceptOp_trust (s : State) (u : Nat) (o : Op) : (acceptOp s u o).trust = s.trust := by
  simp [acceptOp]
@[simp] theorem putList4_trust (s : State) (u off : Nat) (l : List (Nat × Bool)) :
    (putList4 s u off l).trust = s.trust := by simp [putList4]
@[simp] theorem refuseCommit_trust (s : State) (c : Commit) : (refuseCommit s c).trust = s.trust := by
  unfold refuseCommit; split <;> simp
theorem tryCommit_trust (s : State) (c : Commit) {t : State} (ht : tryCommit s c = some t) : t.trust = s.trust := by
  unfold tryCommit at ht
  dsimp only at ht
  split at ht; · obtain rfl := Option.some.inj ht; simp
  split at ht; · obtain rfl := Option.some.inj ht; simp
  split at ht; · obtain rfl := Option.some.inj ht; simp
  split at ht; · cases ht
  obtain rfl := Option.some.inj ht; simp
@[simp] theorem commitPage_trust (s : State) (c : Commit) : (commitPage s c).trust = s.trust := by
  unfold commitPage; split
  · next t ht => exact tryCommit_trust _ _ ht
  · split <;> rfl
@[simp] theorem drainLog_trust (s : State) (u : Nat) (part : PartId) (station : Nat) (begun : Option W64) (m : Nat) :
    (drainLog s u part station begun m).trust = s.trust := by
  fun_induction drainLog s u part station begun m <;> simp_all
@[simp] theorem checkLog_trust (s : State) (u : Nat) (part : PartId) (station : Nat) (begun : Option W64) :
    (checkLog s u part station begun).trust = s.trust := by simp [checkLog]
@[simp] theorem commitEnds_trust (s : State) (u : Nat) (o : Op) (status : Byte) :
    (commitEnds s u o status).trust = s.trust := by unfold commitEnds; split <;> simp
@[simp] theorem failOp_trust (s : State) (u i : Nat) (status : Byte) (detail : W64) :
    (failOp s u i status detail).trust = s.trust := by unfold failOp; (repeat' split) <;> simp
@[simp] theorem abandonOp_trust (s : State) (u i : Nat) : (abandonOp s u i).trust = s.trust := by
  unfold abandonOp; split <;> simp
@[simp] theorem abandonOps_trust (s : State) (u m : Nat) : (abandonOps s u m).trust = s.trust := by
  fun_induction abandonOps s u m <;> simp_all
@[simp] theorem failOpsOf_trust (s : State) (u : Nat) (p : Op → Bool) (status : Byte) (detail : W64) (m : Nat) :
    (failOpsOf s u p status detail m).trust = s.trust := by
  induction m generalizing s with
  | zero => rfl
  | succ n ih => rw [failOpsOf, ih]; (repeat' split) <;> simp
@[simp] theorem failOps_trust (s : State) (p : Op → Bool) (status : Byte) (detail : W64) :
    (failOps s p status detail).trust = s.trust := by simp [failOps]

/-! Set-up accesses, doorbells and the fold (R297, R313, R332–R339) -/

@[simp] theorem answer_trust (s : State) (a : Access) (st : Byte) (data : W32) :
    (answer s a st data).trust = s.trust := by simp [answer]
@[simp] theorem setupWrite_trust (s : State) (a : Access) (off : Nat) (f : State → Byte × State)
    (h : ∀ u, (f u).2.trust = u.trust) : (setupWrite s a off f).trust = s.trust := by
  unfold setupWrite; dsimp only; (repeat' split) <;> simp [h]
@[simp] theorem readDescs_trust (s : State) (p : NPort) (r : RingId) (m : Nat) :
    (readDescs s p r m).trust = s.trust := by
  induction m generalizing s with
  | zero => rfl
  | succ n ih => simp [readDescs, ih]
@[simp] theorem ringDoorbell_trust (s : State) (port : NPort) (body : W64) :
    (ringDoorbell s port body).trust = s.trust := by simp [ringDoorbell]; split <;> simp
@[simp] theorem pressAnswer_trust (s : State) (a : Access) (st : Byte) : (pressAnswer s a st).trust = s.trust := by
  simp [pressAnswer]
@[simp] theorem claimSem_trust (s : State) (p : NPort) : (claimSem s p).trust = s.trust := by simp [claimSem]
@[simp] theorem dropFold_trust (s : State) : (dropFold s).trust = s.trust := by unfold dropFold; split <;> simp
@[simp] theorem semCtl_trust (s : State) (p : NPort) (v : W32) : (semCtl s p v).2.trust = s.trust := by
  simp [semCtl]
@[simp] theorem stageWord_trust (s : State) (off : Nat) (v : W32) : (stageWord s off v).trust = s.trust := by
  simp [stageWord]
@[simp] theorem foldWrite_trust (s : State) (p : NPort) (off : Nat) (v : W32) :
    (foldWrite s p off v).2.trust = s.trust := by unfold foldWrite; (repeat' split) <;> simp
@[simp] theorem laid_trust (s : State) : (laid s).trust = s.trust := by simp [laid]
@[simp] theorem foldChecks_trust (s : State) : (foldChecks s).2.trust = s.trust := by
  have hdetail (d : W64) : ({ s with fold := { s.fold with detail := d } } : State).trust = s.trust := trust_mk ..
  unfold foldChecks; split
  · exact hdetail _
  · exact hdetail _
@[simp] theorem foldCtl_trust (s : State) (p : NPort) (v rsv : W32) (waits : Bool) (f : State → Byte × State)
    (h : ∀ u, (f u).2.trust = u.trust) : (foldCtl s p v rsv waits f).2.trust = s.trust := by
  fun_cases foldCtl s p v rsv waits f <;> simp_all
@[simp] theorem freezeFold_trust (s : State) : (freezeFold s).2.trust = s.trust := by simp [freezeFold]
@[simp] theorem discardFold_trust (s : State) : (discardFold s).2.trust = s.trust := by simp [discardFold]

/-! Rails and headers (R375–R380) -/

@[simp] theorem modHdr_trust (s : State) (c : Nat) (f : Hdr → Hdr) : (modHdr s c f).trust = s.trust := by
  simp [modHdr]
@[simp] theorem modAvs_trust (s : State) (a : Nat) (f : Avs → Avs) : (modAvs s a f).trust = s.trust := by
  simp [modAvs]
@[simp] theorem avsWrite_trust (s : State) (a : Nat) : (avsWrite s a).trust = s.trust := by simp [avsWrite]
@[simp] theorem avsWant_trust (s : State) (a mv : Nat) : (avsWant s a mv).trust = s.trust := by simp [avsWant]
@[simp] theorem retarget_trust (s : State) (falls : Bool) : (retarget s falls).trust = s.trust := by simp [retarget]
@[simp] theorem avsReadback_trust (s : State) (a : Nat) (mv : Option Nat) (alert : Bool) :
    (avsReadback s a mv alert).trust = s.trust := by simp [avsReadback]
@[simp] theorem avsStart_trust (s : State) (a : Nat) : (avsStart s a).trust = s.trust := by simp [avsStart]
@[simp] theorem turnOn_trust (s : State) (c : Nat) : (turnOn s c).trust = s.trust := by simp [turnOn]
@[simp] theorem turnOff_trust (s : State) (c : Nat) : (turnOff s c).trust = s.trust := by simp [turnOff]

/-! The link layer (R286–R306, R341–R348) -/

@[simp] theorem modLk_trust (s : State) (l : Link) (f : Lk → Lk) : (modLk s l f).trust = s.trust := by
  unfold modLk; split <;> simp
@[simp] theorem portCount_trust (s : State) (l : Link) (off n : Nat) : (portCount s l off n).trust = s.trust := by
  unfold portCount; split <;> simp
@[simp] theorem raisePort_trust (s : State) (l : Link) (nalson myarn detail : Nat) :
    (raisePort s l nalson myarn detail).trust = s.trust := by unfold raisePort; split <;> simp
@[simp] theorem control_trust (s : State) (l : Link) (b : List Byte) : (control s l b).trust = s.trust := by
  simp [control]
@[simp] theorem linkEvent_trust (s : State) (p : NPort) (event : Nat) : (linkEvent s p event).trust = s.trust := by
  simp [linkEvent]
@[simp] theorem beginRetrain_trust (s : State) (l : Link) (cause : Byte) :
    (beginRetrain s l cause).trust = s.trust := by simp [beginRetrain]
@[simp] theorem protocolError_trust (s : State) (l : Link) : (protocolError s l).trust = s.trust := by
  simp [protocolError]
@[simp] theorem startReplay_trust (s : State) (l : Link) : (startReplay s l).trust = s.trust := by
  simp [startReplay]
@[simp] theorem noteRtt_trust (s : State) (l : Link) (q : BitVec 12) : (noteRtt s l q).trust = s.trust := by
  unfold noteRtt; dsimp only; (repeat' split) <;> simp
@[simp] theorem sendNak_trust (s : State) (l : Link) : (sendNak s l).trust = s.trust := by simp [sendNak]
@[simp] theorem discardFlit_trust (s : State) (l : Link) : (discardFlit s l).trust = s.trust := by
  simp [discardFlit]
@[simp] theorem takeCodeword_trust (s : State) (l : Link) (errors : List (Fin 544)) :
    (takeCodeword s l errors).2.trust = s.trust := by simp [takeCodeword]
@[simp] theorem passCodeword_trust (s : State) (l : Link) (f : Flit) : (passCodeword s l f).2.trust = s.trust := by
  simp [passCodeword]
@[simp] theorem noteEnds_trust (s : State) (l : Link) (ids : List Nat) : (noteEnds s l ids).trust = s.trust := by
  unfold noteEnds; split
  · exact modNal_trust _ _ _
  · exact foldl_trust _ _ _ fun t id => by (repeat' split) <;> simp
@[simp] theorem returnUnits_trust (s : State) (input : Option MPort) (c : Nat) (p : Packet) :
    (returnUnits s input c p).trust = s.trust := by unfold returnUnits; split <;> simp
theorem startPacket_trust (s : State) (p : MPort) (c : Nat) (o : OutPkt) (rest : List OutPkt) {t : State}
    (ht : startPacket s p c o rest = some t) : t.trust = s.trust := by
  unfold startPacket at ht
  dsimp only at ht
  split at ht
  · obtain rfl := Option.some.inj ht
    rw [returnUnits_trust]
    (repeat' split) <;> simp
  · cases ht
theorem loadNext_trust (s : State) (a : Link) {t : State} (ht : loadNext s a = some t) : t.trust = s.trust := by
  have hsent {p : MPort} {c : Nat} {o : OutPkt} {r : List OutPkt} {u : State} :
      startPacket s p c o r = some u → u.trust = s.trust := startPacket_trust _ _ _ _ _
  cases a with
  | nalson p =>
    simp only [loadNext] at ht
    split at ht
    · cases ht
    · obtain rfl := Option.some.inj ht
      exact modNal_trust _ _ _
  | myarn p =>
    simp only [loadNext] at ht
    grind
@[simp] theorem fillSlots_trust (s : State) (l : Link) (m : Nat) : (fillSlots s l m).trust = s.trust := by
  induction m generalizing s with
  | zero => rfl
  | succ n ih =>
    rw [fillSlots]
    split; · rfl
    split
    · next t ht => rw [ih, loadNext_trust _ _ ht]
    · rfl
@[simp] theorem emit_trust (s : State) (l : Link) (kind seq : Nat) (payload : List Byte) (f : Lk → Lk) :
    (emit s l kind seq payload f).trust = s.trust := by simp [emit]
@[simp] theorem transmit_trust (s : State) (l : Link) : (transmit s l).trust = s.trust := by
  unfold transmit; dsimp only; (repeat' split) <;> simp
theorem takeHeader_trust (s : State) (l : Link) (h : W64) {t : State} (ht : takeHeader s l h = some t) :
    t.trust = s.trust := by
  unfold takeHeader at ht
  dsimp only at ht
  split at ht; · cases ht
  split at ht; · cases ht
  obtain rfl := Option.some.inj ht
  cases l <;> simp
@[simp] theorem checkFlit_trust (s : State) (l : Link) (f : Flit) : (checkFlit s l f).2.trust = s.trust := by
  simp [checkFlit]
@[simp] theorem acceptFlit_trust {s0 s : State} (l : Link) (f : Flit) (h : s.trust = s0.trust) :
    (acceptFlit s0 s l f).trust = s0.trust := by unfold acceptFlit; dsimp only; (repeat' split) <;> simp [h]
@[simp] theorem receiveFlit_trust (s : State) (l : Link) (kind : Nat) (f : Flit) :
    (receiveFlit s l kind f).trust = s.trust := by
  unfold receiveFlit; dsimp only
  split; · rfl
  split; · split <;> simp
  split; · simp
  split
  · simp
  · next t ht =>
    have htaken := (takeHeader_trust _ _ _ ht).trans (checkFlit_trust _ _ _)
    (repeat' split) <;> simp [htaken, acceptFlit_trust]
@[simp] theorem receiveControl_trust (s : State) (l : Link) (type : Nat) (phases : List LinkPhase) (f : Flit)
    (k : State → List Byte → State) (h : ∀ u x, (k u x).trust = u.trust) :
    (receiveControl s l type phases f k).trust = s.trust := by
  unfold receiveControl; dsimp only
  split; · rfl
  split; · simp
  split
  · simp
  · next t ht =>
    have htaken := (takeHeader_trust _ _ _ ht).trans (checkFlit_trust _ _ _)
    split <;> simp [htaken, h]
@[simp] theorem failNalLane_trust (s : State) (port : NPort) (lane : Nat) :
    (failNalLane s port lane).trust = s.trust := by simp [failNalLane]
@[simp] theorem beginTraining_trust (s : State) (l : Link) : (beginTraining s l).trust = s.trust := by
  simp [beginTraining]
@[simp] theorem levelMismatch_trust (s : State) (l : Link) (levels : BitVec 16) :
    (levelMismatch s l levels).trust = s.trust := by simp [levelMismatch]
@[simp] theorem beginFull_trust (s : State) (l : Link) : (beginFull s l).trust = s.trust := by simp [beginFull]

/-! Host reads, rings and transfers (R299–R323, R358) -/

@[simp] theorem modDesc_trust (s : State) (p : NPort) (r : RingId) (k : Nat) (f : Desc → Desc) :
    (modDesc s p r k f).trust = s.trust := by simp [modDesc]
@[simp] theorem descRead_trust (s : State) (p : NPort) (r : RingId) (k : Nat) (res : Option Byte)
    (w : List (W64 × Bool)) : (descRead s p r k res w).trust = s.trust := by simp [descRead]
@[simp] theorem dropXfer_trust (s : State) (id : Nat) : (dropXfer s id).trust = s.trust := by simp [dropXfer]
@[simp] theorem endXfer_trust (s : State) (id : Nat) (e : Ending) : (endXfer s id e).trust = s.trust := by
  unfold endXfer; (repeat' split) <;> simp
@[simp] theorem failRead_trust (s : State) (id off : Nat) (unsupported : Bool) :
    (failRead s id off unsupported).trust = s.trust := by simp [failRead]
@[simp] theorem fetchRead_trust (s : State) (no off : Nat) (res : Option Byte) (w : List (W64 × Bool)) :
    (fetchRead s no off res w).trust = s.trust := by unfold fetchRead; (repeat' split) <;> simp
@[simp] theorem readDone_trust (s : State) (p : NPort) (m : Mrd) (res : Option Byte) :
    (readDone s p m res).trust = s.trust := by unfold readDone; (repeat' split) <;> simp
@[simp] theorem freeRead_trust (s : State) (p : NPort) (tag : Nat) : (freeRead s p tag).trust = s.trust := by
  simp [freeRead]
@[simp] theorem ringCfgWrite_trust (s : State) (q p : NPort) (r : RingId) (v : W32) :
    (ringCfgWrite s q p r v).2.trust = s.trust := by simp [ringCfgWrite]; split <;> simp
@[simp] theorem errCfgWrite_trust (s : State) (q p : NPort) (v : W32) : (errCfgWrite s q p v).2.trust = s.trust := by
  simp [errCfgWrite]; split <;> simp
@[simp] theorem setXfer_trust (s : State) (id : Nat) (x : Xfer) : (setXfer s id x).trust = s.trust := by
  simp [setXfer]
@[simp] theorem setBuf_trust (s : State) (n k : Nat) (b : HBuf) : (setBuf s n k b).trust = s.trust := by
  simp [setBuf]
@[simp] theorem bufPut_trust (s : State) (n k : Nat) (l : List (W64 × Bool)) : (bufPut s n k l).trust = s.trust := by
  unfold bufPut; split <;> simp
@[simp] theorem bufRead_trust (s : State) (b : HBuf) (o m : Nat) : (bufRead s b o m).2.trust = s.trust := by
  induction m generalizing s o with
  | zero => rfl
  | succ n ih => simp [bufRead, ih]
@[simp] theorem bufGet_trust (s : State) (n k words : Nat) : (bufGet s n k words).2.trust = s.trust := by
  unfold bufGet; split <;> simp
@[simp] theorem sendHost_trust (s : State) (p : NPort) (addr : W64) (m : Nat) (l : List Byte) :
    (sendHost s p addr m l).trust = s.trust := by fun_induction sendHost s p addr m l <;> simp_all
@[simp] theorem finishOut_trust (s : State) (id : Nat) (x : Xfer) (result : W64) :
    (finishOut s id x result).trust = s.trust := by unfold finishOut; (repeat' split) <;> simp
@[simp] theorem askNext_trust (s : State) (id : Nat) (x : Xfer) (p : NPort) (addr left : Nat) :
    (askNext s id x p addr left).trust = s.trust := by simp [askNext]
@[simp] theorem readCrossing_trust (s : State) (a n : Nat) (bad : List Nat) :
    (readCrossing s a n bad).2.trust = s.trust := by simp [readCrossing]
@[simp] theorem getCrossing_trust (s : State) (n k words : Nat) (bad : List Nat) :
    (getCrossing s n k words bad).2.trust = s.trust := by simp [getCrossing]
@[simp] theorem stepCopyIn_trust (s : State) (id : Nat) (x : Xfer) (bad : List Nat) :
    (stepCopyIn s id x bad).trust = s.trust := by unfold stepCopyIn; (repeat' split) <;> simp
@[simp] theorem stepCopyOut_trust (s : State) (id : Nat) (x : Xfer) (bad : List Nat) :
    (stepCopyOut s id x bad).trust = s.trust := by simp [stepCopyOut]
@[simp] theorem stepGrad_trust (s : State) (id : Nat) (x : Xfer) (bad : List Nat) :
    (stepGrad s id x bad).trust = s.trust := by simp [stepGrad]
@[simp] theorem queuePacket_trust (s : State) (p : MPort) (c : Nat) (o : OutPkt) :
    (queuePacket s p c o).trust = s.trust := by simp [queuePacket]
@[simp] theorem stepMyaWrite_trust (s : State) (id : Nat) (x : Xfer) (stream : BitVec 16) (route : List W64)
    (bad : List Nat) : (stepMyaWrite s id x stream route bad).trust = s.trust := by simp [stepMyaWrite]
@[simp] theorem notePort_trust (s : State) (n : Nat) (p : NPort) : (notePort s n p).trust = s.trust := by
  simp [notePort]
@[simp] theorem eitherWrite_trust (s : State) (p : NPort) (t : Txn) : (eitherWrite s p t).trust = s.trust := by
  simp [eitherWrite]
@[simp] theorem stepStackIn_trust (s : State) (id : Nat) (x : Xfer) (n k : Nat) (st : Station) (sm : Stream)
    (base : Nat) (bad : List Nat) : (stepStackIn s id x n k st sm base bad).trust = s.trust := by
  unfold stepStackIn; split <;> simp
@[simp] theorem stepStackOut_trust (s : State) (id : Nat) (x : Xfer) (n k : Nat) (st : Station) (sm : Stream)
    (base : Nat) (bad : List Nat) : (stepStackOut s id x n k st sm base bad).trust = s.trust := by
  unfold stepStackOut; split <;> simp
@[simp] theorem stepHostIn_trust (s : State) (id : Nat) (x : Xfer) (n k : Nat) (st : Station) (sm : Stream)
    (base : Nat) (bad : List Nat) : (stepHostIn s id x n k st sm base bad).trust = s.trust := by
  unfold stepHostIn; split <;> simp
@[simp] theorem stepHostOut_trust (s : State) (id : Nat) (x : Xfer) (n k : Nat) (st : Station) (sm : Stream)
    (base : Nat) (bad : List Nat) : (stepHostOut s id x n k st sm base bad).trust = s.trust := by
  unfold stepHostOut; dsimp only; (repeat' split) <;> simp
@[simp] theorem stepMyarnOut_trust (s : State) (id : Nat) (x : Xfer) (n k : Nat) (st : Station) (sm : Stream)
    (bad : List Nat) : (stepMyarnOut s id x n k st sm bad).trust = s.trust := by unfold stepMyarnOut; split <;> simp
@[simp] theorem stepStream_trust (s : State) (id : Nat) (x : Xfer) (n k : Nat) (sink : Bool) (bad : List Nat) :
    (stepStream s id x n k sink bad).trust = s.trust := by unfold stepStream; (repeat' split) <;> simp

/-! Loads, runs and partition resets (R56–R59, R325–R330) -/

@[simp] theorem endLoad_trust (s : State) (n : Nat) (l : Load) (e : Ending) : (endLoad s n l e).trust = s.trust := by
  simp [endLoad]
@[simp] theorem writeSubs_trust (s : State) (core : Nat) (b : List Byte) (sec : CoreSec) :
    (writeSubs s core b sec).trust = s.trust := by simp [writeSubs]
@[simp] theorem finishLoad_trust (s : State) (n : Nat) (l : Load) (b : List Byte) :
    (finishLoad s n l b).trust = s.trust := by simp [finishLoad]
@[simp] theorem withdrawBanks_trust (s : State) : (withdrawBanks s).trust = s.trust := by simp [withdrawBanks]
@[simp] theorem readPlans_trust (s : State) (n : Nat) : (readPlans s n).2.trust = s.trust := by simp [readPlans]
@[simp] theorem acceptRun_trust (s : State) (n : Nat) (ref : DescRef) (seq : W32) (img : Image)
    (es : List (List Byte)) : (acceptRun s n ref seq img es).trust = s.trust := by simp [acceptRun]
@[simp] theorem freshBars_trust (s : State) (n : Nat) : (freshBars s n).trust = s.trust := by simp [freshBars]
@[simp] theorem readGains_trust (s : State) (l : List (Nat × Nat × Nat)) : (readGains s l).2.trust = s.trust := by
  simp [readGains]
@[simp] theorem beginRun_trust (s : State) (n : Nat) (r : Run) (img : Image) :
    (beginRun s n r img).trust = s.trust := by simp [beginRun]
@[simp] theorem drainFlight_trust (s : State) (core e m : Nat) : (drainFlight s core e m).trust = s.trust := by
  fun_induction drainFlight s core e m <;> simp_all
@[simp] theorem drainPart_trust (s : State) (n : Nat) : (drainPart s n).trust = s.trust := by simp [drainPart]
@[simp] theorem clearRun_trust (s : State) (n : Nat) : (clearRun s n).trust = s.trust := by simp [clearRun]
@[simp] theorem writeGrad_trust (s : State) (n st which m : Nat) (e : PbEntry) :
    (writeGrad s n st which m e).trust = s.trust := by simp [writeGrad]
@[simp] theorem writeGrads_trust (s : State) (n : Nat) (r : Run) (img : Image) :
    (writeGrads s n r img).trust = s.trust := by simp [writeGrads]
@[simp] theorem finishRun_trust (s : State) (n : Nat) (r : Run) (e : Ending) : (finishRun s n r e).trust = s.trust := by
  unfold finishRun; dsimp only; (repeat' split) <;> simp
@[simp] theorem beginReset_trust (s : State) (n : Nat) (refs : List DescRef) :
    (beginReset s n refs).trust = s.trust := by simp [beginReset]; split <;> simp
@[simp] theorem retireTags_trust (s : State) (n : Nat) : (retireTags s n).trust = s.trust := by simp [retireTags]
@[simp] theorem wipeMems_trust (s : State) (l : List Nat) : (wipeMems s l).trust = s.trust := by simp [wipeMems]
@[simp] theorem disarm_trust (s : State) (n : Nat) : (disarm s n).trust = s.trust := by simp [disarm]
@[simp] theorem wipePart_trust (s : State) (n : Nat) : (wipePart s n).trust = s.trust := by simp [wipePart]

/-! Ports that go down (R307–R309, R349) -/

@[simp] theorem endBound_trust (s : State) (p : NPort) : (endBound s p).trust = s.trust :=
  foldl_trust _ _ _ fun t x => by (repeat' split) <;> simp
@[simp] theorem askAgain_trust (s : State) (m : Mrd) : (askAgain s m).trust = s.trust := by
  unfold askAgain; (repeat' split) <;> simp
@[simp] theorem stopRings_trust (s : State) (p : NPort) : (stopRings s p).trust = s.trust := by simp [stopRings]
@[simp] theorem carryOver_trust (s : State) (p : NPort) : (carryOver s p).trust = s.trust :=
  foldl_trust _ _ _ fun t x => by (repeat' split) <;> simp
@[simp] theorem failFetches_trust (s : State) (p : NPort) : (failFetches s p).trust = s.trust :=
  foldl_trust _ _ _ fun t x => by (repeat' split) <;> simp
@[simp] theorem nalDown_trust (s : State) (p : NPort) : (nalDown s p).trust = s.trust := by
  have htake (q : NPort) (t : Txn) (u : State) : (nalDown.eitherTake u q t).trust = u.trust := by
    simp [nalDown.eitherTake]
  unfold nalDown; dsimp only
  rw [endBound_trust]
  refine (foldl_trust _ _ _ fun t m => by split <;> simp).trans ?_
  simp [htake]
@[simp] theorem stopSenders_trust (s : State) (p : MPort) : (stopSenders s p).trust = s.trust :=
  foldl_trust _ _ _ fun t x => by (repeat' split) <;> simp
@[simp] theorem endWrites_trust (s : State) (p : MPort) : (endWrites s p).trust = s.trust :=
  foldl_trust _ _ _ fun t x => by (repeat' split) <;> simp
@[simp] theorem myaDown_trust (s : State) (p : MPort) : (myaDown s p).trust = s.trust := by
  unfold myaDown
  extract_lets n closed told drop _ _ dropped
  have hdrop (c : Nat) (l : List OutPkt) (u : State) : (l.foldl (drop c) u).trust = u.trust :=
    foldl_trust _ _ _ fun v o => by dsimp only [drop]; split <;> simp
  rw [endWrites_trust, stopSenders_trust, hdrop, hdrop, hdrop]
  simp [told, closed]
@[simp] theorem linkDown_trust (s : State) (a : Link) : (linkDown s a).trust = s.trust := by
  unfold linkDown; split <;> simp
@[simp] theorem sendDown_trust (s : State) (l : Link) (cause : Byte) : (sendDown s l cause).trust = s.trust := by
  simp [sendDown]
@[simp] theorem failMyaLane_trust (s : State) (port : MPort) (lane : Nat) :
    (failMyaLane s port lane).trust = s.trust := by simp [failMyaLane]
@[simp] theorem sendAnswers_trust (s : State) (p : NPort) (m : Nat) : (sendAnswers s p m).trust = s.trust := by
  fun_induction sendAnswers s p m <;> simp_all
@[simp] theorem nalCtl_trust (s : State) (q n : NPort) (v : W32) : (nalCtl s q n v).2.trust = s.trust := by
  simp [nalCtl]
@[simp] theorem closePort_trust (s : State) (p : NPort) : (closePort s p).trust = s.trust := by simp [closePort]
@[simp] theorem nalCtlWrite_trust (s : State) (a : Access) (n : NPort) (v : W32) :
    (nalCtlWrite s a n v).trust = s.trust := by simp [nalCtlWrite]

/-! Myarn packets, streams and announces (R353–R361) -/

@[simp] theorem dropPacket_trust (s : State) (port : MPort) (p : Packet) (kind : Nat) :
    (dropPacket s port p kind).trust = s.trust := by simp [dropPacket]
@[simp] theorem arrivePacket_trust (s : State) (port : MPort) (p : Packet) (kind : Byte)
    (f : State → Nat → Option State) (h : ∀ u x t, f u x = some t → t.trust = u.trust) :
    (arrivePacket s port p kind f).trust = s.trust := by
  unfold arrivePacket; dsimp only
  (repeat' split) <;> try simp
  next hu => rw [h _ _ _ hu, portCount_trust]
@[simp] theorem modRecv_trust (s : State) (key : Nat) (f : Strm → Strm) : (modRecv s key f).trust = s.trust := by
  simp [modRecv]
@[simp] theorem breakStream_trust (s : State) (key : Nat) (st : Option Byte) :
    (breakStream s key st).trust = s.trust := by unfold breakStream; dsimp only; (repeat' split) <;> simp
@[simp] theorem discard_trust (s : State) (h : Held) (st : Option Byte) : (discard s h st).trust = s.trust := by
  simp [discard]
@[simp] theorem commitAnnounce_trust (s : State) (h : Held) : (commitAnnounce s h).trust = s.trust := by
  simp [commitAnnounce]; split <;> simp
@[simp] theorem settleHeld_trust (s : State) (key m : Nat) : (settleHeld s key m).trust = s.trust := by
  induction m generalizing s with
  | zero => rfl
  | succ n ih => rw [settleHeld]; split <;> simp [ih]
theorem enterStream_trust (s : State) (port : MPort) (p : Packet) (n : Nat) (f : State → Nat → Option State)
    (h : ∀ u x t, f u x = some t → t.trust = u.trust) {t : State} (ht : enterStream s port p n f = some t) :
    t.trust = s.trust := by
  unfold enterStream at ht
  dsimp only at ht
  split at ht; · obtain rfl := Option.some.inj ht; simp
  split at ht
  · split at ht
    · exact h _ _ _ ht
    · obtain rfl := Option.some.inj ht; simp
  · exact (h _ _ _ ht).trans (modRecv_trust _ _ _)
@[simp] theorem received_trust (s : State) (key : Nat) (p : Packet) : (received s key p).trust = s.trust := by
  simp [received]

/-! The barrier unit (R363–R368) -/

@[simp] theorem barSend_trust (s : State) (r : Route) (kind : Byte) (index : Nat) (gen : W32) :
    (barSend s r kind index gen).trust = s.trust := by simp [barSend]
@[simp] theorem freeEngine_trust (s : State) (core e k : Nat) (g : W32) :
    (freeEngine s core e k g).trust = s.trust := by simp [freeEngine]
@[simp] theorem freeEngines_trust (s : State) (k : Nat) (g : W32) : (freeEngines s k g).trust = s.trust := by
  simp [freeEngines]
@[simp] theorem releaseBar_trust (s : State) (k : Nat) : (releaseBar s k).trust = s.trust := by simp [releaseBar]
@[simp] theorem settleBar_trust (s : State) (k : Nat) : (settleBar s k).trust = s.trust := by simp [settleBar]
@[simp] theorem barDrop_trust (s : State) (port : MPort) (k kind detail : Nat) :
    (barDrop s port k kind detail).trust = s.trust := by simp [barDrop]

/-! The power budget and droop (R385–R393) -/

@[simp] theorem noteCap_trust (s : State) : (noteCap s).trust = s.trust := by simp [noteCap]
@[simp] theorem setBudgets_trust (s : State) (room : Int) (total : Nat) (l : List Nat) :
    (setBudgets s room total l).trust = s.trust := by
  induction l generalizing s with
  | nil => rfl
  | cons n l ih =>
    unfold setBudgets; dsimp only
    rw [ih]
    split
    · exact (raise_trust _ _).trans (trust_mk ..)
    · exact trust_mk ..
@[simp] theorem budgetFrame_trust (s : State) (p : Nat) (hot : Bool) : (budgetFrame s p hot).trust = s.trust := by
  simp [budgetFrame]; split <;> simp
@[simp] theorem hold56_trust (s : State) : (hold56 s).trust = s.trust := by simp [hold56]
@[simp] theorem fillL2_trust (s : State) (c : Nat) : (fillL2 s c).trust = s.trust := by simp [fillL2]
@[simp] theorem runStage_trust (s : State) (c : Nat) : (runStage s c).trust = s.trust := by simp [runStage]
@[simp] theorem droopFrame_trust (s : State) : (droopFrame s).trust = s.trust := by
  unfold droopFrame; dsimp only
  exact foldl_trust _ _ _ fun t n => by split <;> simp

/-! The cycles of a stitch plan, slips and seam rings (R174–R199) -/

@[simp] theorem stepArm_trust (s : State) (core e : Nat) : (stepArm s core e).trust = s.trust := by simp [stepArm]
@[simp] theorem channelCount_trust (s : State) (a : Arm) (b : Beat) : (channelCount s a b).trust = s.trust := by
  simp [channelCount]
@[simp] theorem takeBeat_trust (s : State) (n core e : Nat) : (takeBeat s n core e).2.trust = s.trust := by
  simp [takeBeat]; split <;> simp
@[simp] theorem takeBeats_trust (s : State) (n core : Nat) (l : List Nat) :
    (takeBeats s n core l).2.trust = s.trust := by
  induction l generalizing s with
  | nil => rfl
  | cons x l ih => simp [takeBeats, ih]
@[simp] theorem deliver_trust (s : State) (n core e port : Nat) (b : Option Beat) :
    (deliver s n core e port b).trust = s.trust := by simp [deliver]; split <;> simp
@[simp] theorem leave_trust (s : State) (n c core i : Nat) (p : Place) (t : PlanStep) (bad : List LinkWord)
    (word : Nat → Option Beat) (l : List Nat) : (leave s n c core i p t bad word l).2.trust = s.trust := by
  induction l generalizing s with
  | nil => rfl
  | cons x l ih => rw [leave]; split <;> simp [ih]
@[simp] theorem moveCore_trust (s : State) (n c core i : Nat) (t : PlanStep) (bad : List LinkWord)
    (inp : Nat → Option Beat) : (moveCore s n c core i t bad inp).2.trust = s.trust := by simp [moveCore]
@[simp] theorem readStep_trust (s : State) (core i : Nat) : (readStep s core i).trust = s.trust := by
  simp [readStep]
@[simp] theorem moveCores_trust (s : State) (n c : Nat) (bad : List LinkWord) (due : List Flight)
    (l : List (Nat × Nat)) : (moveCores s n c bad due l).2.trust = s.trust := by
  induction l generalizing s with
  | nil => rfl
  | cons x l ih => simp [moveCores, ih]; split <;> simp
@[simp] theorem depart_trust (s : State) (n c : Nat) (bad : List LinkWord) (l : List (Nat × Nat × Nat)) :
    (depart s n c bad l).2.trust = s.trust := by
  induction l generalizing s with
  | nil => rfl
  | cons x l ih => simp [depart, ih]
@[simp] theorem modRun_trust (s : State) (n : Nat) (f : Run → Run) : (modRun s n f).trust = s.trust := by
  simp [modRun]
@[simp] theorem advance_trust (s : State) (n : Nat) (r : Run) (bad : List LinkWord) :
    (advance s n r bad).trust = s.trust := by
  unfold advance; dsimp only
  rw [modRun_trust, moveCores_trust, modPart_trust, depart_trust]
  exact foldl_trust _ _ _ fun t f => by split <;> simp
@[simp] theorem exclude_trust (s : State) (n : Nat) : (exclude s n).trust = s.trust := by simp [exclude]
@[simp] theorem bubbleCycle_trust (s : State) (n cause : Nat) : (bubbleCycle s n cause).trust = s.trust := by
  simp [bubbleCycle]
@[simp] theorem holdCycle_trust (s : State) (n : Nat) : (holdCycle s n).trust = s.trust := by simp [holdCycle]
@[simp] theorem slipCycle_trust (s : State) (n cause who : Nat) : (slipCycle s n cause who).trust = s.trust := by
  simp [slipCycle]
@[simp] theorem barrierTime_trust (s : State) (n : Nat) : (barrierTime s n).trust = s.trust := by simp [barrierTime]
@[simp] theorem wallCounts_trust (s : State) (n : Nat) : (wallCounts s n).trust = s.trust := by simp [wallCounts]
@[simp] theorem slipFrame_trust (s : State) : (slipFrame s).trust = s.trust := by simp [slipFrame]
@[simp] theorem replaceRing_trust (s : State) (k : Nat) : (replaceRing s k).trust = s.trust := by simp [replaceRing]
@[simp] theorem failRing_trust (s : State) (k : Nat) : (failRing s k).trust = s.trust := by simp [failRing]
@[simp] theorem poisonRing_trust (s : State) (k : Nat) : (poisonRing s k).trust = s.trust := by simp [poisonRing]
@[simp] theorem beginReplay_trust (s : State) (k : Nat) : (beginReplay s k).trust = s.trust := by simp [beginReplay]

/-! The press (R338) -/

@[simp] theorem releaseCluster_trust (s : State) (c : Nat) : (releaseCluster s c).trust = s.trust := by
  simp [releaseCluster]
@[simp] theorem setUpPart_trust (s : State) (n : Nat) : (setUpPart s n).trust = s.trust := by simp [setUpPart]
@[simp] theorem moveClusters_trust (s : State) (n : Nat) (old new : W32) (first : Bool) :
    (moveClusters s n old new first).trust = s.trust := by simp [moveClusters]
@[simp] theorem enableMya_trust (s old : State) (p : MPort) : (enableMya s old p).trust = s.trust := by
  simp [enableMya]
@[simp] theorem pressCap_trust (s old : State) : (pressCap s old).trust = s.trust := by simp [pressCap]
@[simp] theorem pressTest_trust (s old : State) : (pressTest s old).trust = s.trust := by simp [pressTest]
@[simp] theorem pressScrub_trust (s old : State) : (pressScrub s old).trust = s.trust := by
  unfold pressScrub
  refine foldl_trust _ _ _ fun t k => ?_
  split
  · rfl
  · exact trust_mk ..
@[simp] theorem zeroKv_trust (s : State) : (zeroKv s).trust = s.trust := by simp [zeroKv]
@[simp] theorem pressFills_trust (s old : State) : (pressFills s old).trust = s.trust := by simp [pressFills]
@[simp] theorem applyFold_trust (old : State) : (applyFold old).trust = old.trust := by simp [applyFold]
@[simp] theorem press_trust (s : State) : (press s).2.trust = s.trust := by simp [press]
@[simp] theorem pressWrite_trust (s : State) (a : Access) (v : W32) : (pressWrite s a v).trust = s.trust := by
  simp [pressWrite]

/-! Temperature, airflow and ageing (R396–R415) -/

@[simp] theorem modTherm_trust (s : State) (f : Therm → Therm) : (modTherm s f).trust = s.trust := by
  simp [modTherm]
@[simp] theorem modSensor_trust (s : State) (i : Nat) (f : Sensor → Sensor) : (modSensor s i f).trust = s.trust := by
  simp [modSensor]
@[simp] theorem faultySensor_trust (s : State) (i : Nat) : (faultySensor s i).trust = s.trust := by
  simp [faultySensor]
@[simp] theorem takeReading_trust (s : State) (i : Nat) (v : Option (BitVec 16)) :
    (takeReading s i v).trust = s.trust := by unfold takeReading; split <;> simp
@[simp] theorem noteDeviation_trust (s : State) (i : Nat) : (noteDeviation s i).trust = s.trust := by
  simp [noteDeviation]
@[simp] theorem setThermal_trust (s : State) : (setThermal s).trust = s.trust := by simp [setThermal]
@[simp] theorem darken_trust (s : State) (n : Nat) : (darken s n).trust = s.trust := by simp [darken]
@[simp] theorem haltPart_trust (s : State) (n : Nat) : (haltPart s n).trust = s.trust := by simp [haltPart]
@[simp] theorem thermalHalts_trust (s : State) : (thermalHalts s).trust = s.trust := by simp [thermalHalts]
@[simp] theorem noteCool_trust (s : State) : (noteCool s).trust = s.trust := by simp [noteCool]
@[simp] theorem loseAir_trust (s : State) (why : Loss) : (loseAir s why).trust = s.trust := by simp [loseAir]
@[simp] theorem takeTach_trust (s : State) (rpm idle : List Nat) (f : Nat) :
    (takeTach s rpm idle f).trust = s.trust := by simp [takeTach]
@[simp] theorem airCap_trust (s : State) (m : Int) : (airCap s m).2.trust = s.trust := by simp [airCap]
@[simp] theorem degrade_trust (s : State) (m : Int) : (degrade s m).trust = s.trust := by simp [degrade]
@[simp] theorem reviewSensor_trust (s : State) (i : Nat) : (reviewSensor s i).trust = s.trust := by
  simp [reviewSensor]
@[simp] theorem review_trust (s : State) : (review s).trust = s.trust := by simp [review]
@[simp] theorem ageCtl_trust (s : State) (v : W32) : (ageCtl s v).2.trust = s.trust := by simp [ageCtl]

/-! Frames (R21, R257) -/

@[simp] theorem statFrame_trust (s : State) : (statFrame s).trust = s.trust := by simp [statFrame]
@[simp] theorem bubbleFrame_trust (s : State) : (bubbleFrame s).trust = s.trust := by
  unfold bubbleFrame
  exact (trust_mk ..).trans (foldl_trust _ _ _ fun t n => modPart_trust _ _ _)
@[simp] theorem domainFrame_trust (s : State) (l : List DomainSample) : (domainFrame s l).trust = s.trust := by
  simp [domainFrame]
@[simp] theorem kvFrame_trust (s : State) : (kvFrame s).trust = s.trust := by simp [kvFrame]
@[simp] theorem steerWire_trust (s : State) (w : WireCount) : (steerWire s w).trust = s.trust := by simp [steerWire]
@[simp] theorem laneFrame_trust (s : State) (l : Link) (lane count : Nat) :
    (laneFrame s l lane count).trust = s.trust := by simp [laneFrame]; split <;> simp
@[simp] theorem lanesFrame_trust (symbols : List (Link × Nat × Nat)) (s : State) (l : Link) :
    (lanesFrame symbols s l).trust = s.trust := by simp [lanesFrame]
@[simp] theorem stackFrame_trust (s : State) (n : Nat) (t : Option Byte) : (stackFrame s n t).trust = s.trust := by
  unfold stackFrame; split <;> simp
@[simp] theorem monitorFrame_trust (s : State) (m : Nat) (v : W32) : (monitorFrame s m v).trust = s.trust := by
  simp [monitorFrame]
@[simp] theorem setCross_trust (s : State) (g : Crossing) (x : Cross) : (setCross s g x).trust = s.trust := by
  simp [setCross]
@[simp] theorem stepCodes_trust (s : State) : (stepCodes s).trust = s.trust := by simp [stepCodes]

/-! Start-up, resets and clocks (R441–R475) -/

@[simp] theorem modBoot_trust (s : State) (f : Boot → Boot) : (modBoot s f).trust = s.trust := by simp [modBoot]
@[simp] theorem readStore_trust (s : State) : (readStore s).trust = s.trust := by
  unfold readStore; dsimp only; split <;> simp
@[simp] theorem noteFailure_trust (s : State) (u : Nat × Nat) : (noteFailure s u).trust = s.trust := by
  simp [noteFailure]
@[simp] theorem anomaly_trust (s : State) (u : Nat × Nat) : (anomaly s u).trust = s.trust := by simp [anomaly]
@[simp] theorem strike_trust (s : State) (unit id key : Nat) : (strike s unit id key).trust = s.trust := by
  simp [strike]
@[simp] theorem layRows_trust (s : State) (bad : List Nat) : (layRows s bad).trust = s.trust := by simp [layRows]
@[simp] theorem startFence_trust (s : State) (c : Nat) : (startFence s c).trust = s.trust := by simp [startFence]
@[simp] theorem reconcile_trust (s : State) (now : List (Nat × Nat)) (softCores softNbus : List Nat) :
    (reconcile s now softCores softNbus).trust = s.trust := by simp [reconcile]
@[simp] theorem trainPorts_trust (s : State) (l : List Link) : (trainPorts s l).trust = s.trust := by
  simp [trainPorts]
@[simp] theorem stepFour_trust (s : State) (r : StartResults) : (stepFour s r).trust = s.trust := by simp [stepFour]
@[simp] theorem beginPatrols_trust (s : State) : (beginPatrols s).trust = s.trust := by simp [beginPatrols]
@[simp] theorem lifeWrite_trust (s : State) (a : Access) (off : Nat) (f : State → Byte × State)
    (h : ∀ u, (f u).2.trust = u.trust) : (lifeWrite s a off f).trust = s.trust := by
  unfold lifeWrite; dsimp only; (repeat' split) <;> simp [h]
@[simp] theorem lifeGo_trust (s : State) (p : NPort) (v : W32) : (lifeGo s p v).2.trust = s.trust := by
  simp [lifeGo]
@[simp] theorem resumeReads_trust (s : State) : (resumeReads s).trust = s.trust := by simp [resumeReads]
@[simp] theorem loseHem_trust (s : State) (n : Nat) : (loseHem s n).trust = s.trust := by simp [loseHem]
@[simp] theorem loseXfers_trust (s : State) : (loseXfers s).trust = s.trust :=
  foldl_trust _ _ _ fun t x => by (repeat' split) <;> simp
@[simp] theorem loseLoads_trust (s : State) : (loseLoads s).trust = s.trust := by simp [loseLoads]
@[simp] theorem beginHemReset_trust (s : State) (desc : Option DescRef) : (beginHemReset s desc).trust = s.trust := by
  simp [beginHemReset]
@[simp] theorem endOperations_trust (s : State) (st : Byte) : (endOperations s st).trust = s.trust := by
  simp [endOperations]
@[simp] theorem lateRelock_trust (s : State) (c : ClockId) : (lateRelock s c).trust = s.trust := by
  unfold lateRelock; split <;> simp

/-! Hold-up (R419–R432) -/

@[simp] theorem alertWrite_trust (s : State) (v : W32) : (alertWrite s v).2.trust = s.trust := by simp [alertWrite]
@[simp] theorem modHup_trust (s : State) (f : Hup → Hup) : (modHup s f).trust = s.trust := by simp [modHup]
@[simp] theorem packReport_trust (s : State) (kind : Nat) : (packReport s kind).trust = s.trust := by
  simp [packReport]
@[simp] theorem settlePack_trust (s : State) : (settlePack s).trust = s.trust := by simp [settlePack]
@[simp] theorem guaranteeNow_trust (s : State) : (guaranteeNow s).trust = s.trust := by simp [guaranteeNow]
@[simp] theorem endTest_trust (s : State) : (endTest s).trust = s.trust := by simp [endTest]
@[simp] theorem packOpen_trust (s : State) : (packOpen s).trust = s.trust := by simp [packOpen]
@[simp] theorem storeCounters_trust (s : State) : (storeCounters s).trust = s.trust := by simp [storeCounters]
@[simp] theorem sample_trust (s : State) (mv : Nat) : (sample s mv).trust = s.trust := by
  unfold sample; split <;> simp
@[simp] theorem beginAuth_trust (s : State) : (beginAuth s).trust = s.trust := by simp [beginAuth]
@[simp] theorem authFailed_trust (s : State) : (authFailed s).trust = s.trust := by simp [authFailed]
@[simp] theorem testCtl_trust (s : State) (v : W32) : (testCtl s v).2.trust = s.trust := by simp [testCtl]
@[simp] theorem acceptLoss_trust (s : State) (tripped : Bool) : (acceptLoss s tripped).trust = s.trust := by
  simp [acceptLoss]
@[simp] theorem shiftTimers_trust (s : State) (d : W64) : (shiftTimers s d).trust = s.trust := by simp [shiftTimers]
@[simp] theorem lastWill_trust (s : State) (byEnergy : Bool) : (lastWill s byEnergy).trust = s.trust := by
  simp [lastWill]

/-! Refresh and the queues of the near-bank units (R219–R233) -/

@[simp] theorem refreshed_trust (s : State) (u bank : Nat) : (refreshed s u bank).trust = s.trust := by
  simp [refreshed]
@[simp] theorem forceRefresh_trust (s : State) (u bank : Nat) : (forceRefresh s u bank).trust = s.trust := by
  simp [forceRefresh]
@[simp] theorem rowBoundary_trust (s : State) (u : Nat) (nextBanks : List Nat) :
    (rowBoundary s u nextBanks).trust = s.trust := by unfold rowBoundary; split <;> simp
@[simp] theorem modInvoke_trust (s : State) (n k : Nat) (f : Invoke → Invoke) :
    (modInvoke s n k f).trust = s.trust := by simp [modInvoke]
@[simp] theorem acceptStation_trust (s : State) (u : Nat) : (acceptStation s u).trust = s.trust := by
  unfold acceptStation; split <;> simp
@[simp] theorem acceptStations_trust (s : State) (u m : Nat) : (acceptStations s u m).trust = s.trust := by
  fun_induction acceptStations s u m <;> simp_all
@[simp] theorem finishWrites_trust (s : State) (u : Nat) (o : Op) : (finishWrites s u o).trust = s.trust := by
  simp [finishWrites]; split <;> simp
@[simp] theorem fenceNbu_trust (s : State) (rec u : Nat) : (fenceNbu s rec u).trust = s.trust := by simp [fenceNbu]

/-! KV appends and decodes (R242–R254) -/

@[simp] theorem takeTiles_trust (s : State) (n k need : Nat) (given : List (W64 × Bool)) :
    (takeTiles s n k need given).2.trust = s.trust := by unfold takeTiles; (repeat' split) <;> simp
@[simp] theorem hemPut_trust (s : State) (n k : Nat) (l : List (W64 × Bool)) : (hemPut s n k l).trust = s.trust := by
  simp [hemPut]
@[simp] theorem hemDrain_trust (s : State) (n k : Nat) (x : Stream) : (hemDrain s n k x).trust = s.trust := by
  unfold hemDrain; split <;> simp
@[simp] theorem deliverOut_trust (s : State) (n k : Nat) (img : Image) (l : List (W64 × Bool)) :
    (deliverOut s n k img l).trust = s.trust := by simp [deliverOut]
@[simp] theorem placeAccess_trust (s : State) (a : StackAccess) : (placeAccess s a).trust = s.trust := by
  simp [placeAccess]
@[simp] theorem writeRow_trust (s : State) (u units : Nat) (r : LogRow) (bytes : List (Byte × Bool)) :
    (writeRow s u units r bytes).2.trust = s.trust := by simp [writeRow]
@[simp] theorem noteOcc_trust (s : State) (u : Nat) : (noteOcc s u).trust = s.trust := by simp [noteOcc]
@[simp] theorem packHead_trust (s : State) (job : AppendJob) (tiles : List Tile) (r j : Nat) :
    (packHead s job tiles r j).2.trust = s.trust := by simp [packHead]
@[simp] theorem storeDirect_trust (s : State) (t : BlockTable) (a pa : Nat) (x : Tail) (p : Page)
    (parts : List (List (Byte × Bool))) : (storeDirect s t a pa x p parts).trust = s.trust := by simp [storeDirect]
@[simp] theorem storeLogged_trust (s : State) (job : AppendJob) (j u a : Nat) (x : Tail)
    (parts : List (List (Byte × Bool))) : (storeLogged s job j u a x parts).trust = s.trust := by simp [storeLogged]
@[simp] theorem storeToken_trust (s : State) (job : AppendJob) (j a pa : Nat) (x : Tail) (p : Page)
    (parts : List (List (Byte × Bool))) : (storeToken s job j a pa x p parts).trust = s.trust := by
  simp [storeToken]
@[simp] theorem appendOne_trust (s : State) (job : AppendJob) (tiles : List Tile) (r j : Nat) :
    (appendOne s job tiles r j).2.trust = s.trust := by simp [appendOne]
@[simp] theorem modAppend_trust (s : State) (n k : Nat) (f : Append → Append) :
    (modAppend s n k f).trust = s.trust := by simp [modAppend]
@[simp] theorem noteFull_trust (s : State) (n k u : Nat) (waits : Bool) : (noteFull s n k u waits).trust = s.trust := by
  simp [noteFull]
@[simp] theorem appendHeads_trust (s : State) (job : AppendJob) (tiles : List Tile) (r m : Nat) :
    (appendHeads s job tiles r m).trust = s.trust := by
  induction m generalizing s with
  | zero => rfl
  | succ n ih =>
    simp only [appendHeads]
    split
    · rfl
    · next a _ =>
      have hone {x : Appended} {u : State} (h : appendOne s job tiles r a.head = (x, u)) : u.trust = s.trust := by
        rw [← appendOne_trust s job tiles r a.head, h]
      split
      · exact modAppend_trust _ _ _ _
      · split <;> (next hres => simp [ih, hone hres])
@[simp] theorem appendRow_trust (s : State) (n k : Nat) (st : Station) (a : Append) (x : Stream)
    (words : List (W64 × Bool)) (fresh : Bool) (t : BlockTable) (map : List Byte) :
    (appendRow s n k st a x words fresh t map).trust = s.trust := by
  unfold appendRow; dsimp only; (repeat' split) <;> simp
@[simp] theorem appendStep_trust (s : State) (n k : Nat) : (appendStep s n k).trust = s.trust := by
  unfold appendStep; (repeat' split) <;> simp
@[simp] theorem appendAllRows_trust (s : State) (n k m : Nat) : (appendAllRows s n k m).trust = s.trust := by
  induction m generalizing s with
  | zero => rfl
  | succ n ih => simp only [appendAllRows]; (repeat' split) <;> simp [ih]
@[simp] theorem modDecode_trust (s : State) (n k : Nat) (f : Decode → Decode) :
    (modDecode s n k f).trust = s.trust := by simp [modDecode]
@[simp] theorem modPiece_trust (s : State) (n k row head u : Nat) (f : Piece → Piece) :
    (modPiece s n k row head u f).trust = s.trust := by simp [modPiece]
@[simp] theorem tryPiece_trust (s : State) (n k : Nat) (dec : Decode) (p : Piece) :
    (tryPiece s n k dec p).trust = s.trust := by unfold tryPiece; (repeat' split) <;> simp
@[simp] theorem deliverDecode_trust (s : State) (n k : Nat) : (deliverDecode s n k).trust = s.trust := by
  unfold deliverDecode; split <;> simp
@[simp] theorem beginDecode_trust (s : State) (n k : Nat) (j : DecodeJob) (x : Stream) (number : Nat)
    (words : List (W64 × Bool)) : (beginDecode s n k j x number words).trust = s.trust := by
  unfold beginDecode; dsimp only
  rw [deliverDecode_trust]
  refine (foldl_trust _ _ _ fun t p => tryPiece_trust _ _ _ _ _).trans ?_
  refine (trust_mk ..).trans ((modInvoke_trust _ _ _ _).trans ?_)
  refine (foldl_trust _ _ _ fun t y => ?_).trans ((foldl_trust _ _ _ fun t y => ?_).trans ?_)
  · (repeat' split) <;> simp
  · split
    · exact foldl_trust _ _ _ fun u x => readTable_trust _ _ _
    · rfl
  · simp
@[simp] theorem noteDue_trust (s : State) (n k partner : Nat) : (noteDue s n k partner).trust = s.trust := by
  simp [noteDue]; split <;> simp
theorem acceptCommit_trust (s : State) (u : Nat) {t : State} (ht : acceptCommit s u = some t) : t.trust = s.trust := by
  unfold acceptCommit at ht
  obtain ⟨c, -, hc⟩ := Option.bind_eq_some_iff.1 ht
  exact (tryCommit_trust _ _ hc).trans (trust_mk ..)
@[simp] theorem takePiece_trust (s : State) (u n k : Nat) (o : Op) (row head : Nat) :
    (takePiece s u n k o row head).trust = s.trust := by simp [takePiece]
@[simp] theorem completeOp_trust (s : State) (u : Nat) (o : Op) (status : Byte) :
    (completeOp s u o status).trust = s.trust := by unfold completeOp; (repeat' split) <;> simp
@[simp] theorem withSequences_trust (s : State) (ref : DescRef) (d : Desc)
    (k : State → BlockTable → List Nat → State) (h : ∀ u t ids, (k u t ids).trust = u.trust) :
    (withSequences s ref d k).trust = s.trust := by
  unfold withSequences; dsimp only
  split; · simp
  split; · simp
  split; · simp
  split; · simp
  split; · simp
  refine withRead_trust _ _ _ _ _ fun u l => withTables_trust _ _ _ _ _ fun v => ?_
  split; · simp
  split <;> simp [h]

/-! Scrubs, repairs and the checkers (R260–R284) -/

@[simp] theorem modScrub_trust (s : State) (c : ScrubClass) (f : Scrub → Scrub) : (modScrub s c f).trust = s.trust := by
  simp [modScrub]
@[simp] theorem scrubWords_trust (s : State) (a n : Nat) (c : Nat × Nat × Nat) :
    (scrubWords s a n c).2.trust = s.trust := by
  induction n generalizing s a c with
  | zero => rfl
  | succ n ih => simp [scrubWords, ih]
@[simp] theorem applyRepair_trust (s : State) (r : Repair) : (applyRepair s r).trust = s.trust := by
  simp [applyRepair]
@[simp] theorem poisonCarrier_trust (s : State) (c k : Nat) : (poisonCarrier s c k).trust = s.trust := by
  simp [poisonCarrier]
@[simp] theorem failTackSeam_trust (s : State) : (failTackSeam s).trust = s.trust := by simp [failTackSeam]
@[simp] theorem stopMyarn_trust (s : State) (p : MPort) : (stopMyarn s p).trust = s.trust := by
  unfold stopMyarn; dsimp only
  rw [myaDown_trust]
  exact foldl_trust _ _ _ fun t x => by (repeat' split) <;> simp
@[simp] theorem loseDecoder_trust (s : State) (d : Decoder) (second : Bool) :
    (loseDecoder s d second).trust = s.trust := by unfold loseDecoder; dsimp only; (repeat' split) <;> simp
@[simp] theorem checkerFault_trust (s : State) (d : Decoder) : (checkerFault s d).trust = s.trust := by
  simp [checkerFault]
@[simp] theorem armFlip_trust (s : State) : (armFlip s).2.trust = s.trust := by simp [armFlip]
@[simp] theorem splitGo_trust (s : State) (read : Bool) : (splitGo s read).2.trust = s.trust := by simp [splitGo]

/-! Register writes (R514, R533) -/

@[simp] theorem ecctTake_trust (s : State) (off : Nat) (v : W32) : (ecctTake s off v).2.trust = s.trust := by
  unfold ecctTake; split <;> simp
@[simp] theorem ecctWrite_trust (s : State) (p : NPort) (off : Nat) (v : W32) :
    (ecctWrite s p off v).2.trust = s.trust := by unfold ecctWrite; (repeat' split) <;> simp
@[simp] theorem writeHalf_trust (s : State) (p : NPort) (base off : Nat) (now : W64) (v : W32)
    (lowBad : Option Byte) (busy : Bool) (put : W64 → State → State) (h : ∀ x u, (put x u).trust = u.trust) :
    (writeHalf s p base off now v lowBad busy put).2.trust = s.trust := by
  fun_cases writeHalf s p base off now v lowBad busy put <;> simp_all
@[simp] theorem ringRegWrite_trust (s : State) (q p : NPort) (off : Nat) (v : W32) :
    (ringRegWrite s q p off v).2.trust = s.trust := by
  have hid (x : W64) (u : State) : (ringRegWrite.id' x u).trust = u.trust := rfl
  unfold ringRegWrite; dsimp only
  (repeat' split) <;> simp [hid]
@[simp] theorem selWrite_trust (s : State) (p : NPort) (v : W32) : (selWrite s p v).2.trust = s.trust := by
  unfold selWrite; split <;> simp
@[simp] theorem regWrite_trust (s : State) (p : NPort) (off : Nat) (v : W32) :
    (regWrite s p off v).2.trust = s.trust := by simp [regWrite]; split <;> simp
@[simp] theorem lifeReg_trust (s : State) (p : NPort) (off : Nat) (v : W32) :
    (lifeReg s p off v).2.trust = s.trust := by unfold lifeReg; split <;> simp
@[simp] theorem mgmtAnswer_trust (s : State) (data : W32) (st : Byte) : (mgmtAnswer s data st).trust = s.trust := by
  simp [mgmtAnswer]
@[simp] theorem mgmtWrite_trust (s : State) (off : Nat) (v : W32) : (mgmtWrite s off v).2.trust = s.trust := by
  simp [mgmtWrite]; split <;> simp

/-! The Needle, the Rinse and the sequencer (R118–R134) -/

@[simp] theorem residueMismatch_trust (s : State) (core : Nat) : (residueMismatch s core).trust = s.trust := by
  simp [residueMismatch]
@[simp] theorem underResidue_trust (core e : Nat) (fault : ResidueFault) (effect : Bool → State → IWord → State)
    (s : State) (w : IWord) (h : ∀ bad u w, (effect bad u w).trust = u.trust) :
    (underResidue core e fault effect s w).trust = s.trust := by
  fun_cases underResidue core e fault effect s w <;> simp_all
@[simp] theorem residueRedo_trust (core : Nat) (r : Redo) (effect : Bool → State → IWord → State) (s : State)
    (h : ∀ bad u w, (effect bad u w).trust = u.trust) : (residueRedo core r effect s).trust = s.trust := by
  fun_cases residueRedo core r effect s <;> simp_all
@[simp] theorem tileForm_trust (s : State) (core addr : Nat) (begins : Bool) (f : OutForm) :
    (tileForm s core addr begins f).2.trust = s.trust := by unfold tileForm; split <;> simp
@[simp] theorem appendTrailer_trust (s : State) (core addr : Nat) (f : OutForm) (count map rows : Nat) :
    (appendTrailer s core addr f count map rows).trust = s.trust := by simp [appendTrailer]
@[simp] theorem rowTrailer_trust (s : State) (core addr : Nat) (f : OutForm) (begins : Bool) (count map rows : Nat) :
    (rowTrailer s core addr f begins count map rows).trust = s.trust := by simp [rowTrailer]
@[simp] theorem appendRows_trust (s : State) (core e : Nat) (f : OutForm) (addr r0 : Nat)
    (rows : List (Option (List Acc))) : (appendRows s core e f addr r0 rows).1.trust = s.trust := by
  simp [appendRows]
@[simp] theorem mvEffect_trust (core : Nat) (bad : Bool) (s : State) (w : IWord) :
    (mvEffect core bad s w).trust = s.trust := by simp [mvEffect]
@[simp] theorem setVreg_trust (s : State) (core v : Nat) (l : List Acc) : (setVreg s core v l).trust = s.trust := by
  simp [setVreg]
@[simp] theorem vectorEffect_trust (core : Nat) (bad : Bool) (s : State) (w : IWord) :
    (vectorEffect core bad s w).trust = s.trust := by simp [vectorEffect]
@[simp] theorem appendAll_trust (s : State) (core : Nat) (f : OutForm) (row : Nat) (l : List Int)
    (accs : List (List Acc)) : (appendAll s core f row l accs).trust = s.trust := by
  fun_induction appendAll s core f row l accs <;> simp_all
@[simp] theorem rowEffect_trust (core : Nat) (bad : Bool) (s : State) (w : IWord) :
    (rowEffect core bad s w).trust = s.trust := by simp [rowEffect]
@[simp] theorem readVals_trust (s : State) (core a m : Nat) : (readVals s core a m).2.trust = s.trust := by
  induction m generalizing s a with
  | zero => rfl
  | succ n ih => simp [readVals, ih]
@[simp] theorem readCarrier_trust (s : State) (core a i m : Nat) : (readCarrier s core a i m).2.trust = s.trust := by
  induction m generalizing s i with
  | zero => rfl
  | succ n ih => simp [readCarrier, ih]
@[simp] theorem appendHalf_trust (s : State) (core : Nat) (f : OutForm) (addr row h : Nat) (l : List Acc) :
    (appendHalf s core f addr row h l).trust = s.trust := by simp [appendHalf]
@[simp] theorem appendHalves_trust (s : State) (core : Nat) (f : OutForm) (dst row c m : Nat) (l : List Acc) :
    (appendHalves s core f dst row c m l).trust = s.trust := by
  fun_induction appendHalves s core f dst row c m l <;> simp_all
@[simp] theorem combineMerge_trust (s : State) (core st row head : Nat) (src : List Nat) (dst : Nat) :
    (combineMerge s core st row head src dst).trust = s.trust := by unfold combineMerge; (repeat' split) <;> simp
@[simp] theorem rowAcross_trust (s : State) (core : Nat) (side : TileSide) (tag kc a row n : Nat) :
    (rowAcross s core side tag kc a row n).2.trust = s.trust := by simp [rowAcross]
@[simp] theorem backwardStep_trust (s : State) (core st row dy saved dst : Nat) :
    (backwardStep s core st row dy saved dst).trust = s.trust := by
  unfold backwardStep; dsimp only; (repeat' split) <;> simp
@[simp] theorem redoCore_trust (s : State) (core : Nat) : (redoCore s core).trust = s.trust := by
  unfold redoCore; (repeat' split) <;> simp
@[simp] theorem setSreg_trust (s : State) (core r : Nat) (v : W32) : (setSreg s core r v).trust = s.trust := by
  simp [setSreg]
@[simp] theorem armEntry_trust (s : State) (core : Nat) (w : IWord) : (armEntry s core w).trust = s.trust := by
  simp [armEntry]
@[simp] theorem sliceCommandError_trust (s : State) (core : Nat) : (sliceCommandError s core).trust = s.trust := by
  simp [sliceCommandError]

end Sys2Proof.Machine

end

section

/-! Commands that leave the root of trust as it is. -/

namespace Sys2Proof.Machine

/-- The outcome of a command on s leaves the root of trust as it was. -/
def TrustStays (s : State) (o : Host.Outcome State Fault Refusal) : Prop := ∀ t, o = .next t → t.trust = s.trust

theorem whenAon_trust (s : State) (f : State → State) (h : ∀ u, (f u).trust = u.trust) :
    TrustStays s (whenAon s f) := by
  rintro t ⟨⟩
  rw [trust_ite, h, ite_self]

theorem execQueueRefill_trust (core : CoreId) (s : State) : TrustStays s (execQueueRefill core s) :=
  whenAon_trust _ _ fun u => by dsimp only; (repeat' split) <;> simp
theorem execInstructionRetire_trust (core : CoreId) (eng : EngId) (s : State) :
    TrustStays s (execInstructionRetire core eng s) := whenAon_trust _ _ fun u => by simp
theorem execClockGating_trust (core : CoreId) (s : State) : TrustStays s (execClockGating core s) :=
  whenAon_trust _ _ fun u => by dsimp only; split <;> simp
theorem execNop_trust (core : CoreId) (eng : EngId) (s : State) : TrustStays s (execNop core eng s) :=
  whenAon_trust _ _ fun u => by simp
theorem execLoop_trust (core : CoreId) (eng : EngId) (s : State) : TrustStays s (execLoop core eng s) :=
  whenAon_trust _ _ fun u => by simp
theorem execBar_trust (core : CoreId) (eng : EngId) (s : State) : TrustStays s (execBar core eng s) :=
  whenAon_trust _ _ fun u => by simp
theorem execEndProg_trust (core : CoreId) (eng : EngId) (s : State) : TrustStays s (execEndProg core eng s) :=
  whenAon_trust _ _ fun u => by simp
theorem execLiveCoreSparing_trust (core : PhysId) (s : State) : TrustStays s (execLiveCoreSparing core s) :=
  whenAon_trust _ _ fun u => by simp
theorem execMm_trust (core : CoreId) (g : Bool) (fault : ArrayFault) (s : State) :
    TrustStays s (execMm core g fault s) := whenAon_trust _ _ fun u => by simp
theorem execLay_trust (core : CoreId) (g : Bool) (s : State) : TrustStays s (execLay core g s) :=
  whenAon_trust _ _ fun u => by simp
theorem execClr_trust (core : CoreId) (g : Bool) (s : State) : TrustStays s (execClr core g s) :=
  whenAon_trust _ _ fun u => by simp
theorem execDrn_trust (core : CoreId) (g : Bool) (s : State) : TrustStays s (execDrn core g s) :=
  whenAon_trust _ _ fun u => by simp
theorem execGdrv_trust (core : CoreId) (s : State) : TrustStays s (execGdrv core s) := by
  refine whenAon_trust _ _ fun u => issue_trust _ _ _ _ _ _ fun v w => ?_
  dsimp only
  rw [issuedData_trust]
  (repeat' split) <;> simp
theorem execShadowAudit_trust (core : CoreId) (station : Nat) (finished : Bool) (s : State) :
    TrustStays s (execShadowAudit core station finished s) := whenAon_trust _ _ fun u => by split <;> simp
theorem execParamDefine_trust (port : NPort) (ring : RingId) (s : State) : TrustStays s (execParamDefine port ring s) :=
  whenAon_trust _ _ fun u => withDescriptor_trust _ _ _ _ _ fun v ref d =>
    withTables_trust _ _ _ _ _ fun x => by split <;> simp
theorem execParamFreeze_trust (port : NPort) (ring : RingId) (s : State) : TrustStays s (execParamFreeze port ring s) :=
  whenAon_trust _ _ fun u => withDescriptor_trust _ _ _ _ _ fun v ref d => by
    simp
theorem execParamFlip_trust (port : NPort) (ring : RingId) (s : State) : TrustStays s (execParamFlip port ring s) :=
  whenAon_trust _ _ fun u => withDescriptor_trust _ _ _ _ _ fun v ref d =>
    withIds_trust _ _ _ _ fun x ids => by split <;> simp
theorem execGradFetch_trust (port : NPort) (ring : RingId) (s : State) : TrustStays s (execGradFetch port ring s) := by
  refine whenAon_trust _ _ fun u => withDescriptor_trust _ _ _ _ _ fun v ref d => ?_
  dsimp only
  split; · simp
  refine withTables_trust _ _ _ _ _ fun x => ?_
  (repeat' split) <;> simp
theorem execSemaphoreClaim_trust (a : Access) (s : State) : TrustStays s (execSemaphoreClaim a s) :=
  whenAon_trust _ _ fun u => by dsimp only; (repeat' split) <;> simp
theorem execSemaphoreRelease_trust (a : Access) (v : W32) (s : State) : TrustStays s (execSemaphoreRelease a v s) :=
  whenAon_trust _ _ fun u => by simp
theorem execSemaphoreBreak_trust (a : Access) (v : W32) (s : State) : TrustStays s (execSemaphoreBreak a v s) :=
  whenAon_trust _ _ fun u => by simp
theorem execLeaseExpiry_trust (s : State) : TrustStays s (execLeaseExpiry s) := whenAon_trust _ _ fun u => by simp
theorem execFoldWrite_trust (a : Access) (offset : BitVec 28) (v : W32) (s : State) :
    TrustStays s (execFoldWrite a offset v s) := whenAon_trust _ _ fun u => by simp
theorem execFoldCheck_trust (a : Access) (v : W32) (s : State) : TrustStays s (execFoldCheck a v s) :=
  whenAon_trust _ _ fun u => by simp
theorem execFoldFreeze_trust (a : Access) (v : W32) (s : State) : TrustStays s (execFoldFreeze a v s) :=
  whenAon_trust _ _ fun u => by simp
theorem execFoldDiscard_trust (a : Access) (v : W32) (s : State) : TrustStays s (execFoldDiscard a v s) :=
  whenAon_trust _ _ fun u => by simp
theorem execAvsReadback_trust (rail : Fin 6) (mv : Option Nat) (alert : Bool) (s : State) :
    TrustStays s (execAvsReadback rail mv alert s) := whenAon_trust _ _ fun u => by split <;> simp
theorem execTransactionFlit_trust (link : Link) (f : Flit) (s : State) : TrustStays s (execTransactionFlit link f s) :=
  whenAon_trust _ _ fun u => by simp
theorem execNullFlit_trust (link : Link) (f : Flit) (s : State) : TrustStays s (execNullFlit link f s) :=
  whenAon_trust _ _ fun u => by simp
theorem execNakRepeat_trust (link : Link) (s : State) : TrustStays s (execNakRepeat link s) :=
  whenAon_trust _ _ fun u => by simp
theorem execReplayTimeout_trust (link : Link) (s : State) : TrustStays s (execReplayTimeout link s) :=
  whenAon_trust _ _ fun u => by dsimp only; split <;> simp
theorem execLaneFailed_trust (port : NPort) (lane : Fin 8) (s : State) : TrustStays s (execLaneFailed port lane s) :=
  whenAon_trust _ _ fun u => by simp
theorem execSpare_trust (port : MPort) (f : Flit) (codeword : Byte) (s : State) :
    TrustStays s (execSpare port f codeword s) := whenAon_trust _ _ fun u => by simp
theorem execSpareAck_trust (port : MPort) (f : Flit) (s : State) : TrustStays s (execSpareAck port f s) :=
  whenAon_trust _ _ fun u => by simp
theorem execLaneSubstitution_trust (port : MPort) (codeword : Byte) (s : State) :
    TrustStays s (execLaneSubstitution port codeword s) := whenAon_trust _ _ fun u => by split <;> simp
theorem execCreditStall_trust (port : MPort) (s : State) : TrustStays s (execCreditStall port s) :=
  whenAon_trust _ _ fun u => by dsimp only; split <;> simp
theorem execCapAck_trust (link : Link) (f : Flit) (s : State) : TrustStays s (execCapAck link f s) :=
  whenAon_trust _ _ fun u => by simp
theorem execTrainingComplete_trust (link : Link) (width : BitVec 2) (failedLanes : BitVec 9) (s : State) :
    TrustStays s (execTrainingComplete link width failedLanes s) := whenAon_trust _ _ fun u => by split <;> simp
theorem execRetrain_trust (link : Link) (cause : RetrainCause) (s : State) : TrustStays s (execRetrain link cause s) :=
  whenAon_trust _ _ fun u => by split <;> simp
theorem execDbl_trust (port : NPort) (body : W64) (s : State) : TrustStays s (execDbl port body s) :=
  whenAon_trust _ _ fun u => by simp
theorem execCpld_trust (port : NPort) (tag : BitVec 10) (status : Byte) (last : Bool) (_offset : W32)
    (data : List Byte) (s : State) : TrustStays s (execCpld port tag status last _offset data s) :=
  whenAon_trust _ _ fun u => by dsimp only; (repeat' split) <;> simp
theorem execMrdTimeout_trust (port : NPort) (tag : BitVec 10) (s : State) : TrustStays s (execMrdTimeout port tag s) :=
  whenAon_trust _ _ fun u => by split <;> simp
theorem execTagRetireExpiry_trust (port : NPort) (tag : BitVec 10) (s : State) :
    TrustStays s (execTagRetireExpiry port tag s) := whenAon_trust _ _ fun u => by split <;> simp
theorem execRingEnable_trust (a : Access) (p : NPort) (ring : RingId) (v : W32) (s : State) :
    TrustStays s (execRingEnable a p ring v s) := whenAon_trust _ _ fun u => by simp
theorem execRingDisable_trust (a : Access) (p : NPort) (ring : RingId) (v : W32) (s : State) :
    TrustStays s (execRingDisable a p ring v s) := whenAon_trust _ _ fun u => by simp
theorem execErrorRingEnable_trust (a : Access) (p : NPort) (v : W32) (s : State) :
    TrustStays s (execErrorRingEnable a p v s) := whenAon_trust _ _ fun u => by simp
theorem execErrorRingDisable_trust (a : Access) (p : NPort) (v : W32) (s : State) :
    TrustStays s (execErrorRingDisable a p v s) := whenAon_trust _ _ fun u => by simp
theorem execNopDescriptor_trust (port : NPort) (ring : RingId) (s : State) :
    TrustStays s (execNopDescriptor port ring s) := whenAon_trust _ _ fun u => by simp
theorem execCopyIn_trust (port : NPort) (ring : RingId) (s : State) : TrustStays s (execCopyIn port ring s) :=
  whenAon_trust _ _ fun u => withDescriptor_trust _ _ _ _ _ fun v ref d => by
    dsimp only; (repeat' split) <;> simp
theorem execCopyOut_trust (port : NPort) (ring : RingId) (s : State) : TrustStays s (execCopyOut port ring s) :=
  whenAon_trust _ _ fun u => withDescriptor_trust _ _ _ _ _ fun v ref d => by
    dsimp only; (repeat' split) <;> simp
theorem execMangleTransfer_trust (xfer : Nat) (bad : List Nat) (s : State) :
    TrustStays s (execMangleTransfer xfer bad s) := whenAon_trust _ _ fun u => by (repeat' split) <;> simp
theorem execPartLoad_trust (port : NPort) (ring : RingId) (s : State) : TrustStays s (execPartLoad port ring s) := by
  refine whenAon_trust _ _ fun u => withDescriptor_trust _ _ _ _ _ fun v ref d => ?_
  extract_lets n p a len go
  have hgo (x : State) (stack : Bool) (b : List Byte) : (go x stack b).trust = x.trust := by
    dsimp only [go]
    (repeat' split) <;> simp
  clear_value go
  (repeat' split) <;> simp +zetaDelta [hgo]
theorem execImageLoadComplete_trust (part : PartId) (s : State) : TrustStays s (execImageLoadComplete part s) := by
  refine whenAon_trust _ _ fun u => ?_
  dsimp only
  split; · rfl
  split; · rfl
  split; · simp
  split
  · (repeat' split) <;> simp
  · exact fetched_trust _ _ _ _ _ _ fun x r => by (repeat' split) <;> simp
theorem execPartRun_trust (port : NPort) (ring : RingId) (s : State) : TrustStays s (execPartRun port ring s) := by
  refine whenAon_trust _ _ fun u => withDescriptor_trust _ _ _ _ _ fun v ref d => ?_
  extract_lets n p a k go
  have hgo (x : State) (img : Image) (b : List Byte) : (go x img b).trust = x.trust := by
    dsimp only [go]
    split; · simp
    exact withTables_trust _ _ _ _ _ fun y => by split <;> simp
  clear_value go
  (repeat' split) <;> simp +zetaDelta [hgo]
theorem execRunStart_trust (part : PartId) (s : State) : TrustStays s (execRunStart part s) :=
  whenAon_trust _ _ fun u => by dsimp only; split <;> simp
theorem execRunEnd_trust (part : PartId) (s : State) : TrustStays s (execRunEnd part s) :=
  whenAon_trust _ _ fun u => by dsimp only; (repeat' split) <;> simp
theorem execPartStop_trust (port : NPort) (ring : RingId) (s : State) : TrustStays s (execPartStop port ring s) :=
  whenAon_trust _ _ fun u => by simp
theorem execPartReset_trust (port : NPort) (ring : RingId) (s : State) : TrustStays s (execPartReset port ring s) :=
  whenAon_trust _ _ fun u => by simp
theorem execPartitionResetComplete_trust (part : PartId) (s : State) :
    TrustStays s (execPartitionResetComplete part s) := whenAon_trust _ _ fun u => by dsimp only; split <;> simp
theorem execMyarnLaneFail_trust (port : MPort) (lane : Fin 9) (s : State) :
    TrustStays s (execMyarnLaneFail port lane s) := whenAon_trust _ _ fun u => by simp
theorem execCap_trust (link : Link) (f : Flit) (s : State) : TrustStays s (execCap link f s) :=
  whenAon_trust _ _ fun u => by split <;> simp
theorem execDown_trust (link : Link) (f : Flit) (s : State) : TrustStays s (execDown link f s) :=
  whenAon_trust _ _ fun u => by simp
theorem execPortDown_trust (link : Link) (s : State) : TrustStays s (execPortDown link s) :=
  whenAon_trust _ _ fun u => by simp
theorem execTrainingRetry_trust (link : Link) (s : State) : TrustStays s (execTrainingRetry link s) :=
  whenAon_trust _ _ fun u => by simp
theorem execFlitTransmit_trust (link : Link) (s : State) : TrustStays s (execFlitTransmit link s) :=
  whenAon_trust _ _ fun u => by split <;> simp
theorem execNalsonRetrainRequest_trust (a : Access) (n : NPort) (v : W32) (s : State) :
    TrustStays s (execNalsonRetrainRequest a n v s) := whenAon_trust _ _ fun u => by simp
theorem execNalsonDisable_trust (a : Access) (n : NPort) (v : W32) (s : State) :
    TrustStays s (execNalsonDisable a n v s) := whenAon_trust _ _ fun u => by simp
theorem execSdata_trust (port : MPort) (p : Packet) (s : State) : TrustStays s (execSdata port p s) := by
  refine whenAon_trust _ _ fun u => arrivePacket_trust _ _ _ _ _ fun v n t ht =>
    enterStream_trust _ _ _ _ _ (fun x key y hy => ?_) ht
  dsimp only at hy
  split at hy
  · obtain rfl := Option.some.inj hy; simp
  · split at hy
    · split at hy
      · cases hy
      · obtain rfl := Option.some.inj hy; simp
    · cases hy
theorem execSwrite_trust (port : MPort) (p : Packet) (s : State) : TrustStays s (execSwrite port p s) := by
  refine whenAon_trust _ _ fun u => arrivePacket_trust _ _ _ _ _ fun v n t ht =>
    enterStream_trust _ _ _ _ _ (fun x key y hy => ?_) ht
  dsimp only at hy
  split at hy <;> (obtain rfl := Option.some.inj hy; simp)
theorem execAnnounce_trust (port : MPort) (p : Packet) (s : State) : TrustStays s (execAnnounce port p s) := by
  refine whenAon_trust _ _ fun u => arrivePacket_trust _ _ _ _ _ fun v n t ht =>
    enterStream_trust _ _ _ _ _ (fun x key y hy => ?_) ht
  dsimp only at hy
  split at hy
  · cases hy
  · obtain rfl := Option.some.inj hy; simp
theorem execAnnounceHoldExpiry_trust (part : PartId) (stream : BitVec 16) (s : State) :
    TrustStays s (execAnnounceHoldExpiry part stream s) := whenAon_trust _ _ fun u => by dsimp only; split <;> simp
theorem execMyaWrite_trust (port : NPort) (ring : RingId) (s : State) : TrustStays s (execMyaWrite port ring s) :=
  whenAon_trust _ _ fun u => withDescriptor_trust _ _ _ _ _ fun v ref d => by
    dsimp only; (repeat' split) <;> simp
theorem execMyaAnnounce_trust (port : NPort) (ring : RingId) (s : State) : TrustStays s (execMyaAnnounce port ring s) :=
  whenAon_trust _ _ fun u => withDescriptor_trust _ _ _ _ _ fun v ref d => by
    dsimp only; (repeat' split) <;> simp
theorem execMyaStreamClear_trust (port : NPort) (ring : RingId) (s : State) :
    TrustStays s (execMyaStreamClear port ring s) := whenAon_trust _ _ fun u => by simp
theorem execBarrierArrival_trust (core : CoreId) (eng : EngId) (s : State) :
    TrustStays s (execBarrierArrival core eng s) := whenAon_trust _ _ fun u => by split <;> simp
theorem execArrive_trust (port : MPort) (p : Packet) (s : State) : TrustStays s (execArrive port p s) := by
  refine whenAon_trust _ _ fun u => arrivePacket_trust _ _ _ _ _ fun v n t ht => ?_
  dsimp only at ht
  (repeat' split at ht) <;> (obtain rfl := Option.some.inj ht; simp)
theorem execRelease_trust (port : MPort) (p : Packet) (s : State) : TrustStays s (execRelease port p s) := by
  refine whenAon_trust _ _ fun u => arrivePacket_trust _ _ _ _ _ fun v n t ht => ?_
  dsimp only at ht
  (repeat' split at ht) <;> (obtain rfl := Option.some.inj ht; simp)
theorem execBarrierTimeout_trust (bar : BarId) (s : State) : TrustStays s (execBarrierTimeout bar s) :=
  whenAon_trust _ _ fun u => by dsimp only; split <;> simp
theorem execTrimRegulatorFail_trust (reg : Fin 256) (s : State) : TrustStays s (execTrimRegulatorFail reg s) :=
  whenAon_trust _ _ fun u => by simp
theorem execHeaderStage_trust (cluster : ClusterId) (droop : Bool) (neighbourPct : List Nat) (s : State) :
    TrustStays s (execHeaderStage cluster droop neighbourPct s) := by
  refine whenAon_trust _ _ fun u => ?_
  dsimp only
  split; · rfl
  split; · simp
  split; · simp
  rw [modHdr_trust]
  exact foldl_trust _ _ _ fun x y => by split <;> simp
theorem execHeaderStageForced_trust (cluster : ClusterId) (s : State) :
    TrustStays s (execHeaderStageForced cluster s) := whenAon_trust _ _ fun u => by simp
theorem execCurrentTelemetryCheck_trust (sumMa readMa : List Nat) (s : State) :
    TrustStays s (execCurrentTelemetryCheck sumMa readMa s) := whenAon_trust _ _ fun u => by simp
theorem execBudgetSelectAccept_trust (v : BitVec 2) (s : State) : TrustStays s (execBudgetSelectAccept v s) :=
  whenAon_trust _ _ fun u => by simp
theorem execDroop_trust (cluster : ClusterId) (s : State) : TrustStays s (execDroop cluster s) :=
  whenAon_trust _ _ fun u => by split <;> simp
theorem execDroopHoldExpiry_trust (part : PartId) (s : State) : TrustStays s (execDroopHoldExpiry part s) :=
  whenAon_trust _ _ fun u => by simp
theorem execOverCurrent_trust (half : Fin 2) (s : State) : TrustStays s (execOverCurrent half s) :=
  whenAon_trust _ _ fun u => by simp
theorem execOverCurrentClear_trust (half : Fin 2) (s : State) : TrustStays s (execOverCurrentClear half s) :=
  whenAon_trust _ _ fun u => by split <;> simp
theorem execLendingCompute_trust (gatedMw : List Nat) (s : State) : TrustStays s (execLendingCompute gatedMw s) :=
  whenAon_trust _ _ fun u => by simp
theorem execPartitionCycle_trust (part : PartId) (bad : List LinkWord) (s : State) :
    TrustStays s (execPartitionCycle part bad s) :=
  whenAon_trust _ _ fun u => by dsimp only; (repeat' split) <;> simp
theorem execSlipLimit_trust (part : PartId) (s : State) : TrustStays s (execSlipLimit part s) :=
  whenAon_trust _ _ fun u => by simp
theorem execSeamRingReplaced_trust (ring : Fin 8) (s : State) : TrustStays s (execSeamRingReplaced ring s) :=
  whenAon_trust _ _ fun u => by simp
theorem execUncorrectableRingWord_trust (ring : Fin 9) (_east : Bool) (_slot : Fin 64) (s : State) :
    TrustStays s (execUncorrectableRingWord ring _east _slot s) :=
  whenAon_trust _ _ fun u => by dsimp only; (repeat' split) <;> simp
theorem execTackMessageLost_trust (src dst : BitVec 16) (chan : Fin 2) (s : State) :
    TrustStays s (execTackMessageLost src dst chan s) := whenAon_trust _ _ fun u => by simp
theorem execTackRequestTimeout_trust (src dst : BitVec 16) (chan : Fin 2) (read : Option Access) (s : State) :
    TrustStays s (execTackRequestTimeout src dst chan read s) := whenAon_trust _ _ fun u => by split <;> simp
theorem execTackSeamChannelFailed_trust (sideband : Bool) (s : State) :
    TrustStays s (execTackSeamChannelFailed sideband s) := whenAon_trust _ _ fun u => by simp
theorem execFoldPress_trust (a : Access) (v : W32) (s : State) : TrustStays s (execFoldPress a v s) :=
  whenAon_trust _ _ fun u => by simp
theorem execFoldPressAtBoundary_trust (s : State) : TrustStays s (execFoldPressAtBoundary s) :=
  whenAon_trust _ _ fun u => by split <;> simp
theorem execSensorFlag_trust (i : Fin 352) (s : State) : TrustStays s (execSensorFlag i s) :=
  whenAon_trust _ _ fun u => by dsimp only; split <;> simp
theorem execSensorFlagClear_trust (i : Fin 352) (s : State) : TrustStays s (execSensorFlagClear i s) :=
  whenAon_trust _ _ fun u => by split <;> simp
theorem execThermalHaltRelease_trust (part : PartId) (s : State) : TrustStays s (execThermalHaltRelease part s) :=
  whenAon_trust _ _ fun u => by dsimp only; split <;> simp
theorem execThermalSample_trust (reads : SensorReads) (lines : List Nat) (s : State) :
    TrustStays s (execThermalSample reads lines s) := whenAon_trust _ _ fun u => by simp
theorem execThermtrip_trust (i : Fin 352) (s : State) : TrustStays s (execThermtrip i s) :=
  whenAon_trust _ _ fun u => by simp
theorem execTachCheck_trust (idleMs rpm : List Nat) (s : State) : TrustStays s (execTachCheck idleMs rpm s) :=
  whenAon_trust _ _ fun u => by dsimp only; split <;> simp
theorem execFanFailed_trust (f : Fin 6) (s : State) : TrustStays s (execFanFailed f s) :=
  whenAon_trust _ _ fun u => by split <;> simp
theorem execInletRead_trust (t : Option (BitVec 16)) (s : State) : TrustStays s (execInletRead t s) :=
  whenAon_trust _ _ fun u => by dsimp only; (repeat' split) <;> simp
theorem execFanDutyUpdate_trust (s : State) : TrustStays s (execFanDutyUpdate s) :=
  whenAon_trust _ _ fun u => by simp
theorem execAirflowSecond_trust (t2m16 : Int) (powerMw : Nat) (s : State) :
    TrustStays s (execAirflowSecond t2m16 powerMw s) := by
  refine whenAon_trust _ _ fun u => ?_
  dsimp only
  split
  · split <;> simp
  · simp
  · simp
theorem execAirflowCapUpdate_trust (s : State) : TrustStays s (execAirflowCapUpdate s) :=
  whenAon_trust _ _ fun u => by split <;> simp
theorem execAirflowLostExit_trust (s : State) : TrustStays s (execAirflowLostExit s) :=
  whenAon_trust _ _ fun u => by split <;> simp
theorem execMarginReview_trust (s : State) : TrustStays s (execMarginReview s) := whenAon_trust _ _ fun u => by simp
theorem execReviewNow_trust (a : Access) (v : W32) (s : State) : TrustStays s (execReviewNow a v s) :=
  whenAon_trust _ _ fun u => by simp
theorem execRetuneMeasurement_trust (g : Crossing) (errors : List Nat) (s : State) :
    TrustStays s (execRetuneMeasurement g errors s) := whenAon_trust _ _ fun u => by simp
theorem execFrameBoundary_trust (f : FrameInputs) (s : State) : TrustStays s (execFrameBoundary f s) :=
  whenAon_trust _ _ fun u => by simp
theorem execCertRead_trust (port : NPort) (ring : RingId) (s : State) : TrustStays s (execCertRead port ring s) :=
  whenAon_trust _ _ fun u => withDescriptor_trust _ _ _ _ _ fun v ref d => by
    (repeat' split) <;> simp
theorem execLifelineNotice_trust (s : State) : TrustStays s (execLifelineNotice s) :=
  whenAon_trust _ _ fun u => by simp
theorem execLifeGo_trust (a : Access) (v : W32) (s : State) : TrustStays s (execLifeGo a v s) :=
  whenAon_trust _ _ fun u => by simp
theorem execFwUpdate_trust (port : NPort) (ring : RingId) (s : State) : TrustStays s (execFwUpdate port ring s) :=
  whenAon_trust _ _ fun u => by simp
theorem execFwUpdateComplete_trust (firstMismatch : Option Nat) (s : State) :
    TrustStays s (execFwUpdateComplete firstMismatch s) := whenAon_trust _ _ fun u => by (repeat' split) <;> simp
theorem execHemReset_trust (request : Option (NPort × RingId)) (s : State) : TrustStays s (execHemReset request s) :=
  whenAon_trust _ _ fun u => by (repeat' split) <;> simp
theorem execHemResetResume_trust (s : State) : TrustStays s (execHemResetResume s) := by
  refine whenAon_trust _ _ fun u => ?_
  split; · rfl
  dsimp only
  rw [resumeReads_trust]
  split
  · rw [completeOk_trust]
    exact foldl_trust _ _ _ fun x n => by split <;> simp
  · exact foldl_trust _ _ _ fun x n => by split <;> simp
theorem execDeviceReset_trust (port : NPort) (ring : RingId) (s : State) : TrustStays s (execDeviceReset port ring s) :=
  whenAon_trust _ _ fun u => by simp
theorem execPerstNFall_trust (s : State) : TrustStays s (execPerstNFall s) := whenAon_trust _ _ fun u => by simp
theorem execPerstNRise_trust (s : State) : TrustStays s (execPerstNRise s) := whenAon_trust _ _ fun u => by simp
theorem execPllRelock_trust (c : ClockId) (inTime : Bool) (s : State) : TrustStays s (execPllRelock c inTime s) :=
  whenAon_trust _ _ fun u => by simp
theorem execAlertPendingClear_trust (a : Access) (v : W32) (s : State) : TrustStays s (execAlertPendingClear a v s) :=
  whenAon_trust _ _ fun u => by simp
theorem execPackChallengeResponse_trust (signature : List Byte) (s : State) :
    TrustStays s (execPackChallengeResponse signature s) := whenAon_trust _ _ fun u => by split <;> simp
theorem execPackPoll_trust (p : PackPoll) (s : State) : TrustStays s (execPackPoll p s) :=
  whenAon_trust _ _ fun u => by simp
theorem execPackTest_trust (uv : Nat) (s : State) : TrustStays s (execPackTest uv s) :=
  whenAon_trust _ _ fun u => by dsimp only; split <;> simp
theorem execPackTestEnd_trust (v10uv v100uv integral : Nat) (s : State) :
    TrustStays s (execPackTestEnd v10uv v100uv integral s) := whenAon_trust _ _ fun u => by split <;> simp
theorem execTestNow_trust (a : Access) (v : W32) (s : State) : TrustStays s (execTestNow a v s) :=
  whenAon_trust _ _ fun u => by simp
theorem execWindowRecompute_trust (uv : Nat) (s : State) : TrustStays s (execWindowRecompute uv s) :=
  whenAon_trust _ _ fun u => by simp
theorem execPackCounterUpdate_trust (s : State) : TrustStays s (execPackCounterUpdate s) :=
  whenAon_trust _ _ fun u => by simp
theorem execPowerLossAccept_trust (s : State) : TrustStays s (execPowerLossAccept s) :=
  whenAon_trust _ _ fun u => by simp
theorem execRailOutOfWindow_trust (rail : Fin 11) (s : State) : TrustStays s (execRailOutOfWindow rail s) :=
  whenAon_trust _ _ fun u => by simp
theorem execLwFetch_trust (port : NPort) (ring : RingId) (s : State) : TrustStays s (execLwFetch port ring s) :=
  whenAon_trust _ _ fun u => withDescriptor_trust _ _ _ _ _ fun v ref d => by
    dsimp only; (repeat' split) <;> simp
theorem execRefreshDue_trust (site : SiteId) (bg : Fin 256) (bank : Fin 16) (nextBanks : List Nat) (s : State) :
    TrustStays s (execRefreshDue site bg bank nextBanks s) := whenAon_trust _ _ fun u => by simp
theorem execForcedRefresh_trust (nbu : NbuId) (s : State) : TrustStays s (execForcedRefresh nbu s) :=
  whenAon_trust _ _ fun u => by split <;> simp
theorem execNbuOp_trust (port : NPort) (ring : RingId) (s : State) : TrustStays s (execNbuOp port ring s) := by
  refine whenAon_trust _ _ fun u => withDescriptor_trust _ _ _ _ _ fun v ref d => ?_
  dsimp only
  split; · simp
  split; · simp
  split; · simp
  exact withRead_trust _ _ _ _ _ fun x record => by (repeat' split) <;> simp
theorem execNbuAbort_trust (port : NPort) (ring : RingId) (s : State) : TrustStays s (execNbuAbort port ring s) :=
  whenAon_trust _ _ fun u => withDescriptor_trust _ _ _ _ _ fun v ref d => by
    dsimp only; (repeat' split) <;> simp
theorem execEventSummaryPoll_trust (site : SiteId) (pseudo : Fin 64) (s : State) :
    TrustStays s (execEventSummaryPoll site pseudo s) := by
  refine whenAon_trust _ _ fun u => foldl_trust _ _ _ fun x k => ?_
  dsimp only
  split; · rfl
  split <;> simp
theorem execNbuOpTimeout_trust (nbu : NbuId) (s : State) : TrustStays s (execNbuOpTimeout nbu s) :=
  whenAon_trust _ _ fun u => by dsimp only; (repeat' split) <;> simp
theorem execNbuFence_trust (nbu : NbuId) (s : State) : TrustStays s (execNbuFence nbu s) :=
  whenAon_trust _ _ fun u => by simp
theorem execNbuInvocationStart_trust (part : PartId) (station : Nat) (tiles : List (W64 × Bool)) (s : State) :
    TrustStays s (execNbuInvocationStart part station tiles s) :=
  whenAon_trust _ _ fun u => by dsimp only; (repeat' split) <;> simp
theorem execNbuInvocationEnd_trust (part : PartId) (station : Nat) (s : State) :
    TrustStays s (execNbuInvocationEnd part station s) := whenAon_trust _ _ fun u => by dsimp only; split <;> simp
theorem execOrdinaryAccess_trust (a : StackAccess) (s : State) : TrustStays s (execOrdinaryAccess a s) :=
  whenAon_trust _ _ fun u => by (repeat' split) <;> simp
theorem execInterleaveService_trust (nbu : NbuId) (nextBanks : List Nat) (s : State) :
    TrustStays s (execInterleaveService nbu nextBanks s) := whenAon_trust _ _ fun u => by simp
theorem execKvAppend_trust (part : PartId) (station : Nat) (s : State) : TrustStays s (execKvAppend part station s) :=
  whenAon_trust _ _ fun u => by simp
theorem execKvAppendLogRoom_trust (part : PartId) (station : Nat) (s : State) :
    TrustStays s (execKvAppendLogRoom part station s) := whenAon_trust _ _ fun u => by split <;> simp
theorem execDecodeInvocation_trust (part : PartId) (station : Nat) (tiles : List (W64 × Bool)) (s : State) :
    TrustStays s (execDecodeInvocation part station tiles s) :=
  whenAon_trust _ _ fun u => by dsimp only; (repeat' split) <;> simp
theorem execNbuOpAccept_trust (nbu : NbuId) (s : State) : TrustStays s (execNbuOpAccept nbu s) := by
  refine whenAon_trust _ _ fun u => ?_
  dsimp only
  split; · rfl
  split
  · next t ht => rw [settleJobs_trust, acceptCommit_trust _ _ ht]
  · split <;> simp
theorem execNbuOpCompletion_trust (nbu : NbuId) (s : State) : TrustStays s (execNbuOpCompletion nbu s) :=
  whenAon_trust _ _ fun u => by (repeat' split) <;> simp
theorem execKvCommit_trust (port : NPort) (ring : RingId) (s : State) : TrustStays s (execKvCommit port ring s) :=
  whenAon_trust _ _ fun u => withDescriptor_trust _ _ _ _ _ fun v ref d => by
    simp
theorem execKvRelease_trust (port : NPort) (ring : RingId) (s : State) : TrustStays s (execKvRelease port ring s) :=
  whenAon_trust _ _ fun u => withDescriptor_trust _ _ _ _ _ fun v ref d => by
    simp
theorem execPatrolScrubRead_trust (cls : ScrubClass) (s : State) : TrustStays s (execPatrolScrubRead cls s) :=
  whenAon_trust _ _ fun u => by dsimp only; (repeat' split) <;> simp
theorem execScrubBehind_trust (cls : ScrubClass) (s : State) : TrustStays s (execScrubBehind cls s) :=
  whenAon_trust _ _ fun u => by simp
theorem execScrubRange_trust (port : NPort) (ring : RingId) (s : State) : TrustStays s (execScrubRange port ring s) :=
  whenAon_trust _ _ fun u => withDescriptor_trust _ _ _ _ _ fun v ref d => by
    dsimp only; (repeat' split) <;> simp
theorem execPpr_trust (port : NPort) (ring : RingId) (s : State) : TrustStays s (execPpr port ring s) :=
  whenAon_trust _ _ fun u => by simp
theorem execPprApply_trust (site : SiteId) (bg : Fin 256) (spareLeft : Bool) (s : State) :
    TrustStays s (execPprApply site bg spareLeft s) := whenAon_trust _ _ fun u => by dsimp only; split <;> simp
theorem execCheckerTest_trust (wrong : List Decoder) (s : State) : TrustStays s (execCheckerTest wrong s) :=
  whenAon_trust _ _ fun u => by simp
theorem execFlipArm_trust (a : Access) (v : W32) (s : State) : TrustStays s (execFlipArm a v s) :=
  whenAon_trust _ _ fun u => by simp
theorem execFlipDoneClear_trust (a : Access) (v : W32) (s : State) : TrustStays s (execFlipDoneClear a v s) :=
  whenAon_trust _ _ fun u => by simp
theorem execSplitRawWrite_trust (a : Access) (v : W32) (s : State) : TrustStays s (execSplitRawWrite a v s) :=
  whenAon_trust _ _ fun u => by simp
theorem execSplitRawRead_trust (a : Access) (v : W32) (s : State) : TrustStays s (execSplitRawRead a v s) :=
  whenAon_trust _ _ fun u => by simp
theorem execSrd_trust (a : Access) (body : W64) (s : State) : TrustStays s (execSrd a body s) :=
  whenAon_trust _ _ fun u => by dsimp only; (repeat' split) <;> simp
theorem execSwr_trust (a : Access) (body : W64) (s : State) : TrustStays s (execSwr a body s) :=
  whenAon_trust _ _ fun u => by simp
theorem execMgtRead_trust (word : W32) (s : State) : TrustStays s (execMgtRead word s) :=
  whenAon_trust _ _ fun u => by simp
theorem execMgtWrite_trust (word v : W32) (s : State) : TrustStays s (execMgtWrite word v s) :=
  whenAon_trust _ _ fun u => by simp
theorem execNdlLv_trust (core : CoreId) (s : State) : TrustStays s (execNdlLv core s) :=
  whenAon_trust _ _ fun u => by simp
theorem execNdlMv_trust (core : CoreId) (fault : ResidueFault) (s : State) : TrustStays s (execNdlMv core fault s) :=
  whenAon_trust _ _ fun u => by simp
theorem execNdlDrn_trust (core : CoreId) (s : State) : TrustStays s (execNdlDrn core s) :=
  whenAon_trust _ _ fun u => by simp
theorem execRnsLd_trust (core : CoreId) (s : State) : TrustStays s (execRnsLd core s) :=
  whenAon_trust _ _ fun u => by simp
theorem execRnsSt_trust (core : CoreId) (s : State) : TrustStays s (execRnsSt core s) :=
  whenAon_trust _ _ fun u => by simp
theorem execRnsVectorOp_trust (core : CoreId) (fault : ResidueFault) (s : State) :
    TrustStays s (execRnsVectorOp core fault s) := whenAon_trust _ _ fun u => by simp
theorem execRnsLay_trust (core : CoreId) (s : State) : TrustStays s (execRnsLay core s) :=
  whenAon_trust _ _ fun u => by simp
theorem execRnsRowOp_trust (core : CoreId) (job : RinseJob) (s : State) : TrustStays s (execRnsRowOp core job s) :=
  whenAon_trust _ _ fun u => by split <;> simp
theorem execCoreSparingComplete_trust (core : PhysId) (s : State) : TrustStays s (execCoreSparingComplete core s) :=
  whenAon_trust _ _ fun u => by split <;> simp
theorem execSeqLi_trust (core : CoreId) (s : State) : TrustStays s (execSeqLi core s) :=
  whenAon_trust _ _ fun u => by simp
theorem execSeqLui_trust (core : CoreId) (s : State) : TrustStays s (execSeqLui core s) :=
  whenAon_trust _ _ fun u => by simp
theorem execSeqAlu_trust (core : CoreId) (s : State) : TrustStays s (execSeqAlu core s) :=
  whenAon_trust _ _ fun u => by simp
theorem execSeqSetb_trust (core : CoreId) (s : State) : TrustStays s (execSeqSetb core s) :=
  whenAon_trust _ _ fun u => by simp
theorem execSeqLd_trust (core : CoreId) (s : State) : TrustStays s (execSeqLd core s) :=
  whenAon_trust _ _ fun u => by simp
theorem execSeqSt_trust (core : CoreId) (s : State) : TrustStays s (execSeqSt core s) :=
  whenAon_trust _ _ fun u => by simp
theorem execSeqBr_trust (core : CoreId) (s : State) : TrustStays s (execSeqBr core s) :=
  whenAon_trust _ _ fun u => by simp
theorem execSeqRdts_trust (core : CoreId) (s : State) : TrustStays s (execSeqRdts core s) :=
  whenAon_trust _ _ fun u => by simp
theorem execMovSend_trust (core : CoreId) (s : State) : TrustStays s (execMovSend core s) :=
  whenAon_trust _ _ fun u => by simp
theorem execMovRecv_trust (core : CoreId) (s : State) : TrustStays s (execMovRecv core s) :=
  whenAon_trust _ _ fun u => by simp
theorem execFetLoad_trust (core : CoreId) (cmdError : Bool) (bad : List Nat) (s : State) :
    TrustStays s (execFetLoad core cmdError bad s) := whenAon_trust _ _ fun u => by simp
theorem execFetStore_trust (core : CoreId) (cmdError : Bool) (bad : List Nat) (s : State) :
    TrustStays s (execFetStore core cmdError bad s) := whenAon_trust _ _ fun u => by simp
theorem execFetFill_trust (core : CoreId) (s : State) : TrustStays s (execFetFill core s) :=
  whenAon_trust _ _ fun u => by simp
theorem execCoreWatchdog_trust (core : CoreId) (s : State) : TrustStays s (execCoreWatchdog core s) :=
  whenAon_trust _ _ fun u => by (repeat' split) <;> simp

end Sys2Proof.Machine

end

section

/-! The fuse counter and the running svn through a step (R494). -/

namespace Sys2Proof.Machine

/-! The fuses -/

/-- t has the fuse counter of s, and a running svn within 64 where s has one. -/
def FusesStay (s t : State) : Prop :=
  t.rot.counter = s.rot.counter ∧
    (s.rot.svn.toNat ≤ 64 → t.rot.svn.toNat ≤ 64)

variable {s t u : State}

theorem FusesStay.refl (s : State) : FusesStay s s := ⟨rfl, id⟩

theorem FusesStay.trans (h : FusesStay s t) (k : FusesStay t u) : FusesStay s u := ⟨k.1.trans h.1, k.2 ∘ h.2⟩

/-- A change of the root of trust that leaves the counter and the svn. -/
theorem fusesStay_of_eq (hcounter : t.rot.counter = s.rot.counter) (hsvn : t.rot.svn = s.rot.svn) : FusesStay s t :=
  ⟨hcounter, fun h => hsvn ▸ h⟩

theorem fusesStay_of_trust (h : t.trust = s.trust) : FusesStay s t :=
  fusesStay_of_eq (congrArg Rot.counter h) (congrArg Rot.svn h)

theorem FusesStay.then_trust (h : FusesStay s t) (k : u.trust = t.trust) : FusesStay s u :=
  h.trans (fusesStay_of_trust k)

theorem FusesStay.after_trust (h : FusesStay t u) (k : t.trust = s.trust) : FusesStay s u :=
  (fusesStay_of_trust k).trans h

/-- What a descriptor's command can do: no more than settle the ring, or that and its effect. -/
theorem withDescriptor_cases (s : State) (p : NPort) (r : RingId) (op : Byte) (k : State → DescRef → Desc → State) :
    withDescriptor s p r op k = settleRing s p r ∨ ∃ ref d, withDescriptor s p r op k = k (settleRing s p r) ref d := by
  unfold withDescriptor; dsimp only
  split
  · split
    · exact .inr ⟨_, _, rfl⟩
    · exact .inl rfl
  · exact .inl rfl

/-- A transitive relation that settling the ring and the effect keep holds across the command. -/
theorem withDescriptor_rel {R : State → State → Prop} (htrans : ∀ {s t u}, R s t → R t u → R s u) {p : NPort}
    {r : RingId} {op : Byte} {k : State → DescRef → Desc → State} (hsettled : R s (settleRing s p r))
    (h : ∀ u ref d, R u (k u ref d)) : R s (withDescriptor s p r op k) := by
  rcases withDescriptor_cases s p r op k with hidle | ⟨ref, d, hrun⟩
  · rwa [hidle]
  · rw [hrun]
    exact htrans hsettled (h _ ref d)

theorem withDescriptor_fusesStay {p : NPort} {r : RingId} {op : Byte} {k : State → DescRef → Desc → State}
    (h : ∀ u ref d, FusesStay u (k u ref d)) : FusesStay s (withDescriptor s p r op k) :=
  withDescriptor_rel (R := FusesStay) FusesStay.trans (fusesStay_of_trust (settleRing_trust s p r)) h

theorem fetched_fusesStay {id : Reader} {p : NPort} {addr : W64} {len : Nat} {k : State → HostRead → State}
    (h : ∀ u r, FusesStay u (k u r)) : FusesStay s (fetched s id p addr len k) := by
  unfold fetched
  split
  · exact fusesStay_of_trust (beginFetch_trust _ _ _ _ _)
  · split
    · exact .refl s
    · exact (h _ _).after_trust (dropFetch_trust _ _)

theorem withRead_fusesStay {ref : DescRef} {addr : W64} {len : Nat} {k : State → List Byte → State}
    (h : ∀ u b, FusesStay u (k u b)) : FusesStay s (withRead s ref addr len k) :=
  fetched_fusesStay fun u r => by
    split
    · exact fusesStay_of_trust (refuseRead_trust _ _ _)
    · exact h _ _

/-! Operations on the root of trust (R493, R495, R502) -/

theorem modRot_fusesStay (s : State) {f : Rot → Rot} (hcounter : ∀ r, (f r).counter = r.counter)
    (hsvn : ∀ r, (f r).svn = r.svn) : FusesStay s (modRot s f) := fusesStay_of_eq (hcounter s.rot) (hsvn s.rot)

theorem newNonce_fusesStay (s : State) : FusesStay s (newNonce s) := fusesStay_of_eq rfl rfl

theorem loadMicrocode_fusesStay (s : State) (cores nbus : List Nat) : FusesStay s (loadMicrocode s cores nbus) := by
  exact (modRot_fusesStay _ (fun _ => rfl) fun _ => rfl).after_trust (by simp)

theorem release_fusesStay (s : State) : FusesStay s (release s) := by
  unfold release; dsimp only
  have hready : FusesStay s (modRot (beginPatrols s) fun r => { r with ready := true, aliasCounter := r.counter }) :=
    (modRot_fusesStay _ (fun _ => rfl) fun _ => rfl).after_trust (beginPatrols_trust s)
  generalize modRot (beginPatrols s) _ = v at hready ⊢
  exact hready.then_trust (by simp)

/-- An image that verifies has an svn of at most 64 (R493). -/
theorem fwSvn_le_of_fwSlot {b : List Byte} {k : Nat} (h : fwSlot s b = some k) : fwSvn b ≤ 64 := by
  unfold fwSlot at h
  dsimp only at h
  split at h
  · next hcheck =>
    simp only [Bool.and_eq_true, decide_eq_true_eq] at hcheck
    exact hcheck.1.2
  · cases h

theorem adopt_fusesStay {b : List Byte} {k : Nat} (h : fwSlot s b = some k) (v : State) :
    FusesStay v (adopt v b k) := by
  have hsvn := fwSvn_le_of_fwSlot h
  refine ⟨rfl, fun _ => ?_⟩
  change (BitVec.ofNat 7 (fwSvn b)).toNat ≤ 64
  rw [BitVec.toNat_ofNat]
  omega

/-! Start-up and resets (R442, R464, R494) -/

/-- Without power and through a reset the fuses keep the counter, and no image runs. -/
theorem fusesStay_of_keptRot (h : t.rot = keptRot s.rot) : FusesStay s t := by
  rw [FusesStay, h]
  exact ⟨rfl, fun _ => Nat.zero_le _⟩

theorem withoutPower_fusesStay (s : State) : FusesStay s (withoutPower s) := fusesStay_of_keptRot rfl

theorem withoutFast_fusesStay (s : State) : FusesStay s (withoutFast s) := fusesStay_of_keptRot rfl

theorem bootRom_fusesStay (s : State) : FusesStay s (bootRom s) := by
  unfold bootRom
  split
  · exact .refl s
  · extract_lets h v
    have hv : FusesStay s v :=
      ((newNonce_fusesStay _).then_trust (noteCap_trust _)).after_trust (trust_mk ..)
    split
    · next k hk => exact (hv.trans (adopt_fusesStay hk v)).then_trust (readStore_trust _)
    · exact hv.then_trust (modBoot_trust _ _)

theorem deviceReset_fusesStay (s : State) (cause : Nat) : FusesStay s (deviceReset s cause) := by
  unfold deviceReset; dsimp only
  have hdown : (sendDown (sendDown s (.nalson 0) 1) (.nalson 1) 1).trust = s.trust := by simp
  exact (((withoutFast_fusesStay _).then_trust (modBoot_trust _ _)).trans (bootRom_fusesStay _)).after_trust hdown

theorem loseClock_fusesStay (s : State) (c : ClockId) : FusesStay s (loseClock s c) := by
  unfold loseClock; dsimp only
  split
  · exact fusesStay_of_trust (by simp)
  · exact fusesStay_of_trust (by simp)
  · exact fusesStay_of_trust (by simp)
  · exact fusesStay_of_trust (by simp)
  · exact (deviceReset_fusesStay _ _).after_trust (by simp)

theorem afterLoss_fusesStay (s : State) : FusesStay s (afterLoss s) := by
  unfold afterLoss; dsimp only
  split
  · exact (deviceReset_fusesStay _ _).after_trust (modHup_trust _ _)
  · exact fusesStay_of_trust (modHup_trust _ _)

/-! The commands that reach the root of trust -/

/-- The outcome of a command on s keeps the fuses. -/
def KeepsFuses (s : State) (o : Host.Outcome State Fault Refusal) : Prop := ∀ t, o = .next t → FusesStay s t

theorem TrustStays.keepsFuses {o : Host.Outcome State Fault Refusal} (h : TrustStays s o) : KeepsFuses s o :=
  fun t ht => fusesStay_of_trust (h t ht)

theorem keepsFuses_next (h : FusesStay s t) : KeepsFuses s (.next t) := by
  rintro _ ⟨⟩
  exact h

theorem whenAon_keepsFuses {f : State → State} (h : ∀ u, FusesStay u (f u)) : KeepsFuses s (whenAon s f) := by
  refine keepsFuses_next ?_
  split
  · exact h s
  · exact .refl s

theorem execAttest_keepsFuses (p : NPort) (r : RingId) (s : State) : KeepsFuses s (execAttest p r s) := by
  refine whenAon_keepsFuses fun u => withDescriptor_fusesStay fun v ref d => ?_
  dsimp only
  split
  · exact fusesStay_of_trust (reject_trust _ _ _ _ _)
  split
  · exact fusesStay_of_trust (reject_trust _ _ _ _ _)
  split
  · exact fusesStay_of_trust (reject_trust _ _ _ _ _)
  split
  · exact fusesStay_of_trust (reject_trust _ _ _ _ _)
  · refine FusesStay.then_trust ?_ (acceptDesc_trust _ _)
    exact modRot_fusesStay _ (fun _ => rfl) fun _ => rfl

theorem execAttestReportSigned_keepsFuses (s : State) : KeepsFuses s (execAttestReportSigned s) := by
  refine whenAon_keepsFuses fun u => ?_
  dsimp only
  split
  · exact .refl u
  · next a l _ =>
    have hqueue : FusesStay u (modRot u fun r => { r with queue := l }) := fusesStay_of_eq rfl rfl
    exact hqueue.then_trust (by simp)

theorem execDebugUnlock_keepsFuses (p : NPort) (r : RingId) (s : State) : KeepsFuses s (execDebugUnlock p r s) := by
  refine whenAon_keepsFuses fun u => withDescriptor_fusesStay fun v ref d => ?_
  split
  · exact fusesStay_of_trust (reject_trust _ _ _ _ _)
  split
  · exact fusesStay_of_trust (reject_trust _ _ _ _ _)
  split
  · exact fusesStay_of_trust (reject_trust _ _ _ _ _)
  refine withRead_fusesStay fun w b => ?_
  refine (newNonce_fusesStay w).trans ?_
  dsimp only
  generalize newNonce w = x
  split
  · refine FusesStay.then_trust ?_ (completeOk_trust _ _ _)
    exact modRot_fusesStay _ (fun _ => rfl) fun _ => rfl
  · refine FusesStay.then_trust ?_ (reject_trust _ _ _ _ _)
    exact modRot_fusesStay _ (fun _ => rfl) fun _ => rfl

theorem execJtagInstruction_keepsFuses (i : JtagInstr) (s : State) : KeepsFuses s (execJtagInstruction i s) :=
  whenAon_keepsFuses fun _ => fusesStay_of_eq rfl rfl

theorem execVddAonUp_keepsFuses (b : BootInputs) (s : State) : KeepsFuses s (execVddAonUp b s) := by
  refine keepsFuses_next ?_
  split
  · exact .refl s
  · exact ((withoutPower_fusesStay s).then_trust (trust_mk ..)).trans (bootRom_fusesStay _)

theorem execVddAonLoss_keepsFuses (s : State) : KeepsFuses s (execVddAonLoss s) :=
  keepsFuses_next (withoutPower_fusesStay s)

theorem execPowerGood_keepsFuses (r : StartResults) (s : State) : KeepsFuses s (execPowerGood r s) := by
  refine whenAon_keepsFuses fun u => ?_
  dsimp only
  split
  · exact .refl u
  split
  · exact fusesStay_of_trust (by simp)
  · refine FusesStay.trans ?_ (release_fusesStay _)
    refine FusesStay.then_trust ?_ (reconcile_trust _ _ _ _)
    exact (loadMicrocode_fusesStay _ _ _).after_trust (by simp)

theorem execLifelineLoadComplete_keepsFuses (s : State) : KeepsFuses s (execLifelineLoadComplete s) := by
  refine whenAon_keepsFuses fun u => ?_
  split
  · exact .refl u
  refine fetched_fusesStay fun v img => ?_
  dsimp only
  split
  · exact fusesStay_of_trust (modBoot_trust _ _)
  split
  · exact fusesStay_of_trust (modBoot_trust _ _)
  · next k hk => exact (adopt_fusesStay hk v).then_trust ((readStore_trust _).trans (modBoot_trust _ _))

theorem execDefectClear_keepsFuses (p : NPort) (r : RingId) (s : State) : KeepsFuses s (execDefectClear p r s) := by
  refine whenAon_keepsFuses fun u => withDescriptor_fusesStay fun v ref d => ?_
  split
  · exact fusesStay_of_trust (reject_trust _ _ _ _ _)
  split
  · exact fusesStay_of_trust (reject_trust _ _ _ _ _)
  refine withRead_fusesStay fun w b => (newNonce_fusesStay w).then_trust ?_
  dsimp only
  split <;> simp

theorem execDeviceResetDelayEnd_keepsFuses (s : State) : KeepsFuses s (execDeviceResetDelayEnd s) :=
  whenAon_keepsFuses fun u => by
    split
    · split
      · exact deviceReset_fusesStay _ _
      · exact .refl u
    · exact .refl u

theorem execPerstNReset_keepsFuses (s : State) : KeepsFuses s (execPerstNReset s) :=
  whenAon_keepsFuses fun u => by
    split
    · split
      · exact .refl u
      · dsimp only
        split
        · exact (deviceReset_fusesStay _ _).after_trust (trust_mk ..)
        · exact fusesStay_of_trust (trust_mk ..)
    · exact .refl u

theorem execGafferWatchdog_keepsFuses (s : State) : KeepsFuses s (execGafferWatchdog s) :=
  whenAon_keepsFuses fun u => deviceReset_fusesStay u 3

theorem execClockLost_keepsFuses (c : ClockId) (s : State) : KeepsFuses s (execClockLost c s) :=
  whenAon_keepsFuses fun u => by
    split
    · exact .refl u
    · exact (loseClock_fusesStay _ _).after_trust (raise_trust _ _)

theorem execOscillatorBackInRange_keepsFuses (s : State) : KeepsFuses s (execOscillatorBackInRange s) :=
  whenAon_keepsFuses fun u => by
    split
    · exact (bootRom_fusesStay _).after_trust (trust_mk ..)
    · exact .refl u

theorem execPackAuthentication_keepsFuses (record : List Byte) (s : State) :
    KeepsFuses s (execPackAuthentication record s) :=
  whenAon_keepsFuses fun u => by
    dsimp only
    split
    · exact .refl u
    split
    · exact fusesStay_of_eq rfl rfl
    · exact fusesStay_of_trust (by simp)

theorem execMainsReturn_keepsFuses (s : State) : KeepsFuses s (execMainsReturn s) :=
  whenAon_keepsFuses fun u => by
    dsimp only
    split
    · exact fusesStay_of_trust (trust_mk ..)
    · exact fusesStay_of_trust (by simp)
    · split
      · exact fusesStay_of_trust (trust_mk ..)
      · exact (afterLoss_fusesStay _).after_trust (by simp)

theorem execRideThroughEnd_keepsFuses (s : State) : KeepsFuses s (execRideThroughEnd s) :=
  whenAon_keepsFuses fun u => by
    dsimp only
    split
    · exact (afterLoss_fusesStay _).after_trust (lastWill_trust _ _)
    · exact .refl u

theorem execPwrSafeReset_keepsFuses (s : State) : KeepsFuses s (execPwrSafeReset s) :=
  whenAon_keepsFuses fun u => by
    split
    · split
      · exact (deviceReset_fusesStay _ _).after_trust (modHup_trust _ _)
      · exact .refl u
    · exact .refl u

/-- Of all commands SVN_COMMIT alone moves the fuses. -/
theorem exec_keepsFuses (c : Instr) (s : State) (h : ∀ p r, c ≠ .svnCommit p r) : KeepsFuses s (exec c s) := by
  cases c with
  | frameBoundary f => exact (execFrameBoundary_trust f s).keepsFuses
  | retuneMeasurement g errors => exact (execRetuneMeasurement_trust g errors s).keepsFuses
  | partLoad port ring => exact (execPartLoad_trust port ring s).keepsFuses
  | imageLoadComplete part => exact (execImageLoadComplete_trust part s).keepsFuses
  | queueRefill core => exact (execQueueRefill_trust core s).keepsFuses
  | instructionRetire core eng => exact (execInstructionRetire_trust core eng s).keepsFuses
  | clockGating core => exact (execClockGating_trust core s).keepsFuses
  | coreWatchdog core => exact (execCoreWatchdog_trust core s).keepsFuses
  | nop core eng => exact (execNop_trust core eng s).keepsFuses
  | loop core eng => exact (execLoop_trust core eng s).keepsFuses
  | bar core eng => exact (execBar_trust core eng s).keepsFuses
  | endProg core eng => exact (execEndProg_trust core eng s).keepsFuses
  | seqLi core => exact (execSeqLi_trust core s).keepsFuses
  | seqLui core => exact (execSeqLui_trust core s).keepsFuses
  | seqAlu core => exact (execSeqAlu_trust core s).keepsFuses
  | seqSetb core => exact (execSeqSetb_trust core s).keepsFuses
  | seqLd core => exact (execSeqLd_trust core s).keepsFuses
  | seqSt core => exact (execSeqSt_trust core s).keepsFuses
  | seqBr core => exact (execSeqBr_trust core s).keepsFuses
  | seqRdts core => exact (execSeqRdts_trust core s).keepsFuses
  | movSend core => exact (execMovSend_trust core s).keepsFuses
  | movRecv core => exact (execMovRecv_trust core s).keepsFuses
  | fetLoad core cmdError bad => exact (execFetLoad_trust core cmdError bad s).keepsFuses
  | fetStore core cmdError bad => exact (execFetStore_trust core cmdError bad s).keepsFuses
  | fetFill core => exact (execFetFill_trust core s).keepsFuses
  | mm core g fault => exact (execMm_trust core g fault s).keepsFuses
  | drn core g => exact (execDrn_trust core g s).keepsFuses
  | lay core g => exact (execLay_trust core g s).keepsFuses
  | clr core g => exact (execClr_trust core g s).keepsFuses
  | gdrv core => exact (execGdrv_trust core s).keepsFuses
  | ndlLv core => exact (execNdlLv_trust core s).keepsFuses
  | ndlMv core fault => exact (execNdlMv_trust core fault s).keepsFuses
  | ndlDrn core => exact (execNdlDrn_trust core s).keepsFuses
  | rnsLd core => exact (execRnsLd_trust core s).keepsFuses
  | rnsSt core => exact (execRnsSt_trust core s).keepsFuses
  | rnsVectorOp core fault => exact (execRnsVectorOp_trust core fault s).keepsFuses
  | rnsRowOp core job => exact (execRnsRowOp_trust core job s).keepsFuses
  | rnsLay core => exact (execRnsLay_trust core s).keepsFuses
  | shadowAudit core station finished => exact (execShadowAudit_trust core station finished s).keepsFuses
  | slipLimit part => exact (execSlipLimit_trust part s).keepsFuses
  | seamRingReplaced ring => exact (execSeamRingReplaced_trust ring s).keepsFuses
  | uncorrectableRingWord ring east slot => exact (execUncorrectableRingWord_trust ring east slot s).keepsFuses
  | liveCoreSparing core => exact (execLiveCoreSparing_trust core s).keepsFuses
  | coreSparingComplete core => exact (execCoreSparingComplete_trust core s).keepsFuses
  | tackMessageLost src dst chan => exact (execTackMessageLost_trust src dst chan s).keepsFuses
  | tackRequestTimeout src dst chan read => exact (execTackRequestTimeout_trust src dst chan read s).keepsFuses
  | tackSeamChannelFailed sideband => exact (execTackSeamChannelFailed_trust sideband s).keepsFuses
  | refreshDue site bg bank nextBanks => exact (execRefreshDue_trust site bg bank nextBanks s).keepsFuses
  | forcedRefresh nbu => exact (execForcedRefresh_trust nbu s).keepsFuses
  | eventSummaryPoll site pseudo => exact (execEventSummaryPoll_trust site pseudo s).keepsFuses
  | nbuOpAccept nbu => exact (execNbuOpAccept_trust nbu s).keepsFuses
  | nbuOpCompletion nbu => exact (execNbuOpCompletion_trust nbu s).keepsFuses
  | nbuOpTimeout nbu => exact (execNbuOpTimeout_trust nbu s).keepsFuses
  | nbuFence nbu => exact (execNbuFence_trust nbu s).keepsFuses
  | nbuInvocationStart part station tiles => exact (execNbuInvocationStart_trust part station tiles s).keepsFuses
  | nbuInvocationEnd part station => exact (execNbuInvocationEnd_trust part station s).keepsFuses
  | ordinaryAccess a => exact (execOrdinaryAccess_trust a s).keepsFuses
  | interleaveService nbu nextBanks => exact (execInterleaveService_trust nbu nextBanks s).keepsFuses
  | kvAppend part station => exact (execKvAppend_trust part station s).keepsFuses
  | kvAppendLogRoom part station => exact (execKvAppendLogRoom_trust part station s).keepsFuses
  | decodeInvocation part station tiles => exact (execDecodeInvocation_trust part station tiles s).keepsFuses
  | kvCommit port ring => exact (execKvCommit_trust port ring s).keepsFuses
  | kvRelease port ring => exact (execKvRelease_trust port ring s).keepsFuses
  | patrolScrubRead cls => exact (execPatrolScrubRead_trust cls s).keepsFuses
  | scrubBehind cls => exact (execScrubBehind_trust cls s).keepsFuses
  | scrubRange port ring => exact (execScrubRange_trust port ring s).keepsFuses
  | ppr port ring => exact (execPpr_trust port ring s).keepsFuses
  | pprApply site bg spareLeft => exact (execPprApply_trust site bg spareLeft s).keepsFuses
  | checkerTest wrong => exact (execCheckerTest_trust wrong s).keepsFuses
  | flipArm a v => exact (execFlipArm_trust a v s).keepsFuses
  | flipDoneClear a v => exact (execFlipDoneClear_trust a v s).keepsFuses
  | splitRawWrite a v => exact (execSplitRawWrite_trust a v s).keepsFuses
  | splitRawRead a v => exact (execSplitRawRead_trust a v s).keepsFuses
  | transactionFlit link f => exact (execTransactionFlit_trust link f s).keepsFuses
  | nullFlit link f => exact (execNullFlit_trust link f s).keepsFuses
  | nakRepeat link => exact (execNakRepeat_trust link s).keepsFuses
  | replayTimeout link => exact (execReplayTimeout_trust link s).keepsFuses
  | laneFailed port lane => exact (execLaneFailed_trust port lane s).keepsFuses
  | cap link f => exact (execCap_trust link f s).keepsFuses
  | capAck link f => exact (execCapAck_trust link f s).keepsFuses
  | retrain link cause => exact (execRetrain_trust link cause s).keepsFuses
  | down link f => exact (execDown_trust link f s).keepsFuses
  | trainingComplete link width failedLanes => exact (execTrainingComplete_trust link width failedLanes s).keepsFuses
  | portDown link => exact (execPortDown_trust link s).keepsFuses
  | trainingRetry link => exact (execTrainingRetry_trust link s).keepsFuses
  | cpld port tag status last offset data => exact (execCpld_trust port tag status last offset data s).keepsFuses
  | mrdTimeout port tag => exact (execMrdTimeout_trust port tag s).keepsFuses
  | tagRetireExpiry port tag => exact (execTagRetireExpiry_trust port tag s).keepsFuses
  | dbl port body => exact (execDbl_trust port body s).keepsFuses
  | srd a body => exact (execSrd_trust a body s).keepsFuses
  | swr a body => exact (execSwr_trust a body s).keepsFuses
  | mgtRead word => exact (execMgtRead_trust word s).keepsFuses
  | mgtWrite word v => exact (execMgtWrite_trust word v s).keepsFuses
  | nalsonRetrainRequest a n v => exact (execNalsonRetrainRequest_trust a n v s).keepsFuses
  | nalsonDisable a n v => exact (execNalsonDisable_trust a n v s).keepsFuses
  | ringEnable a p ring v => exact (execRingEnable_trust a p ring v s).keepsFuses
  | ringDisable a p ring v => exact (execRingDisable_trust a p ring v s).keepsFuses
  | errorRingEnable a p v => exact (execErrorRingEnable_trust a p v s).keepsFuses
  | errorRingDisable a p v => exact (execErrorRingDisable_trust a p v s).keepsFuses
  | nopDescriptor port ring => exact (execNopDescriptor_trust port ring s).keepsFuses
  | partRun port ring => exact (execPartRun_trust port ring s).keepsFuses
  | runStart part => exact (execRunStart_trust part s).keepsFuses
  | runEnd part => exact (execRunEnd_trust part s).keepsFuses
  | partStop port ring => exact (execPartStop_trust port ring s).keepsFuses
  | partReset port ring => exact (execPartReset_trust port ring s).keepsFuses
  | partitionResetComplete part => exact (execPartitionResetComplete_trust part s).keepsFuses
  | copyIn port ring => exact (execCopyIn_trust port ring s).keepsFuses
  | copyOut port ring => exact (execCopyOut_trust port ring s).keepsFuses
  | paramDefine port ring => exact (execParamDefine_trust port ring s).keepsFuses
  | paramFreeze port ring => exact (execParamFreeze_trust port ring s).keepsFuses
  | paramFlip port ring => exact (execParamFlip_trust port ring s).keepsFuses
  | gradFetch port ring => exact (execGradFetch_trust port ring s).keepsFuses
  | nbuOp port ring => exact (execNbuOp_trust port ring s).keepsFuses
  | nbuAbort port ring => exact (execNbuAbort_trust port ring s).keepsFuses
  | semaphoreClaim a => exact (execSemaphoreClaim_trust a s).keepsFuses
  | semaphoreRelease a v => exact (execSemaphoreRelease_trust a v s).keepsFuses
  | semaphoreBreak a v => exact (execSemaphoreBreak_trust a v s).keepsFuses
  | leaseExpiry => exact (execLeaseExpiry_trust s).keepsFuses
  | foldWrite a offset v => exact (execFoldWrite_trust a offset v s).keepsFuses
  | foldCheck a v => exact (execFoldCheck_trust a v s).keepsFuses
  | foldPress a v => exact (execFoldPress_trust a v s).keepsFuses
  | foldPressAtBoundary => exact (execFoldPressAtBoundary_trust s).keepsFuses
  | foldFreeze a v => exact (execFoldFreeze_trust a v s).keepsFuses
  | foldDiscard a v => exact (execFoldDiscard_trust a v s).keepsFuses
  | sdata port p => exact (execSdata_trust port p s).keepsFuses
  | swrite port p => exact (execSwrite_trust port p s).keepsFuses
  | announce port p => exact (execAnnounce_trust port p s).keepsFuses
  | announceHoldExpiry part stream => exact (execAnnounceHoldExpiry_trust part stream s).keepsFuses
  | creditStall port => exact (execCreditStall_trust port s).keepsFuses
  | myaWrite port ring => exact (execMyaWrite_trust port ring s).keepsFuses
  | myaAnnounce port ring => exact (execMyaAnnounce_trust port ring s).keepsFuses
  | myaStreamClear port ring => exact (execMyaStreamClear_trust port ring s).keepsFuses
  | myarnLaneFail port lane => exact (execMyarnLaneFail_trust port lane s).keepsFuses
  | spare port f codeword => exact (execSpare_trust port f codeword s).keepsFuses
  | spareAck port f => exact (execSpareAck_trust port f s).keepsFuses
  | laneSubstitution port codeword => exact (execLaneSubstitution_trust port codeword s).keepsFuses
  | barrierArrival core eng => exact (execBarrierArrival_trust core eng s).keepsFuses
  | arrive port p => exact (execArrive_trust port p s).keepsFuses
  | release port p => exact (execRelease_trust port p s).keepsFuses
  | barrierTimeout bar => exact (execBarrierTimeout_trust bar s).keepsFuses
  | lendingCompute gatedMw => exact (execLendingCompute_trust gatedMw s).keepsFuses
  | avsReadback rail mv alert => exact (execAvsReadback_trust rail mv alert s).keepsFuses
  | trimRegulatorFail reg => exact (execTrimRegulatorFail_trust reg s).keepsFuses
  | headerStage cluster droop neighbourPct => exact (execHeaderStage_trust cluster droop neighbourPct s).keepsFuses
  | headerStageForced cluster => exact (execHeaderStageForced_trust cluster s).keepsFuses
  | currentTelemetryCheck sumMa readMa => exact (execCurrentTelemetryCheck_trust sumMa readMa s).keepsFuses
  | budgetSelectAccept v => exact (execBudgetSelectAccept_trust v s).keepsFuses
  | droop cluster => exact (execDroop_trust cluster s).keepsFuses
  | droopHoldExpiry part => exact (execDroopHoldExpiry_trust part s).keepsFuses
  | overCurrent half => exact (execOverCurrent_trust half s).keepsFuses
  | overCurrentClear half => exact (execOverCurrentClear_trust half s).keepsFuses
  | thermalSample reads lines => exact (execThermalSample_trust reads lines s).keepsFuses
  | sensorFlag sensor => exact (execSensorFlag_trust sensor s).keepsFuses
  | sensorFlagClear sensor => exact (execSensorFlagClear_trust sensor s).keepsFuses
  | thermalHaltRelease part => exact (execThermalHaltRelease_trust part s).keepsFuses
  | thermtrip sensor => exact (execThermtrip_trust sensor s).keepsFuses
  | tachCheck idleMs rpm => exact (execTachCheck_trust idleMs rpm s).keepsFuses
  | fanFailed f => exact (execFanFailed_trust f s).keepsFuses
  | inletRead t => exact (execInletRead_trust t s).keepsFuses
  | fanDutyUpdate => exact (execFanDutyUpdate_trust s).keepsFuses
  | airflowSecond t2m16 powerMw => exact (execAirflowSecond_trust t2m16 powerMw s).keepsFuses
  | airflowCapUpdate => exact (execAirflowCapUpdate_trust s).keepsFuses
  | airflowLostExit => exact (execAirflowLostExit_trust s).keepsFuses
  | marginReview => exact (execMarginReview_trust s).keepsFuses
  | reviewNow a v => exact (execReviewNow_trust a v s).keepsFuses
  | packAuthentication record => exact execPackAuthentication_keepsFuses record s
  | packChallengeResponse signature => exact (execPackChallengeResponse_trust signature s).keepsFuses
  | packPoll p => exact (execPackPoll_trust p s).keepsFuses
  | packTest uv => exact (execPackTest_trust uv s).keepsFuses
  | packTestEnd v10uv v100uv integral => exact (execPackTestEnd_trust v10uv v100uv integral s).keepsFuses
  | testNow a v => exact (execTestNow_trust a v s).keepsFuses
  | windowRecompute uv => exact (execWindowRecompute_trust uv s).keepsFuses
  | packCounterUpdate => exact (execPackCounterUpdate_trust s).keepsFuses
  | powerLossAccept => exact (execPowerLossAccept_trust s).keepsFuses
  | mainsReturn => exact execMainsReturn_keepsFuses s
  | rideThroughEnd => exact execRideThroughEnd_keepsFuses s
  | pwrSafeReset => exact execPwrSafeReset_keepsFuses s
  | railOutOfWindow rail => exact (execRailOutOfWindow_trust rail s).keepsFuses
  | vddAonUp b => exact execVddAonUp_keepsFuses b s
  | powerGood r => exact execPowerGood_keepsFuses r s
  | perstNFall => exact (execPerstNFall_trust s).keepsFuses
  | perstNReset => exact execPerstNReset_keepsFuses s
  | lifelineNotice => exact (execLifelineNotice_trust s).keepsFuses
  | lifeGo a v => exact (execLifeGo_trust a v s).keepsFuses
  | lifelineLoadComplete => exact execLifelineLoadComplete_keepsFuses s
  | fwUpdate port ring => exact (execFwUpdate_trust port ring s).keepsFuses
  | defectClear port ring => exact execDefectClear_keepsFuses port ring s
  | hemReset request => exact (execHemReset_trust request s).keepsFuses
  | hemResetResume => exact (execHemResetResume_trust s).keepsFuses
  | deviceReset port ring => exact (execDeviceReset_trust port ring s).keepsFuses
  | lwFetch port ring => exact (execLwFetch_trust port ring s).keepsFuses
  | gafferWatchdog => exact execGafferWatchdog_keepsFuses s
  | clockLost c => exact execClockLost_keepsFuses c s
  | pllRelock c inTime => exact (execPllRelock_trust c inTime s).keepsFuses
  | alertPendingClear a v => exact (execAlertPendingClear_trust a v s).keepsFuses
  | attest port ring => exact execAttest_keepsFuses port ring s
  | attestReportSigned => exact execAttestReportSigned_keepsFuses s
  | certRead port ring => exact (execCertRead_trust port ring s).keepsFuses
  | svnCommit p r => exact absurd rfl (h p r)
  | debugUnlock port ring => exact execDebugUnlock_keepsFuses port ring s
  | partitionCycle part bad => exact (execPartitionCycle_trust part bad s).keepsFuses
  | mangleTransfer xfer bad => exact (execMangleTransfer_trust xfer bad s).keepsFuses
  | flitTransmit link => exact (execFlitTransmit_trust link s).keepsFuses
  | vddAonLoss => exact execVddAonLoss_keepsFuses s
  | perstNRise => exact (execPerstNRise_trust s).keepsFuses
  | oscillatorBackInRange => exact execOscillatorBackInRange_keepsFuses s
  | deviceResetDelayEnd => exact execDeviceResetDelayEnd_keepsFuses s
  | fwUpdateComplete firstMismatch => exact (execFwUpdateComplete_trust firstMismatch s).keepsFuses
  | jtagInstruction ir => exact execJtagInstruction_keepsFuses ir s

/-- t has at least the fuse counter of s, and fuses within 64 where s has them. -/
def FusesRise (s t : State) : Prop :=
  s.rot.counter ≤ t.rot.counter ∧ (Claims.fusesLegal s → Claims.fusesLegal t)

theorem FusesStay.rise (h : FusesStay s t) : FusesRise s t := by
  obtain ⟨hcounter, hsvn⟩ := h
  exact ⟨Nat.le_of_eq hcounter.symm, fun hlegal => ⟨hcounter ▸ hlegal.1, hsvn hlegal.2⟩⟩

/-- The larger of the counter and a legal svn is no smaller than the counter, and legal (R494). -/
theorem fusesRise_of_max (hcounter : t.rot.counter = max s.rot.counter s.rot.svn.toNat) (hsvn : t.rot.svn = s.rot.svn) :
    FusesRise s t := by
  refine ⟨hcounter ▸ Nat.le_max_left _ _, fun ⟨hc, hv⟩ => ⟨?_, hsvn ▸ hv⟩⟩
  rw [hcounter]
  exact Nat.max_le.2 ⟨hc, hv⟩

theorem FusesRise.trans (h : FusesRise s t) (k : FusesRise t u) : FusesRise s u := ⟨Nat.le_trans h.1 k.1, k.2 ∘ h.2⟩

theorem withDescriptor_fusesRise {p : NPort} {r : RingId} {op : Byte} {k : State → DescRef → Desc → State}
    (h : ∀ u ref d, FusesRise u (k u ref d)) : FusesRise s (withDescriptor s p r op k) :=
  withDescriptor_rel (R := FusesRise) FusesRise.trans (fusesStay_of_trust (settleRing_trust s p r)).rise h

theorem whenAon_fusesRise {f : State → State} (hf : ∀ u, FusesRise u (f u)) (h : whenAon s f = .next t) :
    FusesRise s t := by
  cases h
  split
  · exact hf s
  · exact (FusesStay.refl s).rise

theorem execSvnCommit_fusesRise {p : NPort} {r : RingId} (h : execSvnCommit p r s = .next t) : FusesRise s t := by
  refine whenAon_fusesRise (fun u => withDescriptor_fusesRise fun v ref d => ?_) h
  split
  · exact (fusesStay_of_trust (reject_trust _ _ _ _ _)).rise
  split
  · exact (fusesStay_of_trust (reject_trust _ _ _ _ _)).rise
  · extract_lets own w
    have hdone : (completeOk w ref (BitVec.ofNat 64 w.rot.counter)).trust = w.trust := completeOk_trust _ _ _
    have hsvn : w.trust.svn = v.rot.svn := rfl
    exact fusesRise_of_max (congrArg Rot.counter hdone) ((congrArg Rot.svn hdone).trans hsvn)

theorem exec_fusesRise {c : Instr} (h : exec c s = .next t) : FusesRise s t := by
  by_cases hc : ∃ p r, c = .svnCommit p r
  · obtain ⟨p, r, rfl⟩ := hc
    exact execSvnCommit_fusesRise h
  · exact (exec_keepsFuses c s (fun p r hpr => hc ⟨p, r, hpr⟩) t h).rise

/-- A step is a tick on an empty queue, or the front command's effect with the queue's rest. -/
theorem step_cases (h : step s = .next t) :
    (s.pending = [] ∧ t = idleTick s) ∨
      ∃ c rest, s.pending = c :: rest ∧ exec c { s with pending := rest } = .next t := by
  unfold step at h
  split at h
  · next hp => exact .inl ⟨hp, (Host.Outcome.next.inj h).symm⟩
  · next c rest hp => exact .inr ⟨c, rest, hp, h⟩

theorem step_fusesRise (h : step s = .next t) : FusesRise s t := by
  rcases step_cases h with ⟨-, rfl⟩ | ⟨c, rest, -, hexec⟩
  · exact (fusesStay_of_trust (idleTick_trust s)).rise
  · have htaken : FusesRise s { s with pending := rest } := (fusesStay_of_trust (trust_mk ..)).rise
    exact htaken.trans (exec_fusesRise hexec)

theorem counterNeverFalls : Claims.counterNeverFalls := fun s t h => by
  refine ⟨(step_fusesRise h).1, fun hrises => ?_⟩
  rcases step_cases h with ⟨-, rfl⟩ | ⟨c, rest, hp, hexec⟩
  · exact absurd (fusesStay_of_trust (idleTick_trust s)).1 (Nat.ne_of_gt hrises)
  · by_cases hc : ∃ p r, c = .svnCommit p r
    · obtain ⟨p, r, rfl⟩ := hc
      exact ⟨p, r, rest, hp⟩
    · exact absurd (exec_keepsFuses c _ (fun p r hpr => hc ⟨p, r, hpr⟩) t hexec).1 (Nat.ne_of_gt hrises)

theorem fusesStayLegal : Claims.fusesStayLegal :=
  ⟨⟨Nat.zero_le _, Nat.zero_le _⟩, fun _ _ h => (step_fusesRise h).2⟩

/-! ROT_SVN (R494, R510) -/

theorem window_rotSvn (s : State) (sel : Nat) : window s sel 0xD00004 = none := by simp [window]

/-- No 64-bit register lies in the first 8 bytes of the ROT block. -/
theorem wide_rot (s : State) {off : Nat} (h : off / 0x10000 = 0xD0) : wide s off = none := by
  have hsites : 0xD0 - 0x40 ∉ sitesOf s.variant := by cases s.variant <;> decide
  have hports := myarnPorts_le s.variant
  simp [wide, h, hsites]
  omega

theorem stagedAt_rotSvn (v : Variant) : stagedAt v 0xD00004 = none := by simp [stagedAt]

/-- ROT_SVN: the counter below the running svn. -/
theorem regRead_rotSvn (s : State) (sel : Nat) :
    (regRead s sel 0xD00004).1 = BitVec.ofNat 32 (s.rot.counter % 128 + s.rot.svn.toNat * 2 ^ 8) := by
  simp [regRead, window_rotSvn, wide_rot, stagedAt_rotSvn, narrow, rotWord]

theorem fusesReported : Claims.fusesReported := fun s sel hlegal => by
  obtain ⟨hcounter, hsvn⟩ := hlegal
  rw [regRead_rotSvn, bits, BitVec.toNat_ofNat]
  omega

end Sys2Proof.Machine

namespace Sys2Proof

/-- Settles O55: of all commands SVN_COMMIT alone moves the fuse counter, and it takes the larger of two legal values; what else
reaches the root of trust keeps the counter, and an image that verifies has a legal svn. -/
theorem theFuseCounterNeverFalls : Obligations.TheFuseCounterNeverFalls :=
  ⟨Machine.counterNeverFalls, Machine.fusesStayLegal, Machine.fusesReported⟩

end Sys2Proof

end

section

/-! SVN_COMMIT, DEBUG_UNLOCK, what tokens and signed objects must be, and JTAG_INSTRUCTION (R491–R495, R501–R503). -/

namespace Sys2Proof.Machine

/-! What settling a ring leaves (R317) -/

theorem NalOnly.boot_eq {s t : State} (h : NalOnly s t) : t.boot = s.boot := by
  rw [h]

/-- A completion moves rings, fetches and ports alone. -/
theorem finish_boot (s : State) (ref : DescRef) (status : Byte) (detail result : W64) (dataPorts : List NPort) :
    (finish s ref status detail result dataPorts).boot = s.boot := by
  unfold finish
  dsimp only
  split
  · rfl
  split
  · split
    · exact (afterFlush_nalOnly _ _ _).boot_eq
    · exact (pushTxns_nalOnly _ _ _).boot_eq
  · rfl

theorem advanceRing_boot (s : State) (p : NPort) (r : RingId) (fuel : Nat) : (advanceRing s p r fuel).boot = s.boot := by
  fun_induction advanceRing s p r fuel with
  | case1 => rfl
  | case2 => rfl
  | case3 s fuel d earlier _ st _ ih => exact ih.trans (finish_boot _ _ _ _ _ _)
  | case4 => rfl
  | case5 s fuel d earlier _ _ _ st order _ ih => exact ih.trans (finish_boot _ _ _ _ _ _)
  | case6 => rfl
  | case7 => rfl

theorem settleRing_boot (s : State) (p : NPort) (r : RingId) : (settleRing s p r).boot = s.boot := advanceRing_boot _ _ _ _

theorem settleRing_rot (s : State) (p : NPort) (r : RingId) : (settleRing s p r).rot = s.rot := settleRing_trust s p r

/-! Descriptors that are taken, and their reads (R295, R316) -/

/-- The command of a descriptor that is taken has its effect on the settled ring. -/
theorem whenAon_withDescriptor_of_takes {s : State} {p : NPort} {r : RingId} {op : Byte} {d : Desc}
    (h : Claims.Takes s p r op d) (k : State → DescRef → Desc → State) :
    whenAon s (fun s => withDescriptor s p r op k) = .next (k (settleRing s p r) ⟨p, r, d.k⟩ d) := by
  obtain ⟨haon, earlier, hfirst, hread, hop, hfence, hcheck⟩ := h
  have hunfenced : !(fenced d && earlier) := by simpa [fenced, Decidable.imp_iff_not_or] using hfence
  rw [whenAon_of_on haon, withDescriptor, hfirst]
  exact congrArg _ (if_pos ⟨hread, hop, hunfenced, hcheck⟩)

theorem withRead_of_fetchOf_none {s : State} {ref : DescRef} (h : fetchOf s (.desc ref) = none) (addr : W64) (len : Nat)
    (k : State → List Byte → State) : withRead s ref addr len k = beginFetch s (.desc ref) ref.port addr len := by
  rw [withRead, fetched, h]

/-- Data without a poisoned word goes to the command, which holds the fetch no longer. -/
theorem withRead_of_data {s : State} {ref : DescRef} {b : List Byte}
    (h : Claims.Fetched s (.desc ref) (.data b [])) (addr : W64) (len : Nat) (k : State → List Byte → State) :
    withRead s ref addr len k = k (dropFetch s (.desc ref)) b := by
  obtain ⟨f, hfetch, hres⟩ := Option.bind_eq_some_iff.1 h
  rw [withRead, fetched, hfetch]
  dsimp only
  rw [hres]
  rfl

/-! SVN_COMMIT -/

theorem svnCommits : Claims.svnCommits := fun p r d s htakes => by
  have hrot : (settleRing s p r).rot = s.rot := settleRing_rot s p r
  have hboot : (settleRing s p r).boot = s.boot := settleRing_boot s p r
  have hrun := whenAon_withDescriptor_of_takes htakes
  refine ⟨fun howner => ?_, fun howner hupdate => ?_, fun howner hupdate => ?_⟩
  all_goals refine (hrun _).trans (congrArg Host.Outcome.next ?_)
  · exact if_pos (by simp [howner])
  all_goals refine (if_neg (by simp [howner])).trans ?_
  · exact if_pos (Option.isSome_iff_ne_none.2 hupdate)
  · refine (if_neg (by simp [hupdate])).trans ?_
    rw [← hrot, ← hboot, ← Nat.max_def]
    rfl

/-! DEBUG_UNLOCK -/

theorem debugUnlocks : Claims.debugUnlocks := fun p r d s htakes => by
  have hrot : (settleRing s p r).rot = s.rot := settleRing_rot s p r
  have hrun := whenAon_withDescriptor_of_takes htakes
  refine ⟨fun halign => ?_, fun halign => ⟨fun hfailed => ?_, fun hfailed =>
    ⟨fun hlen => ?_, fun hlen => ⟨fun hnone => ?_, fun b hdata => ?_⟩⟩⟩, rfl⟩
  all_goals refine (hrun _).trans (congrArg Host.Outcome.next ?_)
  · exact if_pos halign
  all_goals refine (if_neg (Decidable.not_not.2 halign)).trans ?_
  · exact if_pos (hrot ▸ hfailed)
  all_goals refine (if_neg (hrot ▸ hfailed)).trans ?_
  · exact if_pos hlen
  all_goals refine (if_neg (Decidable.not_not.2 hlen)).trans ?_
  · exact withRead_of_fetchOf_none hnone _ _ _
  · rw [withRead_of_data hdata, ← hrot]
    rfl

/-! Tokens and signed objects (R491, R502) -/

theorem tokenChecks : Claims.tokenChecks := fun s kind b => by
  have hscope : (if kind = 1 then decide (0 < field b 5 1) && decide (field b 5 1 < 4) else field b 5 1 == 0) = true ↔
      (kind = 1 → 0 < field b 5 1 ∧ field b 5 1 < 4) ∧ (kind ≠ 1 → field b 5 1 = 0) := by
    split <;> next hkind => simp [hkind]
  simp only [tokenOk, Bool.and_eq_true, hscope, beq_iff_eq, List.all_eq_true, Option.isSome_iff_ne_none, and_assoc]

theorem keysVerify : Claims.keysVerify := fun s c rsa slh msg rsaSig slhSig => by
  have hslot (k : Nat) : k ∈ [0, 1] ↔ k < 2 := by
    simp only [List.mem_cons, List.not_mem_nil, or_false]
    omega
  rw [verifies, ← and_assoc, ← Bool.and_eq_true, ← Option.isSome_iff_ne_none]
  split <;> next hsigned => simp [hsigned, List.find?_isSome, hslot]

/-! JTAG_INSTRUCTION -/

/-- An instruction that is not unlocked acts as BYPASS. -/
theorem jtagAnswers : Claims.jtagAnswers := fun s haon => by
  have hrun (i : JtagInstr) {t : State} (h : execJtagInstruction i s = .next t) : Claims.Runs (.jtagInstruction i) s t := h
  refine ⟨hrun .idcode ?_, hrun .bypass ?_, hrun .boundary ?_, hrun .internal ?_⟩
  all_goals
    rw [execJtagInstruction, whenAon_of_on haon]
    rfl

end Sys2Proof.Machine

namespace Sys2Proof

/-- Settles O47: a descriptor that is taken has its command's effect on the settled ring, which has the root of trust
and the image of the state before; the checks then read as their conditions say. -/
theorem countersAndUnlocksTakeEffect : Obligations.CountersAndUnlocksTakeEffect :=
  ⟨Machine.svnCommits, Machine.debugUnlocks, Machine.tokenChecks, Machine.keysVerify, Machine.jtagAnswers⟩

end Sys2Proof
end
